-- ==== Sys2Proof/Word.lean ====
section
/-! DEFINITION. The word types of the OD-4 and their plainest arithmetic (R2, R85). -/
namespace Sys2Proof

/-- The 64-bit scalar word (R141). -/
abbrev Word := BitVec 64
/-- One 32-bit lane element of a vector register (R12). -/
abbrev W32 := BitVec 32
/-- A byte of memory. -/
abbrev Byte := BitVec 8
/-- A scalar register number s0 to s31 (R141). -/
abbrev Reg := BitVec 5
/-- A mask over the 64 lanes of a wave (R51). -/
abbrev LaneMask := BitVec 64

/-- The bits [hi:lo] of a natural number, both ends included (R2). -/
def bits (x hi lo : Nat) : Nat := x / 2 ^ lo % 2 ^ (hi + 1 - lo)

/-- Bit `i` of a natural number. -/
def bitAt (x i : Nat) : Bool := x / 2 ^ i % 2 == 1

/-- A Boolean as a number. -/
def b2n (b : Bool) : Nat := if b then 1 else 0

end Sys2Proof
end

