-- ==== Sys2Proof/Syntax.lean ====
section
/-! DEFINITION. The instruction set of the OD-4 as syntax: one constructor of `Instr` a row of the
opcode table. Generator and long words (02_encoding), lane words, and the device's own steps
(95_what_each_step_holds), which carry the parameters that name the agent or the input they act on. -/
namespace Sys2Proof

/-- Scope codes (R39, Table 2.6). -/
inductive Scope | wave | workgroup | gang | die | device | system
  deriving DecidableEq, Repr
/-- Order codes (R39, Table 2.6). -/
inductive Order | relaxed | acquire | release | acqRel
  deriving DecidableEq, Repr
/-- Atomic operation codes 0 to 12 (R38, Table 2.5). -/
inductive AtomOp | add | min | max | minn | maxn | and | or | xor | xchg | fadd | load | store | cas
  deriving DecidableEq, Repr
/-- Generator load sizes (R146, Table 6.5). -/
inductive LdSize | b | h | w | d | bn | hn | wn
  deriving DecidableEq, Repr
/-- Generator store sizes (R146). -/
inductive StSize | b | h | w | d
  deriving DecidableEq, Repr
/-- Rounding modes (R93). -/
inductive Rounding | rne | rz | ru | rd
  deriving DecidableEq, Repr
/-- Barrier levels (R363, Table 16.1). -/
inductive BarLevel | workgroup | gang | grid
  deriving DecidableEq, Repr
/-- Events a WMWAIT can wait for (R290). -/
inductive WmEvent | srcFree | landed | published | count
  deriving DecidableEq, Repr
/-- Retention hints (R127, Table 5.3). -/
inductive Hint | default | streaming | sticky | bypass
  deriving DecidableEq, Repr
/-- CRED operations (R420). -/
inductive CredOp | allreduce | reduceScatter | allgather | broadcast | reduce | allToAll
  deriving DecidableEq, Repr
/-- CRED reductions (R420). -/
inductive CredRed | sum | min | max
  deriving DecidableEq, Repr
/-- CRED element types (R420). -/
inductive CredType | f64 | f32 | f16 | bf16 | i32 | n32 | i64 | n64 | bytes
  deriving DecidableEq, Repr

/-- The fields of a lane word but its class and op8 (R40, Table 2.7). The operand fields keep their
10-bit codes of Table 2.8: `Operand.ofCode` reads them. -/
structure LaneWord where
  srcC : BitVec 10
  srcB : BitVec 10
  srcA : BitVec 10
  dst  : BitVec 10
  mod6 : BitVec 6
  s    : Bool
  pn   : Bool
  pg   : BitVec 4
  c    : Bool
  p    : Bool
  deriving DecidableEq, Repr

/-- The kinds of value a 10-bit operand field can hold (R41, Table 2.8). -/
inductive Operand
  | vreg (n : Nat)      -- v0 to v767, window-relative
  | latch (k : Nat)     -- l1 to l4
  | pred (n : Nat)      -- p0 to p15
  | hole (k : Nat)      -- h0 to h7
  | laneIx              -- the lane index
  | waveIx              -- the wave index within the workgroup
  | zero                -- 798
  | reserved            -- 799 and 976 to 1023
  | sreg (n : Nat)      -- s0 to s31, substituted at emission
  | int (v : Int)       -- -64 to 63
  | fconst (k : Nat)    -- floating constants 960 + k (Table 2.9)
  deriving DecidableEq, Repr

/-- Reading an operand field by Table 2.8 (R41). -/
def Operand.ofCode (x : BitVec 10) : Operand :=
  let n := x.toNat
  if n < 768 then .vreg n
  else if n < 772 then .latch (n - 767)
  else if n < 788 then .pred (n - 772)
  else if n < 796 then .hole (n - 788)
  else if n = 796 then .laneIx
  else if n = 797 then .waveIx
  else if n = 798 then .zero
  else if n = 799 then .reserved
  else if n < 832 then .sreg (n - 800)
  else if n < 896 then .int (n - 832 : Nat)
  else if n < 960 then .int (895 - (n : Int))
  else if n < 976 then .fconst (n - 960)
  else .reserved

/-- MLOOP's fields (R62, Table 2.13). -/
structure MloopArgs where
  incB : BitVec 32
  incA : BitVec 32
  steps : BitVec 16
  scope : Scope
  release : Bool
  acquire : Bool
  clear : Bool
  tB : BitVec 4
  tA : BitVec 4
  acc : BitVec 3
  deriving DecidableEq, Repr

/-- MDRAIN's fields (R62, Table 2.13). -/
structure MdrainArgs where
  scale : Reg
  scope : Scope
  release : Bool
  saturate : Bool
  rounding : Rounding
  addOn : Bool
  tD : BitVec 4
  acc : BitVec 3
  deriving DecidableEq, Repr

/-- COPY's fields (R62, Table 2.13); `dims` holds the dimensions less one. -/
structure CopyArgs where
  hint : Hint
  barrier : BitVec 4
  arrive : Bool
  scope : Scope
  release : Bool
  acquire : Bool
  dims : BitVec 2
  sB : Reg
  wm : BitVec 4
  deriving DecidableEq, Repr

/-- NREC's fields (R62, Table 2.13); `count` holds the data registers less one. -/
structure NrecArgs where
  scope : Scope
  release : Bool
  count : BitVec 3
  sD : Reg
  sN : Reg
  deriving DecidableEq, Repr

/-- CRED's fields (R62, Table 2.13). -/
structure CredArgs where
  scope : Scope
  release : Bool
  acquire : Bool
  red : CredRed
  type : CredType
  op : CredOp
  wm : BitVec 4
  sP : Reg
  deriving DecidableEq, Repr

/-- An agent that an emulated instruction parks (R60, R167), or whose request to host memory or to another
package is answered (R414, R417). -/
inductive Agent
  | context (k : Nat)
  | wave (k : Nat)
  | copy (wg wm : Nat)
  deriving DecidableEq, Repr

/-- The head of a command record: who issued it and where it stands (R427, Table 19.5). -/
structure CmdHead where
  part : Nat        -- the issuing partition
  ctxid : Nat
  tag : BitVec 32
  slot : Nat        -- bus address of the 64-byte record
  answers : Bool    -- the host completes the core's requests for this command without an error
  deriving DecidableEq, Repr

/-- One memory request of the host or of another package (R412, R417). -/
inductive HostAcc
  | read (addr : Nat) (n : Nat)
  | write (addr : Nat) (data : List Byte)
  | fetchAdd (addr : Nat) (n : Nat) (v : Word)     -- n bytes, 4 or 8
  | swap (addr : Nat) (n : Nat) (v : Word)
  | cas (addr : Nat) (n : Nat) (old new : Word)
  deriving DecidableEq, Repr

/-- The sequencer of a replay: its context, and the cluster into whose waves it pushes (R226). -/
structure ReplaySite where
  ctx : Nat
  cluster : Nat
  deriving DecidableEq, Repr

/-- What an uncorrectable error hits (R28). -/
inductive PoisonTarget
  | dram (pa : Nat)                       -- the 64-byte unit of a DRAM location or of its L2 line
  | sram (loc : Nat)                      -- the 8-byte unit of a scratchpad location
  | vreg (cluster reg lane : Nat)         -- one lane element of a vector register
  | acc (cluster acc elem : Nat)          -- one accumulator element
  | pred (wave pred : Nat)                -- a predicate of a wave slot
  | loft (cluster line unit : Nat)        -- an 8-byte unit of a line that the loft holds
  | landing (wg wm seg : Nat)             -- the landing-buffer slot that holds a segment of a copy (R293)
  deriving DecidableEq, Repr

/-- The instruction set: one constructor for each row of the opcode table. -/
inductive Instr
  | gnop  -- GNOP, R158
  | endRole  -- END, R159
  | trap (code : BitVec 5)  -- TRAP, R158
  | eret  -- ERET, R165
  | featq (d : Reg) (cls : BitVec 5)  -- FEATQ, R302
  | sdrain  -- SDRAIN, R230
  | add (d a b : Reg)  -- ADD, R143
  | sub (d a b : Reg)  -- SUB, R143
  | and_ (d a b : Reg)  -- AND, R143
  | or_ (d a b : Reg)  -- OR, R143
  | xor_ (d a b : Reg)  -- XOR, R143
  | shl (d a b : Reg)  -- SHL, R143
  | shr (d a b : Reg)  -- SHR, R143
  | sar (d a b : Reg)  -- SAR, R143
  | mul (d a b : Reg)  -- MUL, R143
  | mulh (d a b : Reg)  -- MULH, R143
  | mulhn (d a b : Reg)  -- MULHN, R143
  | div (d a b : Reg)  -- DIV, R143
  | divn (d a b : Reg)  -- DIVN, R143
  | rem (d a b : Reg)  -- REM, R143
  | remn (d a b : Reg)  -- REMN, R143
  | min_ (d a b : Reg)  -- MIN, R143
  | max_ (d a b : Reg)  -- MAX, R143
  | minn (d a b : Reg)  -- MINN, R143
  | maxn (d a b : Reg)  -- MAXN, R143
  | slt (d a b : Reg)  -- SLT, R143
  | sltn (d a b : Reg)  -- SLTN, R143
  | seq (d a b : Reg)  -- SEQ, R143
  | clz (d a : Reg)  -- CLZ, R143
  | ctz (d a : Reg)  -- CTZ, R143
  | popc (d a : Reg)  -- POPC, R143
  | addw (d a b : Reg)  -- ADDW, R143
  | subw (d a b : Reg)  -- SUBW, R143
  | andn (d a b : Reg)  -- ANDN, R143
  | addi (d a : Reg) (imm : BitVec 12)  -- ADDI, R144
  | andi (d a : Reg) (imm : BitVec 12)  -- ANDI, R144
  | ori (d a : Reg) (imm : BitVec 12)  -- ORI, R144
  | xori (d a : Reg) (imm : BitVec 12)  -- XORI, R144
  | shli (d a : Reg) (n : BitVec 6)  -- SHLI, R144
  | shri (d a : Reg) (n : BitVec 6)  -- SHRI, R144
  | sari (d a : Reg) (n : BitVec 6)  -- SARI, R144
  | slti (d a : Reg) (imm : BitVec 12)  -- SLTI, R144
  | sltni (d a : Reg) (imm : BitVec 12)  -- SLTNI, R144
  | seqi (d a : Reg) (imm : BitVec 12)  -- SEQI, R144
  | shi (d : Reg) (imm : BitVec 20)  -- SHI, R145
  | pchi (d : Reg) (imm : BitVec 20)  -- PCHI, R145
  | ld (sz : LdSize) (d a : Reg) (imm : BitVec 12)  -- LD, R146
  | st (sz : StSize) (d a : Reg) (imm : BitVec 12)  -- ST, R146
  | amo (wide : Bool) (scope : Scope) (order : Order) (op : AtomOp) (d a b : Reg)  -- AMO, R148
  | beq (a b : Reg) (off : BitVec 12)  -- BEQ, R149
  | bne (a b : Reg) (off : BitVec 12)  -- BNE, R149
  | blt (a b : Reg) (off : BitVec 12)  -- BLT, R149
  | bge (a b : Reg) (off : BitVec 12)  -- BGE, R149
  | bltn (a b : Reg) (off : BitVec 12)  -- BLTN, R149
  | bgen (a b : Reg) (off : BitVec 12)  -- BGEN, R149
  | jal (d : Reg) (off : BitVec 20)  -- JAL, R150
  | jalr (d a : Reg) (imm : BitVec 12)  -- JALR, R150
  | wenter (n : BitVec 5)  -- WENTER, R152, a frame of 32 n registers
  | wleave  -- WLEAVE, R153
  | stgt (a b : Reg)  -- STGT, R212
  | capb (id : BitVec 6)  -- CAPB, R218
  | cape  -- CAPE, R218
  | cdrop (id : BitVec 6)  -- CDROP, R221
  | hset (h : BitVec 3) (a : Reg)  -- HSET, R222
  | hstep (h : BitVec 3) (a : Reg)  -- HSTEP, R222
  | rply (id : BitVec 6) (a : Reg)  -- RPLY, R223
  | vread (d : Reg)  -- VREAD, R229
  | gfence (cp tl scl str sc : Bool) (scope : Scope)  -- GFENCE, R268; the load/store bit equals the stream flag
  | bara (lvl : BarLevel) (k : BitVec 4)  -- BARA, R368
  | barw (str : Bool) (lvl : BarLevel) (k : BitVec 4)  -- BARW, R368
  | baraw (str : Bool) (lvl : BarLevel) (k : BitVec 4)  -- BARAW, R368
  | wmrd (d : Reg) (wm : BitVec 4)  -- WMRD, R280
  | wmwait (ev : WmEvent) (wm : BitVec 4) (a : Reg)  -- WMWAIT, R290
  | wmfree (wm : BitVec 4)  -- WMFREE, R291
  | cpkill (wm : BitVec 4)  -- CPKILL, R294
  | tcfg (f : BitVec 3) (t : BitVec 4) (a : Reg)  -- TCFG, R234
  | trd (f : BitVec 3) (d : Reg) (t : BitVec 4)  -- TRD, R234
  | mclr (acc : BitVec 3)  -- MCLR, R240
  | mwait (a : Reg)  -- MWAIT, R239
  | qpush (d a : Reg) (q : BitVec 8)  -- QPUSH, R322
  | qpop (d a : Reg) (q : BitVec 8)  -- QPOP, R323
  | qsig (d a : Reg) (q : BitVec 8)  -- QSIG, R325
  | qstat (d a : Reg) (q : BitVec 8)  -- QSTAT, R324
  | gpref (a : Reg) (imm : BitVec 12)  -- GPREF, R161
  | dpref (a : Reg) (imm : BitVec 12)  -- DPREF, R161
  | rdsr (d : Reg) (n : BitVec 12)  -- RDSR, R160
  | wrsr (n : BitVec 12) (a : Reg)  -- WRSR, R160
  | genExtension (n : BitVec 3) (x : BitVec 25)  -- GEN_EXTENSION, R167
  | li64 (d : Reg) (imm : Word)  -- LI64, R62
  | mloop (m : MloopArgs)  -- MLOOP, R241
  | mdrain (m : MdrainArgs)  -- MDRAIN, R245
  | copy (m : CopyArgs)  -- COPY, R279
  | nrec (m : NrecArgs)  -- NREC, R327
  | cred (m : CredArgs)  -- CRED, R421
  | emitLaneWord (w : Word) (next : Option Word)  -- EMIT_LANE_WORD, R63; `next` holds the 8 bytes after a word with P = 1, when the code extent holds them
  | replayPush (ctx : ReplaySite)  -- REPLAY_PUSH, R224, into the waves of one target cluster (R226)
  | vnop (w : LaneWord)  -- VNOP, R180
  | vadd (w : LaneWord)  -- VADD, R180
  | vsub (w : LaneWord)  -- VSUB, R180
  | vmul (w : LaneWord)  -- VMUL, R180
  | vmulh (w : LaneWord)  -- VMULH, R180
  | vmad (w : LaneWord)  -- VMAD, R180
  | vmin (w : LaneWord)  -- VMIN, R180
  | vmax (w : LaneWord)  -- VMAX, R180
  | vabsd (w : LaneWord)  -- VABSD, R180
  | vand (w : LaneWord)  -- VAND, R180
  | vor (w : LaneWord)  -- VOR, R180
  | vxor (w : LaneWord)  -- VXOR, R180
  | vandn (w : LaneWord)  -- VANDN, R180
  | vshl (w : LaneWord)  -- VSHL, R180
  | vshr (w : LaneWord)  -- VSHR, R180
  | vrot (w : LaneWord)  -- VROT, R180
  | vbfx (w : LaneWord)  -- VBFX, R181
  | vbfi (w : LaneWord)  -- VBFI, R181
  | vpopc (w : LaneWord)  -- VPOPC, R180
  | vclz (w : LaneWord)  -- VCLZ, R180
  | vctz (w : LaneWord)  -- VCTZ, R180
  | vbrev (w : LaneWord)  -- VBREV, R180
  | vpermb (w : LaneWord)  -- VPERMB, R182
  | vdiv (w : LaneWord)  -- VDIV, R180
  | vrem (w : LaneWord)  -- VREM, R180
  | vaddc (w : LaneWord)  -- VADDC, R183
  | vcmp (w : LaneWord)  -- VCMP, R184
  | vmov (w : LaneWord)  -- VMOV, R180
  | vsel (w : LaneWord)  -- VSEL, R180
  | vlea (w : LaneWord)  -- VLEA, R185
  | vfadd (w : LaneWord)  -- VFADD, R186
  | vfsub (w : LaneWord)  -- VFSUB, R186
  | vfmul (w : LaneWord)  -- VFMUL, R186
  | vfmulz (w : LaneWord)  -- VFMULZ, R103
  | vfma (w : LaneWord)  -- VFMA, R186
  | vfmaz (w : LaneWord)  -- VFMAZ, R103
  | vfmin (w : LaneWord)  -- VFMIN, R187
  | vfmax (w : LaneWord)  -- VFMAX, R187
  | vfsgn (w : LaneWord)  -- VFSGN, R186
  | vfcmp (w : LaneWord)  -- VFCMP, R188
  | vfclass (w : LaneWord)  -- VFCLASS, R189
  | vfdiv (w : LaneWord)  -- VFDIV, R186
  | vfsqrt (w : LaneWord)  -- VFSQRT, R186
  | vfrnd (w : LaneWord)  -- VFRND, R186
  | vfscale (w : LaneWord)  -- VFSCALE, R190
  | vfxtr (w : LaneWord)  -- VFXTR, R191
  | vfdot2 (w : LaneWord)  -- VFDOT2, R192
  | vcvtf (w : LaneWord)  -- VCVTF, R193
  | vcvtfi (w : LaneWord)  -- VCVTFI, R194
  | vcvtif (w : LaneWord)  -- VCVTIF, R195
  | vrcp (w : LaneWord)  -- VRCP, R196
  | vrsq (w : LaneWord)  -- VRSQ, R196
  | vexp2 (w : LaneWord)  -- VEXP2, R196
  | vlog2 (w : LaneWord)  -- VLOG2, R196
  | vsin (w : LaneWord)  -- VSIN, R196
  | vcos (w : LaneWord)  -- VCOS, R196
  | vtanh (w : LaneWord)  -- VTANH, R196
  | vsigm (w : LaneWord)  -- VSIGM, R196
  | vplop (w : LaneWord)  -- VPLOP, R197
  | vpmov (w : LaneWord)  -- VPMOV, R198
  | vshuf (w : LaneWord)  -- VSHUF, R199
  | vbcast (w : LaneWord)  -- VBCAST, R199
  | vrotl (w : LaneWord)  -- VROTL, R199
  | vscan (w : LaneWord)  -- VSCAN, R200
  | vred (w : LaneWord)  -- VRED, R200
  | vvote (w : LaneWord)  -- VVOTE, R201
  | vbar (w : LaneWord)  -- VBAR, R369
  | vld (w : LaneWord)  -- VLD, R205
  | vst (w : LaneWord)  -- VST, R205
  | vatom (w : LaneWord)  -- VATOM, R207
  | vcas (w : LaneWord)  -- VCAS, R207
  | vpref (w : LaneWord)  -- VPREF, R208
  | vfence (w : LaneWord)  -- VFENCE, R269
  | vidot4 (w : LaneWord)  -- VIDOT4, R210
  | vidot8 (w : LaneWord)  -- VIDOT8, R210
  | vslice (w : LaneWord)  -- VSLICE, R248
  | vslacc (w : LaneWord)  -- VSLACC, R250
  | vplane (w : LaneWord)  -- VPLANE, R244
  | vext (op : BitVec 4) (w : LaneWord)  -- VEXT, R60
  | laneWordRetire (wave : Nat)  -- LANE_WORD_RETIRE, R172
  | windowSpill (wave : Nat)  -- WINDOW_SPILL, R154
  | windowReload (wave : Nat)  -- WINDOW_RELOAD, R154
  | boundaryTrapEntry (ctx : Nat)  -- BOUNDARY_TRAP_ENTRY, R164
  | emulationComplete (a : Agent)  -- EMULATION_COMPLETE, R305
  | icacheLineFill (cluster i : Nat)  -- ICACHE_LINE_FILL, R137
  | dcacheLineFill (cluster i : Nat)  -- DCACHE_LINE_FILL, R147
  | tlbMissWalk (die i : Nat)  -- TLB_MISS_WALK, R374
  | loftLineFill (cluster i : Nat)  -- LOFT_LINE_FILL, R227
  | scalarAccessComplete (ctx : Nat)  -- SCALAR_ACCESS_COMPLETE, R140
  | clusterWake (cluster : Nat)  -- CLUSTER_WAKE, R407
  | matrixStep (wg : Nat)  -- MATRIX_STEP, R242
  | mdrainExecute (wg : Nat)  -- MDRAIN_EXECUTE, R246
  | mclrExecute (wg : Nat)  -- MCLR_EXECUTE, R240
  | copySegmentSend (wg wm : Nat)  -- COPY_SEGMENT_SEND, R288
  | copyUnitCommit (wg wm : Nat)  -- COPY_UNIT_COMMIT, R282
  | copyPark (wg wm : Nat)  -- COPY_PARK, R295
  | chainUnitReduce (comm : Nat)  -- CHAIN_UNIT_REDUCE, R423
  | nodeBatchTimer (ctxid node : Nat)  -- NODE_BATCH_TIMER, R326
  | dispatchServe  -- DISPATCH_SERVE, R317
  | workgroupStart (gang : Nat)  -- WORKGROUP_START, R347
  | workgroupRetire (gang : Nat)  -- WORKGROUP_RETIRE, R345
  | gangSaveComplete (gang : Nat)  -- GANG_SAVE_COMPLETE, R358
  | gangRestore (gang : Nat)  -- GANG_RESTORE, R360
  | commandComplete (part : Nat)  -- COMMAND_COMPLETE, R429
  | eventRingWrite (part : Nat)  -- EVENT_RING_WRITE, R430
  | createContext (h : CmdHead) (desc : Nat)  -- CREATE_CONTEXT, R297
  | enableContext (h : CmdHead)  -- ENABLE_CONTEXT, R306
  | suspendContext (h : CmdHead)  -- SUSPEND_CONTEXT, R306
  | resumeContext (h : CmdHead)  -- RESUME_CONTEXT, R306
  | destroyContext (h : CmdHead)  -- DESTROY_CONTEXT, R307
  | migrateBegin (h : CmdHead) (buf bytes : Nat)  -- MIGRATE_BEGIN, R431
  | migrateCommit (h : CmdHead) (buf bytes : Nat) (target : Bool) (root : Nat)  -- MIGRATE_COMMIT, R431
  | migrateAbort (h : CmdHead)  -- MIGRATE_ABORT, R306
  | createQueue (h : CmdHead) (q : Nat) (data : Bool) (ring entries floor dies : Nat)  -- CREATE_QUEUE, R313
  | enableQueue (h : CmdHead) (q : Nat)  -- ENABLE_QUEUE, R314
  | stopQueue (h : CmdHead) (q : Nat)  -- STOP_QUEUE, R314
  | startQueue (h : CmdHead) (q : Nat)  -- START_QUEUE, R314
  | destroyQueue (h : CmdHead) (q : Nat)  -- DESTROY_QUEUE, R314
  | createNode (h : CmdHead) (node prio header size count timer pool : Nat)  -- CREATE_NODE, R326
  | destroyNode (h : CmdHead) (node : Nat)  -- DESTROY_NODE, R428
  | registerCode (h : CmdHead) (base bytes table : Nat)  -- REGISTER_CODE, R338
  | deregisterCode (h : CmdHead) (base : Nat)  -- DEREGISTER_CODE, R338
  | invalidate (h : CmdHead) (va bytes : Nat)  -- INVALIDATE, R383
  | answerFault (h : CmdHead) (seq : Nat) (fail : Bool)  -- ANSWER_FAULT, R386
  | preEmptGang (h : CmdHead) (wgid : Nat)  -- PRE_EMPT_GANG, R357
  | resumeGang (h : CmdHead) (save : Nat)  -- RESUME_GANG, R308
  | discardGang (h : CmdHead) (save : Nat)  -- DISCARD_GANG, R308
  | createCommunicator (h : CmdHead) (ranks n groups sizes : Nat)  -- CREATE_COMMUNICATOR, R419
  | destroyCommunicator (h : CmdHead) (handle : Nat)  -- DESTROY_COMMUNICATOR, R428
  | writeBoundaryEntry (h : CmdHead) (cls num entry : Nat) (lo hi : Word)  -- WRITE_BOUNDARY_ENTRY, R392
  | readBoundaryEntry (h : CmdHead) (cls num entry : Nat) (dest : Nat)  -- READ_BOUNDARY_ENTRY, R428
  | attest (h : CmdHead) (nonce buf bytes : Nat)  -- ATTEST, R312
  | bindFunction (h : CmdHead) (vf part : Nat) (bind : Bool)  -- BIND_FUNCTION, R411
  | enableLink (h : CmdHead) (link part : Nat)  -- ENABLE_LINK, R415
  | setRoute (h : CmdHead) (package mask : Nat)  -- SET_ROUTE, R417
  | setPackageNumber (h : CmdHead) (num : Nat)  -- SET_PACKAGE_NUMBER, R417
  | readCouplingTable (h : CmdHead) (die dest : Nat)  -- READ_COUPLING_TABLE, R399
  | unknownCommand (h : CmdHead) (status : Nat)  -- UNKNOWN_COMMAND, R428
  | commandQueueEnable (func : Nat)  -- COMMAND_QUEUE_ENABLE, R426
  | eventQueueEnable (func : Nat)  -- EVENT_QUEUE_ENABLE, R430
  | eventQueueRdidx (func : Nat) (v : W32)  -- EVENT_QUEUE_RDIDX, R430
  | doorbell (func : Nat) (v : Word)  -- DOORBELL, R412
  | harnessMapWrite (func : Nat) (v : W32)  -- HARNESS_MAP_WRITE, R401
  | packageLimitWrite (func : Nat) (v : Word)  -- PACKAGE_LIMIT_WRITE, R402
  | domainControlWrite (func reg : Nat) (v : Word)  -- DOMAIN_CONTROL_WRITE, R402
  | registerWrite (func off bytes : Nat) (v : Word)  -- REGISTER_WRITE, R412
  | hostBar2Access (func : Nat) (a : HostAcc)  -- HOST_BAR2_ACCESS, R412
  | hostCompletion (a : Agent) (ok : Bool)  -- HOST_COMPLETION, R414
  | linkFlitReceive (link seq : Nat) (good : Bool)  -- LINK_FLIT_RECEIVE, R416
  | remoteRequest (link package : Nat) (a : HostAcc)  -- REMOTE_REQUEST, R417
  | linkTrained (link : Nat)  -- LINK_TRAINED, R415
  | linkTrainingTimeout (link : Nat)  -- LINK_TRAINING_TIMEOUT, R415
  | linkRetrain (link : Nat)  -- LINK_RETRAIN, R415
  | linkRetrainEnd (link : Nat) (ok : Bool)  -- LINK_RETRAIN_END, R415
  | deviceReset  -- DEVICE_RESET, R311
  | correctedError (vault row : Nat)  -- CORRECTED_ERROR, R25
  | rowRemapDone (vault row : Nat)  -- ROW_REMAP_DONE, R25
  | uncorrectableError (t : PoisonTarget)  -- UNCORRECTABLE_ERROR, R28
  | spareSubstitution (cluster : Nat)  -- SPARE_SUBSTITUTION, R26
  | vaultSensorSample (vault : Nat) (temp : Int)  -- VAULT_SENSOR_SAMPLE, R395
  | overheatGateCheck (cluster : Nat)  -- OVERHEAT_GATE_CHECK, R397
  | currentAlarm (reg : Nat) (level : Bool)  -- CURRENT_ALARM, R403
  | currentAlarmSample (reg : Nat)  -- CURRENT_ALARM_SAMPLE, R403
  | passCountStepDown (reg : Nat)  -- PASS_COUNT_STEP_DOWN, R403
  | powerWindowEnd (domain cluster : Nat)  -- POWER_WINDOW_END, R404; which domain and which cluster it takes where several tie
  | weightRefit (shunt : Nat)  -- WEIGHT_REFIT, R406
  | idleGate (cluster : Nat)  -- IDLE_GATE, R407
  | frequencyTransition (reg point : Nat)  -- FREQUENCY_TRANSITION, R408
  | frequencyPauseEnd (reg : Nat)  -- FREQUENCY_PAUSE_END, R408
  | dieToDiePortFailure (d1 d2 : Nat)  -- DIE_TO_DIE_PORT_FAILURE, R281
  | remoteCompletion (a : Agent) (ok : Bool)  -- REMOTE_COMPLETION, R417
  deriving DecidableEq, Repr

end Sys2Proof
end

