-- ==== Sys2Proof/Config.lean ====
section
/-! DEFINITION. What an implementation fixes and what the manual leaves open. Every `opaque` constant
has no body: no proof can see its value (log entries 2 and 7). -/
namespace Sys2Proof.Config

/-- FEATQ class 2 figures of the stepping: scalar-cache hit latency, FMA latency, stepping byte (R302). -/
opaque hitLatency : BitVec 8
opaque fmaLatency : BitVec 8
opaque stepping : BitVec 8
/-- Factory value of estimator weight k, in mW, and the inverse correlation matrix with which the fit starts (R405, R406). -/
opaque factoryWeight : Nat → Rat
opaque startCov : Nat → Nat → Rat
/-- The DRAM estimate of a 1 ms window, by freshness counter, and the fixed term for links, L2 and management, in mW (R405). -/
opaque dramPower : Nat → Nat
opaque fixedPower : Nat
/-- What firmware writes into the coupling table for the spare's position: by freshness counter and vault of the die (R26, R399). -/
opaque spareCoupling : Nat → Nat → W32
/-- The address hash of R9: an order of a die's 32 vaults, of which each slice of the L2 serves two neighbours. -/
opaque vaultOrder : Equiv.Perm (Fin 32)
/-- Which L2 slice of a die serves a vault of it (R9): each of the 16 slices serves exactly two. -/
def sliceOfVault (v : Nat) : BitVec 4 := BitVec.ofNat 4 ((vaultOrder (Fin.ofNat 32 v)).val / 2)
/-- The DRAM row of its vault in which a location lies (R25). -/
opaque rowOf : Nat → Nat
/-- The hash that chooses one UP link of a route for a 4 KiB unit (R417). -/
opaque routeHash : Nat → Nat
/-- The SM2 public key fused into the device, and its identity key pair: the public half, and what the private half signs (R311, R312). -/
opaque fusedKey : Nat → Byte
opaque identityKey : Nat → Byte
opaque signature : List Byte → Nat → Byte
/-- How many firmware images there are less one, the bytes of their SM3 digests and of their signatures, by freshness counter and image,
and whether an SM2 public key verifies a digest's signature (R311). -/
opaque imageCount : BitVec 8
opaque imageByte : Nat → Nat → Nat → Byte
opaque imageSignature : Nat → Nat → Nat → Byte
opaque sm2Verifies : List Byte → List Byte → List Byte → Bool
/-- The grouping that the other members' cores hold for a communicator that a migrated context rejoins (R431), by freshness counter. -/
opaque agreedGroups : Nat → List Nat
/-- Whether the cores of the other member devices agree to a communicator (R419). -/
opaque coresAgree : Nat → Bool
/-- What a word reads from a latch entry that a stopped word left empty (R53, R134), by use counter and lane. -/
opaque emptyLatch : Nat → Nat → BitVec 64
/-- What an emulated extension word writes, by use counter and lane: level 2 emulates none (R304, R305). -/
opaque emulated : Nat → Nat → BitVec 64
/-- The bytes that a rank of another package contributes to a matched CRED, whether its call agrees, and whether it carries acquire at
system scope (R421, R422, R425), by use counter, rank and index. -/
opaque farBytes : Nat → Nat → Nat → Byte
opaque farAgrees : Nat → Nat → Bool
opaque farAcquires : Nat → Nat → Bool
/-- The loft or stack slot that a role of a migrated gang keeps, which the image does not name (R298, R431), by use counter
and role. -/
opaque imageSlot : Nat → Nat → Nat
/-- Contexts, wave slots and clusters of the device (Tables 1.1 and 1.2). -/
def contextsPerCluster : Nat := 16
def wavesPerCluster : Nat := 32
def clusters : Nat := 32
def dies : Nat := 4
def vaults : Nat := 128

end Sys2Proof.Config
end

