-- ==== Sys2Proof/Machine/State.lean ====
section
/-! DEFINITION. The state of the OD-4 as plain data: every register, buffer, table, queue and memory the
manual gives the machine, and State.reset. INVENTORY.md lists each with its rule. -/
namespace Sys2Proof.Machine

/-- Why a step stops. `notEnabled`: raised by a meaning of a device event, when the agenda names an event that
cannot happen in the state (a fill that is not outstanding, a timer that has not run out). Safe: no claim about a
next state follows from it, and the device itself never takes such a step. -/
inductive Fault
  | notEnabled (event : String)
  deriving DecidableEq, Repr

/-- `notModelled`: raised by the dispatcher for an instruction without a meaning; every instruction has one. Safe. -/
inductive Refusal
  | notModelled (mnemonic : String)
  deriving DecidableEq, Repr

/-- Which agent moves next. The manual fixes no order between agents (R19); the agenda is that order (log entry 1). -/
inductive Turn
  | ctx (k : Nat)          -- a generator context issues
  | wave (k : Nat)         -- the lane engine issues the head of a wave's buffers
  | command (part : Nat) (answers : Bool)   -- the core takes the next record of a partition; the host answers its requests
  | event (i : Instr)      -- a whole-device step, named with its parameters
  | elapse (ns : Nat)      -- time passes
  | hostWrite (addr : Nat) (bytes : List Byte)   -- the driver fills host memory, as with a command record (R427)
  | assign (ctxid queue : Nat) (vector : Option Nat)   -- the driver assigns an MSI-X vector to a launch queue (R413)
  | hostRead (func off bytes : Nat)   -- a function reads its BAR0 (R412)
  deriving DecidableEq, Repr

/-! ### Generator contexts (06_generator, 08_stretch) -/

/-- What a stalled instruction waits for (Table 6.2). -/
inductive StallReason
  | targetFull | sequencer | queueFull | vote | watermark | matrix | barrier | queue | drain | icache | dcache
  | landing | window | interlock | node | host | held
  deriving DecidableEq, Repr

/-- Why a context is parked (Table 6.1): the core has an extension word of it, or its domain pauses. -/
inductive ParkReason
  | emulation (word : Word)
  | pause
  deriving DecidableEq, Repr

inductive Mode | user | handler
  deriving DecidableEq, Repr

/-- Context states (R135, Table 6.1): HANDLER is `running` in handler mode. -/
inductive CtxStatus
  | free | running | stalled (why : StallReason) | parked (why : ParkReason) | saved | ended | halted
  deriving DecidableEq, Repr

/-- Kinds of a latch entry (R53, R54). -/
inductive LatchKind | empty | w32 | w64
  deriving DecidableEq, Repr

/-- The chain state of one mode of a context: C of its last emitted word, the position of its next word, and
the kinds of the latch entries its open chain has pushed, newest first (R52 to R56). -/
structure Chain where
  lastC : Bool
  pos : Nat
  kinds : List LatchKind
  deriving DecidableEq, Repr

/-- An emission target (R212). -/
structure Target where
  mask : Word
  grp : Word
  deriving DecidableEq, Repr

/-- A hole binding (R222). -/
structure Binding where
  base : Word
  step : Word
  deriving DecidableEq, Repr

/-- A stretch directory entry (R220, Table 8.3). -/
structure DirEntry where
  defd : Bool
  recd : Bool
  ovf : Bool
  maskv : Bool
  nvote : Nat
  fmin : Nat
  len : Nat
  deriving DecidableEq, Repr

/-- A word in a stream or handler buffer with what travels with it (R43, R107, R232). -/
structure StreamWord where
  word : Word
  payA : Word
  payB : Word
  payC : Word
  xctl : BitVec 4
  compat : Bool
  emitter : Nat
  ssn : Word
  order : Nat                      -- the push it entered with (R173)
  handler : Bool
  base : Nat                       -- the window base its register numbers count from (R42)
  replay : Option (Nat × Nat)      -- stretch id and repeat index
  vote : Option Nat
  counted : Option Nat
  bar : Option Nat                 -- pending VBAR of the emitter's workgroup
  waiting : Bool                   -- a VBAR.aw that has issued (R369)
  deriving DecidableEq, Repr

/-- What stands in a stream: words, and the places of spills and reloads (R155). -/
inductive StreamItem
  | word (w : StreamWord)
  | spill (lo hi : Nat) (entry : Option (Nat × Nat × Nat))    -- logical registers [lo, hi); stack entry k, base, frame
  | reload (lo hi : Nat) (entry : Option Nat)
  deriving DecidableEq, Repr

/-- The part of a replay that one target cluster pushes into its local waves (R226): repeats finished, and the recorded word to
push next. -/
structure SeqPart where
  cluster : Nat
  rep : Nat
  next : Nat
  deriving DecidableEq, Repr

/-- What a recorded word of a repeat was given as its first cluster pushed it: the other clusters' copies share it (R226, R319). -/
structure SeqAlloc where
  rep : Nat
  next : Nat
  vote : Option Nat
  counted : Option Nat
  bar : Option Nat
  deriving DecidableEq, Repr

/-- The replay sequencer (R223 to R226): the snapshot of the RPLY, the parts of the target clusters, and the transfers that stand
behind it in the context's own streams (R155), each with the index of its wave. -/
structure Sequencer where
  busy : Bool
  base : Nat             -- the window base of the RPLY (R42, R65)
  id : Nat
  total : Nat
  parts : List SeqPart
  target : Target
  xctl : BitVec 4
  compat : Bool
  binds : List Binding   -- of its first repeat
  allocs : List SeqAlloc
  late : List (Nat × StreamItem)
  deriving DecidableEq, Repr

/-- An allocated entry of the vote queue (R201 to R204): the value so far, the contributions still awaited and the
lowest (member, wave) that has answered a .first or .uniq vote. -/
structure VoteEntry where
  id : Nat
  kind : Nat
  wide : Bool
  value : Word
  awaited : Nat
  best : Option Nat
  deriving DecidableEq, Repr

/-- The five words a trap writes (R163): cause and TRAPINFO0 to 3. -/
structure TrapRecord where
  cause : Nat
  info0 : Word
  info1 : Word
  info2 : Word
  info3 : Word
  deriving DecidableEq, Repr

/-- A boundary trap that waits for its context's boundary, its event sequence number (Table 15.10) and the wave
whose stream it stopped, if any (R108, R134). -/
structure PendingTrap where
  record : TrapRecord
  seq : Nat
  wave : Option Nat
  deriving DecidableEq, Repr

/-- A counted write that is not yet performed (R319): its number, whether it is the context's own ST or AMO, and
how many waves must still perform it. -/
structure CountedWrite where
  num : Nat
  scalar : Bool
  awaited : Nat
  deriving DecidableEq, Repr

/-- The trap registers (Table 6.10). -/
structure TrapRegs where
  cause : Word
  pc : Word
  info0 : Word
  info1 : Word
  info2 : Word
  info3 : Word
  epc : Word
  deriving DecidableEq, Repr

/-- A load that has issued and not returned (R140): its register, in the bank or not, its size and the bytes it reads. -/
structure ScalarLoad where
  bank : Bool
  dst : Nat
  size : LdSize
  locs : List Nat
  deriving DecidableEq, Repr

/-- The register window of a context (R151): stack entries are (base, frame), newest first. -/
structure Window where
  base : Nat
  frame : Nat
  lo : Nat
  stack : List (Nat × Nat)
  popPending : Bool      -- a WLEAVE waits for the read of a stack entry (R154)
  popRead : Option (Nat × Nat)   -- the entry that the spill sequencer has read back for it
  popBad : Option Word           -- the address of that entry, when it held poison (R28)
  deriving DecidableEq, Repr

/-- The lane-word side of a context (08_stretch): target, chains, capture, holes, replay and votes. -/
structure Emission where
  target : Target
  savedTarget : Target
  userChain : Chain
  handlerChain : Chain
  capOpen : Bool
  capId : Nat
  capSuspended : Bool
  dir : List DirEntry
  binds : List Binding
  seq : Sequencer
  votes : List VoteEntry
  nextVote : Nat
  deriving DecidableEq, Repr

/-- What a fetch has delivered of a line that is not kept: its bytes, poison, or the refusal of the host (R137, R380, R414). -/
inductive Fetched | bytes (l : List Byte) | poison | refused
  deriving DecidableEq, Repr

/-- A generator context (R135). -/
structure Context where
  status : CtxStatus
  mode : Mode
  ctxid : Nat
  wg : Nat               -- index in State.wgs
  role : Nat
  rights : BitVec 3      -- copy, matrix, queue (Table 14.3)
  nwaves : Nat
  width : Nat            -- W of its role
  pc : Word
  s : List Word          -- s0 to s31; s0 stays zero
  bank : List Word       -- handler bank s24 to s31
  xctl : BitVec 4
  compat : Bool
  wsel : Word
  trap : TrapRegs
  cycles : Nat           -- in twentieths of a cycle: nanoseconds times 50 MHz units
  win : Window
  em : Emission
  issued : Nat           -- issue count (R319)
  counted : List CountedWrite
  pending : List PendingTrap
  evSeq : Nat
  resumes : Option Nat   -- the wave whose stream ERET resumes (R165)
  reply : Option Bool    -- the completion of its request to the host or another package (R414, R417)
  loft : Word            -- LA (R227)
  fetched : List (Nat × Fetched) -- the lines that were delivered for its next word and that no cache keeps (R137, R380)
  loads : List ScalarLoad        -- its loads that have issued and not returned, oldest first (R140)
  waits : Option Word    -- the stamp of the copy whose event its stalled WMWAIT waits for (R290)
  deriving DecidableEq, Repr

/-! ### Waves (07_wave) -/

/-- A latch entry: its kind and its value in each lane (R53). -/
structure Latch where
  kind : LatchKind
  vals : List Word
  deriving DecidableEq, Repr

/-- What a lane word does once it retires (R172): register, predicate and latch writes and flags. -/
structure WordResult where
  regs : List (Nat × W32)          -- register elements by key, and their values
  preds : List (Nat × Word × Word) -- predicate, the lanes it writes, the values there
  latch : Latch
  flags : BitVec 7
  vote : Option (Word × Bool)      -- its summary, and whether it found a lane (R201)
  deriving DecidableEq, Repr

/-- The unit a word in flight occupies (R14, R16, R175); `alu` for a word that only waits for its turn to retire. -/
inductive FlightUnit | alu | sfu | divide | memory | barrier
  deriving DecidableEq, Repr

/-- A word that has issued and not retired. -/
structure Flight where
  entry : StreamWord
  unit : FlightUnit
  slots : Nat                      -- request slots it holds
  result : WordResult
  trap : Option TrapRecord         -- a trap it raises when it retires (R108)
  old : List Nat                   -- the contexts that took the trap they handle after it had issued (R105, R268)
  deriving DecidableEq, Repr

/-- Stored states of a wave (R170); EMPTY, READY, WAITING and DONE are `live`, told apart by its buffers and owner. -/
inductive WaveStatus | free | live | stopped | faulted | parked | saved
  deriving DecidableEq, Repr

/-- A wave slot. -/
structure Wave where
  status : WaveStatus
  left : WaveStatus                -- the state SAVED left (Table 7.2)
  owner : Nat
  wg : Nat
  wix : Nat                        -- index in the workgroup (R348)
  rix : Nat                        -- index in the role
  phys : Nat                       -- first physical register
  width : Nat                      -- W (R349)
  bw : Word                        -- B_w (R119)
  preds : List Word                -- p0 to p15
  badPreds : List Nat              -- poisoned predicates (R177)
  wxf : BitVec 7
  ssn : Word
  latch : List Latch
  hlatch : List Latch
  stream : List StreamItem
  hbuf : List StreamWord
  flight : List Flight
  half : Option Flight             -- the first half of a pair whose second half issues next (R176)
  chain : Bool                     -- the last issued stream word carried C = 1 (R173)
  hchain : Bool                    -- so did the last issued handler word
  lockedBy : Option Nat            -- only this emitter may push (R214)
  stopSeq : Option Nat             -- event sequence number of the trap that stopped it
  failed : Option (Bool × Word × Word)   -- a word's fault was answered fail: at the head of the handler buffer or the stream, the lanes,
                                         -- and the lowest one's address
  reply : Option (Bool × Bool)     -- the completion of such a word's request to the host or another package
  after : Option (Nat × Nat)       -- after an ERET: the emitter and push number below which its handler words go first (R274)
  deriving DecidableEq, Repr

/-! ### Agents of the memory model (10_ordering) -/

/-- An agent of the memory model (R252): a generator context by its workgroup and role, a wave by its workgroup and index, a
copy or CRED by its workgroup and stamp, a matrix command by its workgroup and number; the core and the spill sequencer of a cluster,
whose writes agents read too. The last four access nothing: they carry the edges of a role's family (Table 10.3). What happens before the
accesses of the words it has emitted, or before its own latest access; and what happens before the words it emits, or before the commands
it issues on a path, from now on. -/
inductive MemAgent
  | role (wg r : Nat)
  | wave (wg wix : Nat)
  | copy (wg stamp : Nat)
  | matrix (wg num : Nat)
  | core
  | spill (cluster : Nat)
  | words (wg r : Nat) (handler : Bool)
  | accessed (wg r : Nat)
  | emits (wg r : Nat)
  | next (wg r path : Nat)
  deriving DecidableEq, Repr

/-- A set of paths (R128): bit 0 load/store, 1 scalar, 2 tile, 3 copy. -/
abbrev Paths := BitVec 4

/-- A release (R260, R261): its agent and scope, the paths on which a later write of the agent heads a release sequence, and the
writes that happen before it. -/
structure Release where
  agent : MemAgent
  scope : Scope
  paths : Paths
  ids : List Nat
  deriving DecidableEq, Repr

/-- The stamp of a ring entry: the producing role and its issue count (R319); `none` for a host push. -/
structure Stamp where
  wg : Nat
  role : Nat
  count : Nat
  deriving DecidableEq, Repr

/-! ### Workgroups, gangs, launches (09, 11, 13 to 16) -/

/-- Workgroup states (R345, Table 15.1); ENDED is `running` with nothing left to run (`State.wgEnded`). -/
inductive WgStatus
  | starting | running | saving | saved | restoring | retired
  deriving DecidableEq, Repr

structure RoleEntry where
  entry : Nat
  width : Nat
  waves : Nat
  rights : BitVec 3
  deriving DecidableEq, Repr

/-- The kernel header (R331, Table 14.2). -/
structure Header where
  addr : Nat
  compat : Bool
  sw : Nat               -- the declared width, 64 when none (R334)
  gangReq : Bool
  multicast : Bool
  extent : Nat
  spad : Nat
  accs : Nat
  tiles : Nat
  bars : Nat
  gbars : Nat
  lp : Nat
  traps : BitVec 4
  heat : Nat
  roles : List RoleEntry
  deriving DecidableEq, Repr

/-- A tile register (R233, Table 9.1). -/
structure Tile where
  base : Word
  rows : Nat
  cols : Nat
  pitch : Nat
  sat : Bool
  fmt : Nat
  spitch : Nat
  rsc : Bool
  blk : Nat
  sbase : Word
  rnd : Bool
  planes : Nat
  layout : Nat
  deriving DecidableEq, Repr

/-- Accumulator kinds (R237). -/
inductive AccKind | none | f32 | i32
  deriving DecidableEq, Repr

/-- The commands of a matrix queue (R238). -/
inductive MatrixOp
  | mloop (m : MloopArgs)
  | mdrain (m : MdrainArgs)
  | mclr (acc : Nat)
  deriving DecidableEq, Repr

/-- A matrix queue entry with its snapshot (R241, R245, Table 15.9). -/
structure MatrixCmd where
  op : MatrixOp
  num : Word
  left : Nat             -- MLOOP: steps still to run
  done : Nat             -- MLOOP: steps run (the block number counts from them, R236)
  started : Bool
  tA : Tile              -- of MDRAIN: tD
  tB : Tile
  scale : W32
  compat : Bool
  kind : AccKind         -- the accumulator's kind at issue (R237)
  role : Nat             -- the issuing role, its mode and the address of the word
  handler : Bool
  pc : Word
  deriving DecidableEq, Repr

/-- Copy states (R281, Table 11.4). -/
inductive CopyState | issued | landing | frozen | poisoned | parked | landed | published
  deriving DecidableEq, Repr

/-- What is bound to a watermark register. -/
inductive BoundKind
  | copy (dims : Nat)
  | cred (m : CredArgs) (handle rank root call : Nat) (count : Nat)
  deriving DecidableEq, Repr

/-- A bound copy or CRED (R277, R279, R421). -/
structure Bound where
  kind : BoundKind
  block : List Word      -- the parameter block
  bits : W32             -- bits [31:0] of the long word
  compat : Bool
  src : Nat
  dst : Nat
  dstLoc : Option Nat    -- the location of its first destination byte, when a scratchpad
  inner : Nat
  ylen : Nat
  zlen : Nat
  srcY : Nat
  srcZ : Nat
  dstY : Nat
  dstZ : Nat
  len : Nat              -- bytes landed, and bytes read (they differ for CRED, Table 19.3)
  srcLen : Nat
  state : CopyState
  before : CopyState     -- the state PARKED left
  srcf : Bool
  count : Nat
  sent : Nat             -- bytes in the landing buffer or read
  buffer : List Byte     -- read and not yet committed, from index `count`
  badBytes : List Nat    -- indices of buffered bytes that hold poison
  stamp : Word
  armed : Bool
  acquire : Bool
  release : Bool
  arrive : Option Nat
  hint : Hint
  role : Nat
  handler : Bool
  pc : Word
  matched : Bool         -- CRED: the chain units have combined it
  data : List Byte       -- CRED: the combined bytes
  park : Option Nat      -- the COUNT at which a pre-emption parks it (R295)
  record : Option Nat    -- its unanswered fault record
  answer : Option Bool   -- an answer held until restore or resume; true is fail
  asks : Option Bool     -- a request to the host or another package is out; true for a write (R414, R417)
  deriving DecidableEq, Repr

/-- A watermark register (R280). -/
structure Watermark where
  bc : BitVec 16
  bound : Option Bound
  deriving DecidableEq, Repr

/-- A barrier's counts (R366): `phases` counts completions, and its lowest bit is the phase. -/
structure Barrier where
  phases : Nat
  arrived : Nat
  perPhase : Nat
  deriving DecidableEq, Repr

/-- ARR, UNW and AW of the roles of one workgroup at one barrier (R367). -/
structure RoleBits where
  arr : BitVec 4
  unw : BitVec 4
  aw : BitVec 4
  deriving DecidableEq, Repr

/-- A VBAR that has been pushed and has not retired everywhere (R369). -/
structure Vbar where
  id : Nat
  role : Nat
  lvl : Nat
  num : Nat
  wait : Bool
  left : Nat             -- target waves in which it has not issued
  retiring : Nat         -- target waves in which it has not retired
  arrived : Option Nat   -- the completion count its phase must pass
  ids : List Nat         -- the writes that its arrival releases (R371)
  deriving DecidableEq, Repr

/-- What a saved workgroup keeps beside its save area (log entry 17): the agents as they stopped, from which a restore
takes whatever the layout has no field for, and the area offsets of poisoned elements. -/
structure Kept where
  ctxs : List Context
  waves : List Wave
  ctxSlots : List Nat            -- the slots they held
  waveSlots : List Nat
  bad : List Nat
  deriving DecidableEq, Repr

/-- A workgroup (R345 to R349). -/
structure Workgroup where
  status : WgStatus
  ctxid : Nat
  gang : Nat
  member : Nat
  wgid : Nat
  header : Header
  cluster : Nat
  ctxs : List Nat
  waves : List Nat
  spad : Nat             -- byte offset of its allocation
  accs : List Nat        -- physical accumulators
  tiles : List Tile
  kinds : List AccKind
  mqueue : List MatrixCmd
  mseq : Word
  mdone : Word
  marks : List Watermark
  bars : List Barrier
  bits : List RoleBits           -- b0 to b15
  gbits : List RoleBits          -- g0 to g7
  grbits : List RoleBits         -- gr0 to gr3
  left : BitVec 4                -- roles that have left every barrier (R366)
  lastWix : Option Nat           -- its wave that issued last (R173)
  vbars : List Vbar
  nextVbar : Nat
  arg : Word
  saveAt : Nat                   -- save area, loft slots, private areas and stack slots (R298)
  loftIx : List Nat
  privAt : List Nat
  stackIx : List Nat
  saveTime : Nat
  kept : Option Kept
  deriving DecidableEq, Repr

/-- Why a gang was pre-empted (R357, Table 15.5), which fixes when it may be placed again. -/
inductive Trigger | suspend | halt | driver | gate | spare
  deriving DecidableEq, Repr

/-- Where a gang came from: a launch record, or a batch of a node (R326). -/
inductive Origin
  | launch (l : Nat)
  | batch (ctxid node slot : Nat)
  deriving DecidableEq, Repr

/-- A gang (R350, R351). -/
structure Gang where
  origin : Origin
  size : Nat
  wgs : List Nat
  gbars : List Barrier
  trigger : Option Trigger
  waits : Bool           -- SAVED and waiting for placement
  discarded : Bool
  placedAt : Nat
  paused : Bool          -- a save or restore access waits for an answer (R435)
  progress : Nat         -- how far the save or restore has come when it pauses
  read : List (Nat × List Byte)   -- what a restore has read by then, by its address
  stamps : List Stamp    -- the producers of its record, whose counted writes its workgroups see (R320)
  rels : List Release    -- the releases that its start acquires (R325, R327)
  deriving DecidableEq, Repr

/-- A launch record that the dispatcher has taken up (R315, R316). -/
structure Launch where
  ctxid : Nat
  queue : Nat
  header : Header
  grid : Nat
  size : Nat
  prio : Nat
  coresident : Bool
  arg : Word
  signal : Nat
  floor : Nat
  floorDies : Nat
  nextGang : Nat
  retired : Nat
  status : Nat
  grbars : List Barrier
  deriving DecidableEq, Repr

/-! ### Queues, nodes and device contexts (12, 13) -/

inductive QueueStatus | disabled | enabled | stopped | destroyed
  deriving DecidableEq, Repr

/-- A dependence counter that is not at its creation value (R325): the pending task record, host publications that wait for it,
and the releases of the QSIGs since the last task. -/
structure Counter where
  num : Nat
  value : BitVec 32
  task : Option (List Byte × Option Stamp)
  next : List (List Byte)
  rels : List Release
  deriving DecidableEq, Repr

/-- A task record that its counter has released: it ranks as a head of its own (R325). -/
structure TaskHead where
  bytes : List Byte
  stamp : Option Stamp
  rels : List Release
  since : Nat
  launch : Option Nat
  deriving DecidableEq, Repr

/-- A queue (R313, Table 13.6). Ring indices count from creation; index i stands in slot i mod `entries`. -/
structure Queue where
  num : Nat
  data : Bool
  ring : Nat
  entries : Nat
  floor : Nat
  floorDies : Nat
  status : QueueStatus
  held : List (Nat × Option Stamp) -- the entries in the ring, oldest first: index and stamp
  tail : Nat                       -- the next index
  counters : List Counter
  tasks : List TaskHead
  disp : Nat
  reason : Nat                     -- last refusal (R318)
  reasonVault : Nat
  reasonAvail : Nat
  refusals : Nat
  headSince : Nat
  current : Option Nat             -- the launch whose gangs the ring's head is placing
  vector : Option Nat              -- an assigned MSI-X vector (R413)
  deriving DecidableEq, Repr

/-- A batch of a node (R326). -/
structure Batch where
  slot : Nat
  count : Nat
  since : Nat
  stamps : List Stamp
  rels : List Release              -- of its .rel records (R327)
  deriving DecidableEq, Repr

/-- A node (R326). -/
structure Node where
  handle : Nat
  header : Nat
  prio : Nat
  size : Nat
  count : Nat
  timer : Nat
  pool : Nat
  opened : Option Batch
  sealed : List Batch
  slots : List Bool                -- the 17 slots in use
  dying : Bool
  headSince : Nat
  deriving DecidableEq, Repr

/-- Who posted a fault record (R309). -/
inductive FaultSource
  | lane (wg wix : Nat)
  | copy (wg wm : Nat)
  | spill (wg wix : Nat)
  | save (gang : Nat)
  deriving DecidableEq, Repr

/-- An unanswered fault record (R385); `answer` is held while the context is SUSPENDED or MIGRATING. -/
structure FaultRecord where
  seq : Nat
  source : FaultSource
  bytes : List Byte
  posted : Bool
  answer : Option Bool
  deriving DecidableEq, Repr

inductive DevStatus | created | runnable | suspending | suspended | migrating | destroyed
  deriving DecidableEq, Repr

/-- The context descriptor (R297, Table 12.1). -/
structure Descriptor where
  root : Nat
  ctxid : Nat
  part : Nat
  level : Nat
  compats : BitVec 2
  traps : BitVec 4
  spill : Nat            -- Ls / 512
  tvec : Word
  hext : Nat
  loftBase : Nat
  loftSlots : Nat
  privBase : Nat
  privBytes : Nat
  faultBase : Nat
  faultCount : Nat
  saveBase : Nat
  saveBytes : Nat
  stackBase : Nat
  stackBytes : Nat
  stackSlots : Nat
  deriving DecidableEq, Repr

/-- A context of the device (12_context). -/
structure DevCtx where
  desc : Descriptor
  status : DevStatus
  queues : List Queue
  nodes : List Node
  code : List (Option (Nat × Nat × Nat))   -- the code table: base, size, table base
  loftUsed : List Nat
  stackUsed : List Nat
  privUsed : List (Nat × Nat)
  saveUsed : List (Nat × Nat)
  faultSeq : Nat                           -- the sequence number of its next fault record
  faults : List FaultRecord
  fullRaised : Bool
  comms : List Nat                         -- handles of its communicators
  deriving DecidableEq, Repr

/-! ### Clusters, dies, vaults, power (01, 17, 18) -/

/-- An instruction-cache line with its bytes (R130, R137). -/
structure ICacheLine where
  ctxid : Nat
  line : Nat             -- virtual address of the line
  bytes : List Byte
  deriving DecidableEq, Repr

/-- A line of the loft: the context slot and address it is kept for, its location, and its poisoned 8-byte units (R23, R227). -/
structure LoftLine where
  ctx : Nat
  line : Nat
  loc : Nat
  bad : List Nat
  deriving DecidableEq, Repr

/-- An outstanding line fill: the line, who waits for it (none for a prefetch). -/
structure Fill where
  ctxid : Nat
  line : Nat
  pa : Nat
  waiter : Option Nat
  hint : Hint            -- of its page (R127)
  deriving DecidableEq, Repr

/-- A TLB entry (R381): the virtual base, log2 of the page size, and the leaf. -/
structure TlbEntry where
  ctxid : Nat
  va : Nat
  size : Nat
  frame : Nat
  flags : BitVec 12      -- V R W X U A D LEAF CH POL, as bits [10:0] of the entry
  ret : BitVec 2
  leafAt : Nat           -- physical address of the leaf entry
  deriving DecidableEq, Repr

/-- A job of a spill sequencer (R361): the spill or reload at the head of a wave's stream, or the save or restore of a gang. -/
inductive SpillJob
  | window (wave : Nat)
  | gang (g : Nat)
  deriving DecidableEq, Repr

/-- A cluster. -/
structure Cluster where
  gated : Bool
  wakeAt : Option Nat
  idleSince : Nat
  lost : Bool
  pass : Nat
  heatHold : Bool                -- R397 holds pass count 4
  heatSince : Option Nat
  noPlace : Bool                 -- takes no placement until its vaults cool (R397)
  powerGate : Bool               -- gated by the package limit until the estimate allows it (R404)
  failing : Bool                 -- waits for spare substitution (R26)
  reg : Nat
  icache : List ICacheLine
  icFills : List Fill
  dcache : List (Nat × Nat)      -- (CTXID, virtual line) of the scalar cache
  dcFills : List Fill
  loft : List LoftLine           -- newest first
  loftFills : List Fill
  tlb : List TlbEntry
  slotsUsed : Nat
  sfu : Option Nat               -- the wave whose word holds the special-function unit
  divide : Option Nat
  lastCtx : Nat
  lastLane : Option Nat          -- the workgroup whose wave issued last (R173)
  lastWg : Nat                   -- last matrix grant
  placed : List (Nat × Nat)      -- the placements of the last 2 ms: time and heat class (R352)
  spillq : List SpillJob         -- the jobs of its spill sequencer, in order of arrival; the first one runs (R361)
  counts : List Nat              -- the events of the microsecond that runs, by kind (R405)
  pest : Nat                     -- power estimate of the last microsecond in mW (R405)
  psum : Nat                     -- sum of the estimates of the 1 ms window so far
  deriving DecidableEq, Repr

/-- The prefetch a page walk serves (R389): the cache to fill, with the hint of a VPREF. -/
inductive MissKind | gpref | dpref | vpref (h : Hint)
  deriving DecidableEq, Repr

/-- A page walk or a queued miss (R382). -/
structure Miss where
  cluster : Nat
  ctxid : Nat
  va : Nat
  kind : MissKind
  user : Bool
  deriving DecidableEq, Repr

structure Die where
  l2 : List (Nat × Hint)         -- lines held and their recorded hints (R127)
  l2tlb : List TlbEntry
  walks : List Miss
  joined : List Miss             -- misses that joined a walk in progress (R382)
  misses : List Miss
  ports : List Bool              -- to dies 0 to 3
  spareFor : Option Nat          -- the cluster the spare site stands for (R26)
  coupling : List W32            -- 9 sites times 32 vaults, binary32 (R399)
  deriving DecidableEq, Repr

structure Vault where
  temp : Int                     -- in quarter degrees
  band : Nat
  entered : Nat
  pend : Bool
  hot : Bool
  ce : Nat
  spares : List Nat              -- spare rows in use in each of the 8 layers
  errors : List (Nat × Nat)      -- (row, time) of corrected errors
  remapping : List (Nat × Nat)   -- the rows that are being copied to a spare, and since when (R25)
  sampled : Option Nat
  deriving DecidableEq, Repr

structure Regulator where
  fmin : Nat
  fmax : Nat
  fcur : Nat
  alarm : Bool
  raisedAt : Option Nat          -- a raise whose sample is due (R403)
  alarmAt : Nat
  steppedAt : Nat
  changedAt : Option Nat         -- the last change of the operating point (R408)
  paused : Option Nat            -- the time the pause began
  pendingF : Option Nat          -- a transition that DOMAIN_CONTROL_WRITE calls for
  slowSince : Option Nat         -- since when the whole domain is at pass count 4
  pkgRaised : Nat                -- pass-count steps raised for the package limit and not reversed (R404)
  deriving DecidableEq, Repr

/-- An event record (R310, Table 12.4). -/
structure EventRec where
  kind : Nat
  ctxid : Nat
  cls : Nat
  num : Nat
  time : Nat
  d0 : Word
  d1 : Word
  deriving DecidableEq, Repr

/-- A ring of a partition: command queue (Table 19.4) or event queue (Table 19.8). -/
structure RingRegs where
  ring : Nat
  size : Nat
  enable : Bool
  err : Bool
  wr : W32
  rd : W32
  deriving DecidableEq, Repr

structure Partition where
  cmd : RingRegs
  ev : RingRegs
  held : List EventRec
  discarded : Nat
  discardMask : Nat
  busy : Option Instr            -- a command that waits (R427)
  waits : List Nat               -- the gang it waits for, or the contexts it has suspended (R392)
  deriving DecidableEq, Repr

/-- Traverse link states (R415). -/
inductive LinkStatus | down | training | up | retraining | failed
  deriving DecidableEq, Repr

structure Link where
  status : LinkStatus
  part : Nat
  since : Nat
  retrains : Nat
  resends : Nat
  rxSeq : Nat                    -- next sequence number to deliver
  discarding : Bool              -- later flits are discarded until the resent one arrives
  answer : Option (Bool × List Byte)   -- its last answer to a request: whether it was performed, and the bytes read (R417)
  sent : Option (Nat × Nat)      -- the package and the 4 KiB unit of the newest traffic that left by it (R417)
  passed : Option HostAcc        -- the newest request that it has carried on for another package (R417)
  deriving DecidableEq, Repr

/-- A communicator (R419): ranks are (package, CTXID, WGID). -/
structure Comm where
  handle : Nat
  ranks : List (Nat × Nat × Nat)
  groups : List Nat              -- the group sizes
  identity : List Byte           -- the SM3 digest of N and the grouping
  calls : List Nat               -- CREDs issued by each rank
  dead : List Nat                -- ranks whose workgroup was destroyed (R422)
  deriving DecidableEq, Repr

/-- A boundary table entry (R390): target class and number, entry index and its two words. -/
structure BoundaryEntry where
  cls : Nat
  num : Nat
  ix : Nat
  lo : Word
  hi : Word
  deriving DecidableEq, Repr

/-! ### Memory ordering (10_ordering) -/

/-- A write that some agent may still read past: each byte with its value and the value it overwrote, in coherence order. -/
structure MemWrite where
  id : Nat
  agent : MemAgent
  path : Nat
  family : MemAgent                        -- the role of its family (R266)
  handler : Bool                           -- made in handler mode, or by a handler word (R274)
  num : Nat                                -- its issue count (R319)
  prior : List Nat                         -- the writes of other agents that happen before it
  cells : List (Nat × Byte × Byte)
  rmw : Bool                               -- it follows what its atomic has read at once (R259)
  heads : List Release                     -- the release sequences that it heads (R260, R261)
  readers : List (MemAgent × Nat × List Nat)   -- who has read it or written after it, on which path, and at which bytes (R258)
  seen : List (MemAgent × Paths)           -- before whose later accesses it happens, and on which paths it is visible to them (R264)
  deriving DecidableEq, Repr

/-- What a barrier phase releases (R371): the barrier's level and owner, its number, the phase, and the writes. -/
structure PhaseRelease where
  lvl : Nat
  owner : Nat
  num : Nat
  phase : Nat
  ids : List Nat
  deriving DecidableEq, Repr

/-- A copy or CRED that has been published: its workgroup, watermark register and bind count there, its stamp, and its length. -/
structure Ended where
  wg : Nat
  reg : Nat
  bc : BitVec 16
  stamp : Nat
  len : Nat
  deriving DecidableEq, Repr

/-- What the agents may still read of the past (R258 to R267). The manual leaves open which allowed write a read returns and where an
unordered write enters the coherence order; `picks` chooses, and an empty list takes the newest (log entry 8). The choice that exceeds
what a generator's load may read lets the load return later (R140). -/
structure Visibility where
  nextId : Nat
  writes : List MemWrite                   -- newest first in the coherence order of each byte
  fences : List Release                    -- release fences whose later writes head a sequence (R261)
  reads : List (MemAgent × Nat × List Release)   -- what an acquire fence of the reader would synchronise with (R261)
  sc : List Release                        -- the sequentially consistent fences so far (R262)
  phases : List PhaseRelease
  done : List Release                      -- the releases of copies and matrix commands (R272)
  ended : List Ended                       -- the copies that waits may observe after their register has gone on (R290)
  picks : List Nat
  deriving DecidableEq, Repr

/-! ### The machine -/

/-- A firmware image (R311): its digest, and whether its signature verified at reset. -/
structure Image where
  digest : List Byte
  runs : Bool
  deriving DecidableEq, Repr

/-- How a request of a function ends (R412): performed, Unsupported Request or Completer Abort. -/
inductive ReplyStatus | done | unsupported | aborted
  deriving DecidableEq, Repr

/-- The completion that the host attach returns (R410 to R412): to which function, and the bytes read, the old value of an AtomicOp
among them; and with it the images whose verification has failed (R311, log entry 121). -/
structure HostReply where
  func : Nat
  status : ReplyStatus
  bytes : List Byte
  failures : List Nat
  deriving DecidableEq, Repr

/-- An action against the package limit that is not reversed yet (R404). -/
inductive PowerAction
  | pass (reg : Nat)
  | clock (reg : Nat)
  | gate (cluster : Nat)
  deriving DecidableEq, Repr

/-- The whole-device registers that are no table. -/
structure Device where
  freeCount : Nat                -- the model's own: counts free values used (log entry 2)
  time : Nat
  stamp : Word
  pushes : Nat                   -- the model's own: orders pushes into buffers (R173)
  topology : W32
  package : Nat
  images : List Image
  failures : List Nat            -- the images whose failure the host attach reports (R311)
  harness : W32
  limit : Nat
  lastServed : Nat × Nat         -- (CTXID, queue) the dispatcher served last
  lastPart : Nat
  windowAt : Nat
  refitAt : Nat
  weights : List Rat             -- w0, then one of each event kind, in mW (R405)
  cov : List (List Rat)          -- the inverse correlation matrix of the least-squares fit (R406)
  secCounts : List Nat           -- the events of the second that runs, over all clusters
  pkgEst : Nat                   -- the package estimate of the last window in mW
  actions : List PowerAction     -- newest first
  functions : List (Option Nat)  -- the partition of VF1 to VF16
  msix : List (List Nat)         -- how often each of the 64 vectors of PF0 and VF1 to VF16 has fired (R413)
  reply : Option HostReply       -- the last completion to the host
  requester : Option Nat         -- the function whose requester ID the last request to host memory carried (R414)
  routes : List (Nat × BitVec 16)
  boundary : List BoundaryEntry
  comms : List Comm
  deriving DecidableEq, Repr

structure State where
  agenda : List Turn
  curCtx : Nat
  curWave : Nat
  dev : Device
  mem : List Host.Cell
  vis : Visibility
  badDram : List Nat             -- poisoned 64-byte units (R28)
  badSram : List Nat             -- poisoned 8-byte units
  vregs : List (Nat × W32)
  accs : List (Nat × W32)
  badRegs : List Nat
  badAccs : List Nat
  ctxs : List Context
  waves : List Wave
  clusters : List Cluster
  dies : List Die
  vaults : List Vault
  regs : List Regulator
  parts : List Partition
  links : List Link
  wgs : List Workgroup
  gangs : List Gang
  launches : List Launch
  devs : List DevCtx
  deriving DecidableEq, Repr

/-! ### Reset -/

def Chain.start : Chain := { lastC := false, pos := 0, kinds := [] }
def Target.none : Target := { mask := 0, grp := 0 }
def Binding.zero : Binding := { base := 0, step := 0 }
def DirEntry.zero : DirEntry :=
  { defd := false, recd := false, ovf := false, maskv := false, nvote := 0, fmin := 0, len := 0 }
def Sequencer.idle : Sequencer :=
  { busy := false, base := 0, id := 0, total := 0, parts := [], target := Target.none, xctl := 0, compat := false,
    binds := List.replicate 8 Binding.zero, allocs := [], late := [] }
def TrapRegs.zero : TrapRegs := { cause := 0, pc := 0, info0 := 0, info1 := 0, info2 := 0, info3 := 0, epc := 0 }
def Window.start : Window := { base := 0, frame := 0, lo := 0, stack := [], popPending := false, popRead := none, popBad := none }
def Emission.start (mask : Word) : Emission :=
  { target := { mask := mask, grp := 0 }, savedTarget := Target.none, userChain := Chain.start,
    handlerChain := Chain.start, capOpen := false, capId := 0, capSuspended := false,
    dir := List.replicate 64 DirEntry.zero, binds := List.replicate 8 Binding.zero, seq := Sequencer.idle,
    votes := [], nextVote := 0 }

/-- A context that no role has (R135), with every register at zero (log entry 5). -/
def Context.free : Context :=
  { status := .free, mode := .user, ctxid := 0, wg := 0, role := 0, rights := 0, nwaves := 0, width := 0, pc := 0,
    s := List.replicate 32 0, bank := List.replicate 8 0, xctl := 0, compat := true, wsel := 0, trap := TrapRegs.zero,
    cycles := 0, win := Window.start, em := Emission.start 0, issued := 0, counted := [], pending := [], evSeq := 0,
    resumes := none, reply := none, loft := 0, fetched := [], loads := [], waits := none }

/-- The predicates of a wave at its start (R171). -/
def startPreds : List Word := BitVec.allOnes 64 :: List.replicate 15 0

def Wave.free : Wave :=
  { status := .free, left := .live, owner := 0, wg := 0, wix := 0, rix := 0, phys := 0, width := 0, bw := 0,
    preds := startPreds, badPreds := [], wxf := 0, ssn := 0, latch := [], hlatch := [], stream := [], hbuf := [],
    flight := [], half := none, chain := false, hchain := false, lockedBy := none, stopSeq := none, failed := none, reply := none, after := none }

/-- A tile register at workgroup start (R233, Table 9.1). -/
def Tile.start : Tile :=
  { base := 0, rows := 0, cols := 0, pitch := 0, sat := false, fmt := 0, spitch := 0, rsc := false, blk := 0,
    sbase := 0, rnd := false, planes := 8, layout := 0 }
def Watermark.start : Watermark := { bc := 0, bound := none }
def RoleBits.zero : RoleBits := { arr := 0, unw := 0, aw := 0 }

/-- Cluster `c` at reset: active at pass count 1 on the regulator of its die (R26, log entry 6). -/
def Cluster.reset (c : Nat) : Cluster :=
  { gated := false, wakeAt := none, idleSince := 0, lost := false, pass := 1, heatHold := false, heatSince := none,
    noPlace := false, powerGate := false, failing := false, reg := c / 8, icache := [], icFills := [], dcache := [], dcFills := [], loft := [], loftFills := [],
    tlb := [], slotsUsed := 0, sfu := none, divide := none, lastCtx := 0, lastLane := none, lastWg := 0, placed := [], spillq := [],
    counts := List.replicate 11 0, pest := 0, psum := 0 }

/-- The coupling table of the manual's worked refusal (15_group): 0.25 for a cluster's own vaults, 0.05 for the
vaults of its neighbours, 0 elsewhere and for the spare site (log entry 9). -/
def couplingStart : List W32 :=
  (List.range 9).flatMap fun site => (List.range 32).map fun v =>
    if site = 8 then 0
    else if v / 4 = site then 0x3E800000
    else if v / 4 + 1 = site || v / 4 = site + 1 then 0x3D4CCCCD
    else 0

def Die.reset : Die :=
  { l2 := [], l2tlb := [], walks := [], joined := [], misses := [], ports := [true, true, true, true], spareFor := none,
    coupling := couplingStart }

/-- Every vault starts in band 3 and its dwell at reset (R396). -/
def Vault.reset : Vault :=
  { temp := 0, band := 3, entered := 0, pend := false, hot := false, ce := 0, spares := List.replicate 8 0, errors := [],
    remapping := [], sampled := none }

/-- Table 18.4's reset values. -/
def Regulator.reset : Regulator :=
  { fmin := 13, fmax := 26, fcur := 26, alarm := false, raisedAt := none, alarmAt := 0, steppedAt := 0,
    changedAt := none, paused := none, pendingF := none, slowSince := none, pkgRaised := 0 }

def RingRegs.reset : RingRegs := { ring := 0, size := 0, enable := false, err := false, wr := 0, rd := 0 }
def Partition.reset : Partition :=
  { cmd := RingRegs.reset, ev := RingRegs.reset, held := [], discarded := 0, discardMask := 0, busy := none, waits := [] }
def Link.reset : Link :=
  { status := .down, part := 0, since := 0, retrains := 0, resends := 0, rxSeq := 0, discarding := false, answer := none
    sent := none, passed := none }

/-- The images at a reset (R311), by freshness counter: their number, digests and signatures are open (log entry 2). An image runs whose
signature over its digest the fused key verifies. -/
def bootImages (ix : Nat) : List Image :=
  (List.range (Config.imageCount.toNat + 1)).map fun i =>
    let digest := (List.range 32).map (Config.imageByte ix i)
    { digest := digest
      runs := Config.sm2Verifies ((List.range 64).map Config.fusedKey) digest ((List.range 64).map (Config.imageSignature ix i)) }

/-- The images that a reset leaves unrun, in order (R311). -/
def failedImages (l : List Image) : List Nat := (List.range l.length).filter fun i => !((l.map (·.runs)).getD i true)

/-- The device after the reset of this freshness counter. -/
def Device.boot (ix : Nat) : Device :=
  { freeCount := ix + 1, time := 0, stamp := 0, pushes := 0, topology := 0, package := 0, images := bootImages ix,
    failures := failedImages (bootImages ix), harness := 0xE4E4E4E4, limit := 2300, lastServed := (0, 0), lastPart := 0, windowAt := 0,
    refitAt := 0, weights := (List.range 12).map Config.factoryWeight,
    cov := (List.range 12).map fun i => (List.range 12).map (Config.startCov i), secCounts := List.replicate 11 0, pkgEst := 0,
    actions := [], functions := List.replicate 16 none, msix := List.replicate 17 (List.replicate 64 0), reply := none,
    requester := none, routes := [], boundary := [], comms := [] }

def Device.reset : Device := Device.boot 0

def Visibility.start : Visibility :=
  { nextId := 0, writes := [], fences := [], reads := [], sc := [], phases := [], done := [], ended := [], picks := [] }

/-- The machine right after reset. -/
def State.reset : State :=
  { agenda := [], curCtx := 0, curWave := 0, dev := Device.reset, mem := [], vis := Visibility.start, badDram := [], badSram := [],
    vregs := [], accs := [], badRegs := [], badAccs := [], ctxs := List.replicate 512 Context.free,
    waves := List.replicate 1024 Wave.free, clusters := (List.range 32).map Cluster.reset,
    dies := List.replicate 4 Die.reset, vaults := List.replicate 128 Vault.reset,
    regs := List.replicate 4 Regulator.reset, parts := List.replicate 16 Partition.reset,
    links := List.replicate 16 Link.reset, wgs := [], gangs := [], launches := [], devs := [] }

end Sys2Proof.Machine
end

