-- ==== Sys2Proof/Machine/Flags.lean ====
section
/-! DEFINITION. Integer arithmetic of the scalar unit and the lanes (R85 to R88, R143) and the WXF bits (R104). -/
namespace Sys2Proof.Machine

/-! ### WXF bits (Table 4.6) -/

abbrev Flags := BitVec 7
def flagNV : Flags := 0x01
def flagDZ : Flags := 0x02
def flagOF : Flags := 0x04
def flagUF : Flags := 0x08
def flagNX : Flags := 0x10
def flagSNC : Flags := 0x20
def flagSAT : Flags := 0x40
def flagIf (c : Bool) (f : Flags) : Flags := if c then f else 0

/-- The raised events whose trap XCTL enables (R106, Table 4.7): TSN, TNV, TDZ and TOF. -/
def enabledEvents (xctl : BitVec 4) (f : Flags) : Flags :=
  f &&& (flagIf (xctl.getLsbD 0) flagSNC ||| flagIf (xctl.getLsbD 1) flagNV ||| flagIf (xctl.getLsbD 2) flagDZ
    ||| flagIf (xctl.getLsbD 3) flagOF)

/-! ### Scalar ALU (R143, Table 6.4) -/

def ofBool (b : Bool) : Word := if b then 1 else 0
/-- The quotient rounded toward zero; a zero divisor gives all ones (Table 6.4, R87). -/
def divS {w : Nat} (a b : BitVec w) : BitVec w := if b = 0 then BitVec.allOnes w else BitVec.ofInt w (a.toInt.tdiv b.toInt)
def divU {w : Nat} (a b : BitVec w) : BitVec w := if b = 0 then BitVec.allOnes w else BitVec.ofNat w (a.toNat / b.toNat)
/-- The remainder with the sign of the dividend; a zero divisor gives the dividend. -/
def remS {w : Nat} (a b : BitVec w) : BitVec w := if b = 0 then a else BitVec.ofInt w (a.toInt.tmod b.toInt)
def remU {w : Nat} (a b : BitVec w) : BitVec w := if b = 0 then a else BitVec.ofNat w (a.toNat % b.toNat)
def minS {w : Nat} (a b : BitVec w) : BitVec w := if a.toInt < b.toInt then a else b
def maxS {w : Nat} (a b : BitVec w) : BitVec w := if a.toInt < b.toInt then b else a
def minU {w : Nat} (a b : BitVec w) : BitVec w := if a.toNat < b.toNat then a else b
def maxU {w : Nat} (a b : BitVec w) : BitVec w := if a.toNat < b.toNat then b else a

/-- Leading zeros, trailing zeros and set bits of the low `w` bits of a number. -/
def clz (w x : Nat) : Nat := if x % 2 ^ w = 0 then w else w - 1 - (x % 2 ^ w).log2
def ctzFrom (x : Nat) : Nat → Nat → Nat
  | 0, i => i
  | n + 1, i => if bitAt x i then i else ctzFrom x n (i + 1)
def ctz (w x : Nat) : Nat := ctzFrom x w 0
def popcount (w x : Nat) : Nat := ((List.range w).filter (bitAt x)).length
/-- Bit reversal within w bits. -/
def bitrev (w x : Nat) : Nat := ((List.range w).map fun i => b2n (bitAt x i) * 2 ^ (w - 1 - i)).sum

/-- Sign extension of the low 32 bits (ADDW, SUBW). -/
def sextW (x : Word) : Word := (x.truncate 32).signExtend 64
/-- The shift count of a scalar shift: b & 63. -/
def shiftCount (b : Word) : Nat := b.toNat % 64

/-! ### Lane integers -/

/-- The range of a w-bit element. -/
def intMin (w : Nat) (uns : Bool) : Int := if uns then 0 else -(2 ^ (w - 1) : Nat)
def intMax (w : Nat) (uns : Bool) : Int := if uns then (2 ^ w : Nat) - 1 else (2 ^ (w - 1) : Nat) - 1
/-- sat(x, type): the clamp of R86. -/
def clampInt (w : Nat) (uns : Bool) (x : Int) : Int := max (intMin w uns) (min (intMax w uns) x)
/-- The low w bits of an integer. -/
def wrap (w : Nat) (x : Int) : Nat := (x % (2 ^ w : Nat)).toNat
/-- An element read as signed or unsigned. -/
def asInt (w : Nat) (uns : Bool) (x : Nat) : Int :=
  let x := x % 2 ^ w
  if !uns && bitAt x (w - 1) then (x : Int) - (2 ^ w : Nat) else x
/-- Wrap, or clamp and flag when the clamp changes the value (R86). -/
def narrow (w : Nat) (uns sat : Bool) (x : Int) : Nat × Flags :=
  if sat then
    let y := clampInt w uns x
    (wrap w y, flagIf (y != x) flagSAT)
  else (wrap w x, 0)

/-- Element i of width w of a packed value, and packing elements back (R84, R85). -/
def elem (w x i : Nat) : Nat := x / 2 ^ (w * i) % 2 ^ w
def pack (w : Nat) : List Nat → Nat
  | [] => 0
  | x :: xs => x % 2 ^ w + 2 ^ w * pack w xs

end Sys2Proof.Machine
end

