-- ==== Sys2Proof/Machine/Floats.lean ====
section
/-! DEFINITION. Floating arithmetic (R81 to R103 and Table 4.8): values are exact dyadic numbers, and every operation
forms its exact result and rounds it once. -/
namespace Sys2Proof.Machine

/-- A floating format (Table 4.1). `ieee` is false for E4M3 alone, which has no infinities (R82). -/
structure Fmt where
  eb : Nat
  mb : Nat
  bias : Nat
  ieee : Bool
  deriving DecidableEq, Repr

def f64 : Fmt := ⟨11, 52, 1023, true⟩
def f32 : Fmt := ⟨8, 23, 127, true⟩
def f16 : Fmt := ⟨5, 10, 15, true⟩
def bf16 : Fmt := ⟨8, 7, 127, true⟩
def e5m2 : Fmt := ⟨5, 2, 15, true⟩
def e4m3 : Fmt := ⟨4, 3, 7, false⟩

def Fmt.width (f : Fmt) : Nat := 1 + f.eb + f.mb
def Fmt.expOnes (f : Fmt) : Nat := 2 ^ f.eb - 1
/-- The sign bit in place. -/
def Fmt.sign (f : Fmt) (neg : Bool) : Nat := b2n neg * 2 ^ (f.eb + f.mb)
/-- The unit of the last place of subnormals. -/
def Fmt.qmin (f : Fmt) : Int := 1 - (f.bias : Int) - (f.mb : Int)
/-- The encodings of the largest finite value, infinity and the default NaN, without sign (Table 4.1, R99). -/
def Fmt.maxFinite (f : Fmt) : Nat := if f.ieee then f.expOnes * 2 ^ f.mb - 1 else f.expOnes * 2 ^ f.mb + 2 ^ f.mb - 2
def Fmt.infinity (f : Fmt) : Nat := if f.ieee then f.expOnes * 2 ^ f.mb else f.expOnes * 2 ^ f.mb + 2 ^ f.mb - 1
def Fmt.nan (f : Fmt) : Nat :=
  if f.ieee then f.expOnes * 2 ^ f.mb + 2 ^ (f.mb - 1) else f.expOnes * 2 ^ f.mb + 2 ^ f.mb - 1

/-- A decoded value: `fin neg m e` is (-1)^neg * m * 2^e; a NaN keeps its bits. -/
inductive FVal
  | fin (neg : Bool) (m : Nat) (e : Int)
  | inf (neg : Bool)
  | nan (neg : Bool) (signalling : Bool) (frac : Nat)
  deriving DecidableEq, Repr

/-- Decoding (R81 to R83). -/
def Fmt.decode (f : Fmt) (x : Nat) : FVal :=
  let neg := bitAt x (f.eb + f.mb)
  let e := x / 2 ^ f.mb % 2 ^ f.eb
  let m := x % 2 ^ f.mb
  if e = f.expOnes && (f.ieee || m = 2 ^ f.mb - 1) then
    if f.ieee && m = 0 then .inf neg
    else .nan neg (f.ieee && !bitAt m (f.mb - 1)) m
  else if e = 0 then .fin neg m f.qmin
  else .fin neg (2 ^ f.mb + m) (f.qmin + (e - 1 : Nat))

def FVal.neg : FVal → Bool
  | .fin n _ _ => n
  | .inf n => n
  | .nan n _ _ => n
def FVal.isNan : FVal → Bool
  | .nan _ _ _ => true
  | _ => false
def FVal.isSignalling : FVal → Bool
  | .nan _ s _ => s
  | _ => false
def FVal.isZero : FVal → Bool
  | .fin _ m _ => m = 0
  | _ => false
def FVal.isInf : FVal → Bool
  | .inf _ => true
  | _ => false
def FVal.negate : FVal → FVal
  | .fin n m e => .fin (!n) m e
  | .inf n => .inf (!n)
  | v => v

/-- A result: an encoding and the flags it raises. -/
abbrev FRes := Nat × Flags

/-- How an operation rounds and which level it follows: `flush` is level 0's treatment of binary16 subnormals in
f16x2 words (Table 4.8). -/
structure FEnv where
  mode : Rounding
  level1 : Bool
  flush : Bool
  deriving DecidableEq, Repr

/-! ### Rounding (R93 to R96) -/

/-- Whether the magnitude rounds up: `k` is the part kept, `r` the part below out of 2^sh, `st` whether more
follows below that. -/
def roundsUp (mode : Rounding) (neg : Bool) (k r sh : Nat) (st : Bool) : Bool :=
  let inexact := r != 0 || st
  match mode with
  | .rne => if sh = 0 then false else
      let half := 2 ^ (sh - 1)
      half < r || (r == half && (st || k % 2 == 1))
  | .rz => false
  | .ru => inexact && !neg
  | .rd => inexact && neg

/-- m * 2^e, plus something less than 2^e when `st`, in units of 2^q: the rounded multiple and whether it is inexact. -/
def roundAt (mode : Rounding) (neg : Bool) (m : Nat) (e : Int) (st : Bool) (q : Int) : Nat × Bool :=
  if q ≤ e then (m * 2 ^ (e - q).toNat + b2n (st && roundsUp mode neg 0 0 0 true), st)
  else
    let sh := (q - e).toNat
    let k := m / 2 ^ sh
    let r := m % 2 ^ sh
    (k + b2n (roundsUp mode neg k r sh st), r != 0 || st)

/-- The result of an overflow (R95). -/
def Fmt.overflow (f : Fmt) (mode : Rounding) (neg : Bool) : Nat :=
  let up := match mode with
    | .rne => true
    | .rz => false
    | .ru => !neg
    | .rd => neg
  f.sign neg + if up then f.infinity else f.maxFinite

/-- Rounding m * 2^e (plus a sticky part) into a format: the encoding and OF, UF and NX. Overflow is R95's test, on the value rounded with
an unbounded exponent: for 65520 in rz and rd it gives inexact alone, where the one flags entry of Table 4.5's row, for all four modes,
says overflow too (DEDUCED, log entry 98). -/
def Fmt.round (f : Fmt) (mode : Rounding) (neg : Bool) (m : Nat) (e : Int) (st : Bool := false) : FRes :=
  if m = 0 && !st then (f.sign neg, 0)
  else
    let top : Int := e + (m.log2 : Int)
    let q0 := top - (f.mb : Int)
    let q := max q0 f.qmin
    let (k, inexact) := roundAt mode neg m e st q
    let enc := (q - f.qmin).toNat * 2 ^ f.mb + k
    if f.maxFinite < enc then (f.overflow mode neg, flagOF ||| flagNX)
    else
      let k0 := (roundAt mode neg m e st q0).1
      -- tiny: below the smallest normal even when rounded with an unbounded exponent
      let tiny := top < 1 - (f.bias : Int) && !(top = -(f.bias : Int) && 2 ^ (f.mb + 1) ≤ k0)
      (f.sign neg + enc, flagIf (tiny && inexact) flagUF ||| flagIf inexact flagNX)

/-- Rounding an exact integer multiple of 2^e. -/
def Fmt.roundInt (f : Fmt) (mode : Rounding) (m : Int) (e : Int) : FRes := f.round mode (m < 0) m.natAbs e

/-! ### Level 0 flushing (Table 4.8) -/

/-- A binary16 subnormal reads as zero of its sign. -/
def Fmt.flushIn (f : Fmt) (env : FEnv) (x : Nat) : Nat :=
  if env.flush && x / 2 ^ f.mb % 2 ^ f.eb = 0 then x / 2 ^ (f.eb + f.mb) % 2 * 2 ^ (f.eb + f.mb) else x
/-- A binary16 subnormal result becomes zero of its sign, with underflow and inexact. -/
def Fmt.flushOut (f : Fmt) (env : FEnv) (r : FRes) : FRes :=
  if env.flush && r.1 / 2 ^ f.mb % 2 ^ f.eb = 0 && r.1 % 2 ^ f.mb != 0 then
    (r.1 / 2 ^ (f.eb + f.mb) % 2 * 2 ^ (f.eb + f.mb), r.2 ||| flagUF ||| flagNX)
  else r
/-- Reading an operand. -/
def Fmt.read (f : Fmt) (env : FEnv) (x : Nat) : FVal := f.decode (f.flushIn env x)

/-! ### NaNs (R98, R99) -/

/-- A NaN of the format, made quiet. -/
def Fmt.quiet (f : Fmt) (neg : Bool) (frac : Nat) : Nat :=
  f.sign neg + f.expOnes * 2 ^ f.mb + (if f.ieee then frac ||| 2 ^ (f.mb - 1) else 2 ^ f.mb - 1)

/-- The NaN of a list of operands, the first at level 1 and the canonical one at level 0. -/
def Fmt.firstNan (f : Fmt) (level1 : Bool) : List FVal → Nat
  | [] => f.nan
  | .nan neg _ frac :: _ => if level1 then f.quiet neg frac else f.nan
  | _ :: vs => f.firstNan level1 vs

def anyNan (vs : List FVal) : Bool := vs.any FVal.isNan
def signalFlags (vs : List FVal) : Flags := flagIf (vs.any FVal.isSignalling) (flagNV ||| flagSNC)

/-- A NaN result of operands that hold one. -/
def Fmt.nanRes (f : Fmt) (env : FEnv) (vs : List FVal) : FRes := (f.firstNan env.level1 vs, signalFlags vs)
/-- The default NaN of an invalid operation (R99). -/
def Fmt.invalid (f : Fmt) : FRes := (f.nan, flagNV)

/-! ### Exact sums -/

/-- A signed multiple of 2^e. -/
structure Dy where
  m : Int
  e : Int
  deriving DecidableEq, Repr

def Dy.zero : Dy := ⟨0, 0⟩
def Dy.add (a b : Dy) : Dy :=
  if a.m = 0 then b else if b.m = 0 then a
  else
    let e := min a.e b.e
    ⟨a.m * (2 ^ (a.e - e).toNat : Nat) + b.m * (2 ^ (b.e - e).toNat : Nat), e⟩
def Dy.mul (a b : Dy) : Dy := ⟨a.m * b.m, a.e + b.e⟩
def Dy.negate (a : Dy) : Dy := ⟨-a.m, a.e⟩
def Dy.ofInt (x : Int) : Dy := ⟨x, 0⟩
/-- The exact value of a finite number. -/
def FVal.dy : FVal → Dy
  | .fin n m e => ⟨if n then -(m : Int) else m, e⟩
  | _ => Dy.zero

/-- The sign of an exact zero sum (R97): the common sign of its terms, else + but in rd. -/
def zeroSign (mode : Rounding) (allNeg allPos : Bool) : Bool :=
  if allNeg then true else if allPos then false else mode == .rd

/-- Rounding an exact sum, whose terms' signs decide the sign of a zero. -/
def Fmt.roundSum (f : Fmt) (mode : Rounding) (x : Dy) (allNeg allPos : Bool) : FRes :=
  if x.m = 0 then (f.sign (zeroSign mode allNeg allPos), 0) else f.roundInt mode x.m x.e

/-! ### The operations of Table 7.5 -/

/-- a + b of decoded values. -/
def Fmt.addV (f : Fmt) (env : FEnv) (a b : FVal) : FRes :=
  if anyNan [a, b] then f.nanRes env [a, b]
  else match a, b with
    | .inf n, .inf k => if n == k then (f.sign n + f.infinity, 0) else f.invalid
    | .inf n, _ => (f.sign n + f.infinity, 0)
    | _, .inf n => (f.sign n + f.infinity, 0)
    | _, _ => f.roundSum env.mode (a.dy.add b.dy) (a.neg && b.neg) (!a.neg && !b.neg)

def Fmt.add (f : Fmt) (env : FEnv) (a b : Nat) : FRes := f.flushOut env (f.addV env (f.read env a) (f.read env b))
def Fmt.sub (f : Fmt) (env : FEnv) (a b : Nat) : FRes :=
  f.flushOut env (f.addV env (f.read env a) (f.read env b).negate)

/-- a * b of decoded values. -/
def Fmt.mulV (f : Fmt) (env : FEnv) (a b : FVal) : FRes :=
  let neg := a.neg != b.neg
  if anyNan [a, b] then f.nanRes env [a, b]
  else if a.isInf || b.isInf then
    if a.isZero || b.isZero then f.invalid else (f.sign neg + f.infinity, 0)
  else
    let p := a.dy.mul b.dy
    f.round env.mode neg p.m.natAbs p.e

def Fmt.mul (f : Fmt) (env : FEnv) (a b : Nat) : FRes := f.flushOut env (f.mulV env (f.read env a) (f.read env b))
/-- VFMULZ (R103). -/
def Fmt.mulz (f : Fmt) (env : FEnv) (a b : Nat) : FRes :=
  let x := f.read env a
  let y := f.read env b
  if x.isZero || y.isZero then (0, 0) else f.flushOut env (f.mulV env x y)

/-- a * b + c of decoded values, rounded once (R93, R99). -/
def Fmt.fmaV (f : Fmt) (env : FEnv) (a b c : FVal) : FRes :=
  let neg := a.neg != b.neg
  let badProduct := (a.isInf && b.isZero) || (a.isZero && b.isInf)
  if anyNan [a, b, c] then
    let r := f.nanRes env [a, b, c]
    (r.1, r.2 ||| flagIf badProduct flagNV)
  else if badProduct then f.invalid
  else if a.isInf || b.isInf then
    match c with
    | .inf n => if n == neg then (f.sign n + f.infinity, 0) else f.invalid
    | _ => (f.sign neg + f.infinity, 0)
  else match c with
    | .inf n => (f.sign n + f.infinity, 0)
    | _ => f.roundSum env.mode ((a.dy.mul b.dy).add c.dy) (neg && c.neg) (!neg && !c.neg)

def Fmt.fma (f : Fmt) (env : FEnv) (a b c : Nat) : FRes :=
  f.flushOut env (f.fmaV env (f.read env a) (f.read env b) (f.read env c))
/-- VFMAZ (R103): a product with a zero multiplicand is +0. -/
def Fmt.fmaz (f : Fmt) (env : FEnv) (a b c : Nat) : FRes :=
  let x := f.read env a
  let y := f.read env b
  let z := f.read env c
  f.flushOut env (if x.isZero || y.isZero then f.addV env (.fin false 0 0) z else f.fmaV env x y z)

/-- a / b (R97, R99). -/
def Fmt.divV (f : Fmt) (env : FEnv) (a b : FVal) : FRes :=
  let neg := a.neg != b.neg
  if anyNan [a, b] then f.nanRes env [a, b]
  else match a, b with
    | .inf _, .inf _ => f.invalid
    | .inf _, _ => (f.sign neg + f.infinity, 0)
    | _, .inf _ => (f.sign neg, 0)
    | .fin _ m e, .fin _ k g =>
      if k = 0 then if m = 0 then f.invalid else (f.sign neg + f.infinity, flagDZ)
      else
        let sh := f.mb + 4 + k.log2 - m.log2
        let num := m * 2 ^ sh
        f.round env.mode neg (num / k) (e - g - (sh : Int)) (num % k != 0)
    | _, _ => f.invalid
def Fmt.div (f : Fmt) (env : FEnv) (a b : Nat) : FRes := f.flushOut env (f.divV env (f.read env a) (f.read env b))

/-- The integer square root, bit by bit from bit n - 1 down. -/
def isqrtFrom (x : Nat) : Nat → Nat → Nat
  | 0, r => r
  | n + 1, r => isqrtFrom x n (if (r + 2 ^ n) * (r + 2 ^ n) ≤ x then r + 2 ^ n else r)
def isqrt (x : Nat) : Nat := isqrtFrom x (x.log2 / 2 + 1) 0

/-- The square root (R97, R99). -/
def Fmt.sqrtV (f : Fmt) (env : FEnv) (a : FVal) : FRes :=
  match a with
  | .nan _ _ _ => f.nanRes env [a]
  | .inf neg => if neg then f.invalid else (f.infinity, 0)
  | .fin neg m e =>
    if m = 0 then (f.sign neg, 0)
    else if neg then f.invalid
    else
      let sh := 2 * (f.mb + 4) + (if e % 2 = 0 then 0 else 1)
      let x := m * 2 ^ sh
      let r := isqrt x
      f.round env.mode false r ((e - (sh : Int)) / 2) (r * r != x)
def Fmt.sqrt (f : Fmt) (env : FEnv) (a : Nat) : FRes := f.flushOut env (f.sqrtV env (f.read env a))

/-- Rounding to an integral value in the mode, with no inexact (VFRND). -/
def Fmt.rndV (f : Fmt) (env : FEnv) (a : FVal) : FRes :=
  match a with
  | .nan _ _ _ => f.nanRes env [a]
  | .inf neg => (f.sign neg + f.infinity, 0)
  | .fin neg m e => ((f.round env.mode neg (roundAt env.mode neg m e false (max 0 e)).1 (max 0 e)).1, 0)
def Fmt.rnd (f : Fmt) (env : FEnv) (a : Nat) : FRes := f.flushOut env (f.rndV env (f.read env a))

/-- a * 2^b, rounded once (R190). Beyond 8192 a larger |b| gives the same result. -/
def Fmt.scale (f : Fmt) (env : FEnv) (a : Nat) (b : Int) : FRes :=
  let v := f.read env a
  f.flushOut env <| match v with
    | .nan _ _ _ => f.nanRes env [v]
    | .inf neg => (f.sign neg + f.infinity, 0)
    | .fin neg m e => f.round env.mode neg m (e + max (-8192) (min 8192 b))

/-- The order of finite numbers and infinities: a < b, with -0 below +0 when `zeros`. -/
def FVal.lt (zeros : Bool) : FVal → FVal → Bool
  | .inf n, .inf k => n && !k
  | .inf n, _ => n
  | _, .inf k => !k
  | .fin n m e, .fin k j g =>
    if m = 0 && j = 0 then zeros && n && !k
    else
      let d := (FVal.fin n m e).dy.add (FVal.fin k j g).dy.negate
      d.m < 0
  | _, _ => false

/-- Minimum and maximum (R187): a NaN loses to a number, and -0 is below +0. -/
def Fmt.minmax (f : Fmt) (env : FEnv) (isMax : Bool) (a b : Nat) : FRes :=
  let x := f.read env a
  let y := f.read env b
  let fl := signalFlags [x, y]
  if x.isNan && y.isNan then (f.firstNan env.level1 [x], fl)
  else if x.isNan then f.flushOut env (f.flushIn env b, fl)
  else if y.isNan then f.flushOut env (f.flushIn env a, fl)
  else
    let less := x.lt true y
    (f.flushIn env (if less != isMax then a else b), fl)

/-- The sign operation VFSGN: bits only. -/
def Fmt.sgn (f : Fmt) (a b c : Nat) : Nat :=
  let h := f.eb + f.mb
  a % 2 ^ h + f.sign (bitAt b h != bitAt c h)

/-- Comparison by Table 7.6. -/
def Fmt.cmp (f : Fmt) (cond : Nat) (sig : Bool) (a b : Nat) : Bool × Flags :=
  let x := f.decode a
  let y := f.decode b
  let un := x.isNan || y.isNan
  let s := [x, y].any FVal.isSignalling
  let fl := flagIf (s || (sig && un)) flagNV ||| flagIf s flagSNC
  let lt := x.lt false y
  let gt := y.lt false x
  let r := match cond with
    | 0 => !un && !lt && !gt
    | 1 => un || lt || gt
    | 2 => !un && lt
    | 3 => !un && !gt
    | 4 => !un && gt
    | 5 => !un && !lt
    | 6 => un
    | _ => !un
  (r, fl)

/-- The class mask (R189). -/
def Fmt.classMask (f : Fmt) (env : FEnv) (a : Nat) : Nat :=
  let x := f.flushIn env a
  let normal := x / 2 ^ f.mb % 2 ^ f.eb != 0
  match f.decode x with
  | .nan _ s _ => if s then 1 else 2
  | .inf neg => if neg then 4 else 0x200
  | .fin neg m _ =>
    if m = 0 then if neg then 0x20 else 0x40
    else if normal then if neg then 8 else 0x100
    else if neg then 0x10 else 0x80

/-- VFXTR with sel = 0: floor(log2 |a|) into a w-bit integer (R191). -/
def Fmt.exponent (f : Fmt) (env : FEnv) (w : Nat) (a : Nat) : FRes :=
  let v := f.read env a
  match v with
  | .nan _ s _ => (2 ^ (w - 1) - 1, flagNV ||| flagIf s flagSNC)
  | .inf _ => (2 ^ (w - 1) - 1, flagNV)
  | .fin _ m e => if m = 0 then (2 ^ (w - 1), flagNV) else (wrap w (e + (m.log2 : Int)), 0)

/-- VFXTR with sel = 1: the significand in [1, 2) with the sign of a (R191). -/
def Fmt.significand (f : Fmt) (env : FEnv) (a : Nat) : FRes :=
  let v := f.read env a
  match v with
  | .nan _ _ _ => f.nanRes env [v]
  | .inf _ => (a, 0)
  | .fin neg m _ => if m = 0 then (f.sign neg, 0) else f.round .rne neg m (-(m.log2 : Int))

/-! ### Sums of products -/

/-- The exact sum of products and terms with one rounding (R192): the operands in NaN order, the products as pairs,
and the terms added to them. -/
def Fmt.dot (f : Fmt) (env : FEnv) (order : List FVal) (prods : List (FVal × FVal)) (terms : List FVal) : FRes :=
  let badProd := prods.any fun p => (p.1.isInf && p.2.isZero) || (p.1.isZero && p.2.isInf)
  if anyNan order then
    let fst := f.firstNan env.level1 order
    (fst, signalFlags order ||| flagIf badProd flagNV)
  else
    let infs := (prods.filter fun p => p.1.isInf || p.2.isInf).map (fun p => p.1.neg != p.2.neg)
      ++ (terms.filter FVal.isInf).map FVal.neg
    if badProd then f.invalid
    else if infs.any id && infs.any (! ·) then f.invalid
    else match infs with
      | n :: _ => (f.sign n + f.infinity, 0)
      | [] =>
        let x := (prods.map fun p => p.1.dy.mul p.2.dy).foldl Dy.add Dy.zero
        let x := (terms.map FVal.dy).foldl Dy.add x
        let signs := prods.map (fun p => p.1.neg != p.2.neg) ++ terms.map FVal.neg
        f.roundSum env.mode x (signs.all id) (signs.all (! ·))

/-! ### Conversions (R100 to R102) -/

/-- A NaN carried into another format: sign and leading payload bits, made quiet (R100). -/
def Fmt.nanFrom (dst src : Fmt) (neg : Bool) (frac : Nat) : Nat :=
  let p := if src.ieee then frac else 0
  let q := if src.mb ≤ dst.mb then p * 2 ^ (dst.mb - src.mb) else p / 2 ^ (src.mb - dst.mb)
  dst.quiet neg q

/-- Converting between floating formats (R100). `sat` is the saturation of R101. -/
def Fmt.convert (dst src : Fmt) (mode : Rounding) (level1 sat : Bool) (v : FVal) : FRes :=
  match v with
  | .nan neg s frac =>
    (if level1 then dst.nanFrom src neg frac else dst.nan, flagIf s (flagNV ||| flagSNC))
  | .inf neg =>
    if sat then (dst.sign neg + dst.maxFinite, 0)
    else if dst.ieee then (dst.sign neg + dst.infinity, 0)
    else (if level1 then dst.sign neg + dst.nan else dst.nan, flagNV)
  | .fin neg m e =>
    let r := dst.round mode neg m e
    if sat && r.2.getLsbD 2 then (dst.sign neg + dst.maxFinite, flagNX) else r

/-- Converting an exact value to an integer type of w bits (R102). -/
def roundToInt (mode : Rounding) (w : Nat) (uns : Bool) (neg : Bool) (m : Nat) (e : Int) : FRes :=
  let (k, inexact) := roundAt mode neg m e false (max 0 e)
  let k := k * 2 ^ (max 0 e).toNat
  let x : Int := if neg then -(k : Int) else k
  let y := clampInt w uns x
  (wrap w y, if y != x then flagNV else flagIf inexact flagNX)

/-- Floating to integer (R102). -/
def Fmt.toInteger (mode : Rounding) (w : Nat) (uns : Bool) (v : FVal) : FRes :=
  match v with
  | .nan _ s _ => (0, flagNV ||| flagIf s flagSNC)
  | .inf neg => (wrap w (if neg then intMin w uns else intMax w uns), flagNV)
  | .fin neg m e => roundToInt mode w uns neg m e

/-- Integer to floating (R102). -/
def Fmt.ofInteger (f : Fmt) (mode : Rounding) (x : Int) : FRes := f.round mode (x < 0) x.natAbs 0

/-- The environment of a word: rounding mode, level from COMPAT, and flushing for f16x2 words at level 0. -/
def fenv (mode : Rounding) (compat f16x2 : Bool) : FEnv := { mode := mode, level1 := compat, flush := f16x2 && !compat }

end Sys2Proof.Machine
end

