-- ==== Sys2Proof/WellFormed.lean ====
section
/-! DEFINITION. Which instructions are well formed: the limits the decode checks put on the fields of
generator and long words (R32, R36, R39, R62, R148); a lane word in the code has class 01 and an assigned op8 (R59).
A lane word's operands are checked at emission (R63), and a device step carries no encoding: both stand as they are. -/
namespace Sys2Proof

/-- The special-register numbers of Table 6.10 (R160). -/
def specialRegs : List Nat :=
  [0x001, 0x002, 0x003, 0x004, 0x005, 0x006, 0x010, 0x011, 0x012, 0x013, 0x014, 0x015, 0x016, 0x017,
   0x018, 0x019, 0x01A, 0x020, 0x021, 0x030, 0x031, 0x032, 0x040, 0x041]

/-- The last column of Table 6.6: what AMO load and store require (R148). -/
def amoWF (order : Order) (op : AtomOp) (d b : Reg) : Bool :=
  match op with
  | .load => b == 0 && (order == .relaxed || order == .acquire)
  | .store => d == 0 && (order == .relaxed || order == .release)
  | _ => true

/-- Without acquire and release the scope field is 0 (R39). -/
def scopeWF (acq rel : Bool) (sc : Scope) : Bool := acq || rel || sc == .wave

/-- CRED's type and reduction limits (R62, R421 check 1). -/
def credWF (m : CredArgs) : Bool :=
  let reducing := m.op == .allreduce || m.op == .reduceScatter || m.op == .reduce
  (if reducing then m.type != .bytes else m.red == .sum)
    && 1 ≤ m.sP.toNat && m.sP.toNat ≤ 28 && scopeWF m.acquire m.release m.scope

/-- The op8 values that Table 2.12 assigns; the others are reserved (R59). -/
def laneOpAssigned (op : Nat) : Bool :=
  op ≤ 0x1D || (0x40 ≤ op && op ≤ 0x53) || (0x80 ≤ op && op ≤ 0x87) || (0x90 ≤ op && op ≤ 0x98)
    || (0xB0 ≤ op && op ≤ 0xB5) || (0xE0 ≤ op && op ≤ 0xE4) || (0xF0 ≤ op && op ≤ 0xFF)

/-- Well-formedness of an instruction. -/
def Instr.wellFormed : Instr → Bool
  | .featq _ cls => cls.toNat < 4
  | .wenter n => n.toNat ≤ 24
  | .amo _ _ order op d _a b => amoWF order op d b
  | .wmwait ev _ a => ev == .count || a == 0
  | .rdsr _ n => specialRegs.contains n.toNat
  | .wrsr n _ => specialRegs.contains n.toNat
  | .mloop m => m.steps != 0 && scopeWF m.acquire m.release m.scope
  | .mdrain m => scopeWF false m.release m.scope
  | .copy m => m.dims != 3 && 1 ≤ m.sB.toNat && m.sB.toNat ≤ 27 && (m.arrive || m.barrier == 0)
      && scopeWF m.acquire m.release m.scope
  | .nrec m => 1 ≤ m.sD.toNat && m.sD.toNat + m.count.toNat ≤ 31 && scopeWF false m.release m.scope
  | .cred m => credWF m
  | .emitLaneWord w next => w.toNat % 4 == 1 && laneOpAssigned (bits w.toNat 11 4) && (bitAt w.toNat 2 || next.isNone)
  | _ => true

end Sys2Proof
end

