-- ==== Sys2Proof/Decode.lean ====
section
/-! DEFINITION. The decoder of generator, long and lane words (02_encoding) and of command records
(Table 19.6), total on any bits, and after it the encoder, written from the same tables. -/
namespace Sys2Proof

/-- Why a word is no instruction. -/
inductive Reject
  | illegalInstruction   -- a generator or long word breaks R32 to R39, R61 or R62
  | illegalLaneWord      -- the op8 is reserved (R59)
  | truncated            -- fewer bytes than the word needs
  deriving DecidableEq, Repr

/-- `some i` when the check holds. -/
def accept (c : Bool) (i : Instr) : Option Instr := if c then some i else none

def reg (n : Nat) : Reg := BitVec.ofNat 5 n

/-- Scope codes (Table 2.6); 6 and 7 are illegal (R39). -/
def Scope.ofCode : Nat → Option Scope
  | 0 => some .wave | 1 => some .workgroup | 2 => some .gang | 3 => some .die | 4 => some .device
  | 5 => some .system | _ => none
def Scope.code : Scope → Nat
  | .wave => 0 | .workgroup => 1 | .gang => 2 | .die => 3 | .device => 4 | .system => 5

/-- Order codes (Table 2.6). -/
def Order.ofCode : Nat → Order
  | 0 => .relaxed | 1 => .acquire | 2 => .release | _ => .acqRel
def Order.code : Order → Nat
  | .relaxed => 0 | .acquire => 1 | .release => 2 | .acqRel => 3

/-- Atomic operation codes (Table 2.5); 13 to 15 are reserved. -/
def AtomOp.ofCode : Nat → Option AtomOp
  | 0 => some .add | 1 => some .min | 2 => some .max | 3 => some .minn | 4 => some .maxn | 5 => some .and
  | 6 => some .or | 7 => some .xor | 8 => some .xchg | 9 => some .fadd | 10 => some .load
  | 11 => some .store | 12 => some .cas | _ => none
def AtomOp.code : AtomOp → Nat
  | .add => 0 | .min => 1 | .max => 2 | .minn => 3 | .maxn => 4 | .and => 5 | .or => 6 | .xor => 7
  | .xchg => 8 | .fadd => 9 | .load => 10 | .store => 11 | .cas => 12

def LdSize.ofCode : Nat → Option LdSize
  | 0 => some .b | 1 => some .h | 2 => some .w | 3 => some .d | 4 => some .bn | 5 => some .hn | 6 => some .wn
  | _ => none
def LdSize.code : LdSize → Nat
  | .b => 0 | .h => 1 | .w => 2 | .d => 3 | .bn => 4 | .hn => 5 | .wn => 6
def StSize.ofCode : Nat → Option StSize
  | 0 => some .b | 1 => some .h | 2 => some .w | 3 => some .d | _ => none
def StSize.code : StSize → Nat
  | .b => 0 | .h => 1 | .w => 2 | .d => 3
def Rounding.ofCode : Nat → Rounding
  | 0 => .rne | 1 => .rz | 2 => .ru | _ => .rd
def Rounding.code : Rounding → Nat
  | .rne => 0 | .rz => 1 | .ru => 2 | .rd => 3
def BarLevel.ofCode : Nat → Option BarLevel
  | 0 => some .workgroup | 1 => some .gang | 2 => some .grid | _ => none
def BarLevel.code : BarLevel → Nat
  | .workgroup => 0 | .gang => 1 | .grid => 2
def WmEvent.ofCode : Nat → WmEvent
  | 0 => .srcFree | 1 => .landed | 2 => .published | _ => .count
def WmEvent.code : WmEvent → Nat
  | .srcFree => 0 | .landed => 1 | .published => 2 | .count => 3
def Hint.ofCode : Nat → Hint
  | 0 => .default | 1 => .streaming | 2 => .sticky | _ => .bypass
def Hint.code : Hint → Nat
  | .default => 0 | .streaming => 1 | .sticky => 2 | .bypass => 3
def CredOp.ofCode : Nat → Option CredOp
  | 0 => some .allreduce | 1 => some .reduceScatter | 2 => some .allgather | 3 => some .broadcast
  | 4 => some .reduce | 5 => some .allToAll | _ => none
def CredOp.code : CredOp → Nat
  | .allreduce => 0 | .reduceScatter => 1 | .allgather => 2 | .broadcast => 3 | .reduce => 4 | .allToAll => 5
def CredRed.ofCode : Nat → Option CredRed
  | 0 => some .sum | 1 => some .min | 2 => some .max | _ => none
def CredRed.code : CredRed → Nat
  | .sum => 0 | .min => 1 | .max => 2
def CredType.ofCode : Nat → Option CredType
  | 0 => some .f64 | 1 => some .f32 | 2 => some .f16 | 3 => some .bf16 | 4 => some .i32 | 5 => some .n32
  | 6 => some .i64 | 7 => some .n64 | 8 => some .bytes | _ => none
def CredType.code : CredType → Nat
  | .f64 => 0 | .f32 => 1 | .f16 => 2 | .bf16 => 3 | .i32 => 4 | .n32 => 5 | .i64 => 6 | .n64 => 7 | .bytes => 8

/-- op6 0x00: the SYS instructions (R158, Table 6.9). -/
def decodeSys (fn b a d : Nat) : Option Instr :=
  match fn with
  | 0 => accept (b == 0 && a == 0 && d == 0) .gnop
  | 1 => accept (b == 0 && a == 0 && d == 0) .endRole
  | 2 => accept (a == 0 && d == 0) (.trap (reg b))
  | 3 => accept (b == 0 && a == 0 && d == 0) .eret
  | 4 => accept (b == 0 && a < 4) (.featq (reg d) (reg a))
  | 5 => accept (b == 0 && a == 0 && d == 0) .sdrain
  | _ => none

/-- op6 0x01: the ALU instructions (R37, Table 2.4). -/
def decodeAlu (fn b a d : Nat) : Option Instr :=
  match fn with
  | 0 => some (.add (reg d) (reg a) (reg b))
  | 1 => some (.sub (reg d) (reg a) (reg b))
  | 2 => some (.and_ (reg d) (reg a) (reg b))
  | 3 => some (.or_ (reg d) (reg a) (reg b))
  | 4 => some (.xor_ (reg d) (reg a) (reg b))
  | 5 => some (.shl (reg d) (reg a) (reg b))
  | 6 => some (.shr (reg d) (reg a) (reg b))
  | 7 => some (.sar (reg d) (reg a) (reg b))
  | 8 => some (.mul (reg d) (reg a) (reg b))
  | 9 => some (.mulh (reg d) (reg a) (reg b))
  | 10 => some (.mulhn (reg d) (reg a) (reg b))
  | 11 => some (.div (reg d) (reg a) (reg b))
  | 12 => some (.divn (reg d) (reg a) (reg b))
  | 13 => some (.rem (reg d) (reg a) (reg b))
  | 14 => some (.remn (reg d) (reg a) (reg b))
  | 15 => some (.min_ (reg d) (reg a) (reg b))
  | 16 => some (.max_ (reg d) (reg a) (reg b))
  | 17 => some (.minn (reg d) (reg a) (reg b))
  | 18 => some (.maxn (reg d) (reg a) (reg b))
  | 19 => some (.slt (reg d) (reg a) (reg b))
  | 20 => some (.sltn (reg d) (reg a) (reg b))
  | 21 => some (.seq (reg d) (reg a) (reg b))
  | 22 => accept (b == 0) (.clz (reg d) (reg a))
  | 23 => accept (b == 0) (.ctz (reg d) (reg a))
  | 24 => accept (b == 0) (.popc (reg d) (reg a))
  | 25 => some (.addw (reg d) (reg a) (reg b))
  | 26 => some (.subw (reg d) (reg a) (reg b))
  | 27 => some (.andn (reg d) (reg a) (reg b))
  | _ => none

/-- op6 0x0C: AMO, whose fn10 packs width, scope, order and operation (R38, R148). -/
def decodeAmo (fn b a d : Nat) : Option Instr :=
  match Scope.ofCode (bits fn 8 6), AtomOp.ofCode (bits fn 3 0) with
  | some sc, some op =>
    let order := Order.ofCode (bits fn 5 4)
    accept (amoWF order op (reg d) (reg b)) (.amo (bitAt fn 9) sc order op (reg d) (reg a) (reg b))
  | _, _ => none

/-- op6 0x0D: the branches (R149, Table 6.7). -/
def decodeBranch (off cond b a : Nat) : Option Instr :=
  let o := BitVec.ofNat 12 off
  match cond with
  | 0 => some (.beq (reg a) (reg b) o)
  | 1 => some (.bne (reg a) (reg b) o)
  | 2 => some (.blt (reg a) (reg b) o)
  | 3 => some (.bge (reg a) (reg b) o)
  | 4 => some (.bltn (reg a) (reg b) o)
  | 5 => some (.bgen (reg a) (reg b) o)
  | _ => none

/-- The GI words of op6 0x02 to 0x0B and 0x0F (R36, Table 2.3). -/
def decodeGI (op imm fn a d : Nat) : Option Instr :=
  let i := BitVec.ofNat 12 imm
  match op with
  | 0x02 => accept (fn == 0) (.addi (reg d) (reg a) i)
  | 0x03 => accept (fn == 0) (.andi (reg d) (reg a) i)
  | 0x04 => accept (fn == 0) (.ori (reg d) (reg a) i)
  | 0x05 => accept (fn == 0) (.xori (reg d) (reg a) i)
  | 0x06 =>
    let n := BitVec.ofNat 6 imm
    match fn with
    | 0 => accept (imm < 64) (.shli (reg d) (reg a) n)
    | 1 => accept (imm < 64) (.shri (reg d) (reg a) n)
    | 2 => accept (imm < 64) (.sari (reg d) (reg a) n)
    | _ => none
  | 0x07 =>
    match fn with
    | 0 => some (.slti (reg d) (reg a) i)
    | 1 => some (.sltni (reg d) (reg a) i)
    | 2 => some (.seqi (reg d) (reg a) i)
    | _ => none
  | 0x0A => (LdSize.ofCode fn).map fun z => .ld z (reg d) (reg a) i
  | 0x0B => (StSize.ofCode fn).map fun z => .st z (reg d) (reg a) i
  | 0x0F => accept (fn == 0) (.jalr (reg d) (reg a) i)
  | _ => none

/-- The GI words of op6 0x10, 0x13, 0x15 to 0x18 (R36, R152, R217). -/
def decodeStream (op imm fn a d : Nat) : Option Instr :=
  let id := BitVec.ofNat 6 imm
  match op with
  | 0x10 => accept (imm % 32 == 0 && imm ≤ 768 && d == 0 && a == 0 && fn == 0) (.wenter (BitVec.ofNat 5 (imm / 32)))
  | 0x13 => accept (imm < 64 && d == 0 && a == 0 && fn == 0) (.capb id)
  | 0x15 => accept (imm < 64 && d == 0 && a == 0 && fn == 0) (.cdrop id)
  | 0x16 => accept (d < 8 && fn == 0 && imm == 0) (.hset (BitVec.ofNat 3 d) (reg a))
  | 0x17 => accept (d < 8 && fn == 0 && imm == 0) (.hstep (BitVec.ofNat 3 d) (reg a))
  | 0x18 => accept (imm < 64 && d == 0 && fn == 0) (.rply id (reg a))
  | _ => none

/-- op6 0x1A: GFENCE (R268, Table 10.4). -/
def decodeGfence (imm fn a d : Nat) : Option Instr :=
  match Scope.ofCode (bits imm 2 0) with
  | some sc =>
    accept (fn == 0 && a == 0 && d == 0 && imm < 512 && bitAt imm 4 == bitAt imm 5)
      (.gfence (bitAt imm 8) (bitAt imm 7) (bitAt imm 6) (bitAt imm 4) (bitAt imm 3) sc)
  | none => none

/-- op6 0x1B: BARA, BARW and BARAW (R368). -/
def decodeBarrier (imm fn a d : Nat) : Option Instr :=
  let k := BitVec.ofNat 4 imm
  match BarLevel.ofCode (bits imm 5 4), fn with
  | some l, 0 => accept (a == 0 && d == 0 && imm < 64) (.bara l k)
  | some l, 1 => accept (a == 0 && d == 0 && imm < 128) (.barw (bitAt imm 6) l k)
  | some l, 2 => accept (a == 0 && d == 0 && imm < 128) (.baraw (bitAt imm 6) l k)
  | _, _ => none

/-- op6 0x1C: the watermark words (Table 11.5). -/
def decodeWm (imm fn a d : Nat) : Option Instr :=
  let wm := BitVec.ofNat 4 imm
  match fn with
  | 0 => accept (imm < 16 && a == 0) (.wmrd (reg d) wm)
  | 1 =>
    let ev := WmEvent.ofCode (bits imm 5 4)
    accept (imm < 64 && d == 0 && (ev == .count || a == 0)) (.wmwait ev wm (reg a))
  | 2 => accept (imm < 16 && a == 0 && d == 0) (.wmfree wm)
  | 3 => accept (imm < 16 && a == 0 && d == 0) (.cpkill wm)
  | _ => none

/-- op6 0x1D to 0x1F: the tile and matrix words (Table 9.2). -/
def decodeTile (op imm fn a d : Nat) : Option Instr :=
  match op with
  | 0x1D => accept (imm == 0 && d < 16) (.tcfg (BitVec.ofNat 3 fn) (BitVec.ofNat 4 d) (reg a))
  | 0x1E => accept (imm == 0 && a < 16) (.trd (BitVec.ofNat 3 fn) (reg d) (BitVec.ofNat 4 a))
  | 0x1F =>
    match fn with
    | 0 => accept (imm < 8 && a == 0 && d == 0) (.mclr (BitVec.ofNat 3 imm))
    | 1 => accept (imm == 0 && d == 0) (.mwait (reg a))
    | _ => none
  | _ => none

/-- op6 0x20 to 0x22: queue words (Table 13.5), prefetches (R161) and special registers (R160). -/
def decodeQueue (op imm fn a d : Nat) : Option Instr :=
  let q := BitVec.ofNat 8 imm
  match op, fn with
  | 0x20, 0 => accept (imm < 256) (.qpush (reg d) (reg a) q)
  | 0x20, 1 => accept (imm < 256) (.qpop (reg d) (reg a) q)
  | 0x20, 2 => accept (imm < 256) (.qsig (reg d) (reg a) q)
  | 0x20, 3 => accept (imm < 256) (.qstat (reg d) (reg a) q)
  | 0x21, 0 => accept (d == 0) (.gpref (reg a) (BitVec.ofNat 12 imm))
  | 0x21, 1 => accept (d == 0) (.dpref (reg a) (BitVec.ofNat 12 imm))
  | 0x22, 0 => accept (a == 0 && specialRegs.contains imm) (.rdsr (reg d) (BitVec.ofNat 12 imm))
  | 0x22, 1 => accept (d == 0 && specialRegs.contains imm) (.wrsr (BitVec.ofNat 12 imm) (reg a))
  | _, _ => none

/-- A generator word: bit 0 = 0 and op6 in bits [6:1] (R33, R36, Table 2.3). -/
def decodeGen (w : Nat) : Option Instr :=
  let op := bits w 6 1
  let d := bits w 11 7
  let a := bits w 16 12
  let b := bits w 21 17
  let fn10 := bits w 31 22
  let fn3 := bits w 19 17
  let imm := bits w 31 20
  if op == 0x00 then decodeSys fn10 b a d
  else if op == 0x01 then decodeAlu fn10 b a d
  else if op == 0x08 then some (.shi (reg d) (BitVec.ofNat 20 (bits w 31 12)))
  else if op == 0x09 then some (.pchi (reg d) (BitVec.ofNat 20 (bits w 31 12)))
  else if op == 0x0C then decodeAmo fn10 b a d
  else if op == 0x0D then decodeBranch imm fn3 a d
  else if op == 0x0E then some (.jal (reg d) (BitVec.ofNat 20 (bits w 31 12)))
  else if op ≤ 0x0F then decodeGI op imm fn3 a d
  else if op == 0x11 then accept (fn10 == 0 && b == 0 && a == 0 && d == 0) .wleave
  else if op == 0x12 then accept (fn10 == 0 && d == 0) (.stgt (reg a) (reg b))
  else if op == 0x14 then accept (fn10 == 0 && b == 0 && a == 0 && d == 0) .cape
  else if op == 0x19 then accept (fn10 == 0 && b == 0 && a == 0) (.vread (reg d))
  else if op ≤ 0x18 then decodeStream op imm fn3 a d
  else if op == 0x1A then decodeGfence imm fn3 a d
  else if op == 0x1B then decodeBarrier imm fn3 a d
  else if op == 0x1C then decodeWm imm fn3 a d
  else if op ≤ 0x1F then decodeTile op imm fn3 a d
  else if op ≤ 0x22 then decodeQueue op imm fn3 a d
  else if op ≤ 0x37 then none
  else some (.genExtension (BitVec.ofNat 3 op) (BitVec.ofNat 25 (bits w 31 7)))

/-- A long word: class 0b11 and op6 in bits [7:2] (R61, R62, Table 2.13). -/
def decodeLong (w : Nat) : Option Instr :=
  match bits w 7 2 with
  | 0 => accept (bits w 63 13 == 0) (.li64 (reg (bits w 12 8)) (BitVec.ofNat 64 (bits w 127 64)))
  | 1 =>
    match Scope.ofCode (bits w 24 22) with
    | some sc =>
      let m : MloopArgs :=
        { incB := BitVec.ofNat 32 (bits w 111 80), incA := BitVec.ofNat 32 (bits w 79 48),
          steps := BitVec.ofNat 16 (bits w 47 32), scope := sc, release := bitAt w 21, acquire := bitAt w 20,
          clear := bitAt w 19, tB := BitVec.ofNat 4 (bits w 18 15), tA := BitVec.ofNat 4 (bits w 14 11),
          acc := BitVec.ofNat 3 (bits w 10 8) }
      accept (bits w 127 112 == 0 && bits w 31 25 == 0 && Instr.wellFormed (.mloop m)) (.mloop m)
    | none => none
  | 2 =>
    match Scope.ofCode (bits w 22 20) with
    | some sc =>
      let m : MdrainArgs :=
        { scale := reg (bits w 27 23), scope := sc, release := bitAt w 19, saturate := bitAt w 18,
          rounding := Rounding.ofCode (bits w 17 16), addOn := bitAt w 15,
          tD := BitVec.ofNat 4 (bits w 14 11), acc := BitVec.ofNat 3 (bits w 10 8) }
      accept (bits w 127 28 == 0 && Instr.wellFormed (.mdrain m)) (.mdrain m)
    | none => none
  | 3 =>
    match Scope.ofCode (bits w 23 21) with
    | some sc =>
      let m : CopyArgs :=
        { hint := Hint.ofCode (bits w 30 29), barrier := BitVec.ofNat 4 (bits w 28 25), arrive := bitAt w 24,
          scope := sc, release := bitAt w 20, acquire := bitAt w 19, dims := BitVec.ofNat 2 (bits w 18 17),
          sB := reg (bits w 16 12), wm := BitVec.ofNat 4 (bits w 11 8) }
      accept (bits w 127 31 == 0 && Instr.wellFormed (.copy m)) (.copy m)
    | none => none
  | 4 =>
    match Scope.ofCode (bits w 24 22) with
    | some sc =>
      let m : NrecArgs :=
        { scope := sc, release := bitAt w 21, count := BitVec.ofNat 3 (bits w 20 18),
          sD := reg (bits w 17 13), sN := reg (bits w 12 8) }
      accept (bits w 127 25 == 0 && Instr.wellFormed (.nrec m)) (.nrec m)
    | none => none
  | 5 =>
    match Scope.ofCode (bits w 31 29), CredRed.ofCode (bits w 26 25), CredType.ofCode (bits w 24 21),
      CredOp.ofCode (bits w 20 17) with
    | some sc, some rd, some ty, some op =>
      let m : CredArgs :=
        { scope := sc, release := bitAt w 28, acquire := bitAt w 27, red := rd, type := ty, op := op,
          wm := BitVec.ofNat 4 (bits w 16 13), sP := reg (bits w 12 8) }
      accept (bits w 127 32 == 0 && Instr.wellFormed (.cred m)) (.cred m)
    | _, _, _, _ => none
  | _ => none

/-- The fields of a lane word (R40, Table 2.7). -/
def LaneWord.ofNat (w : Nat) : LaneWord :=
  { srcC := BitVec.ofNat 10 (bits w 63 54), srcB := BitVec.ofNat 10 (bits w 53 44),
    srcA := BitVec.ofNat 10 (bits w 43 34), dst := BitVec.ofNat 10 (bits w 33 24),
    mod6 := BitVec.ofNat 6 (bits w 23 18), s := bitAt w 17, pn := bitAt w 16,
    pg := BitVec.ofNat 4 (bits w 15 12), c := bitAt w 3, p := bitAt w 2 }

/-- The op8 of a lane word (R40). -/
def laneOp8 (w : Nat) : Nat := bits w 11 4

/-- The lane op8 map (R59, Table 2.12), which gives a field record its instruction. -/
def laneInstr (op : Nat) (w : LaneWord) : Option Instr :=
  match op with
  | 0x00 => some (.vnop w)
  | 0x01 => some (.vadd w)
  | 0x02 => some (.vsub w)
  | 0x03 => some (.vmul w)
  | 0x04 => some (.vmulh w)
  | 0x05 => some (.vmad w)
  | 0x06 => some (.vmin w)
  | 0x07 => some (.vmax w)
  | 0x08 => some (.vabsd w)
  | 0x09 => some (.vand w)
  | 0x0A => some (.vor w)
  | 0x0B => some (.vxor w)
  | 0x0C => some (.vandn w)
  | 0x0D => some (.vshl w)
  | 0x0E => some (.vshr w)
  | 0x0F => some (.vrot w)
  | 0x10 => some (.vbfx w)
  | 0x11 => some (.vbfi w)
  | 0x12 => some (.vpopc w)
  | 0x13 => some (.vclz w)
  | 0x14 => some (.vctz w)
  | 0x15 => some (.vbrev w)
  | 0x16 => some (.vpermb w)
  | 0x17 => some (.vdiv w)
  | 0x18 => some (.vrem w)
  | 0x19 => some (.vaddc w)
  | 0x1A => some (.vcmp w)
  | 0x1B => some (.vmov w)
  | 0x1C => some (.vsel w)
  | 0x1D => some (.vlea w)
  | 0x40 => some (.vfadd w)
  | 0x41 => some (.vfsub w)
  | 0x42 => some (.vfmul w)
  | 0x43 => some (.vfmulz w)
  | 0x44 => some (.vfma w)
  | 0x45 => some (.vfmaz w)
  | 0x46 => some (.vfmin w)
  | 0x47 => some (.vfmax w)
  | 0x48 => some (.vfsgn w)
  | 0x49 => some (.vfcmp w)
  | 0x4A => some (.vfclass w)
  | 0x4B => some (.vfdiv w)
  | 0x4C => some (.vfsqrt w)
  | 0x4D => some (.vfrnd w)
  | 0x4E => some (.vfscale w)
  | 0x4F => some (.vfxtr w)
  | 0x50 => some (.vcvtf w)
  | 0x51 => some (.vcvtfi w)
  | 0x52 => some (.vcvtif w)
  | 0x53 => some (.vfdot2 w)
  | 0x80 => some (.vrcp w)
  | 0x81 => some (.vrsq w)
  | 0x82 => some (.vexp2 w)
  | 0x83 => some (.vlog2 w)
  | 0x84 => some (.vsin w)
  | 0x85 => some (.vcos w)
  | 0x86 => some (.vtanh w)
  | 0x87 => some (.vsigm w)
  | 0x90 => some (.vplop w)
  | 0x91 => some (.vpmov w)
  | 0x92 => some (.vshuf w)
  | 0x93 => some (.vbcast w)
  | 0x94 => some (.vrotl w)
  | 0x95 => some (.vscan w)
  | 0x96 => some (.vred w)
  | 0x97 => some (.vvote w)
  | 0x98 => some (.vbar w)
  | 0xB0 => some (.vld w)
  | 0xB1 => some (.vst w)
  | 0xB2 => some (.vatom w)
  | 0xB3 => some (.vcas w)
  | 0xB4 => some (.vpref w)
  | 0xB5 => some (.vfence w)
  | 0xE0 => some (.vidot4 w)
  | 0xE1 => some (.vidot8 w)
  | 0xE2 => some (.vslice w)
  | 0xE3 => some (.vslacc w)
  | 0xE4 => some (.vplane w)
  | n => if 0xF0 ≤ n ∧ n ≤ 0xFF then some (.vext (BitVec.ofNat 4 n) w) else none

/-- A lane word, as the lane engine reads it at the head of a stream (R59). -/
def decodeLane (w : Nat) : Option Instr :=
  if w % 4 == 1 then laneInstr (laneOp8 w) (LaneWord.ofNat w) else none

/-- A little-endian number from bytes (R2). -/
def leNat : List Byte → Nat
  | [] => 0
  | b :: bs => b.toNat + 256 * leNat bs

/-- The n little-endian bytes of a number (R2). -/
def leBytes : Nat → Nat → List Byte
  | 0, _ => []
  | n + 1, x => BitVec.ofNat 8 x :: leBytes n (x / 256)

/-- How many bytes the word with this first byte takes (R29, Table 2.1). -/
def wordBytes (first : Byte) : Nat :=
  if first.toNat % 2 == 0 then 4 else if first.toNat % 4 == 1 then 8 else 16

/-- The decoder over bytes (R29): the first word and the bytes that follow it. A lane word with P = 1
takes the eight bytes after it along, and leaves them in the rest only when they are none of its own. -/
def decode (bs : List Byte) : Except Reject (Instr × List Byte) :=
  match bs with
  | [] => .error .truncated
  | b :: _ =>
    let n := wordBytes b
    if bs.length < n then .error .truncated
    else
      let w := leNat (bs.take n)
      let rest := bs.drop n
      if n == 4 then
        match decodeGen w with
        | some i => .ok (i, rest)
        | none => .error .illegalInstruction
      else if n == 16 then
        match decodeLong w with
        | some i => .ok (i, rest)
        | none => .error .illegalInstruction
      else if (decodeLane w).isNone then .error .illegalLaneWord
      else if bitAt w 2 && 8 ≤ rest.length then
        .ok (.emitLaneWord (BitVec.ofNat 64 w) (some (BitVec.ofNat 64 (leNat (rest.take 8)))), rest.drop 8)
      else .ok (.emitLaneWord (BitVec.ofNat 64 w) none, rest)

/-- The instruction of a table word: the bytes of `w`, least significant first, with zeros above `nbits`,
given to the decoder. -/
def decodeTableWord (nbits w : Nat) : Option Instr :=
  match decode (leBytes 24 (w % 2 ^ nbits)) with
  | .ok (i, _) => some i
  | .error _ => none

/-! ### Command records (R427, R428, Tables 19.5 and 19.6) -/

/-- The byte at an offset of a record. -/
def byteAt (r : List Byte) (o : Nat) : Byte := r.getD o 0
/-- The n-byte little-endian field at an offset of a record. -/
def fieldAt (r : List Byte) (o n : Nat) : Nat := leNat ((r.drop o).take n)

/-- Every operand byte from 0x08 to 0x37 outside the given ranges (offset, length) is 0 (Table 19.7, code 1). -/
def unusedZero (r : List Byte) (used : List (Nat × Nat)) : Bool :=
  ((List.range 48).map (· + 8)).all fun o =>
    used.any (fun u => u.1 ≤ o && o < u.1 + u.2) || byteAt r o == 0

/-- The command of a record (Table 19.6); an unknown opcode or a nonzero unused operand byte is status 1. -/
def decodeCommand (part slot : Nat) (answers : Bool) (r : List Byte) : Instr :=
  let h : CmdHead := { part := part, ctxid := fieldAt r 2 2, tag := BitVec.ofNat 32 (fieldAt r 4 4), slot := slot,
                       answers := answers }
  let q8 := fieldAt r 8 8
  let q10 := fieldAt r 0x10 8
  let q18 := fieldAt r 0x18 8
  let go (used : List (Nat × Nat)) (i : Instr) : Instr := if unusedZero r used then i else .unknownCommand h 1
  match fieldAt r 0 2 with
  | 0x0001 => go [(8, 8)] (.createContext h q8)
  | 0x0002 => go [] (.enableContext h)
  | 0x0003 => go [] (.suspendContext h)
  | 0x0004 => go [] (.resumeContext h)
  | 0x0005 => go [] (.destroyContext h)
  | 0x0006 => go [(8, 16)] (.migrateBegin h q8 q10)
  | 0x0007 => go [(8, 17), (0x20, 8)] (.migrateCommit h q8 q10 (bitAt q18 0) (fieldAt r 0x20 8))
  | 0x0008 => go [] (.migrateAbort h)
  | 0x0010 => go [(8, 2), (0x10, 15)] (.createQueue h (bits q8 7 0) (bitAt q8 8) q10 (fieldAt r 0x18 4)
      (fieldAt r 0x1C 2) (bits (fieldAt r 0x1E 1) 3 0))
  | 0x0011 => go [(8, 1)] (.enableQueue h (bits q8 7 0))
  | 0x0012 => go [(8, 1)] (.stopQueue h (bits q8 7 0))
  | 0x0013 => go [(8, 1)] (.startQueue h (bits q8 7 0))
  | 0x0014 => go [(8, 1)] (.destroyQueue h (bits q8 7 0))
  | 0x0018 => go [(8, 3), (0x10, 11), (0x1C, 2), (0x20, 8)] (.createNode h (bits q8 11 0) (bits q8 17 16) q10
      (bits q18 7 0) (bits q18 16 8) (bits q18 47 32) (fieldAt r 0x20 8))
  | 0x0019 => go [(8, 2)] (.destroyNode h (bits q8 11 0))
  | 0x0020 => go [(8, 24)] (.registerCode h q8 q10 q18)
  | 0x0021 => go [(8, 8)] (.deregisterCode h q8)
  | 0x0028 => go [(8, 16)] (.invalidate h q8 q10)
  | 0x0029 => go [(8, 5)] (.answerFault h (bits q8 31 0) (bitAt q8 32))
  | 0x0030 => go [(8, 4)] (.preEmptGang h (bits q8 31 0))
  | 0x0031 => go [(8, 8)] (.resumeGang h q8)
  | 0x0032 => go [(8, 8)] (.discardGang h q8)
  | 0x0038 => go [(8, 10), (0x14, 2), (0x18, 8)] (.createCommunicator h q8 (bits q10 12 0) (fieldAt r 0x14 2) q18)
  | 0x0039 => go [(8, 2)] (.destroyCommunicator h (bits q8 15 0))
  | 0x0040 => go [(8, 3), (0x10, 16)] (.writeBoundaryEntry h (bits q8 1 0) (bits q8 15 8) (bits q8 21 16)
      (BitVec.ofNat 64 q10) (BitVec.ofNat 64 q18))
  | 0x0041 => go [(8, 3), (0x10, 8)] (.readBoundaryEntry h (bits q8 1 0) (bits q8 15 8) (bits q8 21 16) q10)
  | 0x0048 => go [(8, 24)] (.attest h q8 q10 q18)
  | 0x0050 => go [(8, 3)] (.bindFunction h (bits q8 4 0) (bits q8 11 8) (bitAt q8 16))
  | 0x0051 => go [(8, 2)] (.enableLink h (bits q8 3 0) (bits q8 11 8))
  | 0x0052 => go [(8, 4)] (.setRoute h (bits q8 7 0) (bits q8 31 16))
  | 0x0053 => go [(8, 1)] (.setPackageNumber h (bits q8 7 0))
  | 0x0058 => go [(8, 1), (0x10, 8)] (.readCouplingTable h (bits q8 1 0) q10)
  | _ => .unknownCommand h 1

/-! ### The encoder, from the same tables -/

/-- Format GR (Table 2.2). -/
def wordGR (op fn b a d : Nat) : Nat := fn * 2 ^ 22 + b * 2 ^ 17 + a * 2 ^ 12 + d * 2 ^ 7 + op * 2
/-- Format GI (Table 2.2); GB has the same places, with off12, cond, b and a in the order of the fields. -/
def wordGI (op imm fn a d : Nat) : Nat := imm * 2 ^ 20 + fn * 2 ^ 17 + a * 2 ^ 12 + d * 2 ^ 7 + op * 2
/-- Formats GU and GJ (Table 2.2). -/
def wordGU (op imm d : Nat) : Nat := imm * 2 ^ 12 + d * 2 ^ 7 + op * 2

/-- The 32 bits of a generator word; `none` for what is no generator word. -/
def encodeGen : Instr → Option Nat
  | .gnop => some (wordGR 0 0 0 0 0)
  | .endRole => some (wordGR 0 1 0 0 0)
  | .trap c => some (wordGR 0 2 c.toNat 0 0)
  | .eret => some (wordGR 0 3 0 0 0)
  | .featq d k => some (wordGR 0 4 0 k.toNat d.toNat)
  | .sdrain => some (wordGR 0 5 0 0 0)
  | .add d a b => some (wordGR 1 0 b.toNat a.toNat d.toNat)
  | .sub d a b => some (wordGR 1 1 b.toNat a.toNat d.toNat)
  | .and_ d a b => some (wordGR 1 2 b.toNat a.toNat d.toNat)
  | .or_ d a b => some (wordGR 1 3 b.toNat a.toNat d.toNat)
  | .xor_ d a b => some (wordGR 1 4 b.toNat a.toNat d.toNat)
  | .shl d a b => some (wordGR 1 5 b.toNat a.toNat d.toNat)
  | .shr d a b => some (wordGR 1 6 b.toNat a.toNat d.toNat)
  | .sar d a b => some (wordGR 1 7 b.toNat a.toNat d.toNat)
  | .mul d a b => some (wordGR 1 8 b.toNat a.toNat d.toNat)
  | .mulh d a b => some (wordGR 1 9 b.toNat a.toNat d.toNat)
  | .mulhn d a b => some (wordGR 1 10 b.toNat a.toNat d.toNat)
  | .div d a b => some (wordGR 1 11 b.toNat a.toNat d.toNat)
  | .divn d a b => some (wordGR 1 12 b.toNat a.toNat d.toNat)
  | .rem d a b => some (wordGR 1 13 b.toNat a.toNat d.toNat)
  | .remn d a b => some (wordGR 1 14 b.toNat a.toNat d.toNat)
  | .min_ d a b => some (wordGR 1 15 b.toNat a.toNat d.toNat)
  | .max_ d a b => some (wordGR 1 16 b.toNat a.toNat d.toNat)
  | .minn d a b => some (wordGR 1 17 b.toNat a.toNat d.toNat)
  | .maxn d a b => some (wordGR 1 18 b.toNat a.toNat d.toNat)
  | .slt d a b => some (wordGR 1 19 b.toNat a.toNat d.toNat)
  | .sltn d a b => some (wordGR 1 20 b.toNat a.toNat d.toNat)
  | .seq d a b => some (wordGR 1 21 b.toNat a.toNat d.toNat)
  | .addw d a b => some (wordGR 1 25 b.toNat a.toNat d.toNat)
  | .subw d a b => some (wordGR 1 26 b.toNat a.toNat d.toNat)
  | .andn d a b => some (wordGR 1 27 b.toNat a.toNat d.toNat)
  | .clz d a => some (wordGR 1 22 0 a.toNat d.toNat)
  | .ctz d a => some (wordGR 1 23 0 a.toNat d.toNat)
  | .popc d a => some (wordGR 1 24 0 a.toNat d.toNat)
  | .addi d a i => some (wordGI 0x02 i.toNat 0 a.toNat d.toNat)
  | .andi d a i => some (wordGI 0x03 i.toNat 0 a.toNat d.toNat)
  | .ori d a i => some (wordGI 0x04 i.toNat 0 a.toNat d.toNat)
  | .xori d a i => some (wordGI 0x05 i.toNat 0 a.toNat d.toNat)
  | .shli d a n => some (wordGI 0x06 n.toNat 0 a.toNat d.toNat)
  | .shri d a n => some (wordGI 0x06 n.toNat 1 a.toNat d.toNat)
  | .sari d a n => some (wordGI 0x06 n.toNat 2 a.toNat d.toNat)
  | .slti d a i => some (wordGI 0x07 i.toNat 0 a.toNat d.toNat)
  | .sltni d a i => some (wordGI 0x07 i.toNat 1 a.toNat d.toNat)
  | .seqi d a i => some (wordGI 0x07 i.toNat 2 a.toNat d.toNat)
  | .shi d i => some (wordGU 0x08 i.toNat d.toNat)
  | .pchi d i => some (wordGU 0x09 i.toNat d.toNat)
  | .ld z d a i => some (wordGI 0x0A i.toNat z.code a.toNat d.toNat)
  | .st z d a i => some (wordGI 0x0B i.toNat z.code a.toNat d.toNat)
  | .amo w sc o op d a b =>
    some (wordGR 0x0C (b2n w * 512 + sc.code * 64 + o.code * 16 + op.code) b.toNat a.toNat d.toNat)
  | .beq a b o => some (wordGI 0x0D o.toNat 0 b.toNat a.toNat)
  | .bne a b o => some (wordGI 0x0D o.toNat 1 b.toNat a.toNat)
  | .blt a b o => some (wordGI 0x0D o.toNat 2 b.toNat a.toNat)
  | .bge a b o => some (wordGI 0x0D o.toNat 3 b.toNat a.toNat)
  | .bltn a b o => some (wordGI 0x0D o.toNat 4 b.toNat a.toNat)
  | .bgen a b o => some (wordGI 0x0D o.toNat 5 b.toNat a.toNat)
  | .jal d o => some (wordGU 0x0E o.toNat d.toNat)
  | .jalr d a i => some (wordGI 0x0F i.toNat 0 a.toNat d.toNat)
  | .wenter n => some (wordGI 0x10 (n.toNat * 32) 0 0 0)
  | .wleave => some (wordGR 0x11 0 0 0 0)
  | .stgt a b => some (wordGR 0x12 0 b.toNat a.toNat 0)
  | .capb id => some (wordGI 0x13 id.toNat 0 0 0)
  | .cape => some (wordGR 0x14 0 0 0 0)
  | .cdrop id => some (wordGI 0x15 id.toNat 0 0 0)
  | .hset h a => some (wordGI 0x16 0 0 a.toNat h.toNat)
  | .hstep h a => some (wordGI 0x17 0 0 a.toNat h.toNat)
  | .rply id a => some (wordGI 0x18 id.toNat 0 a.toNat 0)
  | .vread d => some (wordGR 0x19 0 0 0 d.toNat)
  | .gfence cp tl scl str sc s =>
    some (wordGI 0x1A (b2n cp * 256 + b2n tl * 128 + b2n scl * 64 + b2n str * 32 + b2n str * 16 + b2n sc * 8 + s.code) 0 0 0)
  | .bara l k => some (wordGI 0x1B (l.code * 16 + k.toNat) 0 0 0)
  | .barw s l k => some (wordGI 0x1B (b2n s * 64 + l.code * 16 + k.toNat) 1 0 0)
  | .baraw s l k => some (wordGI 0x1B (b2n s * 64 + l.code * 16 + k.toNat) 2 0 0)
  | .wmrd d wm => some (wordGI 0x1C wm.toNat 0 0 d.toNat)
  | .wmwait ev wm a => some (wordGI 0x1C (ev.code * 16 + wm.toNat) 1 a.toNat 0)
  | .wmfree wm => some (wordGI 0x1C wm.toNat 2 0 0)
  | .cpkill wm => some (wordGI 0x1C wm.toNat 3 0 0)
  | .tcfg f t a => some (wordGI 0x1D 0 f.toNat a.toNat t.toNat)
  | .trd f d t => some (wordGI 0x1E 0 f.toNat t.toNat d.toNat)
  | .mclr n => some (wordGI 0x1F n.toNat 0 0 0)
  | .mwait a => some (wordGI 0x1F 0 1 a.toNat 0)
  | .qpush d a q => some (wordGI 0x20 q.toNat 0 a.toNat d.toNat)
  | .qpop d a q => some (wordGI 0x20 q.toNat 1 a.toNat d.toNat)
  | .qsig d a q => some (wordGI 0x20 q.toNat 2 a.toNat d.toNat)
  | .qstat d a q => some (wordGI 0x20 q.toNat 3 a.toNat d.toNat)
  | .gpref a i => some (wordGI 0x21 i.toNat 0 a.toNat 0)
  | .dpref a i => some (wordGI 0x21 i.toNat 1 a.toNat 0)
  | .rdsr d n => some (wordGI 0x22 n.toNat 0 0 d.toNat)
  | .wrsr n a => some (wordGI 0x22 n.toNat 1 a.toNat 0)
  | .genExtension n x => some (x.toNat * 2 ^ 7 + (0x38 + n.toNat) * 2)
  | _ => none

/-- The 128 bits of a long word (Table 2.13). -/
def encodeLong : Instr → Option Nat
  | .li64 d v => some (v.toNat * 2 ^ 64 + d.toNat * 2 ^ 8 + 0x03)
  | .mloop m =>
    some (m.incB.toNat * 2 ^ 80 + m.incA.toNat * 2 ^ 48 + m.steps.toNat * 2 ^ 32 + m.scope.code * 2 ^ 22
      + b2n m.release * 2 ^ 21 + b2n m.acquire * 2 ^ 20 + b2n m.clear * 2 ^ 19 + m.tB.toNat * 2 ^ 15
      + m.tA.toNat * 2 ^ 11 + m.acc.toNat * 2 ^ 8 + 0x07)
  | .mdrain m =>
    some (m.scale.toNat * 2 ^ 23 + m.scope.code * 2 ^ 20 + b2n m.release * 2 ^ 19 + b2n m.saturate * 2 ^ 18
      + m.rounding.code * 2 ^ 16 + b2n m.addOn * 2 ^ 15 + m.tD.toNat * 2 ^ 11 + m.acc.toNat * 2 ^ 8 + 0x0B)
  | .copy m =>
    some (m.hint.code * 2 ^ 29 + m.barrier.toNat * 2 ^ 25 + b2n m.arrive * 2 ^ 24 + m.scope.code * 2 ^ 21
      + b2n m.release * 2 ^ 20 + b2n m.acquire * 2 ^ 19 + m.dims.toNat * 2 ^ 17 + m.sB.toNat * 2 ^ 12
      + m.wm.toNat * 2 ^ 8 + 0x0F)
  | .nrec m =>
    some (m.scope.code * 2 ^ 22 + b2n m.release * 2 ^ 21 + m.count.toNat * 2 ^ 18 + m.sD.toNat * 2 ^ 13
      + m.sN.toNat * 2 ^ 8 + 0x13)
  | .cred m =>
    some (m.scope.code * 2 ^ 29 + b2n m.release * 2 ^ 28 + b2n m.acquire * 2 ^ 27 + m.red.code * 2 ^ 25
      + m.type.code * 2 ^ 21 + m.op.code * 2 ^ 17 + m.wm.toNat * 2 ^ 13 + m.sP.toNat * 2 ^ 8 + 0x17)
  | _ => none

/-- The 64 bits of a lane word with this op8 (R40, Table 2.7). -/
def LaneWord.toNat (op8 : Nat) (w : LaneWord) : Nat :=
  w.srcC.toNat * 2 ^ 54 + w.srcB.toNat * 2 ^ 44 + w.srcA.toNat * 2 ^ 34 + w.dst.toNat * 2 ^ 24
    + w.mod6.toNat * 2 ^ 18 + b2n w.s * 2 ^ 17 + b2n w.pn * 2 ^ 16 + w.pg.toNat * 2 ^ 12 + op8 * 2 ^ 4
    + b2n w.c * 2 ^ 3 + b2n w.p * 2 ^ 2 + 1

/-- The op8 and fields of a lane instruction (Table 2.12). -/
def laneParts : Instr → Option (Nat × LaneWord)
  | .vnop w => some (0x00, w)
  | .vadd w => some (0x01, w)
  | .vsub w => some (0x02, w)
  | .vmul w => some (0x03, w)
  | .vmulh w => some (0x04, w)
  | .vmad w => some (0x05, w)
  | .vmin w => some (0x06, w)
  | .vmax w => some (0x07, w)
  | .vabsd w => some (0x08, w)
  | .vand w => some (0x09, w)
  | .vor w => some (0x0A, w)
  | .vxor w => some (0x0B, w)
  | .vandn w => some (0x0C, w)
  | .vshl w => some (0x0D, w)
  | .vshr w => some (0x0E, w)
  | .vrot w => some (0x0F, w)
  | .vbfx w => some (0x10, w)
  | .vbfi w => some (0x11, w)
  | .vpopc w => some (0x12, w)
  | .vclz w => some (0x13, w)
  | .vctz w => some (0x14, w)
  | .vbrev w => some (0x15, w)
  | .vpermb w => some (0x16, w)
  | .vdiv w => some (0x17, w)
  | .vrem w => some (0x18, w)
  | .vaddc w => some (0x19, w)
  | .vcmp w => some (0x1A, w)
  | .vmov w => some (0x1B, w)
  | .vsel w => some (0x1C, w)
  | .vlea w => some (0x1D, w)
  | .vfadd w => some (0x40, w)
  | .vfsub w => some (0x41, w)
  | .vfmul w => some (0x42, w)
  | .vfmulz w => some (0x43, w)
  | .vfma w => some (0x44, w)
  | .vfmaz w => some (0x45, w)
  | .vfmin w => some (0x46, w)
  | .vfmax w => some (0x47, w)
  | .vfsgn w => some (0x48, w)
  | .vfcmp w => some (0x49, w)
  | .vfclass w => some (0x4A, w)
  | .vfdiv w => some (0x4B, w)
  | .vfsqrt w => some (0x4C, w)
  | .vfrnd w => some (0x4D, w)
  | .vfscale w => some (0x4E, w)
  | .vfxtr w => some (0x4F, w)
  | .vcvtf w => some (0x50, w)
  | .vcvtfi w => some (0x51, w)
  | .vcvtif w => some (0x52, w)
  | .vfdot2 w => some (0x53, w)
  | .vrcp w => some (0x80, w)
  | .vrsq w => some (0x81, w)
  | .vexp2 w => some (0x82, w)
  | .vlog2 w => some (0x83, w)
  | .vsin w => some (0x84, w)
  | .vcos w => some (0x85, w)
  | .vtanh w => some (0x86, w)
  | .vsigm w => some (0x87, w)
  | .vplop w => some (0x90, w)
  | .vpmov w => some (0x91, w)
  | .vshuf w => some (0x92, w)
  | .vbcast w => some (0x93, w)
  | .vrotl w => some (0x94, w)
  | .vscan w => some (0x95, w)
  | .vred w => some (0x96, w)
  | .vvote w => some (0x97, w)
  | .vbar w => some (0x98, w)
  | .vld w => some (0xB0, w)
  | .vst w => some (0xB1, w)
  | .vatom w => some (0xB2, w)
  | .vcas w => some (0xB3, w)
  | .vpref w => some (0xB4, w)
  | .vfence w => some (0xB5, w)
  | .vidot4 w => some (0xE0, w)
  | .vidot8 w => some (0xE1, w)
  | .vslice w => some (0xE2, w)
  | .vslacc w => some (0xE3, w)
  | .vplane w => some (0xE4, w)
  | .vext n w => some (0xF0 + n.toNat, w)
  | _ => none

/-- The 64 bits of a lane instruction. -/
def encodeLane (i : Instr) : Option Nat := (laneParts i).map fun p => LaneWord.toNat p.1 p.2

/-- The length in bits and the bits of an instruction that has an encoding. -/
def encode (i : Instr) : Option (Nat × Nat) :=
  match encodeGen i with
  | some w => some (32, w)
  | none =>
    match encodeLong i with
    | some w => some (128, w)
    | none =>
      match i with
      | .emitLaneWord w none => some (64, w.toNat)
      | .emitLaneWord w (some v) => some (128, w.toNat + v.toNat * 2 ^ 64)
      | _ => (encodeLane i).map fun w => (64, w)

end Sys2Proof
end

