-- ==== Sys2Proof/Machine/Ops.lean ====
section
/-! DEFINITION. The named operations over the state. Every change a step makes is an `Effect`; a meaning is an
`Act`, a program over effects, and `commit` applies its effects in order. Then the registers of contexts, the events
and traps shared by all meanings: taking an exception (R164) and returning from one (R165). -/
namespace Sys2Proof.Machine

/-! ### Sparse maps in one canonical form: keys strictly rising, no entry equal to the default -/

/-- The value at a key. -/
def sparseGet {w : Nat} : List (Nat × BitVec w) → Nat → BitVec w
  | [], _ => 0
  | (k, v) :: m, a => if k = a then v else sparseGet m a

/-- The map after a write; writing the default removes the entry. -/
def sparseSet {w : Nat} : List (Nat × BitVec w) → Nat → BitVec w → List (Nat × BitVec w)
  | [], a, v => if v = 0 then [] else [(a, v)]
  | (k, u) :: m, a, v =>
    if a < k then (if v = 0 then (k, u) :: m else (a, v) :: (k, u) :: m)
    else if a = k then (if v = 0 then m else (a, v) :: m)
    else (k, u) :: sparseSet m a v

/-- The map without the keys in [lo, hi). -/
def sparseClear {w : Nat} (m : List (Nat × BitVec w)) (lo hi : Nat) : List (Nat × BitVec w) :=
  m.filter fun c => c.1 < lo || hi ≤ c.1

/-- The canonical form, for keys from `lo` up. -/
def sparseWf {w : Nat} : Nat → List (Nat × BitVec w) → Bool
  | _, [] => true
  | lo, (k, v) :: m => lo ≤ k && v != 0 && sparseWf (k + 1) m

/-- The canonical form of a memory. -/
abbrev Memory.wf (m : List Host.Cell) : Bool := sparseWf 0 m

/-- A list with entry k replaced; a shorter list is first filled with `d`. -/
def putAt {α : Type} (d : α) : List α → Nat → α → List α
  | [], 0, v => [v]
  | [], k + 1, v => d :: putAt d [] k v
  | _ :: l, 0, v => v :: l
  | x :: l, k + 1, v => x :: putAt d l k v

/-! ### Effects -/

/-- One change of the state. -/
inductive Effect
  | agenda (a : List Turn)
  | cur (c w : Nat)
  | dev (d : Device)
  | mem (loc : Nat) (b : Byte)
  | vis (v : Visibility)
  | badDram (l : List Nat)
  | badSram (l : List Nat)
  | badRegs (l : List Nat)
  | badAccs (l : List Nat)
  | vreg (key : Nat) (v : W32)
  | acc (key : Nat) (v : W32)
  | clearVregs (lo hi : Nat)
  | clearAccs (lo hi : Nat)
  | ctx (k : Nat) (c : Context)
  | wave (k : Nat) (w : Wave)
  | cluster (k : Nat) (c : Cluster)
  | die (k : Nat) (d : Die)
  | vault (k : Nat) (v : Vault)
  | reg (k : Nat) (r : Regulator)
  | part (k : Nat) (p : Partition)
  | link (k : Nat) (l : Link)
  | wg (k : Nat) (w : Workgroup)
  | gang (k : Nat) (g : Gang)
  | launch (k : Nat) (l : Launch)
  | devCtx (k : Nat) (d : DevCtx)
  | addWg (w : Workgroup)
  | addGang (g : Gang)
  | addLaunch (l : Launch)
  | addDev (d : DevCtx)
  | clearSparse                     -- a device reset clears memory's registers: vregs and accs
  deriving DecidableEq, Repr

/-- What an effect does. -/
def Effect.apply (s : State) : Effect → State
  | .agenda a => { s with agenda := a }
  | .cur c w => { s with curCtx := c, curWave := w }
  | .dev d => { s with dev := d }
  | .mem l b => { s with mem := sparseSet s.mem l b }
  | .vis v => { s with vis := v }
  | .badDram l => { s with badDram := l }
  | .badSram l => { s with badSram := l }
  | .badRegs l => { s with badRegs := l }
  | .badAccs l => { s with badAccs := l }
  | .vreg k v => { s with vregs := sparseSet s.vregs k v }
  | .acc k v => { s with accs := sparseSet s.accs k v }
  | .clearVregs lo hi => { s with vregs := sparseClear s.vregs lo hi }
  | .clearAccs lo hi => { s with accs := sparseClear s.accs lo hi }
  | .ctx k c => { s with ctxs := s.ctxs.set k c }
  | .wave k w => { s with waves := s.waves.set k w }
  | .cluster k c => { s with clusters := s.clusters.set k c }
  | .die k d => { s with dies := s.dies.set k d }
  | .vault k v => { s with vaults := s.vaults.set k v }
  | .reg k r => { s with regs := s.regs.set k r }
  | .part k p => { s with parts := s.parts.set k p }
  | .link k l => { s with links := s.links.set k l }
  | .wg k w => { s with wgs := s.wgs.set k w }
  | .gang k g => { s with gangs := s.gangs.set k g }
  | .launch k l => { s with launches := s.launches.set k l }
  | .devCtx k d => { s with devs := s.devs.set k d }
  | .addWg w => { s with wgs := s.wgs ++ [w] }
  | .addGang g => { s with gangs := s.gangs ++ [g] }
  | .addLaunch l => { s with launches := s.launches ++ [l] }
  | .addDev d => { s with devs := s.devs ++ [d] }
  | .clearSparse => { s with vregs := [], accs := [] }

/-- A list of effects, applied first to last. -/
def applyAll (s : State) (es : List Effect) : State := es.foldl Effect.apply s

/-- A program over the state: what it has done so far is a list of effects, newest first. -/
abbrev Act := ReaderT State (StateM (List Effect))

abbrev Result := Host.Outcome State Fault Refusal

/-- The state now: the one it began in, after the effects so far. -/
def now : Act State := fun s log => (applyAll s log.reverse, log)
/-- One effect. -/
def emit (e : Effect) : Act Unit := fun _ log => ((), e :: log)
/-- Several effects. -/
def emits (es : List Effect) : Act Unit := fun _ log => ((), es.reverse ++ log)

/-- The next state of a meaning: its effects, applied in order. -/
def commit (a : Act Unit) (s : State) : Result := .next (applyAll s (a s []).2.reverse)

/-- A device event: it happens only in a state that enables it. -/
def event (name : String) (ok : State → Bool) (a : Act Unit) (s : State) : Result :=
  if ok s then commit a s else .fault (.notEnabled name)

/-- Run an action for each element of a list. -/
def each {α : Type} (l : List α) (f : α → Act Unit) : Act Unit :=
  match l with
  | [] => pure ()
  | x :: xs => do f x; each xs f

/-! ### Reading tables -/

def State.ctx (s : State) (k : Nat) : Context := s.ctxs.getD k Context.free
def State.wave (s : State) (k : Nat) : Wave := s.waves.getD k Wave.free
def State.cluster (s : State) (k : Nat) : Cluster := s.clusters.getD k (Cluster.reset k)
def State.die (s : State) (k : Nat) : Die := s.dies.getD k Die.reset
def State.vault (s : State) (k : Nat) : Vault := s.vaults.getD k Vault.reset
def State.reg (s : State) (k : Nat) : Regulator := s.regs.getD k Regulator.reset
def State.part (s : State) (k : Nat) : Partition := s.parts.getD k Partition.reset
def State.link (s : State) (k : Nat) : Link := s.links.getD k Link.reset

def Header.blank : Header :=
  { addr := 0, compat := true, sw := 64, gangReq := false, multicast := false, extent := 0, spad := 0, accs := 0,
    tiles := 0, bars := 0, gbars := 0, lp := 0, traps := 0, heat := 0, roles := [] }
def Workgroup.blank : Workgroup :=
  { status := .retired, ctxid := 0, gang := 0, member := 0, wgid := 0, header := Header.blank, cluster := 0, ctxs := [],
    waves := [], spad := 0, accs := [], tiles := List.replicate 16 Tile.start, kinds := List.replicate 8 .none,
    mqueue := [], mseq := 0, mdone := 0, marks := List.replicate 16 Watermark.start, bars := [],
    bits := List.replicate 16 RoleBits.zero, gbits := List.replicate 8 RoleBits.zero,
    grbits := List.replicate 4 RoleBits.zero, left := 0, lastWix := none, vbars := [], nextVbar := 0, arg := 0, saveAt := 0, loftIx := [],
    privAt := [], stackIx := [], saveTime := 0, kept := none }
def Gang.blank : Gang :=
  { origin := .launch 0, size := 1, wgs := [], gbars := [], trigger := none, waits := false, discarded := true,
    placedAt := 0, paused := false, progress := 0, read := [], stamps := [], rels := [] }
def Launch.blank : Launch :=
  { ctxid := 0, queue := 0, header := Header.blank, grid := 0, size := 1, prio := 0, coresident := false, arg := 0,
    signal := 0, floor := 0, floorDies := 0, nextGang := 0, retired := 0, status := 1, grbars := [] }
def Descriptor.blank : Descriptor :=
  { root := 0, ctxid := 0, part := 0, level := 2, compats := 0, traps := 0, spill := 0, tvec := 0, hext := 0,
    loftBase := 0, loftSlots := 0, privBase := 0, privBytes := 0, faultBase := 0, faultCount := 0, saveBase := 0,
    saveBytes := 0, stackBase := 0, stackBytes := 0, stackSlots := 0 }
def DevCtx.blank : DevCtx :=
  { desc := Descriptor.blank, status := .destroyed, queues := [], nodes := [], code := List.replicate 256 none,
    loftUsed := [], stackUsed := [], privUsed := [], saveUsed := [], faultSeq := 0, faults := [], fullRaised := false, comms := [] }

def State.wg (s : State) (k : Nat) : Workgroup := s.wgs.getD k Workgroup.blank
def State.gang (s : State) (k : Nat) : Gang := s.gangs.getD k Gang.blank
def State.launch (s : State) (k : Nat) : Launch := s.launches.getD k Launch.blank
def State.devAt (s : State) (k : Nat) : DevCtx := s.devs.getD k DevCtx.blank

/-- The place of the live context of this CTXID. -/
def State.devIx (s : State) (id : Nat) : Option Nat :=
  s.devs.findIdx? fun d => d.desc.ctxid == id && d.status != .destroyed
/-- The live context of this CTXID. -/
def State.dctx (s : State) (id : Nat) : DevCtx :=
  match s.devIx id with
  | some i => s.devAt i
  | none => DevCtx.blank

/-- The cluster and die of a context slot, and of a wave slot (R7). -/
def ctxCluster (k : Nat) : Nat := k / 16
def waveCluster (k : Nat) : Nat := k / 32
def dieOf (cluster : Nat) : Nat := cluster / 8

def State.wgOf (s : State) (k : Nat) : Workgroup := s.wg (s.ctx k).wg
def State.descOf (s : State) (k : Nat) : Descriptor := (s.dctx (s.ctx k).ctxid).desc

/-! ### Updating tables -/

def setCtx (k : Nat) (c : Context) : Act Unit := emit (.ctx k c)
def setWave (k : Nat) (w : Wave) : Act Unit := emit (.wave k w)
def setWg (k : Nat) (w : Workgroup) : Act Unit := emit (.wg k w)
def setGang (k : Nat) (g : Gang) : Act Unit := emit (.gang k g)
def setCluster (k : Nat) (c : Cluster) : Act Unit := emit (.cluster k c)
def setDie (k : Nat) (d : Die) : Act Unit := emit (.die k d)
def setDev (d : Device) : Act Unit := emit (.dev d)

def modCtx (k : Nat) (f : Context → Context) : Act Unit := do setCtx k (f ((← now).ctx k))
def modWave (k : Nat) (f : Wave → Wave) : Act Unit := do setWave k (f ((← now).wave k))
def modWg (k : Nat) (f : Workgroup → Workgroup) : Act Unit := do setWg k (f ((← now).wg k))
def modGang (k : Nat) (f : Gang → Gang) : Act Unit := do setGang k (f ((← now).gang k))
def modLaunch (k : Nat) (f : Launch → Launch) : Act Unit := do emit (.launch k (f ((← now).launch k)))
def modCluster (k : Nat) (f : Cluster → Cluster) : Act Unit := do setCluster k (f ((← now).cluster k))
def modDie (k : Nat) (f : Die → Die) : Act Unit := do setDie k (f ((← now).die k))
def modVault (k : Nat) (f : Vault → Vault) : Act Unit := do emit (.vault k (f ((← now).vault k)))
def modReg (k : Nat) (f : Regulator → Regulator) : Act Unit := do emit (.reg k (f ((← now).reg k)))
def modPart (k : Nat) (f : Partition → Partition) : Act Unit := do emit (.part k (f ((← now).part k)))
def modLink (k : Nat) (f : Link → Link) : Act Unit := do emit (.link k (f ((← now).link k)))
def modDevice (f : Device → Device) : Act Unit := do emit (.dev (f (← now).dev))
/-- Change the live context of a CTXID, if there is one. -/
def modDctx (id : Nat) (f : DevCtx → DevCtx) : Act Unit := do
  let s ← now
  match s.devIx id with
  | some i => emit (.devCtx i (f (s.devAt i)))
  | none => pure ()

/-- A fresh free value's index (log entry 2). -/
def freshIx : Act Nat := do
  let d := (← now).dev
  setDev { d with freeCount := d.freeCount + 1 }
  pure d.freeCount

/-! ### Scalar registers (R141) -/

/-- The registers s24 to s31 of handler mode are the bank. -/
def Context.inBank (c : Context) (n : Nat) : Bool := c.mode == .handler && 24 ≤ n

/-- s[n]: s0 reads zero (R141). -/
def Context.rd (c : Context) (r : Reg) : Word :=
  let n := r.toNat
  if n = 0 then 0 else if c.inBank n then c.bank.getD (n - 24) 0 else c.s.getD n 0

/-- Writing s[n]: s0 discards (R141). -/
def Context.wr (c : Context) (r : Reg) (v : Word) : Context :=
  let n := r.toNat
  if n = 0 then c
  else if c.inBank n then { c with bank := putAt 0 c.bank (n - 24) v } else { c with s := putAt 0 c.s n v }

/-- The instruction has issued: the PC moves on and a stall has ended (R29, R136). -/
def Context.adv (c : Context) (bytes : Nat) : Context :=
  { c with pc := c.pc + BitVec.ofNat 64 bytes, status := .running, waits := none }

/-- The context holds an instruction that cannot issue yet (R136). -/
def Context.stall (c : Context) (why : StallReason) : Context := { c with status := .stalled why }

/-- A generator word that writes d and goes on. -/
def writeNext (s : State) (d : Reg) (v : Word) : Result :=
  .next (applyAll s [.ctx s.curCtx (((s.ctx s.curCtx).wr d v).adv 4)])

def stallCur (why : StallReason) : Act Unit := do
  let s ← now
  setCtx s.curCtx ((s.ctx s.curCtx).stall why)

/-- Write d (when there is one) and step over a word of `bytes` bytes. -/
def finish (d : Reg) (v : Word) (bytes : Nat := 4) : Act Unit := do
  let s ← now
  setCtx s.curCtx (((s.ctx s.curCtx).wr d v).adv bytes)
def finishNone (bytes : Nat := 4) : Act Unit := do
  let s ← now
  setCtx s.curCtx ((s.ctx s.curCtx).adv bytes)

/-! ### Events to the driver (R310, R430) -/

/-- The core takes an event for a partition: it holds up to 4096 and counts the rest (R430). -/
def postEvent (part : Nat) (e : EventRec) : Act Unit :=
  modPart part fun p =>
    if p.held.length < 4096 then { p with held := p.held ++ [e] }
    else { p with discarded := p.discarded + 1, discardMask := p.discardMask ||| 2 ^ e.kind }

/-- An event of a source class and number, stamped with TIME. -/
def raiseEvent (part kind ctxid cls num : Nat) (d0 d1 : Word) : Act Unit := do
  let s ← now
  postEvent part { kind := kind, ctxid := ctxid, cls := cls, num := num, time := s.dev.time, d0 := d0, d1 := d1 }

/-! ### Pre-empting a gang (R357, R358) -/

/-- The COUNT at which a copy parks (R295). -/
def Bound.parkAt (b : Bound) : Nat := min ((b.count + 65535) / 65536 * 65536) b.len

/-- Mark the copies of a workgroup for parking. -/
def markPark (m : Watermark) : Watermark :=
  match m.bound with
  | some b => match b.kind with
    | .copy _ => { m with bound := some { b with park := some b.parkAt } }
    | .cred _ _ _ _ _ _ => m
  | none => m

/-- A halt outranks the other triggers: only the driver lets its gang run again (Table 15.5). -/
def Trigger.join (old : Option Trigger) (t : Trigger) : Trigger :=
  match old, t with
  | _, .halt => .halt
  | some o, _ => o
  | none, _ => t

/-- One gang begins its save: every member that runs. -/
def preemptOne (g : Nat) (t : Trigger) : Act Unit := do
  let s ← now
  let gg := s.gang g
  if gg.discarded then pure ()
  else
    setGang g { gg with trigger := some (Trigger.join gg.trigger t) }
    each gg.wgs fun w => modWg w fun x =>
      if x.status == .running then { x with status := .saving, marks := x.marks.map markPark } else x

/-- The other gangs of a co-resident grid that has used a grid barrier (R373). -/
def State.gridGangs (s : State) (g : Nat) : List Nat :=
  match (s.gang g).origin with
  | .launch l =>
    let r := s.launch l
    if r.coresident && r.grbars.any (fun b => b.phases != 0 || b.arrived != 0) then
      (List.range s.gangs.length).filter fun i => i != g && (s.gang i).origin == .launch l
    else []
  | .batch _ _ _ => []

/-- A trigger of Table 15.5 reaches a gang; a grid that uses grid barriers is pre-empted whole (R373). -/
def preempt (g : Nat) (t : Trigger) : Act Unit := do
  let s ← now
  preemptOne g t
  each (s.gridGangs g) fun i => preemptOne i (if t == .halt then .driver else t)

/-! ### Taking an exception and returning from one (R162 to R165) -/

/-- TRAPCAUSE: the code and the boundary bit (Table 6.10). -/
def causeWord (cause : Nat) (boundary : Bool) : Word := BitVec.ofNat 64 (cause + b2n boundary * 256)

/-- The trap registers after a trap's entry or halt. -/
def trapRegs (t : TrapRegs) (cause : Nat) (pc : Word) (boundary : Bool) (r : TrapRecord) : TrapRegs :=
  { t with cause := causeWord cause boundary, pc := pc, info0 := r.info0, info1 := r.info1, info2 := r.info2,
           info3 := r.info3 }

/-- The context of a trap's entry in user mode (R164): the handler's code runs on its own target, chain and bank.
A capture is suspended: it is not open in handler mode, and ERET opens it again (log entry 10). -/
def Context.enterHandler (c : Context) (tvec pc epc : Word) (boundary : Bool) (r : TrapRecord) : Context :=
  { c with
    status := .running, mode := .handler, pc := tvec, waits := none, fetched := []
    trap := { trapRegs c.trap r.cause pc boundary r with epc := epc }
    em := { c.em with savedTarget := c.em.target, target := { c.em.target with grp := 0 },
                      capSuspended := c.em.capOpen, capOpen := false, handlerChain := Chain.start } }

/-- The context that a trap halts (R164): EPC is written in user mode only, and the PC is where the role stopped. -/
def Context.haltOn (c : Context) (pc epc : Word) (boundary : Bool) (r : TrapRecord) : Context :=
  let t := trapRegs c.trap r.cause pc boundary r
  { c with status := .halted, pc := pc, fetched := [], trap := if c.mode == .user then { t with epc := epc } else t }

/-- The driver is told of a halt and the rest of the gang is pre-empted (R308, R310). -/
def haltEvent (k : Nat) : Act Unit := do
  let s ← now
  let c := s.ctx k
  let w := s.wg c.wg
  raiseEvent (s.dctx c.ctxid).desc.part 1 c.ctxid 0 (ctxCluster k) c.trap.cause
    (BitVec.ofNat 64 (w.wgid + c.role * 2 ^ 32))
  preempt w.gang .halt

/-- A wave as the handler of context k starts: the words that have issued are those its waits cover (R105, R268). A wave of its own role
issues handler words only behind all that it has issued, and its handler chain and latch history are new (R166). -/
def Wave.enterHandler (w : Wave) (k : Nat) : Wave :=
  let mark (f : Flight) : Flight := { f with old := k :: f.old.filter (· != k) }
  { w with flight := w.flight.map mark, half := w.half.map mark, hlatch := if w.owner == k then [] else w.hlatch,
           hchain := w.hchain && w.owner != k }

/-- Taking an exception (R164): entry to the handler, or a halt when there is none or in handler mode. -/
def takeTrap (k : Nat) (pc epc : Word) (boundary : Bool) (r : TrapRecord) : Act Unit := do
  let s ← now
  let c := s.ctx k
  let tvec := (s.dctx c.ctxid).desc.tvec
  if c.mode == .handler || tvec == 0 then
    setCtx k (c.haltOn pc epc boundary r)
    haltEvent k
  else
    setCtx k (c.enterHandler tvec pc epc boundary r)
    each (s.gang (s.wg c.wg).gang).wgs fun g =>
      each (s.wg g).waves fun v => modWave v fun w => w.enterHandler k

/-- A precise trap of the current context at its PC (R162). -/
def trapNow (r : TrapRecord) : Act Unit := do
  let s ← now
  let c := s.ctx s.curCtx
  takeTrap s.curCtx c.pc c.pc false r

def TrapRecord.of (cause : Nat) (i0 i1 i2 i3 : Word := 0) : TrapRecord :=
  { cause := cause, info0 := i0, info1 := i1, info2 := i2, info3 := i3 }

/-- The generator-access record (Table 6.12). -/
def accessRecord (cause : Nat) (addr : Word) (kind : Nat) : TrapRecord := .of cause addr (BitVec.ofNat 64 kind)
/-- The window, stretch and rights records (Table 6.12). -/
def windowRecord (sub frame : Nat) : TrapRecord := .of 16 (BitVec.ofNat 64 sub) (BitVec.ofNat 64 frame)
def stretchRecord (sub id : Nat) : TrapRecord := .of 15 (BitVec.ofNat 64 sub) (BitVec.ofNat 64 id)
def rightsRecord (bit : Nat) : TrapRecord := .of 10 (BitVec.ofNat 64 (2 ^ bit))
def barrierRecord (lvl k : Nat) : TrapRecord := .of 17 (BitVec.ofNat 64 (k + lvl * 16))

/-- The word record: the bits of the word at hand (Table 6.12). -/
def wordRecord (cause : Nat) (w : Nat) (check : Nat := 0) : TrapRecord :=
  .of cause (BitVec.ofNat 64 w) (BitVec.ofNat 64 (w / 2 ^ 64)) (BitVec.ofNat 64 check)

/-- The illegal-instruction trap of an instruction whose own checks refuse it: its word is its encoding. -/
def illegal (i : Instr) : Act Unit :=
  trapNow (wordRecord 1 (match encode i with | some (_, w) => w | none => 0))

/-- The state of ERET's return (R165). -/
def Context.leaveHandler (c : Context) : Context :=
  { c with status := .running, mode := .user, pc := c.trap.epc,
           em := { c.em with target := c.em.savedTarget, capOpen := c.em.capSuspended, capSuspended := false }, resumes := none }

/-- The boundary trap of a context that has executed END halts it (R434). -/
def haltEnded (k : Nat) (r : TrapRecord) : Act Unit := do
  let c := (← now).ctx k
  setCtx k { c with status := .halted, trap := { trapRegs c.trap r.cause c.pc true r with epc := c.pc } }
  haltEvent k

/-- The state that a FAULTED or PARKED wave goes back to: STOPPED ends only by ERET (Table 7.2). -/
def Wave.awake (w : Wave) : WaveStatus := if w.stopSeq.isSome then .stopped else .live

/-- The regulator domain of a cluster pauses (R408). -/
def State.pausing (s : State) (cluster : Nat) : Bool := (s.reg (s.cluster cluster).reg).paused.isSome

/-- A boundary trap is owed to a context: it joins the pending ones in event order (R109, R162). A context that has
executed END takes it at once and halts (R434), but after a pause (R168). -/
def oweTrap (k : Nat) (wave : Option Nat) (r : TrapRecord) : Act Unit := do
  let s ← now
  let c := s.ctx k
  if c.status == .ended && !s.pausing (ctxCluster k) then
    setCtx k { c with evSeq := c.evSeq + 1 }
    haltEnded k r
  else
    setCtx k { c with pending := c.pending ++ [{ record := r, seq := c.evSeq, wave := wave }], evSeq := c.evSeq + 1 }
    match wave with
    | some v => modWave v fun w => { w with stopSeq := some c.evSeq }
    | none => pure ()

/-! ### Special bits of a context -/

/-- The chain state of the context's current mode (R56). -/
def Context.chain (c : Context) : Chain := if c.mode == .handler then c.em.handlerChain else c.em.userChain
/-- The most recent lane word the context emitted in its mode carried C = 1 (R56). -/
def Context.chainOpen (c : Context) : Bool := c.chain.lastC
def Context.hasRight (c : Context) (bit : Nat) : Bool := c.rights.getLsbD bit

/-- The drain count (R319): the counted writes below the first that is not performed. -/
def Context.drain (c : Context) : Nat := c.counted.foldl (fun m w => min m (w.num - 1)) c.issued

/-- A counted write of the context issues and is to be performed later (R319). -/
def Context.count (c : Context) (isScalar : Bool) (waves : Nat) : Context :=
  { c with issued := c.issued + 1,
           counted := c.counted ++ [{ num := c.issued + 1, scalar := isScalar, awaited := waves }] }

/-- One wave has performed counted write `n`. -/
def Context.performed (c : Context) (n : Nat) : Context :=
  { c with counted := c.counted.filterMap fun w =>
      if w.num = n then (if w.awaited ≤ 1 then none else some { w with awaited := w.awaited - 1 }) else some w }

/-- What Table 6.1 calls the context's state. DESIGN CHOICE (log entry 114): one that cannot issue in handler mode shows STALLED, for which
Table 6.2 has no line, and goes back to HANDLER. -/
inductive CtxState | FREE | RUNNING | STALLED | HANDLER | PARKED | SAVED | ENDED | HALTED
  deriving DecidableEq, Repr
def Context.state (c : Context) : CtxState :=
  match c.status with
  | .free => .FREE
  | .running => if c.mode == .handler then .HANDLER else .RUNNING
  | .stalled _ => .STALLED
  | .parked _ => .PARKED
  | .saved => .SAVED
  | .ended => .ENDED
  | .halted => .HALTED

end Sys2Proof.Machine
end

