-- ==== Sys2Proof/Machine/Scalar.lean ====
section
/-! DEFINITION. The scalar instructions: integer arithmetic (R143 to R145), branches and jumps (R149, R150) and LI64
(R62). -/
namespace Sys2Proof.Machine

/-- The value of s[r] in the current context. -/
def State.rd (s : State) (r : Reg) : Word := (s.ctx s.curCtx).rd r
/-- The PC of the current context. -/
def State.pcNow (s : State) : Word := (s.ctx s.curCtx).pc
/-- A 12-bit signed immediate (R34). -/
def imm12 (i : BitVec 12) : Word := i.signExtend 64
/-- A 20-bit high part shifted into place (R34). -/
def imm20 (i : BitVec 20) : Word := (i ++ (0 : BitVec 12)).signExtend 64

def execAdd (d a b : Reg) (s : State) : Result := writeNext s d (s.rd a + s.rd b)
def execSub (d a b : Reg) (s : State) : Result := writeNext s d (s.rd a - s.rd b)
def execAnd (d a b : Reg) (s : State) : Result := writeNext s d (s.rd a &&& s.rd b)
def execOr (d a b : Reg) (s : State) : Result := writeNext s d (s.rd a ||| s.rd b)
def execXor (d a b : Reg) (s : State) : Result := writeNext s d (s.rd a ^^^ s.rd b)
def execAndn (d a b : Reg) (s : State) : Result := writeNext s d (s.rd a &&& ~~~ s.rd b)
def execShl (d a b : Reg) (s : State) : Result := writeNext s d (s.rd a <<< shiftCount (s.rd b))
def execShr (d a b : Reg) (s : State) : Result := writeNext s d (s.rd a >>> shiftCount (s.rd b))
def execSar (d a b : Reg) (s : State) : Result := writeNext s d ((s.rd a).sshiftRight (shiftCount (s.rd b)))
def execMul (d a b : Reg) (s : State) : Result := writeNext s d (s.rd a * s.rd b)
def execMulh (d a b : Reg) (s : State) : Result :=
  writeNext s d (BitVec.ofInt 64 ((s.rd a).toInt * (s.rd b).toInt / 2 ^ 64))
def execMulhn (d a b : Reg) (s : State) : Result :=
  writeNext s d (BitVec.ofNat 64 ((s.rd a).toNat * (s.rd b).toNat / 2 ^ 64))
def execDiv (d a b : Reg) (s : State) : Result := writeNext s d (divS (s.rd a) (s.rd b))
def execDivn (d a b : Reg) (s : State) : Result := writeNext s d (divU (s.rd a) (s.rd b))
def execRem (d a b : Reg) (s : State) : Result := writeNext s d (remS (s.rd a) (s.rd b))
def execRemn (d a b : Reg) (s : State) : Result := writeNext s d (remU (s.rd a) (s.rd b))
def execMin (d a b : Reg) (s : State) : Result := writeNext s d (minS (s.rd a) (s.rd b))
def execMax (d a b : Reg) (s : State) : Result := writeNext s d (maxS (s.rd a) (s.rd b))
def execMinn (d a b : Reg) (s : State) : Result := writeNext s d (minU (s.rd a) (s.rd b))
def execMaxn (d a b : Reg) (s : State) : Result := writeNext s d (maxU (s.rd a) (s.rd b))
def execSlt (d a b : Reg) (s : State) : Result := writeNext s d (ofBool ((s.rd a).toInt < (s.rd b).toInt))
def execSltn (d a b : Reg) (s : State) : Result := writeNext s d (ofBool ((s.rd a).toNat < (s.rd b).toNat))
def execSeq (d a b : Reg) (s : State) : Result := writeNext s d (ofBool (s.rd a == s.rd b))
def execClz (d a : Reg) (s : State) : Result := writeNext s d (BitVec.ofNat 64 (clz 64 (s.rd a).toNat))
def execCtz (d a : Reg) (s : State) : Result := writeNext s d (BitVec.ofNat 64 (ctz 64 (s.rd a).toNat))
def execPopc (d a : Reg) (s : State) : Result := writeNext s d (BitVec.ofNat 64 (popcount 64 (s.rd a).toNat))
def execAddw (d a b : Reg) (s : State) : Result := writeNext s d (sextW (s.rd a + s.rd b))
def execSubw (d a b : Reg) (s : State) : Result := writeNext s d (sextW (s.rd a - s.rd b))

def execAddi (d a : Reg) (i : BitVec 12) (s : State) : Result := writeNext s d (s.rd a + imm12 i)
def execAndi (d a : Reg) (i : BitVec 12) (s : State) : Result := writeNext s d (s.rd a &&& imm12 i)
def execOri (d a : Reg) (i : BitVec 12) (s : State) : Result := writeNext s d (s.rd a ||| imm12 i)
def execXori (d a : Reg) (i : BitVec 12) (s : State) : Result := writeNext s d (s.rd a ^^^ imm12 i)
def execShli (d a : Reg) (n : BitVec 6) (s : State) : Result := writeNext s d (s.rd a <<< n.toNat)
def execShri (d a : Reg) (n : BitVec 6) (s : State) : Result := writeNext s d (s.rd a >>> n.toNat)
def execSari (d a : Reg) (n : BitVec 6) (s : State) : Result := writeNext s d ((s.rd a).sshiftRight n.toNat)
def execSlti (d a : Reg) (i : BitVec 12) (s : State) : Result :=
  writeNext s d (ofBool ((s.rd a).toInt < (imm12 i).toInt))
def execSltni (d a : Reg) (i : BitVec 12) (s : State) : Result :=
  writeNext s d (ofBool ((s.rd a).toNat < (imm12 i).toNat))
def execSeqi (d a : Reg) (i : BitVec 12) (s : State) : Result := writeNext s d (ofBool (s.rd a == imm12 i))

/-- SHI and PCHI (R34, R145). -/
def execShi (d : Reg) (i : BitVec 20) (s : State) : Result := writeNext s d (imm20 i)
def execPchi (d : Reg) (i : BitVec 20) (s : State) : Result := writeNext s d (s.pcNow + imm20 i)
/-- LI64 (R62) is a 16-byte word. -/
def execLi64 (d : Reg) (v : Word) (s : State) : Result :=
  .next (applyAll s [.ctx s.curCtx (((s.ctx s.curCtx).wr d v).adv 16)])

/-- The context continues at `pc` (R149, R150). -/
def Context.jump (c : Context) (pc : Word) : Context := { c with pc := pc, status := .running, waits := none }

/-- A branch: to pc + 4 * off12 when taken, else to pc + 4 (R149). -/
def branch (taken : Bool) (off : BitVec 12) (s : State) : Result :=
  let c := s.ctx s.curCtx
  .next (applyAll s [.ctx s.curCtx (c.jump (if taken then c.pc + imm12 off * 4 else c.pc + 4))])

def execBeq (a b : Reg) (off : BitVec 12) (s : State) : Result := branch (s.rd a == s.rd b) off s
def execBne (a b : Reg) (off : BitVec 12) (s : State) : Result := branch (s.rd a != s.rd b) off s
def execBlt (a b : Reg) (off : BitVec 12) (s : State) : Result := branch ((s.rd a).toInt < (s.rd b).toInt) off s
def execBge (a b : Reg) (off : BitVec 12) (s : State) : Result := branch ((s.rd b).toInt ≤ (s.rd a).toInt) off s
def execBltn (a b : Reg) (off : BitVec 12) (s : State) : Result := branch ((s.rd a).toNat < (s.rd b).toNat) off s
def execBgen (a b : Reg) (off : BitVec 12) (s : State) : Result := branch ((s.rd b).toNat ≤ (s.rd a).toNat) off s

/-- JAL writes the link and continues at pc + 4 * off20 (R150). -/
def execJal (d : Reg) (off : BitVec 20) (s : State) : Result :=
  let c := s.ctx s.curCtx
  .next (applyAll s [.ctx s.curCtx ((c.wr d (c.pc + 4)).jump (c.pc + off.signExtend 64 * 4))])

/-- JALR continues at s[a] + imm12, which must be a multiple of 4 (R150). -/
def execJalr (d a : Reg) (i : BitVec 12) (s : State) : Result :=
  let c := s.ctx s.curCtx
  let t := c.rd a + imm12 i
  if t.toNat % 4 = 0 then .next (applyAll s [.ctx s.curCtx ((c.wr d (c.pc + 4)).jump t)])
  else commit (trapNow (accessRecord 8 t 4)) s

end Sys2Proof.Machine
end

