-- ==== Sys2Proof/Machine/Memory.lean ====
section
/-! DEFINITION. Memory as agents see it: the generic address map (R116 to R125), the page walk, the TLBs and the
boundary tables (R374 to R391), locations and their bytes (R126), poison (R28) and landing regions (R283 to R293).

A location is a number: a DRAM byte is its die-homed address, a byte of the host or remote window its physical
address, byte o of cluster c's scratchpad 2^56 + c * 2^22 + o, and byte o of the chip scratchpad 2^57 + o. -/
namespace Sys2Proof.Machine

/-! ### Locations -/

def spadLoc (cluster off : Nat) : Nat := 2 ^ 56 + cluster * 2 ^ 22 + off
def chipLoc (off : Nat) : Nat := 2 ^ 57 + off
def dramEnd : Nat := 0x30_0000_0000
def isDram (loc : Nat) : Bool := loc < dramEnd
def isHost (loc : Nat) : Bool := 0x8_0000_0000_0000 ≤ loc && loc < 0x9_0000_0000_0000
def isRemote (loc : Nat) : Bool := 0xA_0000_0000_0000 ≤ loc && loc < 0xC_0000_0000_0000
def isChip (loc : Nat) : Bool := 2 ^ 57 ≤ loc
def isSpad (loc : Nat) : Bool := 2 ^ 56 ≤ loc && loc < 2 ^ 57

/-- The die whose memory or scratchpad share holds a location. -/
def locDie (loc : Nat) : Nat :=
  if isChip loc then (loc - 2 ^ 57) / 2 ^ 24
  else if isSpad loc then (loc - 2 ^ 56) / 2 ^ 22 / 8
  else loc / 0xC_0000_0000

/-- The DRAM location of a physical address in either DRAM window (R126). -/
def dramLoc (pa : Nat) : Option Nat :=
  if pa < dramEnd then some pa
  else if 0x100_0000_0000 ≤ pa && pa < 0x130_0000_0000 then
    let o := pa - 0x100_0000_0000
    let u := o / 2048
    some (u % 4 * 0xC_0000_0000 + u / 4 * 2048 + o % 2048)
  else none

/-- A physical address in the remote window in one form: package p's DRAM byte under its die-homed address, whichever of the two names
it is reached by (R126, R417). -/
def remoteLoc (pa : Nat) : Nat :=
  let o := (pa - 0xA_0000_0000_0000) % 2 ^ 41
  match dramLoc o with
  | some l => pa - o + l
  | none => pa

/-- The location of a physical address: DRAM, the host window (R414) or the remote window (R417). -/
def physLoc (pa : Nat) : Option Nat :=
  match dramLoc pa with
  | some l => some l
  | none => if isHost pa then some pa else if isRemote pa then some (remoteLoc pa) else none

/-- The logical vault of a DRAM location (R7, R126). -/
def vaultOf (loc : Nat) : Nat := 32 * (loc / 0xC_0000_0000) + loc % 0xC_0000_0000 / 2048 % 32

/-! ### Bytes -/

def State.byte (s : State) (loc : Nat) : Byte := sparseGet s.mem loc
/-- The little-endian value of bytes given as locations, first lowest. -/
def State.readLocs (s : State) (locs : List Nat) : Nat := leNat (locs.map s.byte)
/-- n consecutive locations. -/
def locRange (loc n : Nat) : List Nat := (List.range n).map (loc + ·)
def State.readN (s : State) (loc n : Nat) : Nat := s.readLocs (locRange loc n)

/-! ### Accesses that are held -/

/-- The row of this DRAM location is being copied to a spare row (R25). -/
def State.rowHeld (s : State) (loc : Nat) : Bool :=
  isDram loc && (s.vault (vaultOf loc)).remapping.any (·.1 == Config.rowOf loc)
/-- The location lies in the scratchpad of a cluster whose regulator pauses (R408). -/
def State.spadHeld (s : State) (loc : Nat) : Bool :=
  isSpad loc && (s.reg (s.cluster ((loc - 2 ^ 56) / 2 ^ 22)).reg).paused.isSome
/-- An access to these locations waits. -/
def State.held (s : State) (locs : List Nat) : Bool := locs.any fun l => s.rowHeld l || s.spadHeld l

/-- The poison units a set of locations touches (R28): 64 bytes in DRAM, 8 in a scratchpad; none elsewhere. -/
def State.poisoned (s : State) (locs : List Nat) : Bool :=
  locs.any fun l =>
    if isDram l then s.badDram.contains (l / 64)
    else if 2 ^ 56 ≤ l then s.badSram.contains (l / 8) else false

/-- The units that a write of these locations overwrites in full: their poison clears (R28). -/
def fullUnits (unit : Nat) (locs : List Nat) (bad : List Nat) : List Nat :=
  bad.filter fun u => !((List.range unit).all fun i => locs.contains (u * unit + i))

/-- A full overwrite of a unit clears its poison (R28). -/
def clearPoison (locs : List Nat) : Act Unit := do
  let s ← now
  if s.badDram.isEmpty then pure () else emit (.badDram (fullUnits 64 locs s.badDram))
  if s.badSram.isEmpty then pure () else emit (.badSram (fullUnits 8 locs s.badSram))

/-- No agent reads past the newest value of these bytes any longer. -/
def Visibility.forget (v : Visibility) (locs : List Nat) : Visibility :=
  { v with writes := v.writes.filterMap fun w =>
      let cs := w.cells.filter (! locs.contains ·.1)
      if cs.isEmpty then none else some { w with cells := cs } }

/-- Bytes that the host, a page walker, a save or a restore writes: every agent sees them at once (log entry 8). A full overwrite of a unit clears
its poison (R28). -/
def writeLocs (locs : List Nat) (bytes : List Byte) : Act Unit := do
  emits ((locs.zip bytes).map fun p => .mem p.1 p.2)
  let s ← now
  if s.vis.writes.isEmpty then pure () else emit (.vis (s.vis.forget locs))
  clearPoison locs

def writeValue (locs : List Nat) (v : Nat) : Act Unit := writeLocs locs (leBytes locs.length v)

/-! ### Event counts of the power estimator (R405) -/

/-- The kinds of event, as positions in `Cluster.counts`: lane words, weighted by the pass count; matrix steps of the six classes
of Table 9.4; words of the special-function and the divide unit; scratchpad bytes; generator issues; commits of copied units. -/
def kindLane : Nat := 0
def kindMatrix (row : Nat) : Nat := 1 + row
def kindSlow : Nat := 7
def kindSpad : Nat := 8
def kindGen : Nat := 9
def kindLand : Nat := 10

/-- n events of a kind on a cluster. -/
def Cluster.tally (c : Cluster) (kind n : Nat) : Cluster := { c with counts := c.counts.modify kind (· + n) }

/-- Scratchpad bytes that an access moves, counted on their cluster. -/
def tallySpad (locs : List Nat) : Act Unit := do
  let spads := locs.filter isSpad
  each ((spads.map fun l => (l - 2 ^ 56) / 2 ^ 22).dedup) fun c =>
    modCluster c fun x => x.tally kindSpad (spads.filter fun l => (l - 2 ^ 56) / 2 ^ 22 == c).length

/-- Bytes written with poison: they poison every unit they touch. -/
def poisonLocs (locs : List Nat) : Act Unit := do
  let s ← now
  let d := (locs.filter isDram).map (· / 64)
  let r := (locs.filter (2 ^ 56 ≤ ·)).map (· / 8)
  if d.isEmpty then pure () else emit (.badDram ((s.badDram ++ d).dedup))
  if r.isEmpty then pure () else emit (.badSram ((s.badSram ++ r).dedup))

/-! ### The generic address map (R116, R117) -/

/-- Where a generic address leads. -/
inductive Place
  | paged (va : Nat)
  | priv (off : Nat)
  | at (loc : Nat)
  deriving DecidableEq, Repr

/-- Decoding the n bytes at a generic address for a workgroup; `lane` says whether the agent has lanes (R120).
The aperture's valid offsets are those of Table 5.1. -/
def State.place (s : State) (w : Workgroup) (lane : Bool) (a n : Nat) : Option Place :=
  if a + n ≤ 2 ^ 48 then some (.paged a)
  else if a < 2 ^ 48 then none
  else if a < 0x1_1000_0000_0000 then
    let o := a - 0x1_0000_0000_0000
    if lane && o + n ≤ w.header.lp then some (.priv o) else none
  else if a < 0x1_2000_0000_0000 then
    let o := a - 0x1_1000_0000_0000
    if o + n ≤ w.header.spad then some (.at (spadLoc w.cluster (w.spad + o))) else none
  else if a < 0x1_3000_0000_0000 then
    let o := a - 0x1_2000_0000_0000
    let m := o / 2 ^ 22
    match (s.gang w.gang).wgs[m]? with
    | some i =>
      let x := s.wg i
      if m < (s.gang w.gang).size && o % 2 ^ 22 + n ≤ x.header.spad then
        some (.at (spadLoc x.cluster (x.spad + o % 2 ^ 22)))
      else none
    | none => none
  else
    let o := a - 0x1_3000_0000_0000
    if o + n ≤ 2 ^ 26 then some (.at (chipLoc o)) else none

/-! ### Boundary tables (R390, R391) -/

/-- What an access asks of a target. -/
structure Need where
  rd : Bool
  wr : Bool
  deriving DecidableEq, Repr

/-- One entry admits the 4 KiB units from `lo` to `hi`. -/
def BoundaryEntry.admits (e : BoundaryEntry) (part ctxid : Nat) (need : Need) (lo hi : Nat) : Bool :=
  let w := e.lo.toNat
  let h := e.hi.toNat
  bitAt w 3 && bits w 11 8 == part && (bitAt w 0 || bits h 11 0 == ctxid)
    && (!need.rd || bitAt w 1) && (!need.wr || bitAt w 2)
    && bits w 51 12 ≤ lo && hi ≤ bits h 51 12

/-- The table of a target admits bytes [a, a + n) in the target's own form of address. -/
def State.tableAdmits (s : State) (cls num part ctxid : Nat) (need : Need) (a n : Nat) : Bool :=
  s.dev.boundary.any fun e =>
    e.cls == cls && e.num == num && e.admits part ctxid need (a / 4096) ((a + n - 1) / 4096)

/-- A DRAM access is checked at the vault controller and at the L2 slice of its location; `pa` is the address the
access carries. A chip-scratchpad access is checked at its die's share; a cluster scratchpad has no table. -/
def State.admits (s : State) (part ctxid : Nat) (need : Need) (loc pa n : Nat) : Bool :=
  if isDram loc then
    let v := vaultOf loc
    s.tableAdmits 0 v part ctxid need pa n
      && s.tableAdmits 1 (16 * (v / 32) + (Config.sliceOfVault (v % 32)).toNat) part ctxid need pa n
  else if isChip loc then s.tableAdmits 2 (locDie loc) part ctxid need (loc - 2 ^ 57) n
  else true

/-! ### Translation (R374 to R381) -/

/-- Kinds of access (Table 17.2). -/
inductive Access | load | store | atomic | fetch | spill | reload
  deriving DecidableEq, Repr

/-- What the access asks of a boundary table (R391). -/
def Access.need : Access → Need
  | .load => ⟨true, false⟩
  | .fetch => ⟨true, false⟩
  | .store => ⟨false, true⟩
  | .atomic => ⟨true, true⟩
  | .spill => ⟨false, true⟩
  | .reload => ⟨true, false⟩
def Access.writes (a : Access) : Bool := a == .store || a == .atomic || a == .spill

/-- Why a translation does not succeed: kind as in Table 17.4 (1 not present, 2 permission, 3 malformed, 4 boundary refusal of
a table read), and the level. The model's own kinds are 0, the access waits (R25, R382), and 5, the table entry holds poison (R28). -/
structure XFail where
  kind : Nat
  lvl : Nat
  deriving DecidableEq, Repr

/-- A successful translation: the physical address, the leaf's flags and its entry's address. -/
structure Xlated where
  pa : Nat
  entry : TlbEntry
  walked : Bool
  deriving DecidableEq, Repr

/-- A malformed entry (R376). -/
def malformed (e lvl : Nat) : Bool :=
  let leaf := bitAt e 7
  let pol := bits e 10 9
  let frame := bits e 51 12 * 4096
  bitAt e 63 || bits e 53 52 != 0 || bitAt e 11 || pol == 3
    || (leaf && lvl == 4) || (!leaf && lvl == 1)
    || (!leaf && (bits e 6 1 != 0 || bitAt e 8 || pol != 0 || bits e 55 54 != 0))
    || (leaf && bitAt e 2 && !bitAt e 1)
    || (leaf && lvl == 3 && bits e 29 12 != 0) || (leaf && lvl == 2 && bits e 20 12 != 0)
    || (bitAt e 8 && 1 < lvl)
    || (pol == 2) == (dramLoc frame).isSome

/-- The page walk (R374): from a table of level `lvl`, the leaf with its level and address. Table reads are checked
as reads of the context (R391); `holds` says whether a row that is being copied holds them (R25). -/
def State.walk (s : State) (holds : Bool) (part ctxid va : Nat) : Nat → Nat → Except XFail (Nat × Nat × Nat)
  | 0, _ => .error ⟨3, 1⟩
  | lvl + 1, t =>
    let ea := t + 8 * (va / 2 ^ (3 + 9 * (lvl + 1)) % 512)
    match dramLoc ea with
    | none => .error ⟨4, lvl + 1⟩
    | some loc =>
      if !s.admits part ctxid ⟨true, false⟩ loc ea 8 then .error ⟨4, lvl + 1⟩
      else if holds && s.rowHeld loc then .error ⟨0, lvl + 1⟩
      else if s.poisoned (locRange loc 8) then .error ⟨5, lvl + 1⟩
      else
        let e := s.readN loc 8
        if !bitAt e 0 then .error ⟨1, lvl + 1⟩
        else if malformed e (lvl + 1) then .error ⟨3, lvl + 1⟩
        else if bitAt e 7 then .ok (e, lvl + 1, loc)
        else s.walk holds part ctxid va lvl (bits e 51 12 * 4096)

/-- The permissions of Table 17.2 in a leaf. -/
def permitted (flags : Nat) (a : Access) (user : Bool) : Bool :=
  let r := bitAt flags 1
  let w := bitAt flags 2
  (match a with
    | .load => r
    | .store => w
    | .atomic => r && w
    | .fetch => bitAt flags 3
    | .spill => r && w
    | .reload => r && w)
    && (!user || bitAt flags 4)

def TlbEntry.covers (t : TlbEntry) (ctxid va : Nat) : Bool :=
  t.ctxid == ctxid && t.va ≤ va && va < t.va + 2 ^ t.size

/-- The TLB entry that serves an access: one with D = 0 serves no write (R379). Copies and CREDs use the die's TLB only (R381). -/
def State.tlbHit (s : State) (cluster ctxid va : Nat) (a : Access) (l1 : Bool) : Option TlbEntry :=
  ((if l1 then (s.cluster cluster).tlb else []) ++ (s.die (dieOf cluster)).l2tlb).find? fun t =>
    t.covers ctxid va && (!a.writes || t.flags.getLsbD 6)

/-- Translating va by a walk, with the permissions of Table 17.2. A contiguous group has its A and D in its first entry (R377). -/
def State.walkFor (s : State) (holds : Bool) (ctxid va : Nat) (a : Access) (user : Bool) : Except XFail Xlated :=
  let d := (s.dctx ctxid).desc
  match s.walk holds d.part ctxid va 4 d.root with
  | .error f => .error f
  | .ok (e, lvl, loc) =>
    if !permitted e a user then .error ⟨2, 0⟩
    else
      let size := 12 + 9 * (lvl - 1)
      let base := va / 2 ^ size * 2 ^ size
      let frame := bits e 51 12 * 4096
      let first := if bitAt e 8 then loc / 128 * 128 else loc
      let t : TlbEntry :=
        { ctxid := ctxid, va := base, size := size, frame := frame
          flags := (BitVec.ofNat 12 e &&& 0xF9F) ||| (BitVec.ofNat 12 (s.readN first 8) &&& 0x060)
          ret := BitVec.ofNat 2 (bits e 55 54), leafAt := first }
      .ok { pa := frame + (va - base), entry := t, walked := true }

/-- Translating va for a context's agent at a cluster: by a TLB entry, or by a walk. -/
def State.translateWith (s : State) (holds : Bool) (cluster ctxid va : Nat) (a : Access) (user l1 : Bool) : Except XFail Xlated :=
  match s.tlbHit cluster ctxid va a l1 with
  | some t =>
    if permitted t.flags.toNat a user then .ok { pa := t.frame + (va - t.va), entry := t, walked := false }
    else .error ⟨2, 0⟩
  | none => s.walkFor holds ctxid va a user

/-- For the core and the sequencers, once nothing they need is held (`State.superHeld`). -/
def State.translateNow (s : State) (cluster ctxid va : Nat) (a : Access) (user : Bool) : Except XFail Xlated :=
  s.translateWith false cluster ctxid va a user true

/-- A walk of this page is in progress at the die, or all its walkers are busy: a miss joins the one or queues for the others (R382). -/
def Die.walkBusy (d : Die) (ctxid va : Nat) : Bool :=
  32 ≤ d.walks.length || d.walks.any fun m => m.ctxid == ctxid && m.va / 4096 == va / 4096

/-- For an agent, whose miss waits while a walk of its page is in progress or its die's 32 walkers are busy (R382). Its own walk takes no
time here (log entry 28). -/
def State.translate (s : State) (cluster ctxid va : Nat) (a : Access) (user : Bool) (l1 : Bool := true) : Except XFail Xlated :=
  if (s.tlbHit cluster ctxid va a l1).isNone && (s.die (dieOf cluster)).walkBusy ctxid va then .error ⟨0, 0⟩
  else s.translateWith true cluster ctxid va a user l1

/-- The set of the die's TLB that a page belongs to: 512 sets of 8 ways (R381, log entry 90). -/
def TlbEntry.set (t : TlbEntry) : Nat := t.va / 2 ^ t.size % 512
def TlbEntry.same (t u : TlbEntry) : Bool := u.ctxid == t.ctxid && u.va == t.va && u.size == t.size

/-- A TLB keeps its newest entries: 64 in a cluster's, 8 of each set in a die's (R381). -/
def keepL1 (t : TlbEntry) (l : List TlbEntry) : List TlbEntry := (t :: l.filter (! t.same ·)).take 64
def keepL2 (t : TlbEntry) (l : List TlbEntry) : List TlbEntry :=
  let others := l.filter (! t.same ·)
  t :: (others.filter fun u => u.set != t.set) ++ (others.filter fun u => u.set == t.set).take 7

/-- The TLBs hold an entry as their most recently used. -/
def installTlb (cluster : Nat) (t : TlbEntry) (l1 : Bool) : Act Unit := do
  if l1 then modCluster cluster fun c => { c with tlb := keepL1 t c.tlb } else pure ()
  modDie (dieOf cluster) fun d => { d with l2tlb := keepL2 t d.l2tlb }

/-! ### Other packages (R416, R417) -/

/-- What becomes of an access to the remote window (R416, R417): it can leave for another package's DRAM over an UP link of the
route; it waits while only links that retrain are left; else it fails. -/
inductive RemoteWay | leaves | waits | fails
  deriving DecidableEq, Repr
/-- The links in a state that the route of a package names. -/
def State.routeLinks (s : State) (p : Nat) (st : LinkStatus) : List Nat :=
  let mask : BitVec 16 := match s.dev.routes.find? (·.1 == p) with
    | some r => r.2
    | none => 0
  (List.range 16).filter fun l => mask.getLsbD l && (s.link l).status == st

/-- The UP link on which traffic for 4 KiB unit u of package p leaves (R417). -/
def State.routeLink (s : State) (p u : Nat) : Option Nat :=
  let up := s.routeLinks p .up
  up[Config.routeHash u % max up.length 1]?

/-- How package p is reached: by an UP link of its route, later by one that retrains, or not at all (R416). -/
def State.packageWay (s : State) (p : Nat) : RemoteWay :=
  if !(s.routeLinks p .up).isEmpty then .leaves
  else if !(s.routeLinks p .retraining).isEmpty then .waits
  else .fails

def State.remoteWay (s : State) (pa : Nat) : RemoteWay :=
  let o := (pa - 0xA_0000_0000_0000) % 2 ^ 41
  let p := (pa - 0xA_0000_0000_0000) / 2 ^ 41
  if p == s.dev.package || (dramLoc o).isNone then .fails else s.packageWay p

/-! ### Functions of the host attach (R411, R414) -/

/-- The partition of a function (R411): PF0 is bound to partition 0, and VF n where BIND_FUNCTION bound it. -/
def Device.partOf (d : Device) (func : Nat) : Option Nat :=
  if func = 0 then some 0 else d.functions.getD (func - 1) none

/-- A function bound to a partition, the lowest, whose requester ID the partition's requests to the host carry (R414). -/
def Device.functionOf (d : Device) (part : Nat) : Option Nat := (List.range 17).find? fun f => d.partOf f == some part

/-- A request to host memory goes out for a context (R414). -/
def askHost (ctxid : Nat) : Act Unit := do
  let s ← now
  modDevice fun d => { d with requester := d.functionOf (s.dctx ctxid).desc.part }

/-- Traffic for an address of another package leaves by the link that its 4 KiB unit chooses (R417). -/
def sendFar (p o : Nat) : Act Unit := do
  match (← now).routeLink p (o / 4096) with
  | some l => modLink l fun x => { x with sent := some (p, o / 4096) }
  | none => pure ()

/-- What a successful translation leaves behind (R379, R381): after a walk A in the leaf (for a contiguous group, in its first
entry, R377), D before a first write, and the entry in the TLBs. A prefetch sets neither bit, so it installs an entry only where A
is set already. An access to host memory goes out with the requester ID of its partition (R414). -/
def useXlated (cluster : Nat) (x : Xlated) (write prefetch : Bool) (l1 : Bool := true) : Act Unit := do
  if isHost x.pa && !prefetch then askHost x.entry.ctxid
  else if isRemote x.pa && !prefetch then sendFar ((x.pa - 0xA_0000_0000_0000) / 2 ^ 41) ((x.pa - 0xA_0000_0000_0000) % 2 ^ 41)
  else pure ()
  if !x.walked then installTlb cluster x.entry l1
  else
    let s ← now
    let leaf := s.readN x.entry.leafAt 8
    let set := if prefetch then leaf else leaf ||| (if write then 0x60 else 0x20)
    if set != leaf then writeValue (locRange x.entry.leafAt 8) set else pure ()
    if bitAt set 5 then
      installTlb cluster { x.entry with flags := BitVec.ofNat 12 (x.entry.flags.toNat ||| (set &&& 0x60)) } l1
    else pure ()

/-! ### Retention hints in the L2 (R127) -/

/-- The L2 of the home die sees a line accessed with a hint: a hit with streaming or sticky replaces the recorded
hint, a miss allocates but under bypass. `l2` keeps the lines, most recently used first; a set is the lines of one
residue, 16 ways (Table 5.3). -/
def l2Victim (set : List (Nat × Hint)) : Option Nat :=
  let of (h : Hint) := (set.filter (·.2 == h)).getLast?
  match of .streaming with
  | some x => some x.1
  | none => match of .default with
    | some x => some x.1
    | none => (of .sticky).map (·.1)

/-- The set of a line: its slice of the die (R9), and the line's number in the slice's 1536 sets of 16 ways (log entry 90). -/
def l2Set (line : Nat) : Nat × Nat := ((Config.sliceOfVault (vaultOf line % 32)).toNat, line / 128 % 1536)

/-- Room for one more sticky line in a set: at most 12 are sticky, and the least recently used of them turns default first. -/
def demoteSticky (l2 : List (Nat × Hint)) (line : Nat) : List (Nat × Hint) :=
  let sticky := l2.filter fun x => l2Set x.1 == l2Set line && x.1 != line && x.2 == .sticky
  if sticky.length < 12 then l2
  else match sticky.getLast? with
    | some y => l2.map fun x => if x.1 == y.1 then (x.1, Hint.default) else x
    | none => l2

def l2Access (l2 : List (Nat × Hint)) (line : Nat) (h : Hint) : List (Nat × Hint) :=
  let l2 := if h == .sticky then demoteSticky l2 line else l2
  match l2.find? (·.1 == line) with
  | some (_, old) =>
    let new := if h == .streaming || h == .sticky then h else old
    (line, new) :: l2.filter (·.1 != line)
  | none =>
    if h == .bypass then l2
    else
      let inSet (x : Nat × Hint) : Bool := l2Set x.1 == l2Set line
      let set := l2.filter inSet
      let l2 := if set.length < 16 then l2 else
        match l2Victim set with
        | some v => l2.filter (·.1 != v)
        | none => l2
      (line, h) :: l2

/-- The hint of an access to a page: hint 0b00 takes the page's default (R127), and a page of policy 1 or 2 has none (R380). -/
def pageHint (h : Hint) (t : TlbEntry) : Hint :=
  if bits t.flags.toNat 10 9 != 0 then .default
  else if h == .default then Hint.ofCode t.ret.toNat else h

def touchL2 (loc : Nat) (h : Hint) : Act Unit := do
  if isDram loc then modDie (locDie loc) fun d => { d with l2 := l2Access d.l2 (loc / 128 * 128) h } else pure ()

/-! ### Landing regions (R283 to R293) -/

/-- Byte `loc` lies in the region's uncommitted part: it is dst(i) for an index i ≥ COUNT (R284). The geometry's
pitches keep rows and planes apart (R278), so the index is found by division. -/
def Bound.covers (b : Bound) (loc : Nat) : Bool :=
  b.armed &&
  match b.dstLoc with
  | none => false
  | some base =>
    if loc < base then false
    else
      let off := loc - base
      let z := if b.zlen ≤ 1 || b.dstZ = 0 then 0 else off / b.dstZ
      let offz := off - z * b.dstZ
      let y := if b.ylen ≤ 1 || b.dstY = 0 then 0 else offz / b.dstY
      let x := offz - y * b.dstY
      z < max b.zlen 1 && y < max b.ylen 1 && x < b.inner && b.count ≤ (z * b.ylen + y) * b.inner + x

/-- All bound copies of the device: workgroup, watermark and copy. -/
def State.bounds (s : State) : List (Nat × Nat × Bound) :=
  (List.range s.wgs.length).flatMap fun i =>
    (List.range 16).filterMap fun j =>
      match ((s.wg i).marks.getD j Watermark.start).bound with
      | some b => some (i, j, b)
      | none => none

/-- What the armed regions do to an access of an agent that is no copy. -/
inductive Landing | clear | held | poisoned
  deriving DecidableEq, Repr

/-- A poisoned copy's region stops the agent, any other holds it (R284, R293). -/
def State.landing (s : State) (locs : List Nat) : Landing :=
  let hits := s.bounds.filter fun (_, _, b) => b.armed && locs.any b.covers
  if hits.isEmpty then .clear
  else if hits.any fun (_, _, b) => b.state == .poisoned then .poisoned else .held

/-- For a copy or CRED of stamp `st`: only regions of lower stamps apply (R286). -/
def State.copyHeld (s : State) (st : Word) (locs : List Nat) : Bool :=
  s.bounds.any fun (_, _, b) => b.armed && b.stamp.toNat < st.toNat && locs.any b.covers

/-! ### Accesses of a generator (R133, R146) -/

/-- The outcome of checking a generator access. -/
inductive GenAccess
  | trap (r : TrapRecord)
  | wait (why : StallReason)
  | ok (locs : List Nat) (x : Option Xlated)
  deriving DecidableEq, Repr

/-- An access of context k to the n bytes at `addr`, aligned to `align`: alignment and decode (R132, R133), then
translation, physical decode and boundary tables (R388, R391), then landing regions (R284, R293), then poison for
an access that consumes what it reads (R28). -/
def State.genAccess (s : State) (k : Nat) (addr : Word) (n align : Nat) (a : Access)
    (consumes : Bool) : GenAccess :=
  let c := s.ctx k
  let w := s.wg c.wg
  let d := (s.dctx c.ctxid).desc
  let va := addr.toNat
  let fault (kind : Nat) : GenAccess := .trap (accessRecord 7 addr kind)
  let settle (locs : List Nat) (x : Option Xlated) : GenAccess :=
    match s.landing locs with
    | .poisoned => .trap (accessRecord 12 addr 5)
    | .held => .wait .landing
    | .clear =>
      if s.held locs then .wait .held
      else if consumes && s.poisoned locs then .trap (accessRecord 18 addr 5) else .ok locs x
  if va % align ≠ 0 then .trap (accessRecord 8 addr 4)
  else
    match s.place w false va n with
    | none => fault 0
    | some (.priv _) => fault 0
    | some (.at loc) =>
      if s.admits d.part c.ctxid a.need loc loc n then settle (locRange loc n) none else fault 3
    | some (.paged v) =>
      match s.translate (ctxCluster k) c.ctxid v a (c.mode == .user) with
      | .error f =>
        if f.kind == 0 then .wait .held
        else if f.kind == 5 then .trap (accessRecord 18 addr 5)
        else fault (if f.kind == 2 then 2 else if f.kind == 4 then 3 else 1)
      | .ok x =>
        match physLoc x.pa with
        | none => fault 3
        | some loc =>
          if !s.admits d.part c.ctxid a.need loc x.pa n then fault 3
          else if isRemote loc && s.remoteWay loc == .fails then fault 3
          else if isRemote loc && s.remoteWay loc == .waits then .wait .held
          else if isHost loc && a == .store then .ok (locRange loc n) (some x)
          else if isHost loc || isRemote loc then
            match c.reply with
            | some true => .ok (locRange loc n) (some x)
            | some false => fault 3
            | none => .wait .host
          else settle (locRange loc n) (some x)

/-- The line of the scalar cache that an access needs, when its page is cached (R147, R380). -/
def cachedLine (x : Option Xlated) (addr : Word) : Option Nat :=
  match x with
  | some x => if bits x.entry.flags.toNat 10 9 == 0 then some (addr.toNat / 64 * 64) else none
  | none => none

end Sys2Proof.Machine
end

