-- ==== Sys2Proof/Machine/Visibility.lean ====
section
/-! DEFINITION. Ordering and visibility (10_ordering): which write a read returns (R258, R264), where a write enters the coherence
order, and what fences, releases, acquires and the edges of a family make visible (R261 to R275).

`State.mem` holds the newest write of every byte in coherence order. `State.vis` keeps the writes that some agent may still read past.
A read goes past the newest writes that its agent has neither read on its path nor had made visible to it, as many as `picks` says. -/
namespace Sys2Proof.Machine

/-! ### Agents, scopes and paths -/

def pathLs : Nat := 0
def pathScl : Nat := 1
def pathTl : Nat := 2
def pathCp : Nat := 3
def onePath (p : Nat) : Paths := BitVec.ofNat 4 (2 ^ p)
def allPaths : Paths := 15

def MemAgent.wg : MemAgent → Nat
  | .role w _ => w
  | .wave w _ => w
  | .copy w _ => w
  | .matrix w _ => w
  | .core => 0
  | .spill _ => 0
  | .words w _ _ => w
  | .accessed w _ => w
  | .emits w _ => w
  | .next w _ _ => w

/-- The core and the spill sequencers belong to no workgroup: a scope below the device does not reach them. -/
def MemAgent.apart : MemAgent → Bool
  | .core => true
  | .spill _ => true
  | _ => false

/-- The agents of context k, of wave v and of a command of a role (R252). -/
def State.ctxAgent (s : State) (k : Nat) : MemAgent := .role (s.ctx k).wg (s.ctx k).role
def State.waveAgent (s : State) (v : Nat) : MemAgent := .wave (s.wave v).wg (s.wave v).wix

/-- Agent y lies in the instance of a scope for agent x (R255, Table 10.1). -/
def State.inScope (s : State) (c : Scope) (x y : MemAgent) : Bool :=
  match c with
  | .wave => x == y
  | .workgroup => !x.apart && !y.apart && x.wg == y.wg
  | .gang => !x.apart && !y.apart && (s.wg x.wg).gang == (s.wg y.wg).gang
  | .die => !x.apart && !y.apart && dieOf (s.wg x.wg).cluster == dieOf (s.wg y.wg).cluster
  | .device => true
  | .system => true

/-- Scope-inclusive ordering operations (R256): a release, and an acquire of agent y at scope c. -/
def State.inclusive (s : State) (r : Release) (y : MemAgent) (c : Scope) : Bool :=
  s.inScope r.scope r.agent y && s.inScope c y r.agent

/-! ### Who accesses -/

/-- One access of an agent on a path: its family and mode, what else it may not read past (the edges that a word or a command carries),
and the carriers that learn what happens before it. -/
structure Actor where
  agent : MemAgent
  path : Nat
  family : MemAgent
  handler : Bool := false
  num : Nat := 0
  carries : List MemAgent := []
  learns : List MemAgent := []

/-- All that binds an access: what its agent knows, and what it carries. -/
def Actor.known (a : Actor) : List MemAgent := a.agent :: a.carries

/-! ### What an agent knows of a write -/

/-- The write happens before the later accesses of x: it is x's own, or an edge has made it so. -/
def MemWrite.before (w : MemWrite) (x : MemAgent) : Bool := w.agent == x || w.seen.any (·.1 == x)

/-- The paths on which the write is visible to x (R264). -/
def MemWrite.pathsOf (w : MemWrite) (x : MemAgent) : Paths :=
  w.seen.foldl (fun m p => if p.1 == x then m ||| p.2 else m) (if w.agent == x then onePath w.path else 0)

/-- The same for several at once. -/
def MemWrite.known (w : MemWrite) (xs : List MemAgent) : Bool := xs.any w.before
def MemWrite.pathsTo (w : MemWrite) (xs : List MemAgent) : Paths := xs.foldl (fun m x => m ||| w.pathsOf x) 0

/-- An access of these bytes reads this write or a later one: its agent has read it or written after it there on its path (R258), or it is
visible (R264). -/
def MemWrite.binds (w : MemWrite) (a : Actor) (locs : List Nat) : Bool :=
  (w.pathsTo a.known).getLsbD a.path ||
    w.readers.any fun r => r.1 == a.agent && r.2.1 == a.path && locs.any fun l => r.2.2.contains l

def MemWrite.touches (w : MemWrite) (locs : List Nat) : Bool := w.cells.any fun c => locs.contains c.1

/-- Make a write visible to x on more paths. -/
def MemWrite.show (w : MemWrite) (x : MemAgent) (ps : Paths) : MemWrite :=
  if w.pathsOf x ||| ps == w.pathsOf x && w.before x then w
  else { w with seen := (x, w.pathsOf x ||| ps) :: w.seen.filter (·.1 != x) }

/-- Apply an edge: `f` gives the paths on which a write becomes visible to each agent of `ys`, or none where the edge does not carry it. -/
def Visibility.edge (v : Visibility) (ys : List MemAgent) (f : MemWrite → Option Paths) : Visibility :=
  { v with writes := v.writes.map fun w => match f w with
      | some ps => ys.foldl (fun w y => w.show y ps) w
      | none => w }

/-- The writes that happen before the later accesses of `xs`: what a release of theirs publishes. -/
def Visibility.ids (v : Visibility) (xs : List MemAgent) : List Nat := (v.writes.filter (·.known xs)).map (·.id)

/-- What `xs` know, with the paths on which it is visible to them. -/
def knownTo (xs : List MemAgent) (w : MemWrite) : Option Paths := if w.known xs then some (w.pathsTo xs) else none

/-- The carriers of an access learn what happens before it. -/
def Visibility.learn (v : Visibility) (a : Actor) : Visibility :=
  if a.learns.isEmpty then v else v.edge a.learns (knownTo a.known)

/-! ### Release sequences (R260) -/

/-- The release sequences to which the first of these writes belongs, the newest of a location first: those it heads, and those of the
write before it that it continues, as an atomic of any agent or as a write of the head's agent on its path. -/
def headsOf : List MemWrite → List Release
  | [] => []
  | w :: older => (w.heads ++ (headsOf older).filter fun r => w.rmw || (r.agent == w.agent && r.paths.getLsbD w.path)).dedup

/-! ### Reads -/

/-- The value of a byte without the newest writes: each puts back what it overwrote. -/
def undo (undone : List MemWrite) (l : Nat) (b : Byte) : Byte :=
  undone.foldl (fun b w => match w.cells.find? (·.1 == l) with
    | some c => c.2.2
    | none => b) b

/-- The newest writes to these bytes that an access may read past. -/
def Visibility.past (v : Visibility) (a : Actor) (locs : List Nat) : List MemWrite :=
  (v.writes.filter (·.touches locs)).takeWhile (! ·.binds a locs)

/-- A single-copy-atomic read (R254, R258, R264) that goes past n of them: its bytes, and the write it returns with those before it. -/
def Visibility.look (v : Visibility) (byte : Nat → Byte) (a : Actor) (n : Nat) (locs : List Nat) : List Byte × List MemWrite :=
  let undone := (v.past a locs).take n
  (locs.map fun l => undo undone l (byte l), (v.writes.filter (·.touches locs)).drop undone.length)

/-- A read has returned the first of these writes (R258), which an acquire fence may still make use of (R261). -/
def Visibility.noted (v : Visibility) (a : Actor) (locs : List Nat) (got : List MemWrite) : Visibility :=
  let ids := got.map (·.id)
  let heads := headsOf got
  { v with
    writes := if ids.isEmpty then v.writes else v.writes.map fun w =>
      if ids.contains w.id && !w.readers.contains (a.agent, a.path, locs) then { w with readers := (a.agent, a.path, locs) :: w.readers } else w
    reads := if heads.isEmpty then v.reads else (a.agent, a.path, heads) :: v.reads }

/-- Reads of units in no order among each other (R253): each may go past whatever the access may, and takes one choice. -/
def State.readUnits (s : State) (a : Actor) (units : List (List Nat)) : List (List Byte) × List Release × Visibility :=
  let r := units.foldl (fun acc u =>
    let x := s.vis.look s.byte a (acc.2.2.picks.headD 0) u
    (acc.1 ++ [x.1], acc.2.1 ++ headsOf x.2, { acc.2.2 with picks := acc.2.2.picks.tail }.noted a u x.2)) ([], [], s.vis)
  (r.1, r.2.1, r.2.2.learn a)

/-! ### Writes -/

/-- Newer writes take a value that an older one has put under them: the lowest of them at each byte now overwrites it. -/
def raise (above : List MemWrite) (cells : List (Nat × Byte)) : List MemWrite :=
  match above with
  | [] => []
  | w :: ws =>
    let mine := cells.filter fun c => !(ws.any (·.touches [c.1]))
    { w with cells := w.cells.map fun c => match mine.find? (·.1 == c.1) with
        | some m => (c.1, c.2.1, m.2)
        | none => c } :: raise ws cells

/-- The newest writes to these bytes under which a write of the access may enter the coherence order: none of them binds it or happens
before it (R258). -/
def Visibility.free (v : Visibility) (a : Actor) (locs : List Nat) : List MemWrite :=
  (v.writes.filter (·.touches locs)).takeWhile fun w => !w.binds a locs && !w.known a.known

/-- No atomic is the lowest of these writes at a byte: nothing comes between an atomic and what it has read (R259). -/
def fitsUnder (above : List MemWrite) (locs : List Nat) : Bool :=
  locs.all fun l => match (above.filter (·.touches [l])).getLast? with
    | some w => !w.rmw
    | none => true

/-- The writes under which a write enters that goes below n of them, or below the most that R259 allows. -/
def Visibility.place (v : Visibility) (a : Actor) (locs : List Nat) (n : Nat) : List MemWrite :=
  let free := v.free a locs
  ((List.range (min n free.length + 1)).reverse.map free.take).find? (fitsUnder · locs) |>.getD []

/-- How a write orders: as a release of some writes at a scope, and as an atomic. -/
structure WriteOrder where
  release : Option (Scope × List Nat) := none
  rmw : Bool := false

/-- The release sequences that a write of the access heads: its own, and those of its agent's release fences (R260, R261). -/
def Visibility.headedBy (v : Visibility) (a : Actor) (o : WriteOrder) : List Release :=
  let own := match o.release with
    | some (c, ids) => [{ agent := a.agent, scope := c, paths := onePath a.path, ids := ids : Release }]
    | none => []
  own ++ v.fences.filter fun r => r.agent == a.agent && r.paths.getLsbD a.path

/-- A single-copy-atomic write (R254) under the writes of `above`: the bytes it changes in memory, and what is kept of it. -/
def Visibility.insert (v : Visibility) (byte : Nat → Byte) (a : Actor) (o : WriteOrder) (above : List MemWrite)
    (cells : List (Nat × Byte)) : List (Nat × Byte) × Visibility :=
  let covered (l : Nat) : Bool := above.any (·.touches [l])
  let above := v.writes.filter fun w => above.any (·.id == w.id)
  let w : MemWrite :=
    { id := v.nextId, agent := a.agent, path := a.path, family := a.family, handler := a.handler, num := a.num
      prior := (v.writes.filter fun u => u.seen.any fun (p : MemAgent × Paths) => a.known.contains p.1).map (·.id)
      cells := cells.map fun c => (c.1, c.2, undo above c.1 (byte c.1))
      rmw := o.rmw, heads := v.headedBy a o, readers := [(a.agent, a.path, cells.map (·.1))], seen := [] }
  let raised := raise above cells
  let put (u : MemWrite) : MemWrite := match raised.find? (·.id == u.id) with
    | some r => r
    | none => u
  let rest := v.writes.map put
  let place := match above.getLast? with
    | some l => (rest.findIdx (·.id == l.id)) + 1
    | none => 0
  (cells.filter (! covered ·.1), { v with nextId := v.nextId + 1, writes := rest.take place ++ w :: rest.drop place })

/-- A plain write, which takes one choice. -/
def Visibility.write (v : Visibility) (byte : Nat → Byte) (a : Actor) (cells : List (Nat × Byte)) : List (Nat × Byte) × Visibility :=
  let above := v.place a (cells.map Prod.fst) (v.picks.headD 0)
  Visibility.insert { v with picks := v.picks.tail } byte a {} above cells

/-- Write units that do not overlap. -/
def State.writeUnits (s : State) (a : Actor) (units : List (List (Nat × Byte))) : List (Nat × Byte) × Visibility :=
  let r := units.foldl (fun acc u =>
    let r := acc.2.write s.byte a u
    (acc.1 ++ r.1, r.2)) ([], s.vis)
  (r.1, r.2.learn a)

/-! ### Accesses of an agent -/

def setVis (v : Visibility) : Act Unit := emit (.vis v)
def modVis (f : Visibility → Visibility) : Act Unit := do setVis (f (← now).vis)

/-- The units of an access: itself, or two of 8 bytes for one of 16 (R254). -/
def unitsOf {α : Type} (l : List α) : List (List α) := if l.length = 16 then [l.take 8, l.drop 8] else [l]

/-- The units of a transfer: the parts of 8 bytes that one aligned word holds (R254). -/
def wordUnits {α : Type} (key : α → Nat) : List α → List (List α)
  | [] => []
  | x :: l => match wordUnits key l with
    | [] => [[x]]
    | u :: us => match u with
      | [] => [x] :: us
      | y :: _ => if key x / 8 == key y / 8 then (x :: u) :: us else [x] :: u :: us

/-- Read; the releases that the returned writes carry are kept for an acquire. -/
def readBy (a : Actor) (units : List (List Nat)) : Act (List (List Byte) × List Release) := do
  let r := (← now).readUnits a units
  setVis r.2.2
  tallySpad units.flatten
  pure (r.1, r.2.1)

/-- What a write leaves in memory and of the past; poison clears where a unit is overwritten in full (R28). -/
def keepWrite (locs : List Nat) (r : List (Nat × Byte) × Visibility) : Act Unit := do
  emits (r.1.map fun c => .mem c.1 c.2)
  setVis r.2
  clearPoison locs

/-- The same for bytes that may lie in a scratchpad. -/
def settleWrite (locs : List Nat) (r : List (Nat × Byte) × Visibility) : Act Unit := do
  tallySpad locs
  keepWrite locs r

/-- Write. -/
def writeBy (a : Actor) (units : List (List (Nat × Byte))) : Act Unit := do
  settleWrite (units.flatMap fun u => u.map (·.1)) ((← now).writeUnits a units)

/-- Write one unit in a given order and under given writes. -/
def writeUnder (a : Actor) (o : WriteOrder) (above : List MemWrite) (cells : List (Nat × Byte)) : Act Unit := do
  let s ← now
  let r := s.vis.insert s.byte a o above cells
  settleWrite (cells.map (·.1)) (r.1, r.2.learn a)

/-- Bytes that the core or a spill sequencer writes, 8 at a time (R254): the newest in coherence order, which agents may still read past. -/
def State.newest (s : State) (x : MemAgent) (locs : List Nat) (bytes : List Byte) : List (Nat × Byte) × Visibility :=
  (wordUnits Prod.fst (locs.zip bytes)).foldl (fun acc u =>
    let r := acc.2.insert s.byte { agent := x, path := pathScl, family := x } {} [] u
    (acc.1 ++ r.1, r.2)) ([], s.vis)
def writeNewest (x : MemAgent) (locs : List Nat) (bytes : List Byte) : Act Unit := do
  settleWrite locs ((← now).newest x locs bytes)

/-! ### Synchronisation (R261) -/

/-- The writes that releases publish to agent x, which acquires at a scope (R256). -/
def State.published (s : State) (x : MemAgent) (c : Scope) (rs : List Release) : List Nat :=
  (rs.filter fun r => s.inclusive r x c).flatMap (·.ids)

/-- Agents ys acquire what releases publish: every write of theirs is visible on every path (R264). -/
def State.acquired (s : State) (x : MemAgent) (c : Scope) (ys : List MemAgent) (rs : List Release) : Visibility :=
  let ids := s.published x c rs
  s.vis.edge ys fun w => if ids.contains w.id then some allPaths else none

/-- An acquire read at scope c (R261); it is itself an access that what it acquires comes before. -/
def acquireBy (a : Actor) (c : Scope) (rs : List Release) : Act Unit := do
  if rs.isEmpty then pure () else setVis ((← now).acquired a.agent c (a.agent :: a.learns) rs)

/-- A fence of agent x: the paths and the scope it names, the writes of its before set with the paths on which each is visible there,
and who carries its after set (R267, R268, R269). It is a path fence, a release fence and an acquire fence, and with `sc` it joins the
order of R262. -/
def State.fenced (s : State) (x : MemAgent) (ps : Paths) (c : Scope) (sc : Bool) (before : MemWrite → Option Paths)
    (ys : List MemAgent) : Visibility :=
  let v := s.vis.edge ys fun w => (before w).map fun q =>
    (q ||| onePath w.path) ||| (if ps.getLsbD w.path then ps else 0)
  let reads := (v.reads.filter fun r => r.1 == x && ps.getLsbD r.2.1).flatMap (·.2.2)
  let rs := reads ++ if sc then v.sc else []
  let ids := s.published x c rs
  let v := { s with vis := v }.acquired x c ys rs
  let r : Release := { agent := x, scope := c, paths := ps, ids := (v.writes.filter fun w => (before w).isSome || ids.contains w.id).map (·.id) }
  { v with
    fences := r :: v.fences.filter fun f => !(f.agent == x && f.paths == ps && f.scope == c)
    sc := if sc then r :: v.sc else v.sc }

/-! ### The edges of a family (R266) -/

/-- What a role's words, live and of its handler, have known at their accesses. -/
def wordCarriers : MemAgent → List MemAgent
  | .role g r => [.words g r false, .words g r true]
  | _ => []
/-- What the words that a role emits from now on carry. -/
def emitCarrier : MemAgent → List MemAgent
  | .role g r => [.emits g r]
  | _ => []
/-- What the commands that a role issues from now on carry on a path. -/
def nextCarrier (p : Nat) : MemAgent → List MemAgent
  | .role g r => [.next g r p]
  | _ => []
/-- An acquire of role x that is no access orders its later accesses, and by the issue edge its later commands (Table 16.5). -/
def waitersOf (x : MemAgent) : List MemAgent := x :: nextCarrier pathTl x ++ nextCarrier pathCp x
/-- What role x knew at its own latest access. -/
def accessCarrier : MemAgent → List MemAgent
  | .role g r => [.accessed g r]
  | _ => []

/-- A write of a word that role x has emitted. -/
def MemWrite.wordOf (w : MemWrite) (x : MemAgent) : Bool :=
  w.family == x && match w.agent with
    | .wave _ _ => true
    | _ => false

/-- The accesses of these words of role x and what happens before them, with the paths it is visible on. -/
def wordsBefore (x : MemAgent) (carriers : List MemAgent) (mine : MemWrite → Bool) (w : MemWrite) : Option Paths :=
  let own := w.wordOf x && mine w
  if own || w.known carriers then some (w.pathsTo carriers ||| if own then onePath w.path else 0) else none

/-- The accesses of every word that role x has emitted. -/
def emittedBefore (x : MemAgent) : MemWrite → Option Paths := wordsBefore x (wordCarriers x) fun _ => true

/-- The union of two before sets. -/
def joinSets (a b : MemWrite → Option Paths) (w : MemWrite) : Option Paths :=
  match a w, b w with
  | some p, some q => some (p ||| q)
  | some p, none => some p
  | none, q => q

/-- The before set of x's own accesses. -/
def ownBefore (x : MemAgent) : MemWrite → Option Paths := knownTo [x]

/-- A GFENCE of context k (R268) with the path mask of its control word: the context's own accesses are in its sets with SCL, those of its
words with the stream flag, and with TL or CP those of the commands that it has seen complete, and of the commands it issues later. -/
def State.gfenced (s : State) (k : Nat) (ps : Paths) (c : Scope) (sc : Bool) : Visibility :=
  if ps == 0 then s.vis
  else
    let x := s.ctxAgent k
    let none_ : MemWrite → Option Paths := fun _ => none
    let commands (w : MemWrite) : Option Paths := if 2 ≤ w.path && ps.getLsbD w.path then ownBefore x w else none
    let own := if ps.getLsbD pathScl then ownBefore x else commands
    let words := if ps.getLsbD pathLs then emittedBefore x else none_
    let after (p : Nat) (l : List MemAgent) : List MemAgent := if ps.getLsbD p then l else []
    s.fenced x ps c sc (joinSets own words)
      (after pathScl [x] ++ after pathLs (emitCarrier x) ++ after pathTl (nextCarrier pathTl x) ++ after pathCp (nextCarrier pathCp x))

/-- A VFENCE by a word of wave v that names the load/store path (R269); without it, it orders none of the wave's accesses. -/
def State.vfenced (s : State) (a : Actor) (ps : Paths) (c : Scope) (sc : Bool) : Visibility :=
  if ps.getLsbD pathLs then s.fenced a.agent ps c sc (knownTo a.known) [a.agent] else s.vis

/-- The drain edge of SDRAIN (R266, R267, R270): the words emitted before it happen before the context's accesses and words after
it, with the load/store and scalar paths named. -/
def State.drainEdge (s : State) (k : Nat) : Visibility :=
  let x := s.ctxAgent k
  let ps : Paths := onePath pathLs ||| onePath pathScl
  s.vis.edge (x :: emitCarrier x) fun w => (emittedBefore x w).map fun q =>
    (q ||| onePath w.path) ||| (if ps.getLsbD w.path then ps else 0)

/-- The issue edge (R266): the context's accesses happen before those of the command on path p, and so does what a fence has put before its
next commands there; with acquire, after the fence of R271. -/
def State.issueEdge (s : State) (k : Nat) (cmd : MemAgent) (p : Nat) (acquire : Option Scope) : Visibility :=
  let x := s.ctxAgent k
  let mine (w : MemWrite) : Option Paths := if w.agent == x then some (w.pathsOf x) else none
  match acquire with
  | some c => (s.gfenced k allPaths c false).edge [cmd] (knownTo (x :: nextCarrier p x))
  | none => s.vis.edge [cmd] (joinSets mine (knownTo (accessCarrier x ++ nextCarrier p x)))

/-- A command's release, after its last access (R272). -/
def State.commandRelease (s : State) (cmd : MemAgent) (c : Scope) : Visibility :=
  { s.vis with done := { agent := cmd, scope := c, paths := allPaths, ids := s.vis.ids [cmd] } :: s.vis.done }

/-- What a wait that observes a command's completion orders (R266, R272): the completion edge over the writes that `covers` admits, and
with `sync` the acquire of a release whose scope holds the waiter. -/
def State.completionEdge (s : State) (cmd x : MemAgent) (sync : Bool) (covers : MemWrite → Bool := fun _ => true) : Visibility :=
  let ids := if sync then (s.vis.done.filter fun r => r.agent == cmd && s.inScope r.scope r.agent x).flatMap (·.ids) else []
  let v := if ids.isEmpty then s.vis else s.vis.edge (waitersOf x) fun w => if ids.contains w.id then some allPaths else none
  v.edge [x] fun w => if covers w then (ownBefore cmd w).map (· ||| onePath w.path) else none

/-- Everything that happens before the accesses of `xs` becomes visible on every path to `ys`: the edges of R274 into a handler, of
R275, and of one matrix command to the next (R238). -/
def State.fullEdge (s : State) (xs ys : List MemAgent) : Visibility :=
  s.vis.edge ys fun w => if w.known xs then some allPaths else none

/-- The handler words of context k happen before the later words of wave v (R274). -/
def State.handlerWordEdge (s : State) (k v : Nat) : Visibility :=
  let x := s.ctxAgent k
  let c := s.ctx k
  s.vis.edge [s.waveAgent v] fun w => (wordsBefore x [.words c.wg c.role true] (·.handler) w).map fun _ => allPaths

/-- So do the accesses of the handler of context k (R274): as it returns, and what happens before them. -/
def State.handlerEdge (s : State) (k v : Nat) : Visibility :=
  let x := s.ctxAgent k
  { s with vis := s.handlerWordEdge k v }.vis.edge [s.waveAgent v] fun w =>
    if (w.agent == x && w.handler) || w.seen.any (·.1 == x) then some allPaths else none

/-- Every write so far is visible to these agents: a start that follows all of it. -/
def State.seeAll (s : State) (ys : List MemAgent) : Visibility := s.vis.edge ys fun _ => some allPaths

/-- The counted writes of a family up to an issue count, visible to a consumer on the scalar and load/store paths, and what happens
before them (R320). -/
def State.stampEdge (s : State) (st : Stamp) (ys : List MemAgent) : Visibility :=
  let counted (w : MemWrite) : Bool := w.family == .role st.wg st.role && w.num != 0 && w.num ≤ st.count && w.path ≤ 1
  let own := s.vis.writes.filter counted
  s.vis.edge ys fun w =>
    if counted w then some (onePath pathLs ||| onePath pathScl)
    else if own.any (·.prior.contains w.id) then some (own.foldl (fun ps u => ps ||| w.pathsOf u.agent) 0) else none

/-! ### Barriers (R371) -/

/-- An arrival of a phase publishes what happens before the arriving agents. -/
def Visibility.arrive (v : Visibility) (lvl owner num phase : Nat) (ids : List Nat) : Visibility :=
  { v with phases := { lvl := lvl, owner := owner, num := num, phase := phase, ids := ids } :: v.phases }

/-- A wait that observes the completion of a phase acquires all its arrivals. -/
def Visibility.waited (v : Visibility) (lvl owner num phase : Nat) (ys : List MemAgent) : Visibility :=
  let ids := (v.phases.filter fun r => r.lvl == lvl && r.owner == owner && r.num == num && r.phase ≤ phase).flatMap (·.ids)
  v.edge ys fun w => if ids.contains w.id then some allPaths else none

end Sys2Proof.Machine
end

