-- ==== Sys2Proof/Machine/Access.lean ====
section
/-! DEFINITION. The scalar path (06_generator): LD, ST (R146, R147), AMO (R148), GPREF and DPREF (R161, R389), the
line fills of the caches (R137, R147), the walks of prefetches (R374, R382) and the completion of scalar accesses
(R140, R319). -/
namespace Sys2Proof.Machine

/-! ### Caches and fills -/

/-- Insert an entry as the newest of its set, which keeps at most `ways` entries. -/
def cacheInsert {α : Type} (same : α → Bool) (ways : Nat) (x : α) (l : List α) : List α :=
  x :: l.filter (! same ·) ++ (l.filter same).take (ways - 1)

def setOf (line sets : Nat) : Nat := line / 64 % sets

/-- Start a fill of the instruction cache: at most 8 are outstanding (R137). -/
def startIcFill (cluster ctxid line pa : Nat) (hint : Hint) (waiter : Option Nat) : Act Unit :=
  modCluster cluster fun c =>
    if c.icFills.length < 8 && !(c.icFills.any fun f => f.ctxid == ctxid && f.line == line)
        && !(c.icache.any fun l => l.ctxid == ctxid && l.line == line) then
      { c with icFills := c.icFills ++ [{ ctxid := ctxid, line := line, pa := pa, waiter := waiter, hint := hint }] }
    else c

/-- Start a fill of the scalar data cache. -/
def startDcFill (cluster ctxid line pa : Nat) (hint : Hint) (waiter : Option Nat) : Act Unit :=
  modCluster cluster fun c =>
    if c.dcFills.length < 8 && !(c.dcFills.any fun f => f.ctxid == ctxid && f.line == line)
        && !c.dcache.contains (ctxid, line) then
      { c with dcFills := c.dcFills ++ [{ ctxid := ctxid, line := line, pa := pa, waiter := waiter, hint := hint }] }
    else c

/-- Fill i is outstanding, and nothing holds its line. -/
def State.fillReady (s : State) (fills : List Fill) (i : Nat) : Bool :=
  match fills[i]? with
  | some f => !((physLoc f.pa).any fun l => s.held [l])
  | none => false
/-- A line of code from host memory ends by its completion instead (R414). -/
def State.codeFillReady (s : State) (cluster i : Nat) : Bool :=
  let fills := (s.cluster cluster).icFills
  s.fillReady fills i && !fills[i]?.any fun f => isHost f.pa

/-- ICACHE_LINE_FILL: fill i of a cluster ends (R137). A line that holds poison is not kept; the context that waits
for it takes the data-poison trap at its word. A line whose row is being copied waits (R25). -/
def execIcacheLineFill (cluster i : Nat) (s : State) : Result :=
  event "ICACHE_LINE_FILL" (·.codeFillReady cluster i) (do
    match (s.cluster cluster).icFills[i]? with
    | none => pure ()
    | some f =>
      modCluster cluster fun c => { c with icFills := c.icFills.eraseIdx i }
      let locs := match physLoc f.pa with
        | some l => locRange l 64
        | none => []
      if s.poisoned locs then
        match f.waiter with
        | some k => modCtx k fun c => { c with fetched := (f.line, .poison) :: c.fetched }
        | none => pure ()
      else
        touchL2 (locs.headD 0) f.hint
        modCluster cluster fun c =>
          { c with icache := cacheInsert (fun l => setOf l.line 256 == setOf f.line 256) 4
                     { ctxid := f.ctxid, line := f.line, bytes := locs.map s.byte } c.icache }) s

/-- DCACHE_LINE_FILL: fill i of a cluster's scalar cache ends (R147). -/
def execDcacheLineFill (cluster i : Nat) (s : State) : Result :=
  event "DCACHE_LINE_FILL" (fun s => s.fillReady (s.cluster cluster).dcFills i) (do
    match (s.cluster cluster).dcFills[i]? with
    | none => pure ()
    | some f =>
      touchL2 ((physLoc f.pa).getD dramEnd) f.hint
      modCluster cluster fun c =>
        { c with dcFills := c.dcFills.eraseIdx i,
                 dcache := cacheInsert (fun l => setOf l.2 256 == setOf f.line 256) 4 (f.ctxid, f.line) c.dcache }) s

/-! ### Loads, stores and atomics -/

/-- The access is performed: TLB entry and A and D bits stand, and a host reply has been used. -/
def settleAccess (k : Nat) (x : Option Xlated) (write : Bool) : Act Unit := do
  match x with
  | some x => useXlated (ctxCluster k) x write false
  | none => pure ()
  let c := (← now).ctx k
  if c.reply.isSome then setCtx k { c with reply := none } else pure ()

/-- The hint of the page behind a generator access, which carries 0b00 (R127). -/
def genHint (x : Option Xlated) : Hint :=
  match x with
  | some x => pageHint .default x.entry
  | none => .default

def ldBytes : LdSize → Nat
  | .b => 1 | .h => 2 | .w => 4 | .d => 8 | .bn => 1 | .hn => 2 | .wn => 4
/-- The extension of a loaded value (Table 6.5). -/
def ldExtend (z : LdSize) (v : Nat) : Word :=
  match z with
  | .b => (BitVec.ofNat 8 v).signExtend 64
  | .h => (BitVec.ofNat 16 v).signExtend 64
  | .w => (BitVec.ofNat 32 v).signExtend 64
  | .d => BitVec.ofNat 64 v
  | .bn => BitVec.ofNat 64 (v % 2 ^ 8)
  | .hn => BitVec.ofNat 64 (v % 2 ^ 16)
  | .wn => BitVec.ofNat 64 (v % 2 ^ 32)
def stBytes : StSize → Nat
  | .b => 1 | .h => 2 | .w => 4 | .d => 8

/-- A cached line that a load needs and the scalar cache does not hold (R147, R380). -/
def State.dcMiss (s : State) (k : Nat) (x : Option Xlated) (addr : Word) : Option (Nat × Nat) :=
  match cachedLine x addr, x with
  | some line, some x =>
    if (s.cluster (ctxCluster k)).dcache.contains ((s.ctx k).ctxid, line) then none
    else some (line, x.pa - addr.toNat % 64)
  | _, _ => none

/-- Context k on the scalar path; a write counts under R319. -/
def State.scalarActor (s : State) (k : Nat) : Actor :=
  { agent := s.ctxAgent k, path := pathScl, family := s.ctxAgent k, handler := (s.ctx k).mode == .handler, num := (s.ctx k).issued + 1
    learns := accessCarrier (s.ctxAgent k) }

/-- A load of these bytes returns later (R140): the choice exceeds what it may read now. -/
def State.loadsLater (s : State) (k : Nat) (locs : List Nat) : Bool :=
  (s.vis.past (s.scalarActor k) locs).length < s.vis.picks.headD 0

/-- LD (R146): the access with every check, then the value extended into d. The value is one that R264 lets it return; a load may also
issue now and return later, so that it can read what words emitted after it write (R19, R266). -/
def execLd (z : LdSize) (d a : Reg) (i : BitVec 12) (s : State) : Result := commit (do
  let k := s.curCtx
  let addr := s.rd a + imm12 i
  match s.genAccess k addr (ldBytes z) (ldBytes z) .load true with
  | .trap r => trapNow r
  | .wait why => stallCur why
  | .ok locs x =>
    settleAccess k x false
    match s.dcMiss k x addr with
    | some (line, pa) =>
      startDcFill (ctxCluster k) (s.ctx k).ctxid line pa (genHint x) (some k)
      stallCur .dcache
    | none =>
      if (cachedLine x addr).isSome then pure () else touchL2 (locs.headD dramEnd) (genHint x)
      if s.loadsLater k locs then
        modVis fun v => { v with picks := v.picks.tail }
        modCtx k fun c => Context.adv { c with loads := c.loads ++ [{ bank := c.inBank d.toNat, dst := d.toNat, size := z, locs := locs }] } 4
      else
        let r ← readBy (s.scalarActor k) [locs]
        finish d (ldExtend z (leNat (r.1.headD [])))) s

/-- ST (R146): the low bytes of s[d], written through (R147). It is a counted write of the context (R319). -/
def execSt (z : StSize) (d a : Reg) (i : BitVec 12) (s : State) : Result := commit (do
  let k := s.curCtx
  let addr := s.rd a + imm12 i
  match s.genAccess k addr (stBytes z) (stBytes z) .store false with
  | .trap r => trapNow r
  | .wait why => stallCur why
  | .ok locs x =>
    settleAccess k x true
    touchL2 (locs.headD dramEnd) (genHint x)
    writeBy (s.scalarActor k) [locs.zip (leBytes locs.length (s.rd d).toNat)]
    modCtx k fun c => (c.count true 1).adv 4) s

/-- What memory becomes under an atomic operation on w-bit values; `none` for no write (Table 6.6). The level
selects fadd's NaN rule (R99, Table 4.8). -/
def atomicNew (op : AtomOp) (w : Nat) (level1 : Bool) (old b expect : Nat) : Option Nat :=
  let f := if w = 64 then f64 else f32
  match op with
  | .add => some (wrap w (old + b : Nat))
  | .min => some (if asInt w false old < asInt w false b then old else b)
  | .max => some (if asInt w false old < asInt w false b then b else old)
  | .minn => some (min old b)
  | .maxn => some (max old b)
  | .and => some (old &&& b)
  | .or => some (old ||| b)
  | .xor => some (old ^^^ b)
  | .xchg => some b
  | .fadd => some (f.add (fenv .rne level1 false) old b).1
  | .load => none
  | .store => some b
  | .cas => if old = expect then some b else none

/-- The old value as d receives it (R148). -/
def atomicOld (op : AtomOp) (wide : Bool) (old : Nat) : Word :=
  if wide then BitVec.ofNat 64 old
  else if op == .minn || op == .maxn || op == .fadd then BitVec.ofNat 64 (old % 2 ^ 32)
  else (BitVec.ofNat 32 old).signExtend 64

/-- Whether an order acquires on the read and releases on the write (R39, Table 2.6). -/
def acquires (o : Order) : Bool := o == .acquire || o == .acqRel
def releases (o : Order) : Bool := o == .release || o == .acqRel

/-- The value of these bytes past n newer writes. -/
def State.valuePast (s : State) (a : Actor) (locs : List Nat) (n : Nat) : Nat := leNat (s.vis.look s.byte a n locs).1

/-- An atomic operation that would go past n newer writes, and writes what `f` gives over a value (R259): how many it goes past, and the
writes under which it writes. One that writes nothing is a read; one that writes goes past no more than it may be put under. -/
def State.atomicTakes (s : State) (a : Actor) (locs : List Nat) (f : Nat → Option Nat) (n : Nat) : Nat × Option (List MemWrite) :=
  let above := s.vis.place a locs n
  if (f (s.valuePast a locs n)).isNone then (n, none)
  else (above.length, if (f (s.valuePast a locs above.length)).isNone then none else some above)

/-- Whether the atomic operation that comes next writes. -/
def State.atomicWrites (s : State) (a : Actor) (locs : List Nat) (f : Nat → Option Nat) : Bool :=
  (s.atomicTakes a locs f (s.vis.picks.headD 0)).2.isSome

/-- One atomic operation at scope c (R257, R259), which takes one choice: the value it returns, and the releases that its read acquires. Its
own release publishes `before`, and what it acquires. DESIGN CHOICE (log entry 117): one that only stores is an atomic too, so that it
continues a release sequence and does not end it (R259, R260). -/
def atomicBy (a : Actor) (c : Scope) (o : Order) (before : List Nat) (locs : List Nat) (f : Nat → Option Nat) :
    Act (Nat × List Release) := do
  let s ← now
  let t := s.atomicTakes a locs f (s.vis.picks.headD 0)
  modVis fun v => { v with picks := t.1 :: v.picks.tail }
  let r ← readBy a [locs]
  let old := leNat (r.1.headD [])
  let heads := if acquires o then r.2 else []
  match t.2, f old with
  | some above, some v =>
    let ids := before ++ s.published a.agent c heads
    writeUnder a { release := if releases o then some (c, ids) else none, rmw := true } above (locs.zip (leBytes locs.length v))
  | _, _ => pure ()
  pure (old, heads)

/-- AMO (R148): one indivisible read-modify-write on the scalar path; a write counts under R319. -/
def execAmo (wide : Bool) (sc : Scope) (ord : Order) (op : AtomOp) (d a b : Reg) (s : State) : Result := commit (do
  let k := s.curCtx
  let n := if wide then 8 else 4
  let w := 8 * n
  let addr := s.rd a
  match s.genAccess k addr n n .atomic (op != .store) with
  | .trap r => trapNow r
  | .wait why => stallCur why
  | .ok locs x =>
    let new (old : Nat) : Option Nat :=
      atomicNew op w (s.ctx k).compat old ((s.rd b).toNat % 2 ^ w) ((s.rd d).toNat % 2 ^ w)
    let me := s.scalarActor k
    settleAccess k x (s.atomicWrites me locs new)
    touchL2 (locs.headD dramEnd) (genHint x)
    let (old, heads) ← atomicBy me sc ord (s.vis.ids me.known) locs new
    acquireBy me sc heads
    if (new old).isSome then modCtx k fun c => c.count true 1 else pure ()
    if op == .store then finishNone else finish d (atomicOld op wide old)) s

/-- A load's value reaches its register; s0 discards it. -/
def Context.putLoad (c : Context) (l : ScalarLoad) (v : Word) : Context :=
  if l.dst = 0 then c
  else if l.bank then { c with bank := putAt 0 c.bank (l.dst - 24) v } else { c with s := putAt 0 c.s l.dst v }

/-- A load of context k returns (R140): what R264 lets it read by now. -/
def returnLoad (k : Nat) (l : ScalarLoad) : Act Unit := do
  let r ← readBy ((← now).scalarActor k) [l.locs]
  modCtx k fun c => Context.putLoad { c with loads := c.loads.tail } l (ldExtend l.size (leNat (r.1.headD [])))

/-- SCALAR_ACCESS_COMPLETE: the oldest of the context's own writes is performed at device scope (R140, R319), or its oldest load returns. -/
def execScalarAccessComplete (k : Nat) (s : State) : Result :=
  event "SCALAR_ACCESS_COMPLETE" (fun s => (s.ctx k).counted.any (·.scalar) || !(s.ctx k).loads.isEmpty) (
    match (s.ctx k).counted.find? (·.scalar), (s.ctx k).loads with
    | some w, _ => modCtx k (·.performed w.num)
    | none, l :: _ => returnLoad k l
    | none, [] => pure ()) s

/-! ### Prefetches -/

/-- Where a translated prefetch may go: DRAM that the tables admit; a POL 2 page drops it (R380, R389). -/
def State.prefetchPa (s : State) (ctxid : Nat) (a : Access) (x : Xlated) : Option Nat :=
  let d := (s.dctx ctxid).desc
  match dramLoc x.pa with
  | some loc =>
    if bits x.entry.flags.toNat 10 9 != 2 && s.admits d.part ctxid a.need loc x.pa 1 then some x.pa else none
  | none => none

/-- The fill that a prefetch starts once its page is known. -/
def prefetchFill (cluster ctxid va : Nat) (kind : MissKind) (x : Xlated) : Act Unit := do
  let s ← now
  let hint := pageHint .default x.entry
  match kind with
  | .gpref => match s.prefetchPa ctxid .fetch x with
    | some pa => startIcFill cluster ctxid (va / 64 * 64) (pa - va % 64) hint none
    | none => pure ()
  | .dpref => match s.prefetchPa ctxid .load x with
    | some pa =>
      if bits x.entry.flags.toNat 10 9 == 0 then startDcFill cluster ctxid (va / 64 * 64) (pa - va % 64) hint none else pure ()
    | none => pure ()
  | .vpref h => match s.prefetchPa ctxid .load x with
    | some pa =>
      let loc := (dramLoc pa).getD dramEnd
      if s.poisoned (locRange (loc / 128 * 128) 128) then pure () else touchL2 loc (pageHint h x.entry)
    | none => pure ()

def MissKind.access : MissKind → Access
  | .gpref => .fetch
  | _ => .load

/-- Two requests for one page of a context (R382). -/
def Miss.samePage (m w : Miss) : Bool := m.ctxid == w.ctxid && m.va / 4096 == w.va / 4096

/-- A request that misses: it joins a walk of its page, takes a walker, or queues (R382). -/
def Die.miss (d : Die) (m : Miss) : Die :=
  if d.walks.any m.samePage then { d with joined := d.joined ++ [m] }
  else if d.walks.length < 32 then { d with walks := d.walks ++ [m] }
  else { d with misses := d.misses ++ [m] }

/-- The queue hands its requests to free walkers in arrival order. -/
def Die.refill (d : Die) : Die := d.misses.foldl Die.miss { d with misses := [] }

/-- The TLB entry that a prefetch finds. -/
def State.prefetchHit (s : State) (cluster ctxid va : Nat) : Option TlbEntry :=
  ((s.cluster cluster).tlb ++ (s.die (dieOf cluster)).l2tlb).find? (·.covers ctxid va)

/-- Prefetches of these addresses find room: each hits a TLB, or the miss queue takes it (R382). -/
def State.prefetchRoom (s : State) (cluster ctxid : Nat) (vas : List Nat) (user : Bool) (kind : MissKind) : Bool :=
  let missing := vas.filter fun va => (s.prefetchHit cluster ctxid va).isNone
  let d := missing.foldl (fun d va =>
    d.miss { cluster := cluster, ctxid := ctxid, va := va, kind := kind, user := user }) (s.die (dieOf cluster))
  d.misses.length ≤ 1024

/-- A prefetch of a paged address: a TLB hit starts its fill; a miss goes to the die's walkers (R382, R389). -/
def startPrefetch (cluster ctxid va : Nat) (user : Bool) (kind : MissKind) : Act Unit := do
  let s ← now
  match s.prefetchHit cluster ctxid va with
  | some t =>
    if permitted t.flags.toNat kind.access user then
      installTlb cluster t true
      prefetchFill cluster ctxid va kind { pa := t.frame + (va - t.va), entry := t, walked := false }
    else pure ()
  | none =>
    modDie (dieOf cluster) fun d =>
      d.miss { cluster := cluster, ctxid := ctxid, va := va, kind := kind, user := user }

/-- The requests that a walk's result serves: those of its page, and those inside its leaf (R382). -/
def Miss.joins (m w : Miss) (leaf : Option TlbEntry) : Bool :=
  m.samePage w || (match leaf with
    | some t => t.covers m.ctxid m.va
    | none => false)

/-- The result of a walk for one request: its fill, or nothing when the walk or the permission fails (R389). -/
def State.missResult (s : State) (m : Miss) : Except XFail Xlated := s.walkFor true m.ctxid m.va m.kind.access m.user

def serveMiss (m : Miss) (r : Except XFail Xlated) : Act Unit :=
  match r with
  | .ok x => prefetchFill m.cluster m.ctxid m.va m.kind x
  | .error _ => pure ()

/-- The walk reads its tables: no row it needs is being copied (R25). -/
def State.walkReady (s : State) (die i : Nat) : Bool :=
  match (s.die die).walks[i]? with
  | some w => (match s.missResult w with
    | .error f => f.kind != 0
    | .ok _ => true)
  | none => false

/-- TLB_MISS_WALK: walk i of a die ends (R374, R382): it installs its entry and serves every request that joined
it; queued misses take the walker. -/
def execTlbMissWalk (die i : Nat) (s : State) : Result :=
  event "TLB_MISS_WALK" (fun s => s.walkReady die i) (do
    match (s.die die).walks[i]? with
    | none => pure ()
    | some w =>
      let r := s.missResult w
      let leaf ← (match r with
        | .ok x => do
          useXlated w.cluster x false true
          pure (some x.entry)
        | .error _ => pure none)
      let d := (← now).die die
      let waiting := d.joined ++ d.misses
      modDie die fun d =>
        { d with walks := d.walks.eraseIdx i, joined := d.joined.filter (! ·.joins w leaf),
                 misses := d.misses.filter (! ·.joins w leaf) }
      modDie die Die.refill
      each (w :: waiting.filter (·.joins w leaf)) fun m => do serveMiss m ((← now).missResult m)) s

/-- The address [lo, hi) of the code that a context may fetch (R31, R139, R300). -/
def State.codeExtent (s : State) (k : Nat) : Nat × Nat :=
  let c := s.ctx k
  if c.mode == .handler then
    let d := (s.dctx c.ctxid).desc
    (d.tvec.toNat, d.tvec.toNat + d.hext)
  else
    let h := (s.wg c.wg).header
    (h.addr, h.addr + h.extent)

/-- A generator prefetch of s[a] + imm12 (R161); with the miss queue full it waits (R382). -/
def generatorPrefetch (kind : MissKind) (a : Reg) (i : BitVec 12) (s : State) : Result := commit (do
  let k := s.curCtx
  let c := s.ctx k
  let va := (s.rd a + imm12 i).toNat
  let inCode := (s.codeExtent k).1 ≤ va && va < (s.codeExtent k).2
  if va < 2 ^ 48 && (kind != .gpref || inCode) then
    if s.prefetchRoom (ctxCluster k) c.ctxid [va] (c.mode == .user) kind then
      startPrefetch (ctxCluster k) c.ctxid va (c.mode == .user) kind
      finishNone
    else stallCur .held
  else finishNone) s

def execGpref (a : Reg) (i : BitVec 12) (s : State) : Result := generatorPrefetch .gpref a i s
def execDpref (a : Reg) (i : BitVec 12) (s : State) : Result := generatorPrefetch .dpref a i s

end Sys2Proof.Machine
end

