-- ==== Sys2Proof/Machine/Faults.lean ====
section
/-! DEFINITION. The fault queue of a context (R309, R385, R386): raising a record, posting it to the ring when a slot
is free, and freeing a slot by its answer; then the turns of the spill sequencer (R361). -/
namespace Sys2Proof.Machine

/-- Bytes of a structure: pairs of a value and its size, little-endian. -/
def layBytes (fields : List (Nat × Nat)) : List Byte := fields.flatMap fun p => leBytes p.2 p.1

/-- The bytes 0x00 to 0x2F of a fault record (Table 17.4). -/
structure FaultInfo where
  source : Nat
  kind : Nat
  access : Nat
  lvl : Nat
  role : Nat := 0
  index : Nat := 0
  va : Nat
  mask : Nat := 0
  ssn : Nat := 0
  wgid : Nat := 0
  op : Nat := 0
  flags : Nat := 0
  extra : Nat := 0

def FaultInfo.bytes (f : FaultInfo) (ctxid : Nat) : List Byte :=
  layBytes [(f.source, 1), (f.kind, 1), (f.access, 1), (f.lvl, 1), (ctxid, 2), (f.role, 1), (f.index, 1), (f.va, 8),
    (f.mask, 8), (f.ssn, 8), (f.wgid, 4), (f.op, 1), (f.flags, 1), (0, 2), (f.extra, 8)]

/-- Access codes of Table 17.4. -/
def Access.code : Access → Nat
  | .load => 0
  | .fetch => 0
  | .store => 1
  | .atomic => 2
  | .spill => 1
  | .reload => 0

/-- The locations of n bytes of the context's own space, for the core and the sequencers (supervisor), or why a page
or a table refuses them; the core's own accesses are not checked against the tables (R391). -/
def State.superLocs (s : State) (cluster ctxid va n : Nat) (a : Access) (checked : Bool) :
    Except XFail (List Nat) :=
  let part := (s.dctx ctxid).desc.part
  let step (i : Nat) : Except XFail Nat :=
    if 2 ^ 48 ≤ va + i then .error ⟨1, 4⟩ else
    match s.translateNow cluster ctxid (va + i) a false with
    | .error f => .error f
    | .ok x =>
      match physLoc x.pa with
      | none => .error ⟨4, 0⟩
      | some loc => if !checked || s.admits part ctxid a.need loc x.pa 1 then .ok loc else .error ⟨4, 0⟩
  (List.range n).foldr (fun i acc =>
    match step i with
    | .error f => .error f
    | .ok l => match acc with
      | .error f => .error f
      | .ok ls => .ok (l :: ls)) (.ok [])

/-- No row is being copied and no domain pauses, so that nothing is held. -/
def State.calm (s : State) : Bool := s.vaults.all (·.remapping.isEmpty) && s.regs.all (·.paused.isNone)

/-- An access of the core or a sequencer waits: a row that its table walks or its bytes need is being copied (R25). -/
def State.superHeld (s : State) (cluster ctxid va n : Nat) (a : Access) : Bool :=
  !s.calm && (List.range n).any fun i => match s.translateWith true cluster ctxid (va + i) a false true with
    | .error f => f.kind == 0
    | .ok x => match physLoc x.pa with
      | some l => s.held [l]
      | none => false

/-- The accessed and dirty bits, and the TLB entries, of the pages that such accesses used (R379, R381). -/
def usePages (cluster ctxid : Nat) (vas : List Nat) (a : Access) : Act Unit :=
  each ((vas.map (· / 4096 * 4096)).dedup) fun va => do
    match (← now).translateNow cluster ctxid va a false with
    | .ok x => useXlated cluster x a.writes false
    | .error _ => pure ()

/-- Slot n mod count is free when record n - count has been answered (R386). -/
def DevCtx.slotFree (d : DevCtx) (n : Nat) : Bool :=
  n < d.desc.faultCount || !(d.faults.any fun r => r.seq + d.desc.faultCount == n && r.answer.isNone)

/-- A vector fires in every function of a partition (R413). -/
def fireVector (part vec : Nat) : Act Unit :=
  modDevice fun d =>
    { d with msix := d.msix.mapIdx fun f m => if d.partOf f = some part then m.set vec (m.getD vec 0 + 1) else m }

/-- Post record `n` of a context: its bytes, the time, its number and its phase (Table 17.4), and MSI-X vector 1 when
the queue becomes non-empty (R413). A ring page that does not translate receives nothing (log entry 13). -/
def writeFault (ctxid n : Nat) : Act Unit := do
  let s ← now
  let d := s.dctx ctxid
  match d.faults.find? (·.seq == n) with
  | none => pure ()
  | some r =>
    let cnt := max d.desc.faultCount 1
    let bytes := r.bytes ++ layBytes [(s.dev.time, 8), (n, 4), ((n / cnt + 1) % 2, 4)]
    match s.superLocs 0 ctxid (d.desc.faultBase + 64 * (n % cnt)) 64 .store false with
    | .ok locs =>
      usePages 0 ctxid [d.desc.faultBase + 64 * (n % cnt)] .store
      writeNewest .core locs bytes
    | .error _ => pure ()
    if d.faults.all fun r => !r.posted || r.answer.isSome then fireVector d.desc.part 1 else pure ()
    modDctx ctxid fun d =>
      { d with faults := d.faults.map fun r => if r.seq == n then { r with posted := true } else r, fullRaised := false }

/-- The ring slot of record n cannot be written now (R25). -/
def State.faultHeld (s : State) (ctxid n : Nat) : Bool :=
  let d := (s.dctx ctxid).desc
  s.superHeld 0 ctxid (d.faultBase + 64 * (n % max d.faultCount 1)) 64 .store

/-- Post every waiting record that has a slot, in order; a full ring raises one event (R309). A record whose slot is held waits (R25). -/
def flushFaults (ctxid : Nat) : Act Unit := do
  let d := (← now).dctx ctxid
  let waiting := (d.faults.filter (! ·.posted)).map (·.seq)
  each waiting fun n => do
    let d := (← now).dctx ctxid
    if d.faults.any fun r => r.seq < n && !r.posted then pure ()
    else if d.slotFree n then
      if (← now).faultHeld ctxid n then pure () else writeFault ctxid n
    else if d.fullRaised then pure ()
    else
      raiseEvent d.desc.part 7 ctxid 3 0 0 0
      modDctx ctxid fun d => { d with fullRaised := true }

/-- Raise a fault record; its sequence number. -/
def raiseFault (ctxid : Nat) (src : FaultSource) (info : FaultInfo) : Act Nat := do
  let d := (← now).dctx ctxid
  modDctx ctxid fun d =>
    { d with faultSeq := d.faultSeq + 1,
             faults := d.faults ++ [{ seq := d.faultSeq, source := src, bytes := info.bytes ctxid, posted := false,
                                      answer := none }] }
  flushFaults ctxid
  pure d.faultSeq

/-- The kind that a fault record names (Table 17.4): a table entry that holds poison counts as malformed (log entry 107). -/
def XFail.recorded (f : XFail) : Nat := if f.kind = 5 then 3 else f.kind

/-! ### The spill sequencer of a cluster (R361) -/

/-- A job may run: the cluster's sequencer is at it, or the job arrives now (R361). -/
def State.spillTurn (s : State) (c : Nat) (j : SpillJob) : Bool :=
  let q := (s.cluster c).spillq
  q.head? == some j || !q.contains j

/-- A job comes to the spill sequencer of a cluster: it runs at once, or waits behind those that came before it. -/
def withSpill (c : Nat) (j : SpillJob) (run : Act Unit) : Act Unit := do
  let q := ((← now).cluster c).spillq
  if q.contains j then pure () else modCluster c fun x => { x with spillq := x.spillq ++ [j] }
  if q.isEmpty || q.head? == some j then run else pure ()

/-- The job is done. -/
def endSpill (c : Nat) (j : SpillJob) : Act Unit := modCluster c fun x => { x with spillq := x.spillq.filter (· != j) }

/-- The jobs for these waves are withdrawn: the waves leave their cluster. -/
def dropSpills (c : Nat) (waves : List Nat) : Act Unit :=
  modCluster c fun x => { x with spillq := x.spillq.filter fun
    | .window v => !waves.contains v
    | .gang _ => true }

/-- A gang's save or restore may run: it is in its turn at the spill sequencer of every member's cluster. -/
def State.gangTurn (s : State) (g : Nat) : Bool := (s.gang g).wgs.all fun w => s.spillTurn (s.wg w).cluster (.gang g)

/-- A gang's save or restore comes to the sequencers of its members' clusters all at once, so that no two gangs wait for each other. -/
def withSpills (g : Nat) (run : Act Unit) : Act Unit := do
  let s ← now
  let cs := ((s.gang g).wgs.map fun w => (s.wg w).cluster).dedup
  each cs fun c => do
    if ((← now).cluster c).spillq.contains (.gang g) then pure () else modCluster c fun x => { x with spillq := x.spillq ++ [.gang g] }
  let t ← now
  if cs.all fun c => (t.cluster c).spillq.head? == some (.gang g) then run else pure ()

end Sys2Proof.Machine
end

