-- ==== Sys2Proof/Machine/Queue.lean ====
section
/-! DEFINITION. Queues, dependence counters and node bins (13_queue): QPUSH, QPOP, QSIG, QSTAT (R321 to R325), NREC
(R327), the seal of a batch (R326) and the doorbell's publication (R320, R325). -/
namespace Sys2Proof.Machine

/-! ### Looking up queues and nodes -/

def DevCtx.queue (d : DevCtx) (n : Nat) : Option Queue := d.queues.find? fun q => q.num == n && q.status != .destroyed
def DevCtx.node (d : DevCtx) (h : Nat) : Option Node := d.nodes.find? (·.handle == h)
def modQueue (ctxid n : Nat) (f : Queue → Queue) : Act Unit :=
  modDctx ctxid fun d => { d with queues := d.queues.map fun q => if q.num == n && q.status != .destroyed then f q else q }
def modNode (ctxid h : Nat) (f : Node → Node) : Act Unit :=
  modDctx ctxid fun d => { d with nodes := d.nodes.map fun n => if n.handle == h then f n else n }

/-- A stamp is reached when its producer's drain count covers it (R319), or its workgroup has retired. -/
def State.stampMet (s : State) (st : Option Stamp) : Bool :=
  match st with
  | none => true
  | some x =>
    let w := s.wg x.wg
    if w.status == .retired then true
    else
      let c : Option Context := match w.kept with
        | some k => k.ctxs[x.role]?
        | none => w.ctxs[x.role]?.map s.ctx
      match c with
      | some c => x.count ≤ c.drain
      | none => true

/-! ### Memory of the context as the dispatcher reaches it (log entry 13) -/

/-- Read n bytes of a context's address space with supervisor permission; bytes of a page that does not translate
read zero. -/
def State.coreRead (s : State) (ctxid va n : Nat) : List Byte :=
  match s.superLocs 0 ctxid va n .load false with
  | .ok locs => locs.map s.byte
  | .error _ => List.replicate n 0
/-- Write bytes there; a page that does not translate receives nothing. -/
def coreWrite (ctxid va : Nat) (bytes : List Byte) : Act Unit := do
  match (← now).superLocs 0 ctxid va bytes.length .store false with
  | .ok locs =>
    usePages 0 ctxid ((List.range bytes.length).map (va + ·)) .store
    writeNewest .core locs bytes
  | .error _ => pure ()

def Queue.slotVa (q : Queue) (i : Nat) : Nat := q.ring + 64 * (i % max q.entries 1)
def Queue.headIx (q : Queue) : Nat :=
  match q.held with
  | e :: _ => e.1
  | [] => q.tail
def Queue.full (q : Queue) : Bool := q.entries ≤ q.tail - q.headIx

/-- A little-endian field of a record. -/
def field (bytes : List Byte) (off n : Nat) : Nat := leNat ((bytes.drop off).take n)

/-! ### Dependence counters (R325) -/

def Queue.counter (q : Queue) (n : Nat) : Counter :=
  match q.counters.find? (·.num == n) with
  | some c => c
  | none => { num := n, value := 0, task := none, next := [], rels := [] }
def Queue.setCounter (q : Queue) (c : Counter) : Queue :=
  { q with counters := c :: q.counters.filter (·.num != c.num) }

/-- The counter of a task record, when the record names one: in a launch queue, with flag bit 1 and a number below
1024. -/
def Queue.taskCounter (q : Queue) (rec_ : List Byte) : Option Nat :=
  if !q.data && bitAt (field rec_ 0x16 1) 1 && field rec_ 0x30 4 < 1024 then some (field rec_ 0x30 4) else none

/-- Publication: the record waits at its counter, which gains its dependence count. -/
def Counter.publish (c : Counter) (rec_ : List Byte) (st : Option Stamp) : Counter :=
  { c with value := c.value + BitVec.ofNat 32 (field rec_ 0x2C 4), task := some (rec_, st) }

/-- A counter at 0 releases its pending record, with what its QSIGs release; then the next host publication that waits for it
applies, and so on. The counter afterwards, and the heads it has released. -/
def Counter.settle (time : Nat) : List (List Byte) → Counter → Counter × List TaskHead
  | next, c => match c.task with
    | some (rec_, st) =>
      if c.value == 0 then
        let head : TaskHead := { bytes := rec_, stamp := st, rels := c.rels, since := time, launch := none }
        let c := { c with task := none, rels := [] }
        match next with
        | [] => ({ c with next := [] }, [head])
        | p :: ps =>
          let r := Counter.settle time ps (c.publish p none)
          (r.1, head :: r.2)
      else ({ c with next := next }, [])
    | none => match next with
      | [] => ({ c with next := [] }, [])
      | p :: ps => Counter.settle time ps (c.publish p none)

/-- A counter takes a new value, and the records it releases enter the dispatch order. -/
def Queue.settle (q : Queue) (c : Counter) (time : Nat) : Queue :=
  let r := Counter.settle time c.next c
  { (q.setCounter r.1) with tasks := q.tasks ++ r.2 }

/-- Publication of a record at counter n; a host record whose counter is pending waits there for its turn (log entry 99). -/
def Queue.publish (q : Queue) (n : Nat) (rec_ : List Byte) (st : Option Stamp) (time : Nat) : Queue :=
  let c := q.counter n
  if c.task.isSome then q.setCounter { c with next := c.next ++ [rec_] } else q.settle (c.publish rec_ st) time

/-- A record passes through the ring without staying in it (R317). -/
def Queue.pass (q : Queue) : Queue := { q with tail := q.tail + 1 }
/-- A record enters the ring. -/
def Queue.append (q : Queue) (st : Option Stamp) (time : Nat) : Queue :=
  { q with held := q.held ++ [(q.tail, st)], tail := q.tail + 1, headSince := if q.held.isEmpty then time else q.headSince }
/-- The head leaves the ring, dispatched or popped. -/
def Queue.popHead (q : Queue) (time : Nat) : Queue :=
  { q with held := q.held.tail, headSince := time, current := none }
def Queue.served (q : Queue) : Queue := { q with disp := (q.disp + 1) % 2 ^ 40 }

/-! ### The instructions -/

/-- The queue that an instruction names, or its trap: the queue right, then a queue the context has created. -/
def State.queueOf (s : State) (q : BitVec 8) : Option Queue := (s.dctx (s.ctx s.curCtx).ctxid).queue q.toNat

/-- QPUSH (R322): 64 bytes read on the scalar path and appended; a task record is then published, which takes it out of the ring. -/
def execQpush (d a : Reg) (qn : BitVec 8) (s : State) : Result := commit (do
  let k := s.curCtx
  let c := s.ctx k
  let addr := s.rd a
  if !c.hasRight 2 then trapNow (rightsRecord 2)
  else
    match s.queueOf qn with
    | none => illegal (.qpush d a qn)
    | some q =>
      match s.genAccess k addr 64 64 .load true with
      | .trap r => trapNow r
      | .wait why => stallCur why
      | .ok locs x =>
        if !q.full && s.superHeld 0 c.ctxid (q.slotVa q.tail) 64 .store then stallCur .held
        else
        settleAccess k x false
        let r ← readBy (s.scalarActor k) (wordUnits id locs)
        let rec_ := r.1.flatten
        let stamp : Option Stamp := some { wg := c.wg, role := c.role, count := c.issued }
        let task := q.taskCounter rec_
        if task.any fun n => (q.counter n).task.isSome then finish d 2
        else if q.full then finish d 0
        else
          coreWrite c.ctxid (q.slotVa q.tail) rec_
          modQueue c.ctxid q.num fun q => match task with
            | some n => q.pass.publish n rec_ stamp s.dev.time
            | none => q.append stamp s.dev.time
          finish d 1) s

/-- The slot of ring index i holds poison (R28). -/
def State.slotPoisoned (s : State) (ctxid : Nat) (q : Queue) (i : Nat) : Bool :=
  match s.superLocs 0 ctxid (q.slotVa i) 64 .load false with
  | .ok locs => s.poisoned locs
  | .error _ => false

/-- QPOP (R323): the counted writes of the entry's producer become visible to the context (R320). A slot that holds poison
takes the data-poison trap at its address, and the entry stays (R28, log entry 100). -/
def execQpop (d a : Reg) (qn : BitVec 8) (s : State) : Result := commit (do
  let k := s.curCtx
  let c := s.ctx k
  if !c.hasRight 2 then trapNow (rightsRecord 2)
  else
    match s.queueOf qn with
    | none => illegal (.qpop d a qn)
    | some q =>
      if !q.data then illegal (.qpop d a qn)
      else
        match q.held with
        | [] => finish d 0
        | (i, st) :: _ =>
          if q.status != .enabled then finish d 0
          else if !s.stampMet st then stallCur .queue
          else
            match s.genAccess k (s.rd a) 64 64 .store false with
            | .trap r => trapNow r
            | .wait why => stallCur why
            | .ok locs x =>
              if s.superHeld 0 c.ctxid (q.slotVa i) 64 .load then stallCur .held
              else if s.slotPoisoned c.ctxid q i then trapNow (accessRecord 18 (BitVec.ofNat 64 (q.slotVa i)) 5)
              else
              settleAccess k x true
              match st with
              | some p => setVis ((← now).stampEdge p [s.ctxAgent k])
              | none => pure ()
              writeBy { s.scalarActor k with num := 0 }
                (wordUnits (·.1) (locs.zip (s.coreRead c.ctxid (q.slotVa i) 64)))
              modQueue c.ctxid q.num fun q => (q.popHead s.dev.time).served
              finish d 1) s

/-- QSIG (R325): a release at device scope. -/
def execQsig (d a : Reg) (qn : BitVec 8) (s : State) : Result := commit (do
  let c := s.ctx s.curCtx
  let n := (s.rd a).toNat
  if !c.hasRight 2 then trapNow (rightsRecord 2)
  else
    match s.queueOf qn with
    | none => illegal (.qsig d a qn)
    | some q =>
      if 1024 ≤ n then illegal (.qsig d a qn)
      else
        let v := (q.counter n).value - 1
        let x := s.ctxAgent s.curCtx
        let rel : Release := { agent := x, scope := .device, paths := allPaths, ids := s.vis.ids [x] }
        modQueue c.ctxid q.num fun q =>
          let c := q.counter n
          q.settle { c with value := v, rels := c.rels ++ [rel] } s.dev.time
        finish d (v.signExtend 64)) s

/-- The effective priority of a head (R317). -/
def effPriority (p since time : Nat) : Nat := min 3 (p + (time - since) / 250000)

/-- The priority of a queue's ring head: of the record that is being placed, or of the ring's first entry. -/
def State.headPriority (s : State) (ctxid : Nat) (q : Queue) : Nat :=
  match q.current with
  | some l => (s.launch l).prio
  | none => field (s.coreRead ctxid (q.slotVa q.headIx) 64) 0x15 1 % 4

def QueueStatus.code : QueueStatus → Nat
  | .disabled => 0 | .enabled => 1 | .stopped => 2 | .destroyed => 3

/-- The status words of a queue (R324, Table 13.6). -/
def State.queueWord (s : State) (ctxid : Nat) (q : Queue) (sel : Nat) : Word :=
  if sel = 0 then
    let hstp := match q.held with
      | (_, st) :: _ => !s.stampMet st
      | [] => false
    let epri := if q.data || q.held.isEmpty then 0 else effPriority (s.headPriority ctxid q) q.headSince s.dev.time
    BitVec.ofNat 64 (q.disp % 2 ^ 40 * 2 ^ 24 + b2n q.current.isSome * 2 ^ 23 + b2n hstp * 2 ^ 22 + epri * 2 ^ 20
      + q.status.code * 2 ^ 17 + q.held.length)
  else if sel = 1 && !q.data then
    BitVec.ofNat 64 (q.reason + q.reasonVault * 2 ^ 8 + q.reasonAvail * 2 ^ 16 + min q.refusals 0xFFFFFFFF * 2 ^ 32)
  else 0

/-- QSTAT (R324) never waits. -/
def execQstat (d a : Reg) (qn : BitVec 8) (s : State) : Result := commit (do
  let c := s.ctx s.curCtx
  if !c.hasRight 2 then trapNow (rightsRecord 2)
  else
    match s.queueOf qn with
    | none => illegal (.qstat d a qn)
    | some q => finish d (s.queueWord c.ctxid q (s.rd a).toNat)) s

/-! ### Node bins (R326, R327) -/

def Node.slotVa (n : Node) (slot : Nat) : Nat := n.pool + slot * (64 + n.count * n.size)
/-- Sealed batches that wait or run. -/
def Node.sealedCount (n : Node) : Nat := (n.slots.filter id).length - b2n n.opened.isSome
def Node.freeSlot (n : Node) : Option Nat := n.slots.findIdx? (! ·)

/-- A batch can be sealed while fewer than 16 sealed ones wait or run. -/
def Node.maySeal (n : Node) : Bool := n.sealedCount < 16

/-- Seal the open batch: its head is written (Table 13.8). -/
def sealBatch (ctxid h : Nat) : Act Unit := do
  let s ← now
  match (s.dctx ctxid).node h with
  | none => pure ()
  | some n => match n.opened with
    | none => pure ()
    | some b =>
      coreWrite ctxid (n.slotVa b.slot) (layBytes [(b.count, 4), (n.handle, 4), (s.dev.time, 8), (0, 48)])
      modNode ctxid h fun n =>
        { n with opened := none, sealed := n.sealed ++ [b],
                 headSince := if n.sealed.isEmpty then s.dev.time else n.headSince }

/-- The head of a batch cannot be written now (R25). -/
def State.sealHeld (s : State) (ctxid : Nat) (n : Node) (b : Batch) : Bool := s.superHeld 0 ctxid (n.slotVa b.slot) 64 .store

/-- Seal a full open batch if it may be sealed. -/
def sealFull (ctxid h : Nat) : Act Unit := do
  let s ← now
  match (s.dctx ctxid).node h with
  | some n => match n.opened with
    | some b => if n.count ≤ b.count && n.maySeal && !s.sealHeld ctxid n b then sealBatch ctxid h else pure ()
    | none => pure ()
  | none => pure ()

/-- The timer of an open batch has run out (R326). -/
def State.timerDue (s : State) (ctxid h : Nat) : Bool :=
  match (s.dctx ctxid).node h with
  | some n => match n.opened with
    | some b => n.timer != 0 && 0 < b.count && b.since + n.timer * 1000 ≤ s.dev.time && n.maySeal && !s.sealHeld ctxid n b
    | none => false
  | none => false

/-- NREC (R327): a batch whose timer has run out is sealed first. -/
def execNrec (m : NrecArgs) (s : State) : Result := commit (do
  let k := s.curCtx
  let c := s.ctx k
  let n := m.count.toNat + 1
  if !c.hasRight 2 then trapNow (rightsRecord 2)
  else
    match (s.dctx c.ctxid).node (c.rd m.sN).toNat with
    | none => illegal (.nrec m)
    | some nd =>
      if nd.dying || 8 * n ≠ nd.size then illegal (.nrec m)
      else if nd.opened.any (s.sealHeld c.ctxid nd) then stallCur .held
      else
        if s.timerDue c.ctxid nd.handle then sealBatch c.ctxid nd.handle else pure ()
        let nd := (((← now).dctx c.ctxid).node nd.handle).getD nd
        let room : Option Batch := match nd.opened with
          | some b => if b.count < nd.count then some b else none
          | none => nd.freeSlot.map fun i => { slot := i, count := 0, since := s.dev.time, stamps := [], rels := [] }
        match room with
        | none => stallCur .node
        | some b =>
          if s.superHeld 0 c.ctxid (nd.slotVa b.slot) (64 + (b.count + 1) * nd.size) .store then stallCur .held
          else
          let data := (List.range n).flatMap fun i => leBytes 8 (c.rd (m.sD + BitVec.ofNat 5 i)).toNat
          coreWrite c.ctxid (nd.slotVa b.slot + 64 + b.count * nd.size) data
          let x := s.ctxAgent k
          let rels : List Release :=
            if m.release then [{ agent := x, scope := m.scope, paths := allPaths, ids := s.vis.ids [x] }] else []
          modNode c.ctxid nd.handle fun x =>
            { x with opened := some { b with count := b.count + 1, rels := b.rels ++ rels
                                             stamps := b.stamps ++ [{ wg := c.wg, role := c.role, count := c.issued }] },
                     slots := x.slots.set b.slot true }
          sealFull c.ctxid nd.handle
          finishNone 16) s

/-- NODE_BATCH_TIMER (R326). -/
def execNodeBatchTimer (ctxid h : Nat) (s : State) : Result :=
  event "NODE_BATCH_TIMER" (·.timerDue ctxid h) (sealBatch ctxid h) s

/-! ### The doorbell (R320, R325, R412) -/

/-- One entry that the host has written: a task record is published at its counter. -/
def hostEntry (ctxid qn : Nat) : Act Unit := do
  let s ← now
  match (s.dctx ctxid).queue qn with
  | none => pure ()
  | some q =>
    let rec_ := s.coreRead ctxid (q.slotVa q.tail) 64
    match q.taskCounter rec_ with
    | some n => modQueue ctxid qn fun q => q.pass.publish n rec_ none s.dev.time
    | none => modQueue ctxid qn fun q => q.append none s.dev.time

/-- The doorbell moves a queue's write index: the entries below it that the ring has room for become readable. The
index is 32 bits wide. -/
def ringDoorbell (ctxid qn ix : Nat) : Act Unit := do
  match ((← now).dctx ctxid).queue qn with
  | none => pure ()
  | some q =>
    let n := (ix + 2 ^ 32 - q.tail % 2 ^ 32) % 2 ^ 32
    if n ≤ q.entries - (q.tail - q.headIx) then each (List.range n) fun _ => hostEntry ctxid qn else pure ()

end Sys2Proof.Machine
end

