-- ==== Sys2Proof/Machine/Barrier.lean ====
section
/-! DEFINITION. Barriers (16_barrier): levels, members, arrivals, phases and leaving (R363 to R367), and BARA, BARW
and BARAW (R368). -/
namespace Sys2Proof.Machine

/-- The launch whose co-resident flag gives a workgroup its grid barriers (R363). -/
def State.grid (s : State) (w : Workgroup) : Option Nat :=
  match (s.gang w.gang).origin with
  | .launch l => if (s.launch l).coresident then some l else none
  | .batch _ _ _ => none

/-- A barrier exists for the roles of workgroup w (R363, Table 16.1). -/
def State.barExists (s : State) (w lvl k : Nat) : Bool :=
  let x := s.wg w
  match lvl with
  | 0 => k < x.header.bars
  | 1 => x.header.gangReq && k < x.header.gbars
  | 2 => (s.grid x).isSome && k < 4
  | _ => false

/-- The workgroups whose roles are a barrier's members. -/
def State.barMembers (s : State) (w lvl : Nat) : List Nat :=
  let x := s.wg w
  match lvl with
  | 0 => [w]
  | 1 => (s.gang x.gang).wgs
  | _ => (List.range s.wgs.length).filter fun i => (s.grid (s.wg i)).isSome && s.grid (s.wg i) == s.grid x

def Barrier.zero : Barrier := { phases := 0, arrived := 0, perPhase := 0 }

def State.bar (s : State) (w lvl k : Nat) : Barrier :=
  let x := s.wg w
  match lvl with
  | 0 => x.bars.getD k Barrier.zero
  | 1 => (s.gang x.gang).gbars.getD k Barrier.zero
  | _ => match s.grid x with
    | some l => (s.launch l).grbars.getD k Barrier.zero
    | none => Barrier.zero

def setBar (w lvl k : Nat) (b : Barrier) : Act Unit := do
  let s ← now
  let x := s.wg w
  match lvl with
  | 0 => modWg w fun x => { x with bars := putAt Barrier.zero x.bars k b }
  | 1 => modGang x.gang fun g => { g with gbars := putAt Barrier.zero g.gbars k b }
  | _ => match s.grid x with
    | some l => modLaunch l fun r => { r with grbars := putAt Barrier.zero r.grbars k b }
    | none => pure ()

/-- ARR, UNW and AW of a workgroup's roles at a barrier (R367). -/
def Workgroup.barBits (x : Workgroup) (lvl k : Nat) : RoleBits :=
  match lvl with
  | 0 => x.bits.getD k RoleBits.zero
  | 1 => x.gbits.getD k RoleBits.zero
  | _ => x.grbits.getD k RoleBits.zero
def Workgroup.setBits (x : Workgroup) (lvl k : Nat) (r : RoleBits) : Workgroup :=
  match lvl with
  | 0 => { x with bits := putAt RoleBits.zero x.bits k r }
  | 1 => { x with gbits := putAt RoleBits.zero x.gbits k r }
  | _ => { x with grbits := putAt RoleBits.zero x.grbits k r }

def roleBit (role : Nat) : BitVec 4 := BitVec.ofNat 4 (2 ^ role)
def RoleBits.arrives (r : RoleBits) (role : Nat) : RoleBits :=
  { r with arr := r.arr ||| roleBit role, unw := r.unw ||| roleBit role }
def RoleBits.waited (r : RoleBits) (role : Nat) : RoleBits :=
  { r with unw := r.unw &&& ~~~ roleBit role, aw := r.aw &&& ~~~ roleBit role }

def modBits (w lvl k : Nat) (f : RoleBits → RoleBits) : Act Unit :=
  modWg w fun x => x.setBits lvl k (f (x.barBits lvl k))

/-- A phase completes: the phase flips, ARR clears in every member, the count returns to 0 (R366, Table 16.2). -/
def completePhase (w lvl k : Nat) : Act Unit := do
  let s ← now
  let b := s.bar w lvl k
  setBar w lvl k { b with phases := b.phases + 1, arrived := 0 }
  each (s.barMembers w lvl) fun m => modBits m lvl k fun r => { r with arr := 0 }

/-- Whether a count is complete: a barrier whose members have all left never completes. -/
def Barrier.full (b : Barrier) : Bool := 0 < b.perPhase && b.arrived == b.perPhase

/-- The instance a barrier belongs to: a workgroup, a gang or a launch. -/
def State.barOwner (s : State) (w lvl : Nat) : Nat :=
  let x := s.wg w
  match lvl with
  | 0 => w
  | 1 => x.gang
  | _ => (s.grid x).getD 0

/-- The arrival of a role with ARR = 0 (Table 16.2): it releases the writes `ids` (R371). -/
def arrive (w role lvl k : Nat) (ids : List Nat) : Act Unit := do
  modBits w lvl k (·.arrives role)
  let s ← now
  let b := s.bar w lvl k
  if ids.isEmpty then pure () else setVis (s.vis.arrive lvl (s.barOwner w lvl) k b.phases ids)
  let b := { b with arrived := b.arrived + 1 }
  setBar w lvl k b
  if b.full then completePhase w lvl k else pure ()

/-- A wait that observes the completed phases of a barrier: these agents acquire what the arrivals released (R371). -/
def acquirePhases (w lvl k : Nat) (ys : List MemAgent) : Act Unit := do
  let s ← now
  let n := (s.bar w lvl k).phases
  if s.vis.phases.isEmpty || n = 0 then pure () else setVis (s.vis.waited lvl (s.barOwner w lvl) k (n - 1) ys)

/-- The role has already arrived in the current phase. -/
def State.hasArrived (s : State) (w role lvl k : Nat) : Bool := ((s.wg w).barBits lvl k).arr.getLsbD role

/-- The loft-area address of recorded word j of a stretch (R227). -/
def Context.loftAddr (c : Context) (id j : Nat) : Nat := c.loft.toNat + 2048 * id + 8 * j

/-- A replay of context k has a recorded VBAR of this kind still to push (R366, R368). -/
def State.replayBars (s : State) (k : Nat) (kind : Nat → Bool) : Bool :=
  let c := s.ctx k
  let q := c.em.seq
  q.busy && (List.range (c.em.dir.getD q.id DirEntry.zero).len).any fun j =>
    let w := leNat (s.coreRead c.ctxid (c.loftAddr q.id j) 8)
    laneOp8 w == 0x98 && kind w && q.parts.any fun p => p.rep + 1 < q.total || (p.rep < q.total && p.next ≤ j)

/-- A replay of this role has such a VBAR still to push. -/
def State.roleReplayBars (s : State) (w role : Nat) (kind : Nat → Bool) : Bool :=
  match (s.wg w).ctxs[role]? with
  | some k => s.replayBars k kind
  | none => false

/-- The level and number of a VBAR (R369). -/
def vbarLevel (word : Nat) : Nat := bits word 59 58
def vbarNumber (word : Nat) : Nat := bits word 57 54

/-- A VBAR or an arrive-flagged copy of the role for this barrier is still to arrive (R368): a replay may yet push one. -/
def State.arrivalDue (s : State) (w role lvl k : Nat) : Bool :=
  let x := s.wg w
  x.vbars.any (fun v => v.role == role && v.lvl == lvl && v.num == k && 0 < v.left)
    || (lvl == 0 && x.marks.any fun m => match m.bound with
      | some b => b.arrive == some k && b.state != .published && b.role == role
      | none => false)
    || s.roleReplayBars w role fun v => vbarLevel v == lvl && vbarNumber v == k

/-- Any arrival of the role that is still to come (R366). -/
def State.anyArrivalDue (s : State) (w role : Nat) : Bool :=
  let x := s.wg w
  x.vbars.any (fun v => v.role == role && 0 < v.left)
    || (x.marks.any fun m => match m.bound with
      | some b => b.arrive.isSome && b.state != .published && b.role == role
      | none => false)
    || s.roleReplayBars w role fun _ => true

/-- The role leaves one barrier: its place, and its arrival of this phase, are withdrawn (R366). -/
def leaveBar (w role lvl k : Nat) : Act Unit := do
  let s ← now
  let b := s.bar w lvl k
  let arrived := s.hasArrived w role lvl k
  let b := { b with perPhase := b.perPhase - 1, arrived := if arrived then b.arrived - 1 else b.arrived }
  modBits w lvl k fun r => { r with arr := r.arr &&& ~~~ roleBit role }
  setBar w lvl k b
  if b.full then completePhase w lvl k else pure ()

/-- The barriers that exist for the roles of a workgroup. -/
def State.barriers (s : State) (w : Nat) : List (Nat × Nat) :=
  ([(0, 16), (1, 8), (2, 4)].flatMap fun p => (List.range p.2).map fun k => (p.1, k)).filter
    fun p => s.barExists w p.1 p.2

/-- A role leaves every barrier once it has executed END and nothing of it is still to arrive (R366). -/
def maybeLeave (w role : Nat) : Act Unit := do
  let s ← now
  let x := s.wg w
  match x.ctxs[role]? with
  | none => pure ()
  | some k =>
    if (s.ctx k).status == .ended && !s.anyArrivalDue w role && !x.left.getLsbD role then
      modWg w fun x => { x with left := x.left ||| roleBit role }
      each (s.barriers w) fun p => leaveBar w role p.1 p.2
    else pure ()

/-- The wait part of BARW and BARAW (R368): with UNW it acquires for the context and the commands it issues later, and with the streams flag
for the words it emits afterwards (Table 16.5). -/
def barWait (str : Bool) (lvl k : Nat) : Act Unit := do
  let s ← now
  let c := s.ctx s.curCtx
  if s.arrivalDue c.wg c.role lvl k || s.hasArrived c.wg c.role lvl k then stallCur .barrier
  else
    if ((s.wg c.wg).barBits lvl k).unw.getLsbD c.role then
      acquirePhases c.wg lvl k (waitersOf (s.ctxAgent s.curCtx) ++ if str then emitCarrier (s.ctxAgent s.curCtx) else [])
    else pure ()
    modBits c.wg lvl k (·.waited c.role)
    finishNone

/-- BARA (R368) releases the context's own accesses and those of commands whose completion it observed (Table 16.5). -/
def execBara (l : BarLevel) (n : BitVec 4) (s : State) : Result := commit (do
  let c := s.ctx s.curCtx
  if !s.barExists c.wg l.code n.toNat || s.hasArrived c.wg c.role l.code n.toNat then
    trapNow (barrierRecord l.code n.toNat)
  else
    arrive c.wg c.role l.code n.toNat (s.vis.ids [s.ctxAgent s.curCtx])
    finishNone) s

def execBarw (str : Bool) (l : BarLevel) (n : BitVec 4) (s : State) : Result := commit (do
  let c := s.ctx s.curCtx
  if !s.barExists c.wg l.code n.toNat then illegal (.barw str l n) else barWait str l.code n.toNat) s

def execBaraw (str : Bool) (l : BarLevel) (n : BitVec 4) (s : State) : Result := commit (do
  let c := s.ctx s.curCtx
  let k := n.toNat
  if !s.barExists c.wg l.code k then trapNow (barrierRecord l.code k)
  else if ((s.wg c.wg).barBits l.code k).aw.getLsbD c.role then barWait str l.code k
  else if s.hasArrived c.wg c.role l.code k then trapNow (barrierRecord l.code k)
  else
    arrive c.wg c.role l.code k (s.vis.ids [s.ctxAgent s.curCtx])
    modBits c.wg l.code k fun r => { r with aw := r.aw ||| roleBit c.role }
    barWait str l.code k) s

/-! ### The waves of a role and the words it has emitted -/

/-- The waves of context k's role, in order of their index in the role (R348). -/
def State.roleWaves (s : State) (k : Nat) : List Nat :=
  (s.wg (s.ctx k).wg).waves.filter fun v => (s.wave v).owner == k

def StreamItem.isFrom (k : Nat) : StreamItem → Bool
  | .word w => w.emitter == k
  | _ => false

/-- Words of emitter k that have not retired in a wave. In handler mode they are its handler words and the words that had issued
before the trap (R268). -/
def Wave.busyFor (w : Wave) (k : Nat) (handler : Bool) : Bool :=
  let mine (f : Flight) : Bool := f.entry.emitter == k && (!handler || f.entry.handler || f.old.contains k)
  w.hbuf.any (·.emitter == k) || w.flight.any mine || w.half.any mine || (!handler && w.stream.any (·.isFrom k))

/-- What RDSR and WRSR of WXF wait for in a wave (R105): the words emitter k has emitted to it, and in handler mode its handler words and
every word of the wave, of any emitter, that had issued before the trap. DESIGN CHOICE (log entry 111): words that a replay has not yet
pushed into the wave are not emitted to it. -/
def Wave.flagsBusy (w : Wave) (k : Nat) (handler : Bool) : Bool :=
  let old (f : Flight) : Bool := f.old.contains k
  w.busyFor k handler || (handler && (w.flight.any old || w.half.any old))

/-- Every word the context has emitted has retired, and its sequencer is idle (R230); in handler mode, the words of R268. -/
def State.drained (s : State) (k : Nat) : Bool :=
  let c := s.ctx k
  let g := s.gang (s.wg c.wg).gang
  let handler := c.mode == .handler
  (handler || !c.em.seq.busy) && !(g.wgs.any fun w => (s.wg w).waves.any fun v => (s.wave v).busyFor k handler)

/-! ### What holds back an engine command -/

/-- No new command enters an engine while its workgroup is being saved (R358); one with acquire waits as the fence of R271 would. -/
def State.commandWait (s : State) (k : Nat) (acquire : Bool) : Option StallReason :=
  if (s.wgOf k).status == .saving then some .queueFull
  else if acquire && !s.drained k then some .drain else none

end Sys2Proof.Machine
end

