-- ==== Sys2Proof/Machine/Copy.lean ====
section
/-! DEFINITION. Copies and watermarks (11_copy): COPY (R276 to R279), WMRD, WMWAIT, WMFREE and CPKILL (R280, R290, R291,
R294), and the copy engine (R281 to R289, R292, R293, R295). -/
namespace Sys2Proof.Machine

/-! ### Watermark registers -/

def Workgroup.mark (w : Workgroup) (n : Nat) : Watermark := w.marks.getD n Watermark.start
def Workgroup.setMark (w : Workgroup) (n : Nat) (m : Watermark) : Workgroup := { w with marks := putAt Watermark.start w.marks n m }
def State.bound (s : State) (g n : Nat) : Option Bound := ((s.wg g).mark n).bound
def setBound (g n : Nat) (b : Option Bound) : Act Unit :=
  modWg g fun w => w.setMark n { (w.mark n) with bound := b }
def modBound (g n : Nat) (f : Bound → Bound) : Act Unit := do
  match (← now).bound g n with
  | some b => setBound g n (some (f b))
  | none => pure ()

/-- STATE of Table 11.3. -/
def CopyState.code : CopyState → Nat
  | .issued => 1 | .landing => 2 | .frozen => 3 | .poisoned => 4 | .parked => 5 | .landed => 6 | .published => 7

/-- The status of a watermark register (Table 11.3). -/
def Watermark.status (m : Watermark) : Word :=
  match m.bound with
  | none => BitVec.ofNat 64 (m.bc.toNat * 2 ^ 48)
  | some b => BitVec.ofNat 64 (m.bc.toNat * 2 ^ 48 + b.state.code * 2 ^ 44 + b2n b.srcf * 2 ^ 40 + b.count % 2 ^ 40)

/-- src(i) and dst(i) (R277). -/
def Bound.rowOf (b : Bound) (i : Nat) : Nat × Nat × Nat :=
  let r := i / max b.inner 1
  (r / max b.ylen 1, r % max b.ylen 1, i % max b.inner 1)
def Bound.srcAt (b : Bound) (i : Nat) : Nat :=
  match b.kind with
  | .cred _ _ _ _ _ _ => b.src + i
  | .copy _ => match b.rowOf i with
    | (z, y, x) => b.src + z * b.srcZ + y * b.srcY + x
def Bound.dstAt (b : Bound) (i : Nat) : Nat :=
  match b.rowOf i with
  | (z, y, x) => b.dst + z * b.dstZ + y * b.dstY + x

/-- The copy-poison trap of a register (R290, R291): kind 5 and the address dst(COUNT). -/
def Bound.poisonRecord (b : Bound) : TrapRecord := accessRecord 12 (BitVec.ofNat 64 (b.dstAt b.count)) 5

def Bound.isCopy (b : Bound) : Bool :=
  match b.kind with
  | .copy _ => true
  | .cred _ _ _ _ _ _ => false
/-- The long op6 of the command. -/
def Bound.op6 (b : Bound) : Nat := if b.isCopy then 3 else 5

/-! ### Spans (R278 checks 5 and 6, R287) -/

/-- Pieces of [a, a + n) cut at multiples of `unit`. -/
def cutSpan (unit a n : Nat) : List (Nat × Nat) :=
  (List.range ((a % unit + n + unit - 1) / unit)).map fun i =>
    let lo := max a ((a / unit + i) * unit)
    (lo, min (a + n) ((a / unit + i + 1) * unit) - lo)

/-- The unit at which a span's checks are made: a member's window, or a boundary table's 4 KiB in the chip scratchpad. -/
def spanUnit (a : Nat) : Nat :=
  if 0x1_3000_0000_0000 ≤ a then 4096 else if 0x1_2000_0000_0000 ≤ a then 2 ^ 22 else 2 ^ 49

/-- Check 5 for one span: the kind of its data fault, or none. Where both kinds apply, the model names kind 0 (log entry 47). -/
def State.spanFault (s : State) (w : Workgroup) (isDst : Bool) (a n : Nat) : Option Nat :=
  let d := (s.dctx w.ctxid).desc
  let pieces := cutSpan (spanUnit a) a n
  let places := pieces.map fun p => (p, s.place w false p.1 p.2)
  let bad := places.any fun p => match p.2 with
    | none => true
    | some (.priv _) => true
    | _ => false
  let refused := places.any fun p => match p.2 with
    | some (.at loc) => !s.admits d.part w.ctxid (if isDst then ⟨false, true⟩ else ⟨true, false⟩) loc loc p.1.2
    | _ => false
  if bad then some 0
  else if isDst && 0x1_3000_0000_0000 ≤ a && a / 2 ^ 24 != (a + n - 1) / 2 ^ 24 then some 0
  else if isDst && 0x1_2000_0000_0000 ≤ a && a < 0x1_3000_0000_0000 && a / 2 ^ 22 != (a + n - 1) / 2 ^ 22 then some 0
  else if refused then some 3
  else none

/-- The own member's gang window reads as the own-scratchpad aperture (R287). -/
def ownBase (w : Workgroup) : Nat := 0x1_2000_0000_0000 + w.member * 2 ^ 22
def ownWindow (w : Workgroup) (a : Nat) : Nat :=
  if ownBase w ≤ a && a < ownBase w + 2 ^ 22 then 0x1_1000_0000_0000 + (a - ownBase w) else a
/-- The addresses a span covers: those from its first to its last, and again under their other name those in the own window. -/
def spanParts (w : Workgroup) (lo hi : Nat) : List (Nat × Nat) :=
  let l := max lo (ownBase w)
  let h := min hi (ownBase w + 2 ^ 22 - 1)
  (lo, hi) :: if l ≤ h then [(ownWindow w l, ownWindow w h)] else []
def spansMeet (w : Workgroup) (s0 s1 d0 d1 : Nat) : Bool :=
  (spanParts w s0 s1).any fun a => (spanParts w d0 d1).any fun b => a.1 ≤ b.2 && b.1 ≤ a.2

/-- The source and destination spans of a copy intersect. -/
def Bound.overlaps (b : Bound) (w : Workgroup) : Bool :=
  b.isCopy && 0 < b.len && spansMeet w b.src (b.srcAt (b.len - 1)) b.dst (b.dstAt (b.len - 1))

/-- The scratchpad location of a destination's first byte; none for a global one. -/
def State.spanLoc (s : State) (w : Workgroup) (a : Nat) : Option Nat :=
  match s.place w false a 1 with
  | some (.at l) => some l
  | _ => none

/-- The landing comparators of a place are all taken: 16 at each cluster scratchpad and each chip share (R283). -/
def landingSite (loc : Nat) : Nat := if isChip loc then 64 + locDie loc else (loc - 2 ^ 56) / 2 ^ 22
def State.comparatorsFull (s : State) (loc : Nat) : Bool :=
  16 ≤ (s.bounds.filter fun (_, _, b) => b.armed && match b.dstLoc with
    | some l => landingSite l == landingSite loc
    | none => false).length

/-! ### Binding (R279, R286) -/

/-- What binding a register must do first: trap on a poisoned copy, or wait for one that is not published. -/
inductive BindWait
  | trap (r : TrapRecord)
  | wait
  | free
  deriving DecidableEq, Repr
def Watermark.bindWait (m : Watermark) : BindWait :=
  match m.bound with
  | none => .free
  | some b => if b.state == .poisoned then .trap b.poisonRecord else if b.state == .published then .free else .wait

/-- The command takes its stamp and binds the register. -/
def bindMark (g n : Nat) (b : Bound) : Act Unit := do
  let stamp := (← now).dev.stamp
  modDevice fun d => { d with stamp := d.stamp + 1 }
  modWg g fun w => w.setMark n { bc := (w.mark n).bc + 1, bound := some { b with stamp := stamp } }

/-- A register is free again; a role that has ended may leave its barriers (R366). -/
def retireMark (g n : Nat) : Act Unit := do
  match (← now).bound g n with
  | none => pure ()
  | some b =>
    setBound g n none
    if b.arrive.isSome then maybeLeave g b.role else pure ()

/-- The agent that a bound copy or CRED is (R252), and the scope its long word names. -/
def Bound.agent (b : Bound) (g : Nat) : MemAgent := .copy g b.stamp.toNat
def Bound.scope (b : Bound) : Scope :=
  (Scope.ofCode (b.bits.toNat / 2 ^ (if b.isCopy then 21 else 29) % 8)).getD .device

/-- The command as its agent on the copy path; `num` is one more than the first index it writes. -/
def Bound.actor (b : Bound) (g : Nat) (num : Nat := 0) : Actor :=
  { agent := b.agent g, path := pathCp, family := .role g b.role, handler := b.handler, num := num }

/-- The command as a wait observes it. -/
def Bound.ended (b : Bound) (g n : Nat) (bc : BitVec 16) : Ended :=
  { wg := g, reg := n, bc := bc, stamp := b.stamp.toNat, len := b.len }

/-- PUBLISHED (R289): the release (R272), then the arrival of R370. -/
def publish (g n : Nat) : Act Unit := do
  modBound g n fun b => { b with state := .published, srcf := true, armed := false, buffer := [], badBytes := [], data := [] }
  let s ← now
  match s.bound g n with
  | none => pure ()
  | some b =>
    modVis fun v => { v with ended := b.ended g n ((s.wg g).mark n).bc :: v.ended }
    if b.release then setVis ((← now).commandRelease (b.agent g) b.scope) else pure ()
    match b.arrive with
    | none => pure ()
    | some k =>
      match (s.wg g).ctxs[b.role]? with
      | none => pure ()
      | some c =>
        if s.hasArrived g b.role 0 k then
          oweTrap c none (.of 17 0 (BitVec.ofNat 64 (b.op6 + n * 2 ^ 8)) b.pc)
        else arrive g b.role 0 k (s.vis.ids [b.agent g])
        maybeLeave g b.role

def blankBound : Bound :=
  { kind := .copy 0, block := [], bits := 0, compat := true, src := 0, dst := 0, dstLoc := none, inner := 0, ylen := 1,
    zlen := 1, srcY := 0, srcZ := 0, dstY := 0, dstZ := 0, len := 0, srcLen := 0, state := .issued, before := .issued,
    srcf := false, count := 0, sent := 0, buffer := [], badBytes := [], stamp := 0, armed := false, acquire := false,
    release := false, arrive := none, hint := .default, role := 0, handler := false, pc := 0, matched := false,
    data := [], park := none, record := none, answer := none, asks := none }

/-- The registers of a parameter block. -/
def Context.block (c : Context) (base : Reg) (n : Nat) : List Word :=
  (List.range n).map fun i => c.rd (base + BitVec.ofNat 5 i)

def lowWord (i : Instr) : W32 :=
  match encode i with
  | some (_, w) => BitVec.ofNat 32 w
  | none => 0

/-- The geometry of R277 from a parameter block. -/
def blockBound (m : CopyArgs) (p : List Word) : Bound :=
  let w (i : Nat) : Nat := (p.getD i 0).toNat
  let dims := m.dims.toNat
  let inner := bits (w 2) 31 0
  let ylen := if 1 ≤ dims then bits (w 2) 47 32 else 1
  let zlen := if dims = 2 then bits (w 2) 63 48 else 1
  { blankBound with
    kind := .copy dims, block := p, bits := lowWord (.copy m), src := w 0, dst := w 1, inner := inner, ylen := ylen, zlen := zlen
    srcY := if 1 ≤ dims then bits (w 3) 31 0 else 0, srcZ := if dims = 2 then bits (w 3) 63 32 else 0
    dstY := if 1 ≤ dims then bits (w 4) 31 0 else 0, dstZ := if dims = 2 then bits (w 4) 63 32 else 0
    len := inner * ylen * zlen, srcLen := inner * ylen * zlen, acquire := m.acquire, release := m.release
    arrive := if m.arrive then some m.barrier.toNat else none, hint := m.hint }

/-- The bound copy that a COPY of a context makes. -/
def copyBound (m : CopyArgs) (c : Context) : Bound :=
  { blockBound m (c.block m.sB 5) with role := c.role, handler := c.mode == .handler, pc := c.pc }

/-- Check 4 of R278. -/
def Bound.geometryOk (b : Bound) (dims : Nat) : Bool :=
  b.ylen != 0 && b.zlen != 0 && (dims = 0 || b.inner % 64 = 0) && b.len < 2 ^ 40
    && !(1 < b.ylen && b.dstY < b.inner)
    && !(1 < b.zlen && 1 < b.ylen && b.dstZ < b.ylen * b.dstY)
    && !(1 < b.zlen && b.ylen = 1 && b.dstZ < b.inner)

/-- COPY (R278, R279): with acquire, behind the fence of R271. No command queue of the copy engines is modelled, so none fills (Table 1.4,
log entry 95). Of two spans that both fail check 5 the model names the source (log entry 47). -/
def execCopy (m : CopyArgs) (s : State) : Result := commit (do
  let k := s.curCtx
  let c := s.ctx k
  let w := s.wg c.wg
  let b := copyBound m c
  let n := m.wm.toNat
  let s1 := b.srcAt (b.len - 1)
  let d1 := b.dstAt (b.len - 1)
  let spanTrap : Option TrapRecord :=
    if b.len = 0 then none
    else match s.spanFault w false b.src (s1 - b.src + 1) with
      | some kind => some (accessRecord 7 (BitVec.ofNat 64 b.src) kind)
      | none => match s.spanFault w true b.dst (d1 - b.dst + 1) with
        | some kind => some (accessRecord 7 (BitVec.ofNat 64 b.dst) kind)
        | none =>
          if b.overlaps w && ownWindow w b.src < ownWindow w b.dst then
            some (.of 11 (BitVec.ofNat 64 b.src) (BitVec.ofNat 64 b.dst))
          else none
  if !c.hasRight 0 then trapNow (rightsRecord 0)
  else if (m.arrive && w.header.bars ≤ m.barrier.toNat) || !b.geometryOk m.dims.toNat then illegal (.copy m)
  else
    match spanTrap with
    | some r => trapNow r
    | none =>
      match (w.mark n).bindWait with
      | .trap r => trapNow r
      | .wait => stallCur .watermark
      | .free =>
        let loc := if b.len = 0 then none else s.spanLoc w b.dst
        if (match loc with
          | some l => s.comparatorsFull l
          | none => false) then stallCur .landing
        else
        match s.commandWait k b.acquire with
        | some why => stallCur why
        | none =>
          bindMark c.wg n { b with dstLoc := loc, armed := loc.isSome }
          setVis ((← now).issueEdge k (.copy c.wg s.dev.stamp.toNat) pathCp (if b.acquire then some b.scope else none))
          finishNone 16
          if b.len = 0 then publish c.wg n else pure ()) s

/-! ### WMRD, WMWAIT, WMFREE, CPKILL -/

def execWmrd (d : Reg) (wm : BitVec 4) (s : State) : Result :=
  if !(s.ctx s.curCtx).hasRight 0 then commit (trapNow (rightsRecord 0)) s
  else writeNext s d ((s.wgOf s.curCtx).mark wm.toNat).status

def Bound.reached (b : Bound) (ev : WmEvent) : Bool :=
  match ev with
  | .srcFree => b.srcf
  | .landed => b.state == .landed || b.state == .published
  | .published => b.state == .published
  | .count => false

/-- What a wait does now. -/
inductive WaitResult
  | done
  | wait
  | trap (r : TrapRecord)
  deriving DecidableEq, Repr

/-- R290. `stamp` is that of the copy whose event a stalled WMWAIT has begun to wait for: once another copy is bound, that one has
been replaced or killed (R294). -/
def Watermark.wait (m : Watermark) (ev : WmEvent) (v : Word) (stamp : Option Word) : WaitResult :=
  match ev with
  | .count =>
    let n := bits v.toNat 39 0
    let g : BitVec 16 := BitVec.ofNat 16 (bits v.toNat 63 48)
    let d := (m.bc - g).toNat
    if 0x8000 ≤ d then .wait
    else if d ≠ 0 then .done
    else match m.bound with
      | none => .done
      | some b =>
        let lim := min n b.len
        if lim ≤ b.count then .done
        else if b.state == .poisoned then .trap b.poisonRecord
        else .wait
  | _ =>
    match m.bound with
    | none => .done
    | some b =>
      if stamp.any (· != b.stamp) then .done
      else if b.reached ev then .done else if b.state == .poisoned then .trap b.poisonRecord else .wait

/-- The copy whose completion a WMWAIT that completes has observed: the one bound, or one that was published before its register went on.
A kill shows it no completion (R294), nor does a register that was free all along. -/
def State.observed (s : State) (k g n : Nat) (ev : WmEvent) (v : Word) : Option Ended :=
  let m := (s.wg g).mark n
  let here := (m.bound.map fun b => b.ended g n m.bc).toList
  let copies := here ++ s.vis.ended.filter fun e => e.wg == g && e.reg == n
  match ev, (s.ctx k).waits with
  | .count, _ => copies.find? (·.bc == BitVec.ofNat 16 (bits v.toNat 63 48))
  | _, some st => copies.find? (·.stamp == st.toNat)
  | _, none => here.head?

/-- What a completed WMWAIT orders (R272, R290): all accesses of the copy it has observed, or the writes of the indices it waited for. -/
def State.watermarkEdge (s : State) (k g n : Nat) (ev : WmEvent) (v : Word) : Visibility :=
  match s.observed k g n ev v with
  | none => s.vis
  | some e =>
    let cmd : MemAgent := .copy g e.stamp
    let lim := if ev == .count then min (bits v.toNat 39 0) e.len else e.len
    s.completionEdge cmd (s.ctxAgent k) (ev == .published) fun w => 0 < lim && (w.agent != cmd || w.num ≤ lim)

def execWmwait (ev : WmEvent) (wm : BitVec 4) (a : Reg) (s : State) : Result := commit (do
  let k := s.curCtx
  let c := s.ctx k
  let m := (s.wgOf k).mark wm.toNat
  if !c.hasRight 0 then trapNow (rightsRecord 0)
  else
    match m.wait ev (s.rd a) c.waits with
    | .done =>
      setVis (s.watermarkEdge k c.wg wm.toNat ev (s.rd a))
      finishNone
    | .wait =>
      setCtx k { c.stall .watermark with waits := if ev == .count then none else c.waits <|> m.bound.map (·.stamp) }
    | .trap r => trapNow r) s

/-- WMFREE (R291). -/
def execWmfree (wm : BitVec 4) (s : State) : Result := commit (do
  let c := s.ctx s.curCtx
  if !c.hasRight 0 then trapNow (rightsRecord 0)
  else
    match ((s.wg c.wg).mark wm.toNat).bindWait with
    | .trap r => trapNow r
    | .wait => stallCur .watermark
    | .free =>
      retireMark c.wg wm.toNat
      finishNone) s

/-- CPKILL (R294): units commit in one step here, so none is under way. -/
def execCpkill (wm : BitVec 4) (s : State) : Result := commit (do
  let c := s.ctx s.curCtx
  if !c.hasRight 0 then trapNow (rightsRecord 0)
  else
    retireMark c.wg wm.toNat
    finishNone) s

/-! ### The engine (R282, R286 to R288, R292, R293) -/

/-- How an access of a copy resolves: its locations, and the pages among them with their own. -/
inductive UnitAccess
  | ok (locs : List Nat) (pages : List (Xlated × List Nat))
  | wait
  | freeze (va : Nat) (f : XFail)
  | poison
  deriving DecidableEq, Repr

/-- One piece, which lies in one page or one scratchpad unit. -/
def State.copyPiece (s : State) (w : Workgroup) (b : Bound) (write : Bool) (a n : Nat) : UnitAccess :=
  let acc : Access := if write then .store else .load
  let part := (s.dctx w.ctxid).desc.part
  match s.place w false a n with
  | some (.at loc) => if s.admits part w.ctxid acc.need loc loc n then .ok (locRange loc n) [] else .poison
  | some (.paged va) =>
    match s.translate w.cluster w.ctxid va acc (!b.handler) false with
    | .error f => if f.kind == 0 then .wait else if f.kind == 5 then .poison else .freeze va f
    | .ok x =>
      match physLoc x.pa with
      | none => .poison
      | some loc =>
        if !s.admits part w.ctxid acc.need loc x.pa n then .poison
        else if isRemote loc && s.remoteWay loc == .fails then .poison
        else if isRemote loc && s.remoteWay loc == .waits then .wait
        else .ok (locRange loc n) [(x, locRange loc n)]
  | _ => .poison

def joinUnits : List UnitAccess → UnitAccess
  | [] => .ok [] []
  | .ok ls xs :: r =>
    match joinUnits r with
    | .ok ls' xs' => .ok (ls ++ ls') (xs ++ xs')
    | e => e
  | e :: _ => e

/-- The bytes of indices [i, i + n), n at most 64, on the source or the destination side, in pieces that one 2 KiB unit of either DRAM
window holds (R126): each is checked where it lies (R391). -/
def State.copyPlaces (s : State) (w : Workgroup) (b : Bound) (write : Bool) (i n : Nat) : UnitAccess :=
  let a := if write then b.dstAt i else b.srcAt i
  joinUnits ((cutSpan 2048 a n).map fun p => s.copyPiece w b write p.1 p.2)

/-- They wait for the regions of lower stamps (R286). -/
def State.unitCovered (s : State) (w : Workgroup) (b : Bound) (write : Bool) (i n : Nat) : Bool :=
  match s.copyPlaces w b write i n with
  | .ok ls _ => s.copyHeld b.stamp ls
  | _ => false

/-- So they do for a row that is being copied and for a scratchpad that pauses (R25, R408). -/
def State.copyUnit (s : State) (w : Workgroup) (b : Bound) (write : Bool) (i n : Nat) : UnitAccess :=
  match s.copyPlaces w b write i n with
  | .ok ls xs => if s.copyHeld b.stamp ls || s.held ls then .wait else .ok ls xs
  | e => e

/-! ### Landing buffers (R288) -/

/-- The landing buffer that a command's segments enter: that of its scratchpad destination, else the issuing cluster's. -/
def Bound.site (b : Bound) (cluster : Nat) : Nat :=
  match b.dstLoc with
  | some l => landingSite l
  | none => cluster
/-- The slots of 2 KiB that the segments read and not yet committed hold. -/
def Bound.slots (b : Bound) : Nat := if b.sent ≤ b.count then 0 else (b.sent + 2047) / 2048 - b.count / 2048

/-- The segment of the next index to read holds a slot already: part of it is in the buffer. -/
def Bound.inSegment (b : Bound) : Bool := b.count < b.sent && b.sent % 2048 != 0

/-- A landing permit for a segment that enters, or enters again: one of the buffer's 128 slots, the last only for the lowest-stamped copy
there. A parked copy holds none. -/
def State.permit (s : State) (w : Workgroup) (b : Bound) : Bool :=
  let here := s.bounds.filter fun (g, _, x) => x.isCopy && x.state != .parked && 0 < x.slots && x.site (s.wg g).cluster == b.site w.cluster
  let used := (here.map fun x => x.2.2.slots).sum
  used < 127 || (used < 128 && here.all fun x => b.stamp.toNat ≤ x.2.2.stamp.toNat)

/-- A workgroup whose copies move: it runs, or it is being saved and the copy is not yet at its parking point. -/
def State.copyMoves (s : State) (g : Nat) (b : Bound) : Bool :=
  (b.state == .issued || b.state == .landing) && b.asks.isNone &&
  match (s.wg g).status with
  | .running => true
  | .saving => match b.park with
    | some p => b.count < p
    | none => true
  | _ => false

/-- The indices the engine reads next: up to a multiple of 2048, one unit at a time for spans that meet. -/
def Bound.nextRead (b : Bound) (w : Workgroup) : Nat :=
  if b.overlaps w then min 64 (b.srcLen - b.sent) else min (2048 - b.sent % 2048) (b.srcLen - b.sent)

/-- The units of the next read, with their accesses. -/
def State.nextUnits (s : State) (w : Workgroup) (b : Bound) : List (Nat × Nat × UnitAccess) :=
  let n := b.nextRead w
  (List.range ((n + 63) / 64)).map fun j =>
    let i := b.sent + 64 * j
    let k := min 64 (n - 64 * j)
    (i, k, s.copyUnit w b false i k)

def UnitAccess.isOk : UnitAccess → Bool
  | .ok _ _ => true
  | _ => false

/-- The engine of a bound command can read its next unit, or meets its failure once all earlier units have
committed (R292). -/
def State.sendReady (s : State) (g n : Nat) : Bool :=
  match s.bound g n with
  | none => false
  | some b =>
    let w := s.wg g
    s.copyMoves g b && b.sent < b.srcLen && (!b.overlaps w || b.sent == b.count) && !b.matched
      && (!b.isCopy || b.inSegment || s.permit w b)
      && match (s.nextUnits w b).head? with
        | some (_, _, .ok _ _) => true
        | some (_, _, .wait) => false
        | _ => !b.isCopy || b.sent == b.count

/-- A translation fault freezes the command (R292): its record names the side, the stamp and COUNT. -/
def freeze (g n : Nat) (write : Bool) (va : Nat) (f : XFail) : Act Unit := do
  let s ← now
  match s.bound g n with
  | none => pure ()
  | some b =>
    let w := s.wg g
    setBound g n (some { b with state := .frozen })
    let seq ← raiseFault w.ctxid (.copy g n)
      { source := if write then 3 else 2, kind := f.kind, access := b2n write, lvl := f.lvl, role := b.role, index := n,
        va := va, ssn := b.stamp.toNat, wgid := w.wgid, op := b.op6, extra := b.count }
    modBound g n fun b => { b with record := some seq }

/-- POISONED (R293): nothing more lands, and a copy's slots are free (R288); the region stays armed. -/
def poisonBound (g n : Nat) : Act Unit :=
  modBound g n fun b =>
    { b with state := .poisoned, asks := none, buffer := [], badBytes := [], sent := if b.isCopy then b.count else b.sent }

/-- The state of a copy that resumes: LANDING once a unit has committed (Table 11.4). -/
def Bound.moving (b : Bound) : CopyState := if b.count = 0 then .issued else .landing

/-- What the accesses of a copy leave behind: the die's TLB with A and D (R379, R381), and the L2 by the hint of each page (R127). -/
def settleCopy (cluster : Nat) (b : Bound) (write : Bool) (pages : List (Xlated × List Nat)) : Act Unit := do
  each ((pages.map fun p => { p.1 with pa := p.1.pa / 4096 * 4096 }).dedup) fun x => useXlated cluster x write false false
  each pages fun p => each ((p.2.map (· / 128 * 128)).dedup) fun l => touchL2 l (pageHint b.hint p.1.entry)

/-- What R287's loop writes over the indices of one unit, given as source address, destination address and what was read there: where an
earlier index has written the source, that. -/
def loopUnit {α : Type} (cells : List (Nat × Nat × α)) : List α :=
  (cells.foldl (fun done c => done ++ [(c.2.1, match done.find? (·.1 == c.1) with
    | some x => x.2
    | none => c.2.2)]) []).map (·.2)

/-- The bytes of a unit from index i on as they are to land, with their poison. -/
def Bound.landing (b : Bound) (w : Workgroup) (i : Nat) (read : List (Byte × Bool)) : List (Byte × Bool) :=
  if b.overlaps w then
    loopUnit (read.mapIdx fun j x => (ownWindow w (b.srcAt (i + j)), ownWindow w (b.dstAt (i + j)), x))
  else read

/-- Take the bytes of read units into the buffer with their poison (R293). -/
def takeUnits (g n : Nat) (units : List (Nat × Nat × UnitAccess)) : Act Unit :=
  each units fun u => do
    match u.2.2 with
    | .ok locs pages =>
      let s ← now
      match s.bound g n with
      | none => pure ()
      | some b =>
        let r ← readBy (b.actor g) (wordUnits id locs)
        let read := b.landing (s.wg g) u.1 (r.1.flatten.zip (locs.map fun l => s.poisoned [l]))
        let bad := (List.range read.length).filter fun i => (read.map (·.2)).getD i false
        setBound g n (some { b with
          buffer := b.buffer ++ read.map (·.1), badBytes := b.badBytes ++ bad.map (u.1 + ·), sent := b.sent + u.2.1
          srcf := b.srcf || (b.sent + u.2.1 == b.srcLen && !b.overlaps (s.wg g)) })
        settleCopy (s.wg g).cluster b false pages
    | _ => pure ()

/-- The runs of consecutive addresses that indices [lo, hi) take, row by row. -/
def Bound.runs (b : Bound) (isDst : Bool) (lo hi : Nat) : List (Nat × Nat) :=
  let inner := max b.inner 1
  (List.range ((hi - 1) / inner + 1 - lo / inner)).map fun j =>
    let i := max lo ((lo / inner + j) * inner)
    (if isDst then b.dstAt i else b.srcAt i, min hi ((lo / inner + j + 1) * inner) - i)

/-- A location in each 2 KiB unit that the command still has to read or to write. -/
def State.leftLocs (s : State) (w : Workgroup) (b : Bound) (isDst : Bool) : List Nat :=
  let lo := if isDst then b.count else b.sent
  let hi := if isDst then b.len else b.srcLen
  if hi ≤ lo then []
  else ((b.runs isDst lo hi).flatMap fun r => cutSpan 2048 r.1 r.2).filterMap fun p => match s.copyPiece w b isDst p.1 1 with
    | .ok ls _ => ls.head?
    | _ => none

/-- A die-to-die port that the rest of the command crosses has failed (R11, R293, Table 11.4): from a source die to the landing
buffer, or from there to a destination die (R288). -/
def State.crossesFailed (s : State) (w : Workgroup) (b : Bound) : Bool :=
  let dies (isDst : Bool) : List Nat := ((s.leftLocs w b isDst).map fun l => if isHost l || isRemote l then 0 else locDie l).dedup
  let mid := match b.dstLoc with
    | some l => locDie l
    | none => dieOf w.cluster
  let down (x y : Nat) : Bool := x != y && !((s.die x).ports.getD y true)
  !(s.dies.all fun d => d.ports.all id) && ((dies false).any (down · mid) || (dies true).any (down mid ·))

def farRead (locs : List Nat) : Bool := locs.any fun l => isHost l || isRemote l

/-- COPY_SEGMENT_SEND (R288): the next source bytes are read into the landing buffer. A read of the host window or of
another package waits for its completion. -/
def execCopySegmentSend (g n : Nat) (s : State) : Result :=
  event "COPY_SEGMENT_SEND" (·.sendReady g n) (do
    match s.bound g n with
    | none => pure ()
    | some b =>
      let units := s.nextUnits (s.wg g) b
      if s.crossesFailed (s.wg g) b then poisonBound g n
      else match units.head? with
      | some (_, _, .freeze va f) => freeze g n false va f
      | some (_, _, .poison) => poisonBound g n
      | some (_, _, .ok locs _) =>
        if farRead locs then setBound g n (some { b with asks := some false })
        else takeUnits g n ((units.takeWhile (·.2.2.isOk)).takeWhile fun u => match u.2.2 with
          | .ok ls _ => !farRead ls
          | _ => false)
      | _ => pure ()) s

/-- The unit at COUNT can land: its bytes are in the buffer, or combined, and no earlier region covers it. -/
def State.commitReady (s : State) (g n : Nat) : Bool :=
  match s.bound g n with
  | none => false
  | some b =>
    let k := min 64 (b.len - b.count)
    s.copyMoves g b && b.count < b.len && (if b.isCopy then b.count + k ≤ b.sent else b.matched)
      && s.copyUnit (s.wg g) b true b.count k != .wait

/-- COUNT passes a unit (R282), a commit of its landing buffer (R405). -/
def passUnit (g n k : Nat) : Act Unit := do
  modBound g n fun b =>
    { b with
      count := b.count + k, state := .landing, buffer := if b.isCopy then b.buffer.drop k else b.buffer
      badBytes := b.badBytes.filter (b.count + k ≤ ·) }
  let s ← now
  match s.bound g n with
  | some b =>
    modCluster (b.site (s.wg g).cluster) (·.tally kindLand 1)
    if b.count = b.len then publish g n else pure ()
  | none => pure ()

/-- The command writes bytes of its destination, from index i on. What lands in an armed region is seen by every agent at once (R284,
R273, log entry 8); elsewhere it travels the copy path, 8 bytes at a time (R254). What it overwrites in full is no longer poisoned (R28,
log entry 122). -/
def landBytes (g i : Nat) (b : Bound) (cells : List (Nat × Byte)) : Act Unit := do
  if b.armed then
    writeLocs (cells.map (·.1)) (cells.map (·.2))
    tallySpad (cells.map (·.1))
  else
    each (wordUnits (·.2.1) ((List.range cells.length).zip cells)) fun u =>
      writeBy (b.actor g (i + (u.head?.map (·.1)).getD 0 + 1)) [u.map (·.2)]
    clearPoison (cells.map (·.1))

/-- Write one unit (R282), with its poison. -/
def landUnit (g n : Nat) (locs : List Nat) (pages : List (Xlated × List Nat)) : Act Unit := do
  let s ← now
  match s.bound g n with
  | none => pure ()
  | some b =>
    let w := s.wg g
    let k := locs.length
    let off := if b.isCopy then 0 else b.count
    landBytes g b.count b (locs.zip (((if b.isCopy then b.buffer else b.data).drop off).take k))
    let bad := (List.range k).filter fun i => b.badBytes.contains (b.count + i)
    if bad.isEmpty then pure () else poisonLocs (bad.map fun i => locs.getD i 0)
    settleCopy w.cluster b true pages
    passUnit g n k

/-- COPY_UNIT_COMMIT (R282): the unit at COUNT lands; the last one makes the copy LANDED, and PUBLISHED after its
release. A write to another package waits for its completion. -/
def execCopyUnitCommit (g n : Nat) (s : State) : Result :=
  event "COPY_UNIT_COMMIT" (·.commitReady g n) (do
    match s.bound g n with
    | none => pure ()
    | some b =>
      if s.crossesFailed (s.wg g) b then poisonBound g n
      else match s.copyUnit (s.wg g) b true b.count (min 64 (b.len - b.count)) with
      | .ok locs pages =>
        if locs.any isRemote then setBound g n (some { b with asks := some true }) else landUnit g n locs pages
      | .freeze va f => freeze g n true va f
      | .poison => poisonBound g n
      | .wait => pure ()) s

/-- The completion of a copy's request to the host or another package (R414, R417). A page that has gone meanwhile freezes the copy
(R292), and one that waits sends the request again. -/
def completeFar (g n : Nat) (ok : Bool) : Act Unit := do
  let s ← now
  match s.bound g n with
  | none => pure ()
  | some b =>
    let write := b.asks.getD false
    setBound g n (some { b with asks := none })
    if !ok then poisonBound g n
    else if write then
      match s.copyUnit (s.wg g) b true b.count (min 64 (b.len - b.count)) with
      | .ok locs pages => landUnit g n locs pages
      | .freeze va f => freeze g n true va f
      | .poison => poisonBound g n
      | .wait => pure ()
    else
      match (s.nextUnits (s.wg g) b).head? with
      | some (i, k, .ok locs pages) => takeUnits g n [(i, k, .ok locs pages)]
      | some (_, _, .freeze va f) => freeze g n false va f
      | some (_, _, .poison) => poisonBound g n
      | _ => pure ()

/-- A copy of a workgroup that is being saved has reached its parking point (R295): its COUNT, its fault, or a wait under R284 or R286. -/
def State.parkReady (s : State) (g n : Nat) : Bool :=
  match s.bound g n with
  | none => false
  | some b =>
    (s.wg g).status == .saving && b.isCopy && b.asks.isNone &&
    match b.state with
    | .frozen => true
    | .issued | .landing =>
      b.park.any (· ≤ b.count)
        || (b.count < b.len && (s.unitCovered (s.wg g) b true b.count (min 64 (b.len - b.count))
          || (b.sent == b.count && s.unitCovered (s.wg g) b false b.count (min 64 (b.len - b.count)))))
    | _ => false

/-- COPY_PARK (R295): data read for later units is discarded, but not after SRC_FREE, when stores to the source no longer affect the
copy (R289, R433, log entry 101). -/
def execCopyPark (g n : Nat) (s : State) : Result :=
  event "COPY_PARK" (·.parkReady g n) (modBound g n fun b =>
    let p := { b with state := .parked, before := b.state }
    if b.srcf then p else { p with sent := b.count, buffer := [], badBytes := [] }) s

end Sys2Proof.Machine
end

