-- ==== Sys2Proof/Machine/Cred.lean ====
section
/-! DEFINITION. Collectives (19_link): CRED at issue (R420, R421), matching (R422) and the chain units' combination
(R423 to R425). The engine of Copy.lean reads its source and lands its result. -/
namespace Sys2Proof.Machine

def credBytes (t : CredType) : Nat :=
  match t with
  | .f64 => 8 | .f32 => 4 | .f16 => 2 | .bf16 => 2 | .i32 => 4 | .n32 => 4 | .i64 => 8 | .n64 => 8 | .bytes => 1
def credReduces (op : CredOp) : Bool := op == .allreduce || op == .reduceScatter || op == .reduce

/-- Source and destination bytes at a rank (Table 19.3). -/
def credSrcLen (op : CredOp) (n c es : Nat) (isRoot : Bool) : Nat :=
  match op with
  | .reduceScatter | .allToAll => n * c * es
  | .broadcast => if isRoot then c * es else 0
  | _ => c * es
def credDstLen (op : CredOp) (n c es : Nat) (isRoot : Bool) : Nat :=
  match op with
  | .allgather | .allToAll => n * c * es
  | .reduce => if isRoot then c * es else 0
  | _ => c * es

def State.comm (s : State) (handle : Nat) : Option Comm := s.dev.comms.find? (·.handle == handle)
def modComm (handle : Nat) (f : Comm → Comm) : Act Unit :=
  modDevice fun d => { d with comms := d.comms.map fun c => if c.handle == handle then f c else c }

/-- The rank of a workgroup in a communicator. -/
def State.rankOf (s : State) (c : Comm) (w : Workgroup) : Option Nat :=
  c.ranks.findIdx? (· == (s.dev.package, w.ctxid, w.wgid))

/-- What CRED binds from its parameter block, when check 2 of R421 passes: its call number is the rank's next. -/
def State.credBlock (s : State) (w : Workgroup) (m : CredArgs) (p : List Word) : Option Bound :=
  let x (i : Nat) : Nat := (p.getD i 0).toNat
  let handle := bits (x 3) 15 0
  let root := bits (x 3) 31 16
  let cnt := bits (x 2) 39 0
  match s.comm handle with
  | none => none
  | some cm =>
    match s.rankOf cm w with
    | none => none
    | some r =>
      let n := cm.ranks.length
      if bits (x 2) 63 40 ≠ 0 || bits (x 3) 63 32 ≠ 0 || !(s.dctx w.ctxid).comms.contains handle || n ≤ root then none
      else
        let es := credBytes m.type
        let src := credSrcLen m.op n cnt es (r == root)
        let dst := credDstLen m.op n cnt es (r == root)
        some { blankBound with
          kind := .cred m handle r root (cm.calls.getD r 0) cnt, block := p, bits := lowWord (.cred m), src := x 0, dst := x 1
          inner := dst, len := dst, srcLen := src, srcf := src == 0, acquire := m.acquire, release := m.release }

/-- What a CRED of a context binds. -/
def State.credBound (s : State) (m : CredArgs) (c : Context) : Option Bound :=
  (s.credBlock (s.wg c.wg) m (c.block m.sP 4)).map fun b =>
    { b with compat := c.compat, role := c.role, handler := c.mode == .handler, pc := c.pc }

/-- Checks 3 to 5 of R421: the trap of the first that fails. -/
def State.credTrap (s : State) (w : Workgroup) (es : Nat) (b : Bound) : Option TrapRecord :=
  let at_ (a : Nat) : Word := BitVec.ofNat 64 a
  let span (isDst : Bool) (a n : Nat) : Option Nat := if n = 0 then none else s.spanFault w isDst a n
  if b.src % es ≠ 0 then some (accessRecord 8 (at_ b.src) 4)
  else if b.dst % es ≠ 0 then some (accessRecord 8 (at_ b.dst) 4)
  else match span false b.src b.srcLen with
    | some kind => some (accessRecord 7 (at_ b.src) kind)
    | none => match span true b.dst b.len with
      | some kind => some (accessRecord 7 (at_ b.dst) kind)
      | none =>
        if b.srcLen ≠ 0 && b.len ≠ 0 && spansMeet w b.src (b.src + b.srcLen - 1) b.dst (b.dst + b.len - 1) then
          some (.of 11 (at_ b.src) (at_ b.dst))
        else none

/-! ### The packages that a command needs (R416) -/

/-- The packages whose memory the rest of a command's spans reach, or whose ranks take part in it. -/
def State.packagesOf (s : State) (w : Workgroup) (b : Bound) : List Nat :=
  let far (isDst : Bool) (a n : Nat) : List Nat :=
    if n = 0 || 2 ^ 48 < a + n then []
    else (cutSpan 4096 a n).filterMap fun p =>
      match s.translate w.cluster w.ctxid p.1 (if isDst then .store else .load) (!b.handler) false with
      | .ok x => if isRemote x.pa then some ((x.pa - 0xA_0000_0000_0000) / 2 ^ 41) else none
      | .error _ => none
  let span (at_ : Nat → Nat) (lo hi : Nat) : Nat × Nat := if lo < hi then (at_ lo, at_ (hi - 1) + 1 - at_ lo) else (0, 0)
  let src := span b.srcAt b.sent b.srcLen
  let dst := span b.dstAt b.count b.len
  far false src.1 src.2 ++ far true dst.1 dst.2 ++ match b.kind with
    | .copy _ => []
    | .cred _ h _ _ _ _ => match s.comm h with
      | some c => if b.matched then [] else (c.ranks.map (·.1)).filter (· != s.dev.package)
      | none => []

/-- Copies and CREDs that need a package to which no link remains become POISONED (R416): as the last link goes, as a route changes, or
at their issue. -/
def poisonUnreachable : Act Unit := do
  let s ← now
  each s.bounds fun (g, n, b) =>
    if b.state != .published && b.state != .poisoned && (s.packagesOf (s.wg g) b).any (s.packageWay · == .fails) then poisonBound g n
    else pure ()

/-- CRED (R420, R421); it needs no right. With acquire it waits behind the fence of R271. Where no link leads to a rank's package it is
POISONED at once (R416). -/
def execCred (m : CredArgs) (s : State) : Result := commit (do
  let k := s.curCtx
  let c := s.ctx k
  let w := s.wg c.wg
  let n := m.wm.toNat
  match s.credBound m c with
  | none => illegal (.cred m)
  | some b =>
    match s.credTrap w (credBytes m.type) b with
    | some r => trapNow r
    | none =>
      match (w.mark n).bindWait with
      | .trap r => trapNow r
      | .wait => stallCur .watermark
      | .free =>
        let loc := if b.len = 0 then none else s.spanLoc w b.dst
        if (match loc with
          | some l => s.comparatorsFull l
          | none => false) then stallCur .landing
        else
          match s.commandWait k b.acquire with
          | some why => stallCur why
          | none =>
            bindMark c.wg n { b with dstLoc := loc, armed := loc.isSome }
            setVis ((← now).issueEdge k (.copy c.wg s.dev.stamp.toNat) pathCp (if b.acquire then some b.scope else none))
            match b.kind with
            | .cred _ handle r _ call _ => modComm handle fun cm => { cm with calls := cm.calls.set r (call + 1) }
            | .copy _ => pure ()
            finishNone 16
            poisonUnreachable) s

/-! ### Matching and combination -/

/-- A bound call that waits for its match. -/
structure Call where
  wg : Nat
  wm : Nat
  rank : Nat
  call : Nat
  args : CredArgs
  count : Nat
  root : Nat
  bound : Bound
  deriving DecidableEq, Repr

def State.callsOf (s : State) (handle : Nat) : List Call :=
  s.bounds.filterMap fun (g, n, b) =>
    match b.kind with
    | .cred m h r root call cnt =>
      if h == handle && !b.matched && b.state != .poisoned && b.state != .published then
        some { wg := g, wm := n, rank := r, call := call, args := m, count := cnt, root := root, bound := b }
      else none
    | .copy _ => none

/-- The ranks on this package. -/
def State.localRanks (s : State) (c : Comm) : List Nat :=
  (List.range c.ranks.length).filter fun r => match c.ranks[r]? with
    | some p => p.1 == s.dev.package
    | none => false

/-- The lowest call number of which every local rank has issued its call; with a destroyed rank, the lowest waiting. -/
def State.matchedCalls (s : State) (handle : Nat) : List Call :=
  match s.comm handle with
  | none => []
  | some c =>
    let calls := s.callsOf handle
    let of (k : Nat) : List Call := calls.filter (·.call == k)
    let ready (k : Nat) : Bool :=
      if c.dead.isEmpty then (s.localRanks c).all fun r => (of k).any (·.rank == r) else true
    let best := ((calls.map (·.call)).filter ready).foldl (fun m k => match m with
      | none => some k
      | some j => some (min j k)) (none : Option Nat)
    match best with
    | some k => of k
    | none => []

/-- Matched calls agree in operation, reduction, type, count and root (R422). -/
def callsAgree (l : List Call) : Bool :=
  match l with
  | [] => true
  | x :: r => r.all fun y => y.args.op == x.args.op && y.args.red == x.args.red && y.args.type == x.args.type
      && y.count == x.count && y.root == x.root

/-- How the other packages of a communicator's ranks are reached. -/
def State.farWays (s : State) (c : Comm) : List RemoteWay :=
  ((c.ranks.map (·.1)).filter (· != s.dev.package)).map s.packageWay

/-- The match can be carried out: a disagreement or a destroyed rank at once, else when all sources are read and no rank's package is
behind links that retrain (R416). -/
def State.reduceReady (s : State) (handle : Nat) : Bool :=
  let l := s.matchedCalls handle
  !l.isEmpty && match s.comm handle with
    | none => false
    | some c => !c.dead.isEmpty || !callsAgree l || (l.all (·.bound.srcf) && !(s.farWays c).contains .waits)

/-- x ⊕ y (R423). -/
def credCombine (t : CredType) (red : CredRed) (level1 : Bool) (x y : Nat) : Nat :=
  let float (f : Fmt) : Nat :=
    let env := fenv .rne level1 false
    match red with
    | .sum => (f.add env x y).1
    | .min => (f.minmax env false x y).1
    | .max => (f.minmax env true x y).1
  let int (w : Nat) (uns : Bool) : Nat :=
    match red with
    | .sum => (x + y) % 2 ^ w
    | .min => if asInt w uns x ≤ asInt w uns y then x else y
    | .max => if asInt w uns x ≤ asInt w uns y then y else x
  match t with
  | .f64 => float f64 | .f32 => float f32 | .f16 => float f16 | .bf16 => float bf16
  | .i32 => int 32 false | .n32 => int 32 true | .i64 => int 64 false | .n64 => int 64 true
  | .bytes => x

/-- One level of the pairwise tree: an unpaired node passes up. -/
def treeLevel (f : Nat → Nat → Nat) : List Nat → List Nat
  | x :: y :: r => f x y :: treeLevel f r
  | l => l
def treeFold (f : Nat → Nat → Nat) : Nat → List Nat → Nat
  | 0, l => l.headD 0
  | n + 1, l => treeFold f n (treeLevel f l)

/-- The values of the ranks cut into groups. -/
def cutGroups : List Nat → List Nat → List (List Nat)
  | [], _ => []
  | n :: r, l => l.take n :: cutGroups r (l.drop n)

/-- The combination of all ranks' values: within each group in rank order, then the tree over groups (R423). -/
def combineRanks (f : Nat → Nat → Nat) (groups xs : List Nat) : Nat :=
  let sums := (cutGroups groups xs).map fun g => match g with
    | [] => 0
    | x :: r => r.foldl f x
  treeFold f 13 sums

/-- The source elements, as (rank, element), that destination element j of rank r combines (Table 19.3). -/
def credSources (op : CredOp) (n c root r j : Nat) : List (Nat × Nat) :=
  match op with
  | .allreduce | .reduce => (List.range n).map fun q => (q, j)
  | .reduceScatter => (List.range n).map fun q => (q, r * c + j)
  | .allgather => [(j / max c 1, j % max c 1)]
  | .broadcast => [(root, j)]
  | .allToAll => [(j / max c 1, r * c + j % max c 1)]

/-- What a rank contributes: the bytes it read, and for a rank of another package what arrives (log entry 2). -/
def rankByte (l : List Call) (ix q i : Nat) : Byte :=
  match l.find? (·.rank == q) with
  | some c => c.bound.buffer.getD i 0
  | none => Config.farBytes ix q i
def rankBad (l : List Call) (q i : Nat) : Bool :=
  match l.find? (·.rank == q) with
  | some c => c.bound.badBytes.contains i
  | none => false

/-- The result of one call: its bytes, and which of them hold poison. -/
def credResult (c : Comm) (l : List Call) (ix : Nat) (x : Call) : List Byte × List Nat :=
  let es := credBytes x.args.type
  let n := c.ranks.length
  let elem (q j : Nat) : Nat := leNat ((List.range es).map fun i => rankByte l ix q (j * es + i))
  let js := List.range (x.bound.len / es)
  let src (j : Nat) : List (Nat × Nat) := credSources x.args.op n x.count x.root x.rank j
  let value (j : Nat) : Nat :=
    let vs := (src j).map fun p => elem p.1 p.2
    if credReduces x.args.op then combineRanks (credCombine x.args.type x.args.red x.bound.compat) c.groups vs
    else vs.headD 0
  let bad (j : Nat) : Bool := (src j).any fun p => (List.range es).any fun i => rankBad l p.1 (p.2 * es + i)
  (js.flatMap fun j => leBytes es (value j), (js.filter bad).flatMap fun j => (List.range es).map (j * es + ·))

/-- The edge between the ranks (R425): when every call carries acquire at system scope, what happens before any of them happens before
each one's destination writes. -/
def State.rankEdge (s : State) (l : List Call) (farAcquire : Bool) : Visibility :=
  let agents := l.map fun x => x.bound.agent x.wg
  if farAcquire && l.all fun x => x.bound.acquire && x.bound.scope == .system then s.fullEdge agents agents else s.vis

/-- CHAIN_UNIT_REDUCE (R422 to R425): the lowest matched calls of a communicator are combined, or poisoned when they
disagree, or a rank or the way to its package is gone. -/
def execChainUnitReduce (handle : Nat) (s : State) : Result :=
  event "CHAIN_UNIT_REDUCE" (·.reduceReady handle) (do
    match s.comm handle with
    | none => pure ()
    | some c =>
      let l := s.matchedCalls handle
      let ix ← freshIx
      let others := (List.range c.ranks.length).filter fun q => !(l.any (·.rank == q))
      let agree := c.dead.isEmpty && callsAgree l && !(s.farWays c).contains .fails && others.all (Config.farAgrees ix)
      if agree then setVis ((← now).rankEdge l (others.all (Config.farAcquires ix))) else pure ()
      each l fun x =>
        if !agree then poisonBound x.wg x.wm
        else do
          let r := credResult c l ix x
          modBound x.wg x.wm fun b => { b with matched := true, buffer := [], data := r.1, badBytes := r.2 }
          if x.bound.len = 0 then publish x.wg x.wm else pure ()) s

end Sys2Proof.Machine
end

