-- ==== Sys2Proof/Machine/Operands.lean ====
section
/-! DEFINITION. The operands of lane words: slot kinds and widths (R178, R179, Tables 7.3 to 7.9), the legal mod6 values
(R49), the checks on one word (Table 2.14, checks 3 to 8) and on a pair (R57, R58), and reading an operand (R41 to
R46, R53, R54). -/
namespace Sys2Proof.Machine

/-! ### Slots (Table 7.3) -/

/-- Slot kinds: `i` lists its constants, `uv` is a uniform or a v-pair, `pz` a predicate or zero, `ext` a slot of an
extension-space word (R60). -/
inductive Kind
  | x | u | v | p | i (allowed : List Nat) | w | q | m | none | uv | pz | ext
  deriving DecidableEq, Repr

/-- A slot: its kind and the bits of a vector operand in it (R42). -/
structure Slot where
  kind : Kind
  width : Nat
  deriving DecidableEq, Repr

/-- The slots of a word: dst, srcA, srcB and srcC. -/
structure Form where
  dst : Slot
  a : Slot
  b : Slot
  c : Slot
  deriving DecidableEq, Repr

def Form.slots (f : Form) : List Slot := [f.dst, f.a, f.b, f.c]
def laneFields (w : LaneWord) : List Nat := [w.dst.toNat, w.srcA.toNat, w.srcB.toNat, w.srcC.toNat]

def slotNone : Slot := ⟨.none, 0⟩
def slotX (n : Nat) : Slot := ⟨.x, n⟩
def slotW (n : Nat) : Slot := ⟨.w, n⟩
def form1 (d a : Slot) : Form := ⟨d, a, slotNone, slotNone⟩
def form2 (d a b : Slot) : Form := ⟨d, a, b, slotNone⟩
def form3 (d a b c : Slot) : Form := ⟨d, a, b, c⟩

/-- The register width of the integer layout's type, and of the floating layout's (Table 2.10). -/
def intWidth (m : Nat) : Nat := if m % 4 = 1 then 64 else 32
def floatWidth (m : Nat) : Nat := if m / 4 % 4 = 1 then 64 else 32
/-- 64 when a one-bit width field is set. -/
def bitWidth (b : Bool) : Nat := if b then 64 else 32
/-- The registers of a VLD or VST size code (R205). -/
def sizeWidth (code : Nat) : Nat := if code = 5 then 64 else if code = 6 then 128 else 32

/-- The forms of the integer and logic words (Table 7.4). -/
def intForm (op m : Nat) : Form :=
  let n := intWidth m
  match op with
  | 0x00 => ⟨slotNone, slotNone, slotNone, slotNone⟩
  | 0x05 => form3 (slotW n) (slotX n) (slotX n) (slotX n)
  | 0x10 => form2 (slotW n) (slotX n) (slotX 32)
  | 0x11 => form3 (slotW n) (slotX n) (slotX n) (slotX 32)
  | 0x12 | 0x13 | 0x14 | 0x15 | 0x1B => form1 (slotW n) (slotX n)
  | 0x16 => form3 (slotW 32) (slotX 32) (slotX 32) (slotX 32)
  | 0x19 =>
    let n := bitWidth (bitAt m 0)
    form3 (slotW n) (slotX n) (slotX n) ⟨.pz, 0⟩
  | 0x1A =>
    let n := bitWidth (bitAt m 0)
    form2 ⟨.q, 0⟩ (slotX n) (slotX n)
  | 0x1C => form3 (slotW n) (slotX n) (slotX n) ⟨.p, 0⟩
  | 0x1D => form2 (slotW 64) ⟨.uv, 64⟩ (slotX 32)
  | _ => form2 (slotW n) (slotX n) (slotX n)

/-- The forms of the floating words (Table 7.5). VFXTR's destination depends on its selector (R191). -/
def floatForm (op m srcB : Nat) : Form :=
  let n := floatWidth m
  match op with
  | 0x44 | 0x45 | 0x48 => form3 (slotW n) (slotX n) (slotX n) (slotX n)
  | 0x49 =>
    let n := if m % 4 = 1 then 64 else 32
    form2 ⟨.q, 0⟩ (slotX n) (slotX n)
  | 0x4A => form1 (slotW 32) (slotX n)
  | 0x4C | 0x4D => form1 (slotW n) (slotX n)
  | 0x4E => form2 (slotW n) (slotX n) (slotX 32)
  | 0x4F => form2 (slotW (if srcB = 832 then 32 else n)) (slotX n) ⟨.i [832, 833], 0⟩
  | 0x53 => form3 (slotW 32) (slotX 32) (slotX 32) (slotX 32)
  | _ => form2 (slotW n) (slotX n) (slotX n)

/-- The forms of the conversions (R193 to R195, Table 7.7). -/
def convertForm (op m : Nat) : Form :=
  if op = 0x51 then form1 (slotW (bitWidth (2 ≤ m / 4 % 4))) (slotX (bitWidth (m / 16 = 1)))
  else if op = 0x52 then form1 (slotW (bitWidth (m / 16 = 1))) (slotX (bitWidth (2 ≤ m / 4 % 4)))
  else
    match m / 4 with
    | 0 | 7 => form1 (slotW 64) (slotX 32)
    | 1 | 6 => form1 (slotW 32) (slotX 64)
    | 2 | 3 | 4 | 5 => form1 (slotW 32) (slotX 32)
    | 8 | 9 | 10 | 12 => form2 (slotW 32) (slotX 32) (slotX 32)
    | 11 | 13 => form2 (slotW 32) (slotX 32) ⟨.i [832, 833, 834, 835], 0⟩
    | _ => form2 (slotW 32) (slotX 32) ⟨.i [832, 833], 0⟩

/-- The forms of predicate, cross-lane and vote words and of VBAR (R197 to R201, R369). -/
def crossForm (op m : Nat) : Form :=
  let n := bitWidth (bitAt m 0)
  match op with
  | 0x90 => form2 ⟨.q, 0⟩ ⟨.p, 0⟩ ⟨.p, 0⟩
  | 0x91 => if bitAt m 0 then form1 ⟨.q, 0⟩ (slotX 32) else form1 (slotW 32) ⟨.p, 0⟩
  | 0x92 => form2 (slotW n) ⟨.v, n⟩ (slotX 32)
  | 0x93 | 0x94 => form2 (slotW n) ⟨.v, n⟩ ⟨.u, 32⟩
  | 0x95 =>
    let n := bitWidth (m % 8 == 2 || m % 8 == 3 || m % 8 == 5)
    form2 (slotW n) (slotX n) (if bitAt m 3 then ⟨.p, 0⟩ else slotNone)
  | 0x96 =>
    let n := bitWidth (m % 8 == 2 || m % 8 == 3 || m % 8 == 5)
    form1 (slotW n) (slotX n)
  | 0x97 => form1 slotNone (if m % 8 = 5 then slotX (bitWidth (bitAt m 3)) else ⟨.p, 0⟩)
  | _ => form3 slotNone slotNone slotNone ⟨.m, 0⟩

/-- The forms of the memory words (R205 to R209) and of the dot products and the words of 09_tile (R210, R244, R248,
R250). -/
def memForm (op m : Nat) : Form :=
  let off := slotX 32
  let base : Slot := ⟨.uv, 64⟩
  match op with
  | 0xB0 => form3 (slotW (sizeWidth (m % 8))) off base ⟨.m, 0⟩
  | 0xB1 => form3 ⟨.v, sizeWidth (m % 8)⟩ off base ⟨.m, 0⟩
  | 0xB2 => form3 ⟨.v, bitWidth (m % 8 = 5)⟩ off base ⟨.m, 0⟩
  | 0xB3 => form3 ⟨.v, 2 * bitWidth (m % 8 = 5)⟩ off base ⟨.m, 0⟩
  | 0xB4 => form3 slotNone off base ⟨.m, 0⟩
  | 0xB5 => form3 slotNone slotNone slotNone ⟨.m, 0⟩
  | 0xE2 => form3 (slotW 32) (slotX 64) (slotX 32) ⟨.u, 32⟩
  | 0xE3 => form3 ⟨.v, 128⟩ (slotX 32) (slotX 32) ⟨.u, 32⟩
  | 0xE4 => form2 (slotW 32) (slotX 64) ⟨.u, 32⟩
  | _ => form3 (slotW 32) (slotX 32) (slotX 32) (slotX 32)

/-- The slots of a lane word, by op8, mod6 and srcB. -/
def laneForm (op m srcB : Nat) : Form :=
  if op ≤ 0x1D then intForm op m
  else if op < 0x50 || op = 0x53 then floatForm op m srcB
  else if op < 0x80 then convertForm op m
  else if op < 0x90 then form1 (slotW 32) (slotX 32)
  else if op < 0xB0 then crossForm op m
  else if op < 0xF0 then memForm op m
  else ⟨⟨.ext, 32⟩, ⟨.ext, 32⟩, ⟨.ext, 32⟩, ⟨.ext, 32⟩⟩

def formOf (op : Nat) (w : LaneWord) : Form := laneForm op w.mod6.toNat w.srcB.toNat

/-! ### Legal mod6 values (check 4) -/

/-- The mod6 values an op defines (Tables 2.10, 7.4 to 7.9 and the rules of each instruction). -/
def mod6Ok (op m : Nat) : Bool :=
  match op with
  | 0x00 | 0x16 | 0xB5 | 0xE2 | 0xE4 => m = 0
  | 0x01 | 0x02 | 0x03 | 0x05 => m < 16
  | 0x04 | 0x06 | 0x07 | 0x08 | 0x0E | 0x17 | 0x18 => m < 8
  | 0x09 | 0x0A | 0x0B | 0x0C | 0x11 | 0x1B | 0x1C => m < 2
  | 0x0D | 0x0F | 0x12 | 0x13 | 0x14 | 0x15 => m < 4
  | 0x10 => m / 8 = 0 && !bitAt m 1
  | 0x19 => !bitAt m 1
  | 0x1A => !bitAt m 1 && m / 8 < 7
  | 0x1D => m / 8 % 4 = 0
  | 0x40 | 0x41 | 0x42 | 0x43 | 0x44 | 0x45 | 0x4B | 0x4C | 0x4D | 0x4E => m < 16
  | 0x46 | 0x47 | 0x48 | 0x4A | 0x4F => m < 16 && m % 4 = 0
  | 0x49 => m % 4 < 2
  | 0x50 => m % 4 = 0 || [1, 2, 4, 6, 8, 9, 10, 12].contains (m / 4)
  | 0x51 | 0x52 => true
  | 0x53 => m < 16 && 2 ≤ m / 4
  | 0x80 | 0x81 | 0x82 | 0x83 | 0x84 | 0x85 | 0x86 | 0x87 => m = 0 || m = 8 || m = 12
  | 0x90 => m < 16
  | 0x91 | 0x92 | 0x93 | 0x98 | 0xE3 => m < 2
  | 0x94 => m < 4
  | 0x95 => m / 16 < 3 && m % 8 < 6
  | 0x96 => m / 16 < 3 && m % 16 < 6
  | 0x97 => m < 16 && m % 8 < 6 && (!bitAt m 3 || m % 8 = 5)
  | 0xB0 | 0xB1 | 0xB4 => true
  | 0xB2 | 0xB3 => m / 8 % 4 = 0 && (m % 8 = 4 || m % 8 = 5)
  | 0xE0 | 0xE1 => m / 16 = 0 && !bitAt m 2
  | n => 0xF0 ≤ n

/-! ### What a slot admits (check 5) -/

def reservedOperand (v : Nat) : Bool := v = 799 || 976 ≤ v
def Kind.admits (k : Kind) (v : Nat) : Bool :=
  let uni := (788 ≤ v && v ≤ 795) || v = 798 || 800 ≤ v
  match k with
  | .m => true
  | .none => v = 798
  | .i l => l.contains v
  | .v => v < 768
  | .w => v < 768 || v = 798
  | .q => (773 ≤ v && v ≤ 787) || v = 798
  | .p => 772 ≤ v && v ≤ 787
  | .pz => (772 ≤ v && v ≤ 787) || v = 798
  | .x => (v < 772 || 788 ≤ v) && !reservedOperand v
  | .u => uni && !reservedOperand v
  | .uv => (v < 768 || uni) && !reservedOperand v
  | .ext => !reservedOperand v

/-- The kinds that name a vector register when the value is below 768. -/
def Kind.vector (k : Kind) : Bool :=
  match k with
  | .x | .v | .w | .uv | .ext => true
  | _ => false

/-- A written destination of an extension word is one of R47's (R60). -/
def extDstOk (op dst : Nat) : Bool := op < 0xF0 || dst < 768 || (773 ≤ dst && dst ≤ 787) || dst = 798

def operandsAdmitted (op : Nat) (w : LaneWord) : Bool :=
  ((formOf op w).slots.zip (laneFields w)).all (fun p => p.1.kind.admits p.2) && extDstOk op w.dst.toNat

/-! ### Registers, control words (check 6) -/

/-- A vector operand inside the frame and aligned to its width (R42). -/
def Slot.inFrame (sl : Slot) (v frame : Nat) : Bool :=
  if sl.kind.vector && v < 768 then
    let n := sl.width / 32
    v % n = 0 && v + n ≤ frame
  else true

/-- VATOM and VCAS control words (Table 2.11, R38, R207) and VFENCE's (R209). Table 2.14 lists no number for a VFENCE control word; check 6,
as for the other two, is DEDUCED (log entry 92). -/
def controlOk (op c : Nat) : Bool :=
  let code := c % 16
  let order := c / 16 % 4
  let scope := c / 64 % 8
  let ret := bitAt c 9
  match op with
  | 0xB2 =>
    scope ≤ 5 && code ≤ 11 && (code != 10 || (ret && order ≤ 1)) && (code != 11 || order = 0 || order = 2)
  | 0xB3 => scope ≤ 5 && code = 0 && ret
  | 0xB5 => c % 8 ≤ 5 && c / 256 = 0
  | _ => true

/-- VBAR: no guard, a level and a barrier that exist for the role (R369). That a guard fails check 6 too is DEDUCED (log entry 92). -/
def State.vbarOk (ex : Nat → Nat → Bool) (w : LaneWord) : Bool :=
  let c := w.srcC.toNat
  c / 64 = 0 && w.pg = 0 && !w.pn && ex (c / 16) (c % 16)

/-! ### The whole word -/

/-- Whether the word writes a vector register in dst (R47, R55). -/
def writesVec (op : Nat) (w : LaneWord) : Bool :=
  w.dst.toNat < 768 &&
    match (formOf op w).dst.kind with
    | .w | .ext => true
    | .v => op = 0xB3 || op = 0xE3 || (op = 0xB2 && w.srcC.getLsbD 9)
    | _ => false

/-- dst is read: VST, VATOM, VCAS, and VSLACC without .init (R50, R250). -/
def readsDst (op : Nat) (w : LaneWord) : Bool :=
  op = 0xB1 || op = 0xB2 || op = 0xB3 || (op = 0xE3 && !w.mod6.getLsbD 0)

/-- The bits of the value a word writes to dst and pushes as its latch entry; 0 for none (R53). -/
def resultWidth (op : Nat) (w : LaneWord) : Nat :=
  let d := (formOf op w).dst
  match d.kind with
  | .w => d.width
  | .ext => if w.dst.toNat < 768 then 32 else 0
  | .v => if op = 0xB3 then d.width / 2 else if op = 0xE3 || (op = 0xB2 && w.srcC.getLsbD 9) then d.width else 0
  | _ => 0

/-- The latch entry a width makes. DESIGN CHOICE (log entry 120): a 32- or 64-bit slot reads the low bits of the entry of a 128-bit
result, for which R54 states only a 32-bit slot on a 64-bit entry. A word whose W slot holds 798 makes
an entry of its full result, since only a word that writes no vector value makes an empty one (R53): DEDUCED, log entry 93. -/
def latchKind (width : Nat) : LatchKind := if width = 0 then .empty else if width = 32 then .w32 else .w64

def latchKindOf (op : Nat) (w : LaneWord) : LatchKind := latchKind (resultWidth op w)

/-- A source operand slot names a scalar register s1 to s31 (R44). -/
def namesScalar (op : Nat) (w : LaneWord) : Bool :=
  ((formOf op w).slots.zip (laneFields w)).any fun p => p.1.kind != .m && 801 ≤ p.2 && p.2 ≤ 831

/-- One more than the highest window register the word names (R220, FMIN). -/
def regsEnd (op : Nat) (w : LaneWord) : Nat :=
  ((formOf op w).slots.zip (laneFields w)).foldl (fun m p =>
    if p.1.kind.vector && p.2 < 768 then max m (p.2 + p.1.width / 32) else m) 0

/-- Latch reads at chain position `pos` with the chain's entries, newest first (R54). -/
def latchOk (op : Nat) (w : LaneWord) (pos : Nat) (kinds : List LatchKind) : Bool :=
  ((formOf op w).slots.zip (laneFields w)).all fun p =>
    if p.1.kind.vector && 768 ≤ p.2 && p.2 < 772 then
      let k := p.2 - 767
      k ≤ pos && match kinds.getD (k - 1) .empty with
        | .empty => false
        | .w32 => p.1.width ≤ 32
        | .w64 => true
    else true

/-! ### Pairs (R57, R58) -/

/-- An operation on f64 values: of the memory words, VATOM's fadd at 64 bits (R207, Table 2.5). -/
def isF64 (op : Nat) (w : LaneWord) : Bool :=
  let m := w.mod6.toNat
  if op = 0xB2 then w.srcC.toNat % 16 = 9 && m % 8 = 5
  else if op = 0x49 then m % 4 = 1
  else if 0x40 ≤ op && op ≤ 0x4F then m / 4 % 4 = 1
  else if op = 0x50 then [0, 1, 6, 7].contains (m / 4)
  else if op = 0x51 || op = 0x52 then m / 16 = 1
  else if op = 0x95 || op = 0x96 then m % 8 = 5
  else op = 0xE2 || op = 0xE3

def isSfu (op : Nat) : Bool := 0x80 ≤ op && op ≤ 0x87
def isMemory (op : Nat) : Bool := 0xB0 ≤ op && op ≤ 0xB5
def isDivide (op : Nat) : Bool := op = 0x17 || op = 0x18 || op = 0x4B || op = 0x4C
/-- Counted writes of R319. -/
def isCounted (op : Nat) : Bool := 0xB1 ≤ op && op ≤ 0xB3

/-- The registers of an operand. -/
def regsOf (v width : Nat) : List Nat := if v < 768 then (List.range (width / 32)).map (v + ·) else []

/-- The registers a word reads, and those it writes; a suppressed destination is not written. -/
def regReads (op : Nat) (w : LaneWord) : List Nat :=
  let f := formOf op w
  let src (sl : Slot) (v : Nat) : List Nat := if sl.kind.vector then regsOf v sl.width else []
  src f.a w.srcA.toNat ++ src f.b w.srcB.toNat ++ src f.c w.srcC.toNat
    ++ (if readsDst op w then regsOf w.dst.toNat f.dst.width else [])
def regWrites (op : Nat) (w : LaneWord) : List Nat :=
  if writesVec op w && !w.s then regsOf w.dst.toNat (resultWidth op w) else []

/-- The predicates a word writes and those it reads, its guard among them. -/
def predWrites (op : Nat) (w : LaneWord) : List Nat :=
  let d := w.dst.toNat
  let q := w.mod6.toNat / 4
  (if 773 ≤ d && d ≤ 787 then [d - 772] else []) ++ (if op = 0x19 && q != 0 then [q] else [])
def predReads (op : Nat) (w : LaneWord) : List Nat :=
  w.pg.toNat :: (((formOf op w).slots.zip (laneFields w)).drop 1).filterMap fun p =>
    if (p.1.kind == .p || p.1.kind == .pz || p.1.kind == .ext) && 772 ≤ p.2 && p.2 ≤ 787 then some (p.2 - 772) else none

def disjoint (a b : List Nat) : Bool := a.all fun x => !b.contains x

/-- The rules of R58 for two halves. -/
def pairLegal (op1 : Nat) (w1 : LaneWord) (op2 : Nat) (w2 : LaneWord) : Bool :=
  let single (op : Nat) (w : LaneWord) : Bool :=
    !(isF64 op w || (0x92 ≤ op && op ≤ 0x98) || 0xF0 ≤ op)
  let reads := (regReads op1 w1 ++ regReads op2 w2).dedup
  !w2.p && w1.c == w2.c && single op1 w1 && single op2 w2
    && !(isMemory op1 && isMemory op2) && !(isSfu op1 && isSfu op2)
    && reads.length ≤ 4
    && [0, 1, 2, 3].all (fun b => (reads.filter (· % 4 == b)).length ≤ 2)
    && disjoint (regWrites op1 w1) (regWrites op2 w2) && disjoint (predWrites op1 w1) (predWrites op2 w2)

/-! ### Reading an operand -/

/-- The type of a slot, which decides how a constant reads (R45, R46). -/
inductive SlotTy | i32 | i64 | i16x2 | i8x4 | f32 | f64 | f16x2 | bf16x2
  deriving DecidableEq, Repr
def SlotTy.width : SlotTy → Nat
  | .i64 | .f64 => 64
  | _ => 32

/-- Both halves of a 32-bit slot. -/
def twice (x : Nat) : Nat := x + 2 ^ 16 * x

/-- An integer value in a slot (R45). -/
def intConst (ty : SlotTy) (x : Int) : Nat :=
  match ty with
  | .i32 => wrap 32 x
  | .i64 => wrap 64 x
  | .i16x2 => twice (wrap 16 x)
  | .i8x4 => wrap 8 x * 0x01010101
  | .f32 => (Machine.f32.ofInteger .rne x).1
  | .f64 => (Machine.f64.ofInteger .rne x).1
  | .f16x2 => twice (Machine.f16.ofInteger .rne x).1
  | .bf16x2 => twice (Machine.bf16.ofInteger .rne x).1

/-- The floating constants (Table 2.9): binary32, binary64, binary16 and, by R46, bf16. -/
def floatConsts : List (Nat × Nat × Nat × Nat) :=
  [(0x3F000000, 0x3FE0000000000000, 0x3800, 0x3F00), (0x3F800000, 0x3FF0000000000000, 0x3C00, 0x3F80),
   (0x40000000, 0x4000000000000000, 0x4000, 0x4000), (0x40800000, 0x4010000000000000, 0x4400, 0x4080),
   (0xBF000000, 0xBFE0000000000000, 0xB800, 0xBF00), (0xBF800000, 0xBFF0000000000000, 0xBC00, 0xBF80),
   (0xC0000000, 0xC000000000000000, 0xC000, 0xC000), (0xC0800000, 0xC010000000000000, 0xC400, 0xC080),
   (0x3E800000, 0x3FD0000000000000, 0x3400, 0x3E80), (0x3F317218, 0x3FE62E42FEFA39EF, 0x398C, 0x3F31),
   (0x3FB8AA3B, 0x3FF71547652B82FE, 0x3DC5, 0x3FB9), (0x40490FDB, 0x400921FB54442D18, 0x4248, 0x4049),
   (0x7F800000, 0x7FF0000000000000, 0x7C00, 0x7F80), (0xFF800000, 0xFFF0000000000000, 0xFC00, 0xFF80),
   (0x7FC00000, 0x7FF8000000000000, 0x7E00, 0x7FC0), (0x7F7FFFFF, 0x7FEFFFFFFFFFFFFF, 0x7BFF, 0x7F7F)]

def floatConst (ty : SlotTy) (k : Nat) : Nat :=
  let c := floatConsts.getD k (0, 0, 0, 0)
  match ty with
  | .f16x2 => twice c.2.2.1
  | .bf16x2 => twice c.2.2.2
  | .i64 | .f64 => c.2.1
  | _ => c.1

/-- The key of a lane element of a wave's window register n: logical register base + n lives in physical register
(base + n) mod W of the wave's allocation (R42, R151). -/
def regKey (cluster : Nat) (w : Wave) (base n lane : Nat) : Nat :=
  cluster * 2 ^ 19 + (w.phys + (base + n) % max w.width 1) * 64 + lane

/-- The lanes of a mask, ascending. -/
def lanesOf (m : Word) : List Nat := (List.range 64).filter fun l => m.getLsbD l

/-- A value for each of the 64 lanes. -/
def perLane (f : Nat → Nat) : List Nat := (List.range 64).map f

/-- The value of an operand field in a lane (R41 to R46, R54): `hist` is the history its stream reads, `pay` the
payload that travels with the word. -/
def State.operand (s : State) (cluster : Nat) (w : Wave) (hist : List Latch) (base : Nat) (code : Nat) (pay : Word)
    (ty : SlotTy) (lane : Nat) : Nat :=
  let n := ty.width
  if code < 768 then
    let lo := (sparseGet s.vregs (regKey cluster w base code lane)).toNat
    if n = 64 then lo + 2 ^ 32 * (sparseGet s.vregs (regKey cluster w base (code + 1) lane)).toNat else lo
  else if code < 772 then
    match hist[code - 768]? with
    | some e =>
      if e.kind == .empty then (Config.emptyLatch s.dev.freeCount lane).toNat % 2 ^ n
      else (e.vals.getD lane 0).toNat % 2 ^ n
    | none => 0
  else if code < 788 then b2n ((w.preds.getD (code - 772) 0).getLsbD lane)
  else if code < 796 then pay.toNat % 2 ^ n
  else if code = 796 then intConst ty lane
  else if code = 797 then intConst ty w.wix
  else if code < 800 then 0
  else if code < 832 then pay.toNat % 2 ^ n
  else if code < 896 then intConst ty (code - 832 : Nat)
  else if code < 960 then intConst ty (895 - (code : Int))
  else floatConst ty (code - 960)

end Sys2Proof.Machine
end

