-- ==== Sys2Proof/Machine/System.lean ====
section
/-! DEFINITION. System words of the generator (06_generator, 12_context, 10_ordering): GNOP, END, TRAP, ERET, FEATQ,
SDRAIN, the special registers (R160), GFENCE (R268), the register window (R151 to R156), extension words (R167,
R304) and the entry of boundary traps (R162, R164). -/
namespace Sys2Proof.Machine

/-! ### SYS words -/

/-- GNOP (R158). -/
def execGnop (s : State) : Result := commit finishNone s

/-- END (R159): its unread votes are discarded and the role may leave its barriers (R366). -/
def execEnd (s : State) : Result := commit (do
  let k := s.curCtx
  let c := s.ctx k
  if c.mode == .handler then illegal .endRole
  else if c.em.capOpen then trapNow (stretchRecord 3 c.em.capId)
  else
    setCtx k { c with status := .ended, pc := c.pc + 4, em := { c.em with votes := [] } }
    maybeLeave c.wg c.role) s

/-- TRAP takes the explicit trap, whose EPC is the next word (R158, Table 6.11). -/
def execTrap (code : BitVec 5) (s : State) : Result := commit (do
  let c := s.ctx s.curCtx
  takeTrap s.curCtx c.pc (c.pc + 4) false (.of 19 (code.zeroExtend 64))) s

/-- ERET (R165): the stream that the handled trap stopped resumes, unless a later trap of it is still pending (R109). What the
handler did comes before every word that the stream then issues (R274). -/
def execEret (s : State) : Result := commit (do
  let k := s.curCtx
  let c := s.ctx k
  if c.mode == .user || c.chainOpen then illegal .eret
  else
    setCtx k c.leaveHandler
    match c.resumes with
    | some v =>
      if c.pending.any fun p => p.wave == some v then pure ()
      else
        setVis (s.handlerEdge k v)
        modWave v fun w =>
          if w.stopSeq.isNone then w
          else { w with status := if w.status == .stopped then .live else w.status, stopSeq := none, after := some (k, s.dev.pushes) }
    | none => pure ()) s

/-- Clusters of the device that are not lost (R26), and links in UP (R415). -/
def State.activeClusters (s : State) : Nat := (s.clusters.filter fun c => !c.lost).length
def State.linksUp (s : State) : Nat := (s.links.filter fun l => l.status == .up).length

/-- FEATQ's answers (R302, Table 12.2). The stepping's figures are free values (log entry 2). -/
def State.feature (s : State) (k cls : Nat) : Word :=
  match cls with
  | 0 => 2
  | 1 => BitVec.ofNat 64 (64 * 2 ^ 48 + (s.descOf k).spill % 256 * 2 ^ 40 + 0x10_0807_2010)
  | 2 => BitVec.ofNat 64 (Config.hitLatency.toNat * 2 ^ 40 + Config.fmaLatency.toNat * 2 ^ 32 + 1300 * 2 ^ 16 + 48 * 2 ^ 8
      + Config.stepping.toNat)
  | _ => BitVec.ofNat 64 (s.dev.topology.toNat * 2 ^ 32 + s.linksUp * 2 ^ 16 + 4 * 2 ^ 8 + s.activeClusters)

def execFeatq (d : Reg) (cls : BitVec 5) (s : State) : Result :=
  if cls.toNat < 4 then writeNext s d (s.feature s.curCtx cls.toNat)
  else commit (illegal (.featq d cls)) s

/-- SDRAIN (R230, R270): the words emitted before it come before what follows. -/
def execSdrain (s : State) : Result := commit (do
  if s.drained s.curCtx then
    setVis (s.drainEdge s.curCtx)
    finishNone
  else stallCur .drain) s

/-- The paths that a GFENCE names (Table 10.4); the stream flag is the load/store bit. -/
def fencePaths (str scl tl cp : Bool) : Paths :=
  BitVec.ofNat 4 (b2n str + 2 * b2n scl + 4 * b2n tl + 8 * b2n cp)

/-- GFENCE (R268): with the stream flag it waits for the emitted words; then it orders what its paths name. -/
def execGfence (cp tl scl str sc : Bool) (scope : Scope) (s : State) : Result := commit (do
  if str && !s.drained s.curCtx then stallCur .drain
  else
    setVis (s.gfenced s.curCtx (fencePaths str scl tl cp) scope sc)
    finishNone) s

/-- An extension-space generator word parks the context; the core answers with EMULATION_COMPLETE (R135, R167). -/
def execGenExtension (n : BitVec 3) (x : BitVec 25) (s : State) : Result := commit (do
  let w := match encode (.genExtension n x) with
    | some (_, w) => w
    | none => 0
  setCtx s.curCtx { s.ctx s.curCtx with status := .parked (.emulation (BitVec.ofNat 64 w)) }) s

/-- The context can take a boundary trap now: it is at a boundary in user mode (R162; one owed in handler mode waits for ERET, R109)
or has ended (R434), of a running workgroup, and no pause holds it (R168). -/
def State.boundaryReady (s : State) (k : Nat) : Bool :=
  let c := s.ctx k
  !c.pending.isEmpty && !s.pausing (ctxCluster k) && (match c.status with
    | .running => c.mode == .user && (s.wg c.wg).status == .running
    | .stalled _ => c.mode == .user && (s.wg c.wg).status == .running
    | .ended => true
    | _ => false)

/-- A pending trap that halts its context, TVEC or not: the data fault of a loft-area access or of a window transfer, the one data fault
for which no stream has stopped (R227, R386). -/
def PendingTrap.halts (p : PendingTrap) : Bool := p.record.cause == 7 && p.wave.isNone

/-- A context halts on such an access: at once where it stands at a boundary that takes a boundary trap, else when it comes to one (R162,
R168, Table 6.2). -/
def haltAt (k : Nat) (r : TrapRecord) : Act Unit := do
  let s ← now
  let c := s.ctx k
  let free := match c.status with
    | .running => true
    | .stalled _ => true
    | _ => false
  if free && c.mode == .user && c.pending.isEmpty && (s.wg c.wg).status == .running && !s.pausing (ctxCluster k) then
    setCtx k (c.haltOn c.pc c.pc true r)
    haltEvent k
  else oweTrap k none r

/-- BOUNDARY_TRAP_ENTRY (R162, R164): the oldest pending trap. What the stream that it stopped has done comes before the handler
(R274). -/
def execBoundaryTrapEntry (k : Nat) (s : State) : Result :=
  event "BOUNDARY_TRAP_ENTRY" (·.boundaryReady k) (do
    let c := s.ctx k
    match c.pending with
    | [] => pure ()
    | p :: rest =>
      match p.wave with
      | some v => setVis (s.fullEdge [s.waveAgent v] [s.ctxAgent k])
      | none => pure ()
      setCtx k { c with pending := rest, resumes := p.wave }
      if c.status == .ended then haltEnded k p.record
      else if p.halts then
        modCtx k fun c => c.haltOn c.pc c.pc true p.record
        haltEvent k
      else takeTrap k c.pc c.pc true p.record) s

/-! ### Special registers (R160, Table 6.10) -/

/-- The wave that WSEL selects, when the role has waves. -/
def State.selWave (s : State) (k : Nat) : Option Nat := (s.roleWaves k)[(s.ctx k).wsel.toNat]?

/-- What RDSR reads; `none` for WXF and SSN, which belong to a wave. -/
def State.special (s : State) (k n : Nat) : Word :=
  let c := s.ctx k
  let w := s.wg c.wg
  match n with
  | 0x001 => BitVec.ofNat 64 c.ctxid
  | 0x002 => BitVec.ofNat 64 w.wgid
  | 0x003 => BitVec.ofNat 64 w.member
  | 0x004 => BitVec.ofNat 64 c.role
  | 0x005 => BitVec.ofNat 64 c.nwaves
  | 0x006 => BitVec.ofNat 64 (ctxCluster k)
  | 0x010 => c.xctl.zeroExtend 64
  | 0x012 => c.wsel
  | 0x013 => c.trap.cause
  | 0x014 => c.trap.pc
  | 0x015 => c.trap.info0
  | 0x016 => c.trap.info1
  | 0x017 => c.trap.info2
  | 0x018 => c.trap.info3
  | 0x019 => (s.descOf k).tvec
  | 0x01A => c.trap.epc
  | 0x020 => w.mseq
  | 0x030 => BitVec.ofNat 64 (s.cluster (ctxCluster k)).pass
  | 0x031 => BitVec.ofNat 64 s.dev.time
  | 0x032 => BitVec.ofNat 64 (c.cycles / 20)
  | 0x040 => ofBool c.compat
  | 0x041 => BitVec.ofNat 64 (s.descOf k).level
  | _ => 0

def isH (n : Nat) : Bool := (0x013 ≤ n && n ≤ 0x018) || n == 0x01A
def isRW (n : Nat) : Bool := n == 0x010 || n == 0x011 || n == 0x012 || n == 0x040

/-- RDSR: WXF waits for the selected wave (R105); SSN counts the words emitted to it. -/
def execRdsr (d : Reg) (n : BitVec 12) (s : State) : Result := commit (do
  let k := s.curCtx
  let c := s.ctx k
  if n == 0x011 || n == 0x021 then
    match s.selWave k with
    | none => illegal (.rdsr d n)
    | some v =>
      if n == 0x021 then finish d (s.wave v).ssn
      else if (s.wave v).flagsBusy k (c.mode == .handler) then stallCur .drain
      else finish d ((s.wave v).wxf.zeroExtend 64)
  else if specialRegs.contains n.toNat then finish d (s.special k n.toNat)
  else illegal (.rdsr d n)) s

/-- The context after a write of an H register, which only handler mode may make. -/
def TrapRegs.write (t : TrapRegs) (n : Nat) (v : Word) : TrapRegs :=
  match n with
  | 0x013 => { t with cause := v &&& 0x13F }
  | 0x014 => { t with pc := v }
  | 0x015 => { t with info0 := v }
  | 0x016 => { t with info1 := v }
  | 0x017 => { t with info2 := v }
  | 0x018 => { t with info3 := v }
  | _ => { t with epc := v }

/-- WRSR (R160, R299): the register's reserved bits are ignored (R4); an illegal write leaves it unchanged. -/
def execWrsr (n : BitVec 12) (a : Reg) (s : State) : Result := commit (do
  let k := s.curCtx
  let c := s.ctx k
  let v := s.rd a
  let bad := illegal (.wrsr n a)
  let m := n.toNat
  if isH m then
    if c.mode == .handler then setCtx k ({ c with trap := c.trap.write m v }.adv 4) else bad
  else if !isRW m then bad
  else if m == 0x010 then
    let x : BitVec 4 := v.truncate 4
    if x &&& ~~~ (s.descOf k).traps == 0 then setCtx k ({ c with xctl := x }.adv 4) else bad
  else if m == 0x040 then
    let x := v.getLsbD 0
    if (s.descOf k).compats.getLsbD (b2n x) then setCtx k ({ c with compat := x }.adv 4) else bad
  else if m == 0x012 then
    if v.toNat < c.nwaves then setCtx k ({ c with wsel := v }.adv 4) else bad
  else
    match s.selWave k with
    | none => bad
    | some w =>
      if (s.wave w).flagsBusy k (c.mode == .handler) then stallCur .drain
      else
        modWave w fun x => { x with wxf := v.truncate 7 }
        finishNone) s

/-! ### The register window (R151 to R156) -/

/-- Put transfers into the streams of the role's waves (R155), each with the index of its wave: behind the words of a replay in
progress, which has been emitted before them. -/
def pushTransfers (k : Nat) (l : List (Nat × StreamItem)) : Act Unit := do
  let s ← now
  let c := s.ctx k
  if c.em.seq.busy then setCtx k { c with em := { c.em with seq := { c.em.seq with late := c.em.seq.late ++ l } } }
  else each l fun p => match (s.roleWaves k)[p.1]? with
    | some v => modWave v fun w => { w with stream := w.stream ++ [p.2] }
    | none => pure ()

/-- One transfer for every wave of the role. -/
def pushTransfer (k : Nat) (f : Nat → StreamItem) : Act Unit := do
  let n := ((← now).roleWaves k).length
  pushTransfers k ((List.range n).map fun i => (i, f i))

/-- The bytes of spill region that a spill up to a logical register needs (R152, R154). -/
def spillBytes (dest : Nat) : Nat := 512 + 4 * dest

/-- WENTER (R152); only the read that a WLEAVE waits for holds it back. -/
def execWenter (n : BitVec 5) (s : State) : Result := commit (do
  let k := s.curCtx
  let c := s.ctx k
  let frame := 32 * n.toNat
  let win := c.win
  let has := 0 < c.nwaves
  let depth := win.stack.length
  let top := win.base + win.frame + frame
  let spills := has && c.width < top - win.lo
  let dest := top - c.width
  if c.em.capOpen || c.chainOpen || 768 < frame then illegal (.wenter n)
  else if has && c.width < frame then trapNow (windowRecord 0 frame)
  else if depth == (if has then 80 else 16) then trapNow (windowRecord 1 frame)
  else if spills && (s.descOf k).spill * 512 < spillBytes dest then trapNow (windowRecord 2 frame)
  else if win.popPending && win.popRead.isNone && win.popBad.isNone then stallCur .window
  else
    setCtx k ({ c with win :=
      { base := win.base + win.frame, frame := frame, lo := if spills then dest else win.lo,
        stack := (win.base, win.frame) :: win.stack, popPending := false, popRead := none, popBad := none } }.adv 4)
    if spills || (has && 16 ≤ depth) then
      pushTransfer k fun i =>
        .spill win.lo (if spills then dest else win.lo)
          (if i == 0 && 16 ≤ depth then some (depth, win.base, win.frame) else none)
    else pure ()) s

/-- The frame that a WLEAVE returns to: an entry from 16 up is read back by the spill sequencer (R154). -/
def Window.popped (w : Window) (has : Bool) : Option (Nat × Nat) :=
  if has && 16 < w.stack.length then w.popRead else w.stack.head?

/-- WLEAVE (R153). A stack entry that reads back poisoned is the context's to trap on (R28). -/
def execWleave (s : State) : Result := commit (do
  let k := s.curCtx
  let c := s.ctx k
  let win := c.win
  let has := 0 < c.nwaves
  let depth := win.stack.length
  let reads := has && 16 < depth
  if c.em.capOpen || c.chainOpen then illegal .wleave
  else if depth == 0 then trapNow (windowRecord 3 0)
  else if win.popBad.isSome then
    setCtx k { c with win := { win with popPending := false, popBad := none } }
    trapNow (accessRecord 18 (win.popBad.getD 0) 5)
  else if reads && !win.popPending then
    setCtx k ({ c with win := { win with popPending := true } }.stall .window)
    pushTransfers k [(0, .reload 0 0 (some (depth - 1)))]
  else
    match win.popped has with
    | none => stallCur .window
    | some (b0, f0) =>
      let reloads := has && b0 < win.lo
      setCtx k ({ c with win :=
        { base := b0, frame := f0, lo := if b0 < win.lo then b0 else win.lo, stack := win.stack.tail,
          popPending := false, popRead := none, popBad := none } }.adv 4)
      if reloads then pushTransfer k fun _ => .reload b0 win.lo none else pure ()) s

end Sys2Proof.Machine
end

