-- ==== Sys2Proof/Machine/Emit.lean ====
section
/-! DEFINITION. The emitting side of streams (08_stretch): the emission checks (R63, Table 2.14), targets (R211 to R214),
pushes, capture (R216 to R221), holes (R222), replay (R223 to R226), the loft (R227), VREAD (R229). -/
namespace Sys2Proof.Machine

/-- A lane word at emission: its 64 bits, its op8 and its fields. -/
structure Emitted where
  raw : Nat
  op : Nat
  w : LaneWord
  deriving DecidableEq, Repr

def emitted (raw : Nat) : Emitted := { raw := raw, op := laneOp8 raw, w := LaneWord.ofNat raw }

/-! ### Targets (R212, R213) -/

/-- The waves of context j's role that a mask names. -/
def State.maskedWaves (s : State) (j : Nat) (mask : Word) : List Nat :=
  let l := s.roleWaves j
  ((List.range l.length).zip l).filterMap fun p => if mask.getLsbD p.1 then some p.2 else none

/-- The waves of an emission target: the local role's, or those of the role with the same number at each named
gang member. -/
def State.targetWaves (s : State) (k : Nat) (t : Target) : List Nat :=
  let c := s.ctx k
  if t.grp == 0 then s.maskedWaves k t.mask
  else
    let members := (s.gang (s.wg c.wg).gang).wgs
    ((List.range members.length).zip members).flatMap fun p =>
      if t.grp.getLsbD p.1 then
        match (s.wg p.2).ctxs[c.role]? with
        | some j => s.maskedWaves j t.mask
        | none => []
      else []

/-! ### Emission checks (Table 2.14) -/

/-- More than one wave, or waves of other members, may answer (R202). -/
def Target.many (t : Target) : Bool := t.grp != 0 || 1 < popcount 64 t.mask.toNat

def isVoteMask (e : Emitted) : Bool := e.op = 0x97 && e.w.mod6.toNat % 8 = 3

/-- Checks 3 to 9 of one word at a chain position: the number of the first that fails, or 0. -/
def State.laneCheck (s : State) (k : Nat) (e : Emitted) (pos : Nat) : Nat :=
  let c := s.ctx k
  let w := e.w
  let frame := c.win.frame
  if (laneInstr e.op w).isNone then 3
  else if !mod6Ok e.op w.mod6.toNat then 4
  else if !operandsAdmitted e.op w then 5
  else if !(((formOf e.op w).slots.zip (laneFields w)).all fun p => p.1.inFrame p.2 frame)
      || !controlOk e.op w.srcC.toNat || (e.op = 0x98 && !vbarOk (s.barExists c.wg) w) then 6
  else if (c.em.capOpen && namesScalar e.op w) || (isVoteMask e && c.em.target.many)
      || (e.op = 0x98 && c.em.target.grp != 0) then 7
  else if w.s && !writesVec e.op w then 8
  else if 7 < pos || (pos = 7 && w.c) then 9
  else 0

/-- The first failing check of a word or pair among 3 to 9, or 0. A second word that has P = 1 itself is checked too before check 10
refuses the pair: DEDUCED, log entry 91. -/
def State.firstCheck (s : State) (k : Nat) (words : List Emitted) (pos : Nat) : Nat :=
  let fails := ((List.range words.length).zip words).filterMap fun p =>
    let n := s.laneCheck k p.2 (pos + p.1)
    if n = 0 then none else some n
  fails.foldl (fun m n => if m = 0 then n else min m n) 0

/-- Check 10 on what follows a word with P = 1. -/
def pairOk (words : List Emitted) : Bool :=
  match words with
  | [e1, e2] => pairLegal e1.op e1.w e2.op e2.w
  | [e] => !e.w.p
  | _ => false

/-- The trap of a word or pair that fails its checks. An extension word in either half takes the emulation trap at the first half before
any other check of the pair (R304): DEDUCED, log entry 91. -/
def State.emitTrap (s : State) (k : Nat) (words : List Emitted) : Option TrapRecord :=
  let ch := (s.ctx k).chain
  let pos := if ch.lastC then ch.pos else 0
  let kinds := if ch.lastC then ch.kinds else []
  let info0 := (words.map (·.raw)).headD 0
  let info1 := ((words.map (·.raw)).drop 1).headD 0
  let r (cause check : Nat) : Option TrapRecord :=
    some (.of cause (BitVec.ofNat 64 info0) (BitVec.ofNat 64 info1) (BitVec.ofNat 64 check))
  let n := s.firstCheck k words pos
  if words.any (0xF0 ≤ ·.op) then r 4 0
  else if n ≠ 0 then r 2 n
  else if !pairOk words then r 3 10
  else if !(words.all fun e => latchOk e.op e.w pos kinds) then r 13 11
  else none

/-! ### Pushing words (R64, R203, R213 to R215) -/

/-- The value a substituted operand carries (R43): a scalar register or a hole; 0 where the field carries none. -/
def payload (sval hval : Nat → Word) (kind : Kind) (code : Nat) : Word :=
  if kind == .m then 0
  else if 800 ≤ code && code ≤ 831 then sval (code - 800)
  else if 788 ≤ code && code ≤ 795 then hval (code - 788)
  else 0

/-- The value a vote entry holds before any wave answers (Table 7.9). -/
def voteStart (kind : Nat) (wide : Bool) : Word :=
  if kind = 1 then 1 else if kind = 4 then 64 else if kind = 5 && !wide then BitVec.ofNat 64 (64 * 2 ^ 32) else 0

def isVote (e : Emitted) : Bool := e.op = 0x97
def StreamItem.isWord : StreamItem → Bool
  | .word _ => true
  | _ => false

/-- A VBAR.aw that has issued and waits keeps its place in its buffer, since it is saved at the head of the residue (R369, log entry
65). -/
def Wave.waitingBars (w : Wave) (handler : Bool) : Nat :=
  (w.flight.filter fun f => f.unit == .barrier && f.entry.handler == handler).length
/-- A buffer has room for n more words (R166, R215), and its open chain is the emitter's own (R214). -/
def Wave.hasRoom (w : Wave) (handler : Bool) (n : Nat) : Bool :=
  if handler then w.hbuf.length + w.waitingBars true + n ≤ 8
  else (w.stream.filter (·.isWord)).length + w.waitingBars false + n ≤ 128
def Wave.admitsFrom (w : Wave) (handler : Bool) (k : Nat) : Bool :=
  handler || match w.lockedBy with
    | some j => j == k
    | none => true

/-- What a push must wait for. -/
def State.pushWait (s : State) (k : Nat) (targets : List Nat) (words : List Emitted) (handler : Bool) :
    Option StallReason :=
  if !(targets.all fun v => (s.wave v).hasRoom handler words.length && (s.wave v).admitsFrom handler k) then
    some .targetFull
  else if words.any isVote && 16 ≤ (s.ctx k).em.votes.length then some .vote
  else none

/-- What travels with every word of one push. -/
structure PushEnv where
  xctl : BitVec 4
  compat : Bool
  base : Nat
  handler : Bool
  replay : Option (Nat × Nat)
  sval : Nat → Word
  hval : Nat → Word

/-- The stream word of an emitted word. -/
def streamWord (k order : Nat) (env : PushEnv) (e : Emitted) (vote counted bar : Option Nat) : StreamWord :=
  let f := formOf e.op e.w
  let pay (sl : Slot) (code : BitVec 10) : Word := payload env.sval env.hval sl.kind code.toNat
  { word := BitVec.ofNat 64 e.raw, payA := pay f.a e.w.srcA, payB := pay f.b e.w.srcB, payC := pay f.c e.w.srcC,
    xctl := env.xctl, compat := env.compat, emitter := k, ssn := 0, order := order, handler := env.handler,
    base := env.base, replay := env.replay, vote := vote, counted := counted, bar := bar, waiting := false }

/-- A wave receives one word: a stream word takes the next stream sequence number (Table 6.10). -/
def Wave.receive (w : Wave) (x : StreamWord) (lastC : Bool) : Wave :=
  if x.handler then { w with hbuf := w.hbuf ++ [{ x with ssn := w.ssn }] }
  else { w with stream := w.stream ++ [.word { x with ssn := w.ssn }], ssn := w.ssn + 1,
                lockedBy := if lastC then some x.emitter else none }

/-- A VVOTE allocates its entry as it is pushed; with no wave to answer it is readable at once (R203). -/
def allocVote (k : Nat) (e : Emitted) (waves : Nat) : Act (Option Nat) := do
  let c := (← now).ctx k
  let m := e.w.mod6.toNat
  let id := c.em.nextVote
  setCtx k { c with em := { c.em with nextVote := id + 1, votes := c.em.votes ++
    [{ id := id, kind := m % 8, wide := bitAt m 3, value := voteStart (m % 8) (bitAt m 3), awaited := waves,
       best := none }] } }
  pure (some id)

/-- A counted write takes the next issue count (R319). -/
def allocCount (k waves : Nat) : Act (Option Nat) := do
  modCtx k fun c => c.count false waves
  pure (some ((← now).ctx k).issued)

/-- A VBAR is one arrival of its role, due in every target wave (R369). -/
def allocBar (k : Nat) (e : Emitted) (waves : Nat) : Act (Option Nat) := do
  let s ← now
  let c := s.ctx k
  let x := s.wg c.wg
  let b : Vbar :=
    { id := x.nextVbar, role := c.role, lvl := e.w.srcC.toNat / 16 % 4, num := e.w.srcC.toNat % 16,
      wait := e.w.mod6.getLsbD 0, left := waves, retiring := waves, arrived := none, ids := [] }
  setWg c.wg { x with nextVbar := x.nextVbar + 1, vbars := x.vbars ++ [b] }
  pure (some x.nextVbar)

/-- What a word is given as it is pushed: its vote entry, its number among the counted writes, its arrival. -/
def allocWord (k : Nat) (e : Emitted) (waves : Nat) : Act SeqAlloc := do
  let vote ← if isVote e then allocVote k e waves else pure none
  let counted ← if waves ≠ 0 && isCounted e.op then allocCount k waves else pure none
  let bar ← if waves ≠ 0 && e.op = 0x98 then allocBar k e waves else pure none
  pure { rep := 0, next := 0, vote := vote, counted := counted, bar := bar }

/-- Push words into waves as one push (R64, R136, R203): `alloc` gives each, with its place in the push, what travels with it. -/
def pushWords (k : Nat) (targets : List Nat) (words : List Emitted) (env : PushEnv) (alloc : Nat → Emitted → Act SeqAlloc) :
    Act Unit := do
  let order := (← now).dev.pushes
  let lastC := (words.map (·.w.c)).getLastD false
  modDevice fun d => { d with pushes := d.pushes + 1 }
  each ((List.range words.length).zip words) fun p => do
    let x ← alloc p.1 p.2
    each targets fun v => modWave v fun w => w.receive (streamWord k order env p.2 x.vote x.counted x.bar) lastC

/-! ### Capture and the loft (R216 to R221, R227) -/

/-- The recorded word: s0 operands become 798 (R44, R219). -/
def recordedWord (e : Emitted) : Nat :=
  let f := formOf e.op e.w
  let fix (sl : Slot) (code : BitVec 10) : BitVec 10 := if sl.kind != .m && code == 800 then 798 else code
  LaneWord.toNat e.op
    { e.w with srcA := fix f.a e.w.srcA, srcB := fix f.b e.w.srcB, srcC := fix f.c e.w.srcC }

/-- A loft-area access: its location, a wait, a poisoned table entry, or the kind of its failure (R227). -/
inductive LoftWay
  | ok (loc : Nat) (x : Xlated)
  | wait
  | poison
  | fails (kind : Nat)
  deriving DecidableEq, Repr

/-- The access of a cluster to the loft area of context k, with supervisor permission. -/
def State.loftAccess (s : State) (cluster k va : Nat) (a : Access) : LoftWay :=
  let c := s.ctx k
  let part := (s.dctx c.ctxid).desc.part
  match s.translate cluster c.ctxid va a false with
  | .error f =>
    if f.kind == 0 then .wait else if f.kind == 5 then .poison
    else .fails (if f.kind == 2 then 2 else if f.kind == 4 then 3 else 1)
  | .ok x =>
    match physLoc x.pa with
    | none => .fails 3
    | some loc =>
      if !s.admits part c.ctxid a.need loc x.pa 8 then .fails 3 else if s.held [loc] then .wait else .ok loc x

def loftFault (va kind : Nat) : TrapRecord := accessRecord 7 (BitVec.ofNat 64 va) kind
def loftPoison (va : Nat) : TrapRecord := accessRecord 18 (BitVec.ofNat 64 va) 5

def LoftLine.isFor (l : LoftLine) (k va : Nat) : Bool := l.ctx == k && l.line == va / 64 * 64

/-- The loft keeps 512 lines, newest first (R227). -/
def loftKeep (cluster : Nat) (l : LoftLine) : Act Unit :=
  modCluster cluster fun c => { c with loft := (l :: c.loft.filter (! ·.isFor l.ctx l.line)).take 512 }

/-- The line of the loft after a capture's write to `va` at `loc`: the written unit holds no poison. -/
def State.loftWritten (s : State) (cluster k va loc : Nat) : LoftLine :=
  let base := loc - va % 64
  let old := match (s.cluster cluster).loft.find? (·.isFor k va) with
    | some l => l.bad
    | none => if s.poisoned (locRange base 64) then List.range 8 else []
  { ctx := k, line := va / 64 * 64, loc := base, bad := old.filter (· != va % 64 / 8) }

/-- Record one word in the open capture (R219, R220). An access that fails halts the context (R227), and one that meets poison owes it the
data-poison trap (log entry 11). -/
def recordOne (k : Nat) (e : Emitted) : Act Unit := do
  let s ← now
  let c := s.ctx k
  let id := c.em.capId
  let d := c.em.dir.getD id DirEntry.zero
  let va := c.loftAddr id d.len
  match s.loftAccess (ctxCluster k) k va .store with
  | .fails kind => haltAt k (loftFault va kind)
  | .poison => oweTrap k none (loftPoison va)
  | .wait => pure ()
  | .ok loc x =>
    loftKeep (ctxCluster k) (s.loftWritten (ctxCluster k) k va loc)
    useXlated (ctxCluster k) x true false
    writeValue (locRange loc 8) (recordedWord e)
    modCtx k fun c =>
      let d' : DirEntry :=
        { d with len := d.len + 1, fmin := max d.fmin (regsEnd e.op e.w),
                 nvote := d.nvote + b2n (isVote e), maskv := d.maskv || isVoteMask e }
      { c with em := { c.em with dir := putAt DirEntry.zero c.em.dir id d' } }

/-- The record of words in an open capture would wait for a page walker or a row (R25, R382). -/
def State.recordWaits (s : State) (k n : Nat) : Bool :=
  let c := s.ctx k
  let d := c.em.dir.getD c.em.capId DirEntry.zero
  c.em.capOpen && !d.ovf && d.len + n ≤ 256
    && (List.range n).any fun j => s.loftAccess (ctxCluster k) k (c.loftAddr c.em.capId (d.len + j)) .store == .wait

/-- Record an emitted word or pair, up to the first that fails; words beyond 256 set OVF (R219). -/
def recordWords (k : Nat) (words : List Emitted) : Act Unit := do
  let c := (← now).ctx k
  let id := c.em.capId
  let d := c.em.dir.getD id DirEntry.zero
  if d.ovf || 256 < d.len + words.length then
    setCtx k { c with em := { c.em with dir := putAt DirEntry.zero c.em.dir id { d with ovf := true } } }
  else each ((List.range words.length).zip words) fun p => do
    let n := (((← now).ctx k).em.dir.getD id DirEntry.zero).len
    if n = d.len + p.1 then recordOne k p.2 else pure ()

/-- The chain after an emitted word or pair (R52 to R56). -/
def Chain.after (ch : Chain) (words : List Emitted) : Chain :=
  if (words.map (·.w.c)).getLastD false then
    let pos := if ch.lastC then ch.pos else 0
    let kinds := if ch.lastC then ch.kinds else []
    { lastC := true, pos := pos + words.length,
      kinds := (words.foldl (fun l e => latchKindOf e.op e.w :: l) kinds).take 4 }
  else Chain.start

def Context.setChain (c : Context) (ch : Chain) : Context :=
  if c.mode == .handler then { c with em := { c.em with handlerChain := ch } }
  else { c with em := { c.em with userChain := ch } }

/-- EMIT_LANE_WORD (R63, R64): the checks, the waits (R136, R203, R214, R225), the push, the record of an open capture.
`next` holds the 8 bytes behind a word with P = 1. -/
def execEmitLaneWord (w : Word) (next : Option Word) (s : State) : Result := commit (do
  let k := s.curCtx
  let c := s.ctx k
  let e := emitted w.toNat
  let words := e :: match next with
    | some x => if e.w.p && x.toNat % 4 = 1 then [emitted x.toNat] else []
    | none => []
  let handler := c.mode == .handler
  let targets := s.targetWaves k c.em.target
  match s.emitTrap k words with
  | some r => trapNow r
  | none =>
    if !handler && c.em.seq.busy then stallCur .sequencer
    else
      match s.pushWait k targets words handler with
      | some why => stallCur why
      | none =>
        if s.recordWaits k words.length then stallCur .held
        else
        pushWords k targets words
          { xctl := c.xctl, compat := c.compat, base := c.win.base, handler := handler, replay := none,
            sval := fun n => c.rd (BitVec.ofNat 5 n), hval := fun h => (c.em.binds.getD h Binding.zero).base }
          fun _ e => allocWord k e targets.length
        modCtx k fun c => (c.setChain (c.chain.after words)).adv (8 * words.length)
        if c.em.capOpen then recordWords k words else pure ()) s

/-- A word names a scalar register of the context whose load has not returned (R140). -/
def Context.awaits (c : Context) (e : Emitted) : Bool :=
  ((formOf e.op e.w).slots.zip (laneFields e.w)).any fun p =>
    p.1.kind != .m && c.loads.any fun l => l.dst != 0 && p.2 == 800 + l.dst && l.bank == c.inBank l.dst

/-- The interlock of R140: while loads of the context have not returned, it goes on emitting words that name none of their registers, and
issues nothing else (log entry 8). -/
def State.interlocked (s : State) (k : Nat) (i : Instr) : Bool :=
  let c := s.ctx k
  !c.loads.isEmpty && match i with
    | .emitLaneWord w next => (emitted w.toNat :: (next.map fun x => emitted x.toNat).toList).any c.awaits
    | _ => true

/-! ### Stretch instructions (R212, R218, R221, R222) -/

/-- STGT (R212). -/
def execStgt (a b : Reg) (s : State) : Result := commit (do
  let k := s.curCtx
  let c := s.ctx k
  let w := s.wg c.wg
  let mask := s.rd a
  let grp := s.rd b
  if c.em.capOpen || c.chainOpen || mask.toNat / 2 ^ min c.nwaves 16 ≠ 0 || grp.toNat / 2 ^ 32 ≠ 0
      || (grp != 0 && (!w.header.multicast || grp.toNat / 2 ^ (s.gang w.gang).size ≠ 0 || c.mode == .handler)) then
    illegal (.stgt a b)
  else setCtx k ({ c with em := { c.em with target := { mask := mask, grp := grp } } }.adv 4)) s

def Emission.setDir (e : Emission) (id : Nat) (d : DirEntry) : Emission := { e with dir := putAt DirEntry.zero e.dir id d }
def Emission.entry (e : Emission) (id : Nat) : DirEntry := e.dir.getD id DirEntry.zero
/-- The sequencer holds a replay of this id. -/
def Emission.replays (e : Emission) (id : Nat) : Bool := e.seq.busy && e.seq.id == id

/-- CAPB (R218). -/
def execCapb (id : BitVec 6) (s : State) : Result := commit (do
  let k := s.curCtx
  let c := s.ctx k
  let n := id.toNat
  if c.em.capOpen || c.mode == .handler || c.chainOpen then illegal (.capb id)
  else if c.em.replays n then stallCur .sequencer
  else
    setCtx k ({ c with em := { c.em.setDir n { DirEntry.zero with recd := true } with
      capOpen := true, capId := n } }.adv 4)) s

/-- CAPE (R218): the capture ends even when it overflowed and the stretch trap is taken. -/
def execCape (s : State) : Result := commit (do
  let k := s.curCtx
  let c := s.ctx k
  let d := c.em.entry c.em.capId
  if !c.em.capOpen || c.mode == .handler || c.chainOpen then illegal .cape
  else if d.ovf then
    setCtx k { c with em := { c.em.setDir c.em.capId DirEntry.zero with capOpen := false } }
    trapNow (stretchRecord 2 c.em.capId)
  else
    setCtx k ({ c with em := { c.em.setDir c.em.capId { d with recd := false, defd := true } with
      capOpen := false } }.adv 4)) s

/-- CDROP (R221): every cluster that a multicast replay has used frees the lines it holds (R226). -/
def execCdrop (id : BitVec 6) (s : State) : Result := commit (do
  let k := s.curCtx
  let c := s.ctx k
  let n := id.toNat
  let d := c.em.entry n
  if d.recd then illegal (.cdrop id)
  else if d.defd && c.em.replays n then stallCur .sequencer
  else
    setCtx k ({ c with em := c.em.setDir n DirEntry.zero }.adv 4)
    if d.defd then
      let lo := c.loftAddr n 0
      let mine (l : LoftLine) : Bool := l.ctx == k && lo ≤ l.line && l.line < lo + 2048
      each ((List.range Config.clusters).filter fun x => (s.cluster x).loft.any mine) fun x =>
        modCluster x fun y => { y with loft := y.loft.filter (! mine ·) }
    else pure ()) s

/-- HSET and HSTEP (R222). -/
def execHset (h : BitVec 3) (a : Reg) (s : State) : Result := commit (do
  let k := s.curCtx
  let c := s.ctx k
  let b := c.em.binds.getD h.toNat Binding.zero
  setCtx k ({ c with em := { c.em with binds := putAt Binding.zero c.em.binds h.toNat { b with base := s.rd a } } }.adv 4)) s
def execHstep (h : BitVec 3) (a : Reg) (s : State) : Result := commit (do
  let k := s.curCtx
  let c := s.ctx k
  let b := c.em.binds.getD h.toNat Binding.zero
  setCtx k ({ c with em := { c.em with binds := putAt Binding.zero c.em.binds h.toNat { b with step := s.rd a } } }.adv 4)) s

/-! ### Replay (R223 to R226) -/

/-- A binding n repeats later. -/
def Binding.advance (b : Binding) (n : Nat) : Binding := { b with base := b.base + BitVec.ofNat 64 n * b.step }

/-- The clusters that a target's replay runs on: the context's own, or those of the named members (R226). -/
def State.seqClusters (s : State) (k : Nat) (t : Target) : List Nat :=
  if t.grp == 0 then [ctxCluster k]
  else
    let members := (s.gang (s.wgOf k).gang).wgs
    (((List.range members.length).zip members).filterMap fun p =>
      if t.grp.getLsbD p.1 then some (s.wg p.2).cluster else none).dedup

/-- RPLY (R223): the snapshot goes to every target cluster. -/
def execRply (id : BitVec 6) (a : Reg) (s : State) : Result := commit (do
  let k := s.curCtx
  let c := s.ctx k
  let n := (s.rd a).toNat
  let d := c.em.entry id.toNat
  let word := match encode (.rply id a) with
    | some (_, w) => w
    | none => 0
  if c.mode == .handler then illegal (.rply id a)
  else if c.em.capOpen then trapNow (stretchRecord 1 id.toNat)
  else if 0xFFFF_FFFF < n then trapNow (stretchRecord 2 id.toNat)
  else if !d.defd then trapNow (stretchRecord 0 id.toNat)
  else if c.chainOpen then illegal (.rply id a)
  else if c.win.frame < d.fmin || (d.maskv && c.em.target.many) then trapNow (wordRecord 2 word)
  else if c.em.seq.busy then stallCur .sequencer
  else
    setCtx k ({ c with em := { c.em with
      seq := { busy := n != 0, base := c.win.base, id := id.toNat, total := n
               parts := (s.seqClusters k c.em.target).map fun x => { cluster := x, rep := 0, next := 0 }
               target := c.em.target, xctl := c.xctl, compat := c.compat, binds := c.em.binds, allocs := [], late := [] },
      binds := c.em.binds.map fun b => Binding.advance b n } }.adv 4)) s

def Sequencer.part (q : Sequencer) (cluster : Nat) : SeqPart :=
  (q.parts.find? (·.cluster == cluster)).getD { cluster := cluster, rep := q.total, next := 0 }
/-- The repeats that some cluster has begun: those that a pre-emption lets every cluster finish (R231). -/
def Sequencer.begun (q : Sequencer) : Nat := q.parts.foldl (fun m p => max m (p.rep + b2n (p.next != 0))) 0
/-- Every cluster stands at the end of the same repeat. -/
def Sequencer.atBoundary (q : Sequencer) : Bool := !q.busy || q.parts.all fun p => p.next == 0 && p.rep == q.begun

/-- A part after `n` more words of a stretch of `len`. -/
def SeqPart.pushed (p : SeqPart) (n len : Nat) : SeqPart :=
  if len ≤ p.next + n then { p with rep := p.rep + 1, next := 0 } else { p with next := p.next + n }
/-- A part has still to push recorded word `next` of repeat `rep`. -/
def SeqPart.owes (p : SeqPart) (a : SeqAlloc) : Bool := p.rep < a.rep || (p.rep == a.rep && p.next ≤ a.next)

/-- The sequencer after one part has moved on: what every part has pushed is forgotten, and it is idle after the last repeat of all. -/
def Sequencer.move (q : Sequencer) (p : SeqPart) : Sequencer :=
  let parts := q.parts.map fun x => if x.cluster == p.cluster then p else x
  { q with parts := parts, busy := parts.any (·.rep < q.total), allocs := q.allocs.filter fun a => parts.any (·.owes a) }

/-- The sequencer of a workgroup that is being saved finishes the repeats that have begun and pushes no more (R231). -/
def State.seqMayPush (s : State) (k cluster : Nat) : Bool :=
  let c := s.ctx k
  let p := c.em.seq.part cluster
  c.em.seq.busy && (match (s.wg c.wg).status with
    | .running => p.rep < c.em.seq.total
    | .saving => p.rep < c.em.seq.begun
    | _ => false)

/-- A recorded word as a cluster's loft holds it: a hit makes no access to the loft area (R227). -/
inductive LoftRead
  | miss
  | poison
  | word (w : Nat)
  deriving DecidableEq, Repr
def State.loftRead (s : State) (cluster k va : Nat) : LoftRead :=
  match (s.cluster cluster).loft.find? (·.isFor k va) with
  | none => .miss
  | some l => if l.bad.contains (va % 64 / 8) then .poison else .word (s.readN (l.loc + va % 64) 8)

/-- The recorded words a cluster pushes next, with their addresses: one, or both halves of a pair. -/
def State.nextWords (s : State) (k cluster : Nat) : List (Nat × LoftRead) :=
  let c := s.ctx k
  let q := c.em.seq
  let read (j : Nat) : Nat × LoftRead := (c.loftAddr q.id j, s.loftRead cluster k (c.loftAddr q.id j))
  let j := (q.part cluster).next
  match (read j).2 with
  | .word w => if bitAt w 2 then [read j, read (j + 1)] else [read j]
  | _ => [read j]

/-- What the words stand for, when the loft has them all. -/
def readWords (l : List (Nat × LoftRead)) : List Emitted :=
  l.filterMap fun p => match p.2 with
    | .word w => some (emitted w)
    | _ => none
/-- The address of a word that the loft lacks, or holds with poison. -/
def firstOf (r : LoftRead) (l : List (Nat × LoftRead)) : Option Nat := (l.find? (·.2 == r)).map (·.1)

def State.loftFilling (s : State) (cluster k va : Nat) : Bool :=
  (s.cluster cluster).loftFills.any fun f => f.waiter == some k && f.line == va / 64 * 64

/-- The waves of a replay's target on one cluster. -/
def State.seqWaves (s : State) (k cluster : Nat) : List Nat :=
  (s.targetWaves k (s.ctx k).em.seq.target).filter fun v => waveCluster v == cluster

/-- What the recorded word at index `next` of repeat `rep` was given by the first cluster that pushed it. -/
def Sequencer.alloc (q : Sequencer) (rep next : Nat) : Option SeqAlloc := q.allocs.find? fun a => a.rep == rep && a.next == next

/-- Context k's sequencer at a cluster has something to do now (R215, R224). No word enters a stream while either domain pauses (R168). -/
def State.replayReady (s : State) (k cluster : Nat) : Bool :=
  let q := (s.ctx k).em.seq
  let p := q.part cluster
  let next := s.nextWords k cluster
  if !s.seqMayPush k cluster || s.pausing (ctxCluster k) || s.pausing cluster then false
  else if ((s.ctx k).em.entry q.id).len = 0 then true
  else
    match firstOf .miss next with
    | some va => !s.loftFilling cluster k va && s.loftAccess cluster k va .load != .wait
    | none =>
      (firstOf .poison next).isSome
        || (s.pushWait k (s.seqWaves k cluster)
            (if (q.alloc p.rep p.next).isSome then (readWords next).filter (! isVote ·) else readWords next) false).isNone

/-- The sequencer is idle: the transfers behind it enter the streams (R155), and its role may leave its barriers (R366). -/
def replayDone (k : Nat) : Act Unit := do
  let c := (← now).ctx k
  setCtx k { c with em := { c.em with seq := { c.em.seq with late := [] } } }
  pushTransfers k c.em.seq.late
  maybeLeave c.wg c.role

/-- DESIGN CHOICE (log entry 11): a replay that cannot go on, because a loft-area access fails translation or finds poison, stops where it
is in every cluster. Its remaining repeats are lost, its chains stay open no longer, and what its words still owe from clusters that have
not pushed them is owed no more. -/
def stopReplay (k : Nat) : Act Unit := do
  let s ← now
  let c := s.ctx k
  let q := c.em.seq
  each q.allocs fun a => do
    let n := ((q.parts.filter (·.owes a)).map fun p => (s.seqWaves k p.cluster).length).sum
    modCtx k fun c =>
      { c with
        counted := c.counted.filterMap fun w =>
          if a.counted == some w.num then (if w.awaited ≤ n then none else some { w with awaited := w.awaited - n }) else some w
        em := { c.em with votes := c.em.votes.map fun v => if a.vote == some v.id then { v with awaited := v.awaited - n } else v } }
    modWg c.wg fun x => { x with vbars := x.vbars.filter fun b => a.bar != some b.id }
  modCtx k fun c => { c with em := { c.em with seq := { c.em.seq with busy := false, parts := [], allocs := [] } } }
  each (s.targetWaves k q.target) fun v => modWave v fun w =>
    if w.lockedBy == some k then { w with lockedBy := none } else w
  replayDone k

/-- REPLAY_PUSH (R224, R226): the sequencer of context k at a target cluster pushes the next recorded word or pair into its local
waves, or asks for its loft line (R227). -/
def execReplayPush (at_ : ReplaySite) (s : State) : Result :=
  let k := at_.ctx
  let cluster := at_.cluster
  event "REPLAY_PUSH" (·.replayReady k cluster) (do
    let c := s.ctx k
    let q := c.em.seq
    let p := q.part cluster
    let len := (c.em.entry q.id).len
    let next := s.nextWords k cluster
    if len = 0 then
      setCtx k { c with em := { c.em with seq := q.move { p with rep := q.total, next := 0 } } }
    else
      match firstOf .miss next, firstOf .poison next with
      | some va, _ =>
        match s.loftAccess cluster k va .load with
        | .fails kind =>
          stopReplay k
          haltAt k (loftFault va kind)
        | .poison =>
          stopReplay k
          oweTrap k none (loftPoison va)
        | .wait => pure ()
        | .ok _ x =>
          useXlated cluster x false false
          modCluster cluster fun cl =>
            { cl with loftFills := cl.loftFills ++
                [{ ctxid := c.ctxid, line := va / 64 * 64, pa := x.pa - va % 64, waiter := some k, hint := pageHint .default x.entry }] }
      | none, some va =>
        stopReplay k
        oweTrap k none (loftPoison va)
      | none, none =>
        let words := readWords next
        each next fun x => match (s.cluster cluster).loft.find? (·.isFor k x.1) with
          | some l => loftKeep cluster l
          | none => pure ()
        pushWords k (s.seqWaves k cluster) words
          { xctl := q.xctl, compat := q.compat, base := q.base, handler := false, replay := some (q.id, p.rep)
            sval := fun _ => 0, hval := fun h => (Binding.advance (q.binds.getD h Binding.zero) p.rep).base }
          fun i e => match q.alloc p.rep (p.next + i) with
            | some a => pure a
            | none => do
              let a ← allocWord k e (s.targetWaves k q.target).length
              let a := { a with rep := p.rep, next := p.next + i }
              modCtx k fun c => { c with em := { c.em with seq := { c.em.seq with allocs := a :: c.em.seq.allocs } } }
              pure a
        modCtx k fun c => { c with em := { c.em with seq := c.em.seq.move (p.pushed words.length len) } }
    if q.busy && !((← now).ctx k).em.seq.busy then replayDone k else pure ()) s

/-- LOFT_LINE_FILL: fill i of a cluster's loft ends (R227). A line that holds poison stops the replay and its
context takes the data-poison trap at its boundary (R28, log entry 11). -/
def execLoftLineFill (cluster i : Nat) (s : State) : Result :=
  event "LOFT_LINE_FILL" (fun s => s.fillReady (s.cluster cluster).loftFills i) (do
    match (s.cluster cluster).loftFills[i]? with
    | none => pure ()
    | some f =>
      modCluster cluster fun c => { c with loftFills := c.loftFills.eraseIdx i }
      match f.waiter with
      | none => pure ()
      | some k =>
        let loc := (physLoc f.pa).getD dramEnd
        if s.poisoned (locRange loc 64) then
          stopReplay k
          oweTrap k none (loftPoison f.line)
        else
          touchL2 loc f.hint
          loftKeep cluster { ctx := k, line := f.line, loc := loc, bad := [] }) s

/-! ### Votes (R229) -/

/-- VREAD (R229). -/
def execVread (d : Reg) (s : State) : Result := commit (do
  let k := s.curCtx
  let c := s.ctx k
  match c.em.votes with
  | [] =>
    if c.em.seq.busy && 0 < (c.em.entry c.em.seq.id).nvote then stallCur .vote else trapNow (.of 14)
  | v :: rest =>
    if v.awaited ≠ 0 then stallCur .vote
    else setCtx k (({ c with em := { c.em with votes := rest } }.wr d v.value).adv 4)) s

end Sys2Proof.Machine
end

