-- ==== Sys2Proof/Machine/Lane.lean ====
section
/-! DEFINITION. The lane engine (07_wave): the word at the head of a wave's buffers, when it can issue (R173, R174),
its memory accesses (R118, R134, R385), its completion and retirement (R53, R55, R108, R134, R172, R176, R177), votes
(R202) and barrier arrivals (R369). -/
namespace Sys2Proof.Machine

/-! ### The word at the head -/

/-- The stream's next word, when a word stands there. -/
def Wave.streamHead (w : Wave) : Option StreamWord :=
  match w.stream with
  | .word x :: _ => some x
  | _ => none

/-- The word that issues next: the handler buffer goes first (R166); a pair's second half follows its first. -/
def Wave.head (w : Wave) : Option StreamWord :=
  match w.half with
  | some f => if f.entry.handler then w.hbuf.head? else w.streamHead
  | none => match w.hbuf with
    | x :: _ => some x
    | [] => w.streamHead

/-- The word behind the head in its buffer. -/
def Wave.second (w : Wave) : Option StreamWord :=
  match w.hbuf with
  | _ :: r => r.head?
  | [] => match w.stream.drop 1 with
    | .word x :: _ => some x
    | _ => none

def Wave.popHead (w : Wave) (handler : Bool) : Wave :=
  if handler then { w with hbuf := w.hbuf.tail } else { w with stream := w.stream.tail }

/-- The active lanes of a word (R51). -/
def Wave.activeLanes (w : Wave) (l : LaneWord) : Word :=
  let p := w.preds.getD l.pg.toNat 0
  if l.pn then ~~~ p else p

/-- A word as the lane engine sees it. -/
structure LaneIn where
  s : State
  v : Nat
  w : Wave
  x : StreamWord
  op : Nat
  lw : LaneWord
  hist : List Latch
  active : Word

def State.laneIn (s : State) (v : Nat) (x : StreamWord) : LaneIn :=
  let w := s.wave v
  let lw := LaneWord.ofNat x.word.toNat
  { s := s, v := v, w := w, x := x, op := laneOp8 x.word.toNat, lw := lw,
    hist := if x.handler then w.hlatch else w.latch, active := w.activeLanes lw }

def LaneIn.cluster (i : LaneIn) : Nat := waveCluster i.v
def LaneIn.on (i : LaneIn) (l : Nat) : Bool := i.active.getLsbD l
def LaneIn.mod (i : LaneIn) : Nat := i.lw.mod6.toNat
def LaneIn.get (i : LaneIn) (code : BitVec 10) (pay : Word) (ty : SlotTy) (l : Nat) : Nat :=
  i.s.operand i.cluster i.w i.hist i.x.base code.toNat pay ty l
def LaneIn.a (i : LaneIn) : SlotTy → Nat → Nat := i.get i.lw.srcA i.x.payA
def LaneIn.b (i : LaneIn) : SlotTy → Nat → Nat := i.get i.lw.srcB i.x.payB
def LaneIn.c (i : LaneIn) : SlotTy → Nat → Nat := i.get i.lw.srcC i.x.payC
/-- Register n of the window in a lane, and n registers from dst as one value. -/
def LaneIn.reg (i : LaneIn) (n l : Nat) : Nat := (sparseGet i.s.vregs (regKey i.cluster i.w i.x.base n l)).toNat
def LaneIn.dstRegs (i : LaneIn) (n l : Nat) : Nat :=
  pack 32 ((List.range n).map fun r => i.reg (i.lw.dst.toNat + r) l)

/-! ### Readiness (R173, R174) -/

/-- The row of a register: its key without the lane. -/
def regRow (cluster : Nat) (w : Wave) (base n : Nat) : Nat := regKey cluster w base n 0 / 64

def readsLatch (op : Nat) (lw : LaneWord) : Bool :=
  ((formOf op lw).slots.zip (laneFields lw)).any fun p => p.1.kind.vector && 768 ≤ p.2 && p.2 < 772

def unitOf (op : Nat) : FlightUnit :=
  if isSfu op then .sfu else if isDivide op then .divide else if isMemory op then .memory
  else if op = 0x98 then .barrier else .alu

/-- The unit is free (R14, R175); the request slots are a question of the word's accesses (`LaneIn.ready`). -/
def Cluster.unitFree (c : Cluster) (op : Nat) : Bool :=
  match unitOf op with
  | .sfu => c.sfu.isNone
  | .divide => c.divide.isNone
  | _ => true

/-- The interlocks of R174, R166 and R369 for one word, but for its memory accesses. A waiting VBAR holds the words of its own buffer;
a handler word waits for every word of its wave that had issued before the trap. -/
def LaneIn.interlocked (i : LaneIn) : Bool :=
  let fl := i.w.flight
  let rows := (regReads i.op i.lw).map (regRow i.cluster i.w i.x.base)
  let preds := predReads i.op i.lw
  let before (f : Flight) : Bool := f.entry.handler == i.x.handler || f.old.contains i.x.emitter
  (fl.any fun f => f.trap.isSome || (f.unit == .barrier && before f) || (i.x.handler && !f.entry.handler && f.old.contains i.x.emitter)
      || (f.result.regs.any fun p => rows.contains (p.1 / 64)) || (f.result.preds.any fun p => preds.contains p.1)
      || (f.entry.handler == i.x.handler && (readsLatch i.op i.lw || i.op = 0x98)))
    || !(i.s.cluster i.cluster).unitFree i.op

/-! ### Memory accesses of a word (R118, R132, R134, R385) -/

/-- A page that an access used: its translation, the locations reached by it and the hint of the access there. -/
structure PageUse where
  page : Xlated
  locs : List Nat
  hint : Hint
  deriving DecidableEq, Repr

/-- How one lane's access resolves. -/
inductive LaneAccess
  | misaligned
  | undecoded
  | refused                               -- no such physical address, or a boundary table refuses it (Table 17.6)
  | unmapped (va : Nat) (f : XFail)
  | waits                                 -- a walker, a row that is being copied, or a link that retrains (R25, R382, R416)
  | badTable                              -- a table entry of its translation holds poison (R28)
  | ok (locs : List Nat) (pages : List PageUse)
  deriving DecidableEq, Repr

/-- The hint that a word carries to global memory (R127). -/
def LaneIn.hint (i : LaneIn) : Hint :=
  if i.op = 0xB0 || i.op = 0xB1 || i.op = 0xB4 then Hint.ofCode (i.mod / 8 % 4) else .default

/-- One piece of an access at a global address, with the hint of its page. -/
def LaneIn.piece (i : LaneIn) (va n : Nat) (a : Access) (user : Bool) (h : Hint) : LaneAccess :=
  let ctxid := (i.s.wg i.w.wg).ctxid
  match i.s.translate i.cluster ctxid va a user with
  | .error f => if f.kind == 0 then .waits else if f.kind == 5 then .badTable else .unmapped va f
  | .ok x =>
    match physLoc x.pa with
    | none => .refused
    | some loc =>
      if !i.s.admits (i.s.dctx ctxid).desc.part ctxid a.need loc x.pa n then .refused
      else if isRemote loc && i.s.remoteWay loc == .fails then .refused
      else if isRemote loc && i.s.remoteWay loc == .waits then .waits
      else .ok (locRange loc n) [{ page := x, locs := locRange loc n, hint := pageHint h x.entry }]

/-- Which of two failures of one access decides: what waits, then a translation, before a refusal (R385). -/
def LaneAccess.rank : LaneAccess → Nat
  | .ok _ _ => 0
  | .refused => 1
  | .badTable => 2
  | .unmapped _ _ => 3
  | .waits => 4
  | .undecoded => 5
  | .misaligned => 6

/-- Pieces joined: the failure that decides, of its kind the first. -/
def joinPieces : List LaneAccess → LaneAccess
  | [] => .ok [] []
  | e :: r =>
    match e, joinPieces r with
    | .ok ls xs, .ok ls' xs' => .ok (ls ++ ls') (xs ++ xs')
    | e, e' => if e.rank < e'.rank then e' else e

/-- backing(l, o) (R119). -/
def backing (bw : Word) (l o : Nat) : Nat := bw.toNat + 256 * (o / 4) + 4 * l + o % 4

/-- The access of a lane to n bytes at its address. Private bytes are reached through the backing area with
supervisor permission (R120, log entry 14), and no hint reaches them (R127). -/
def LaneIn.access (i : LaneIn) (ea : Word) (n l : Nat) (a : Access) : LaneAccess :=
  let w := i.s.wg i.w.wg
  let ctxid := w.ctxid
  if ea.toNat % n ≠ 0 then .misaligned
  else
    match i.s.place w true ea.toNat n with
    | none => .undecoded
    | some (.at loc) =>
      if i.s.admits (i.s.dctx ctxid).desc.part ctxid a.need loc loc n then .ok (locRange loc n) [] else .refused
    | some (.paged va) => i.piece va n a (!i.x.handler) i.hint
    | some (.priv o) =>
      if n ≤ 4 then i.piece (backing i.w.bw l o) n a false .default
      else joinPieces ((List.range (n / 4)).map fun j => i.piece (backing i.w.bw l (o + 4 * j)) 4 a false .default)

/-- What a memory word does. -/
inductive MemPlan
  | stop (cause : Nat) (lanes addr : Word)
  | fault (lanes addr : Word) (va : Nat) (f : XFail)
  | wait
  | ok (locs : List (Nat × List Nat)) (pages : List PageUse)
  deriving DecidableEq, Repr

def maskOf (ls : List Nat) : Word := ls.foldl (fun m l => m ||| BitVec.ofNat 64 (2 ^ l)) 0

/-- The plan of a word from its lanes' addresses: every check over all active lanes before any lane acts (R134), translations before
boundary tables (R385), then landing regions (R284, R293), rows and scratchpads that are held (R25, R408), completions of far requests
(R414, R417) and poison (R28). DESIGN CHOICE (log entry 112): the offending lanes of a stop are those of its own check, so that beside a
misaligned lane an undecoded one is not named. -/
def LaneIn.plan (i : LaneIn) (eas : List (Nat × Word)) (n : Nat) (a : Access) (consumes : Bool) : MemPlan :=
  let rs := eas.map fun p => (p.1, p.2, i.access p.2 n p.1 a)
  let addrOf (m : Word) : Word :=
    match eas.find? fun p => m.getLsbD p.1 with
    | some p => p.2
    | none => 0
  let lanes (f : LaneAccess → Bool) : Word := maskOf ((rs.filter fun r => f r.2.2).map (·.1))
  let stop (cause : Nat) (m : Word) : MemPlan := .stop cause m (addrOf m)
  let locsOf (r : Nat × Word × LaneAccess) : List Nat := match r.2.2 with
    | .ok ls _ => ls
    | _ => []
  let mis := lanes fun | .misaligned => true | _ => false
  let und := lanes fun | .undecoded => true | _ => false
  let ref := lanes fun | .refused => true | _ => false
  let unm := lanes fun | .unmapped _ _ => true | _ => false
  let tab := lanes fun | .badTable => true | _ => false
  let far := maskOf ((rs.filter fun r => (locsOf r).any fun l => isRemote l || (isHost l && a != .store)).map (·.1))
  let held (h : Landing) : Word := maskOf ((rs.filter fun r => i.s.landing (locsOf r) == h).map (·.1))
  let bad := if consumes then maskOf ((rs.filter fun r => i.s.poisoned (locsOf r)).map (·.1)) else 0
  let reply := (i.w.reply.filter (·.1 == i.x.handler)).map (·.2)
  match i.w.failed.filter (·.1 == i.x.handler) with
  | some (_, m, addr) => .stop 7 m addr
  | none =>
    if mis != 0 then stop 8 mis
    else if und != 0 then stop 7 und
    else if rs.any (·.2.2 == .waits) then .wait
    else if unm != 0 then
      match rs.findSome? fun r => match r.2.2 with
        | .unmapped va f => some (va, f)
        | _ => none with
      | some (va, f) => .fault unm (addrOf unm) va f
      | none => .wait
    else if ref != 0 then stop 7 ref
    else if tab != 0 then stop 18 tab
    else if held .poisoned != 0 then stop 12 (held .poisoned)
    else if held .held != 0 || rs.any fun r => i.s.held (locsOf r) then .wait
    else if far != 0 && reply == none then .wait
    else if far != 0 && reply == some false then stop 7 far
    else if bad != 0 then stop 18 bad
    else .ok (rs.map fun r => (r.1, locsOf r)) (rs.flatMap fun r => match r.2.2 with
      | .ok _ pages => pages
      | _ => [])

/-- Bytes of a VLD, VST or VPREF size code (Table 5.4). -/
def sizeBytes (code : Nat) : Nat :=
  match code with
  | 0 => 1 | 1 => 1 | 2 => 2 | 3 => 2 | 4 => 4 | 5 => 8 | 6 => 16 | _ => 2

/-- ea(l) (R118). -/
def LaneIn.ea (i : LaneIn) (scaled : Nat) (l : Nat) : Word :=
  let off : BitVec 32 := BitVec.ofNat 32 (i.a .i32 l)
  BitVec.ofNat 64 (i.b .i64 l) + (if bitAt i.mod 5 then off.signExtend 64 else off.zeroExtend 64) + BitVec.ofNat 64 scaled

/-- Access size, kind, and whether data read is consumed, of a memory word that accesses. -/
def LaneIn.memShape (i : LaneIn) : Option (Nat × Access × Bool) :=
  let c := i.lw.srcC.toNat
  let wide := if i.mod % 8 = 5 then 8 else 4
  match i.op with
  | 0xB0 => some (sizeBytes (i.mod % 8), .load, true)
  | 0xB1 => some (sizeBytes (i.mod % 8), .store, false)
  | 0xB2 => some (wide, .atomic, c % 16 != 11 || bitAt c 9)
  | 0xB3 => some (wide, .atomic, true)
  | _ => none

/-- The addresses of a memory word's active lanes. -/
def LaneIn.addresses (i : LaneIn) : List (Nat × Word) :=
  let n := sizeBytes (i.mod % 8)
  let scaled := if i.op = 0xB2 || i.op = 0xB3 then 0 else i.lw.srcC.toNat * n
  (lanesOf i.active).map fun l => (l, i.ea scaled l)

def LaneIn.memPlan (i : LaneIn) : Option MemPlan :=
  i.memShape.map fun (n, a, consumes) => i.plan i.addresses n a consumes

/-- The lines of a VPREF (R208): those of the global addresses of its active lanes. -/
def LaneIn.prefLines (i : LaneIn) : List Nat :=
  (((i.addresses.map (·.2.toNat)).filter (· < 2 ^ 48)).map (· / 128 * 128)).dedup

/-- The bytes of a lane lie on a page of policy 2, whose accesses nothing merges (R380). -/
def uncached (pages : List PageUse) (locs : List Nat) : Bool :=
  pages.any fun p => bits p.page.entry.flags.toNat 10 9 == 2 && p.locs.any locs.contains

/-- The requests of an access (R206, R207): a VLD or VST merges its lanes by 256-byte block, or by 64-byte row of a scratchpad (R123), but
for uncached pages; an atomic has one for each location. -/
def requests (op : Nat) (locs : List (Nat × List Nat)) (pages : List PageUse) : Nat :=
  if op = 0xB2 || op = 0xB3 then ((locs.map (·.2)).dedup).length
  else
    let alone := locs.filter fun p => uncached pages p.2
    let merged := locs.filter fun p => !uncached pages p.2
    alone.length + ((merged.flatMap fun p => p.2.map fun l => if isDram l then l / 256 else l / 64).dedup).length

/-- The request slots that a word takes; VFENCE takes none (R16). -/
def LaneIn.slots (i : LaneIn) : Nat :=
  match i.memPlan with
  | some (.ok locs pages) => requests i.op locs pages
  | _ => if i.op = 0xB4 then i.prefLines.length else 0

/-- The word can issue: its accesses wait for nothing and find their request slots (R16, R174), and those of a VPREF find room among
the misses (R382). -/
def LaneIn.ready (i : LaneIn) : Bool :=
  !i.interlocked && i.memPlan != some .wait
    && (let n := i.slots
        n == 0 || (i.s.cluster i.cluster).slotsUsed + n ≤ 1024)
    && (i.op != 0xB4 || i.s.prefetchRoom i.cluster (i.s.wg i.w.wg).ctxid i.prefLines (!i.x.handler) (.vpref i.hint))

/-- A context of a workgroup that is being saved runs on to close its open chain (R358). -/
def State.closesChain (s : State) (k : Nat) : Bool :=
  let c := s.ctx k
  c.chainOpen && c.mode == .user && match c.status with
    | .running => true
    | .stalled _ => true
    | _ => false

/-- A workgroup that is being saved issues until its streams are at a word boundary outside a chain and its
sequencers at the end of a repeat (R231, R358). A stream in which a chain is still open issues what stands in it, so that its emitter finds
room to close the chain. -/
def State.mayIssue (s : State) (v : Nat) : Bool :=
  let w := s.wave v
  let x := s.wg w.wg
  (s.reg (s.cluster (waveCluster v)).reg).paused.isNone && !(s.cluster (waveCluster v)).gated &&
  match x.status with
  | .running => true
  | .saving => w.chain || w.half.isSome || !w.hbuf.isEmpty || w.lockedBy.any s.closesChain
      || (s.gang x.gang).wgs.any fun m => (s.wg m).ctxs.any fun k =>
        (s.ctx k).em.seq.parts.any fun p => s.seqMayPush k p.cluster
  | _ => false

/-- After an ERET the handler's words go before the stream that resumes (R274): none of those emitted before it is left in a wave. -/
def State.handlerDone (s : State) (v : Nat) : Bool :=
  let w := s.wave v
  match w.after with
  | none => true
  | some (k, n) =>
    let mine (x : StreamWord) : Bool := x.handler && x.emitter == k && x.order < n
    !((s.gang (s.wg w.wg).gang).wgs.any fun g => (s.wg g).waves.any fun u =>
      let y := s.wave u
      y.hbuf.any mine || (y.flight.any fun f => mine f.entry) || y.half.any fun f => mine f.entry)

/-- The head word of wave v can issue now (R173, R174); a pair when both halves can. -/
def State.laneReady (s : State) (v : Nat) : Bool :=
  let w := s.wave v
  match w.head with
  | none => false
  | some x =>
    let i := s.laneIn v x
    s.mayIssue v && (w.status == .live || (w.status == .stopped && x.handler)) && (x.handler || s.handlerDone v) && i.ready
      && (!(i.lw.p && w.half.isNone) || match w.second with
        | some y => (s.laneIn v y).ready
        | none => false)

/-! ### Selection (R173) -/

/-- A number of the rotation that starts after `last`: how many go before it. -/
def turnsAfter (last : Option Nat) (n i : Nat) : Nat :=
  match last with
  | some l => (i + n - (l + 1) % n) % n
  | none => i

/-- The order of the rules: the second half of a pair, handler words, open chains, then the rest, each the oldest first; equal ages
by rotation over workgroups and then over the waves of one. -/
def State.laneRank (s : State) (v : Nat) : List Nat :=
  let w := s.wave v
  match w.head with
  | none => []
  | some x =>
    [if w.half.isSome then 0 else if x.handler then 1 else if w.chain then 2 else 3, x.order,
     turnsAfter (s.cluster (waveCluster v)).lastLane (max s.wgs.length 1) w.wg, turnsAfter (s.wg w.wg).lastWix 64 w.wix]

/-- Lexicographic order. -/
def lexLt : List Nat → List Nat → Bool
  | x :: r, y :: t => x < y || (x == y && lexLt r t)
  | [], _ :: _ => true
  | _, [] => false

/-- The lane engine of its cluster selects wave v: it can issue, and no other that can goes before it. -/
def State.laneChosen (s : State) (v : Nat) : Bool :=
  s.laneReady v && !((List.range 32).any fun j =>
    let u := waveCluster v * 32 + j
    lexLt (s.laneRank u) (s.laneRank v) && s.laneReady u)

/-! ### Completion -/

/-- The stream record (Table 6.12). -/
def LaneIn.record (i : LaneIn) (cause : Nat) (lanes : Word) (events : Flags) (addr : Word) : TrapRecord :=
  let rp := match i.x.replay with
    | some (id, rep) => id * 2 ^ 20 + 2 ^ 26 + rep * 2 ^ 32
    | none => 0
  .of cause i.x.ssn lanes (BitVec.ofNat 64 (i.op + events.toNat * 2 ^ 8 + i.w.wix * 2 ^ 16 + rp)) addr

/-- What a word computes: `width` bits in dst for each active lane, predicates, flags of each lane, a vote. -/
structure LaneOut where
  width : Nat := 0
  vals : Nat → Nat := fun _ => 0
  preds : List (Nat × (Nat → Bool)) := []
  flags : Nat → Flags := fun _ => 0
  vote : Option (Word × Bool) := none

def emptyResult : WordResult :=
  { regs := [], preds := [], latch := { kind := .empty, vals := [] }, flags := 0, vote := none }

/-- The writes of a completed word (R51, R53, R55, R104). -/
def LaneIn.result (i : LaneIn) (o : LaneOut) : WordResult :=
  let on := lanesOf i.active
  { regs :=
      if writesVec i.op i.lw && !i.lw.s then
        on.flatMap fun l =>
          let x := o.vals l
          (List.range (o.width / 32)).map fun r =>
            (regKey i.cluster i.w i.x.base (i.lw.dst.toNat + r) l, BitVec.ofNat 32 (x / 2 ^ (32 * r)))
      else []
    preds := o.preds.map fun p => (p.1, i.active, maskOf (on.filter p.2))
    latch :=
      { kind := latchKindOf i.op i.lw,
        vals := if o.width = 0 then [] else perLane (fun l => if i.on l then o.vals l else 0) |>.map (BitVec.ofNat 64) }
    flags := on.foldl (fun f l => f ||| o.flags l) 0
    vote := o.vote }

/-- The arithmetic trap of a word whose lanes raised an enabled event (R106 to R108). -/
def LaneIn.arith (i : LaneIn) (o : LaneOut) (r : WordResult) : Option TrapRecord :=
  let lanes := maskOf ((lanesOf i.active).filter fun l => enabledEvents i.x.xctl (o.flags l) != 0)
  if lanes == 0 then none else some (i.record 9 lanes r.flags 0)

/-- Combine the contribution of one wave into a vote entry (R202, Table 7.9). -/
def VoteEntry.add (e : VoteEntry) (summary : Word) (found : Bool) (key : Nat) : VoteEntry :=
  let e' := { e with awaited := e.awaited - 1 }
  match e.kind with
  | 0 => { e' with value := e.value ||| summary }
  | 1 => { e' with value := e.value &&& summary }
  | 2 => { e' with value := e.value + summary }
  | 3 => { e' with value := summary }
  | _ =>
    let better := match e.best with
      | some b => key < b
      | none => true
    if found && better then { e' with value := summary, best := some key } else e'

/-- The answer of wave v to a vote of its emitter (R203, R204). A VVOTE that poison stopped performs nothing: it adds nothing, and its
entry awaits it no longer (log entry 105). -/
def answerVote (v : Nat) (x : StreamWord) (id : Nat) (answer : Option (Word × Bool)) : Act Unit := do
  let s ← now
  let w := s.wave v
  let key := (s.wg w.wg).member * 64 + w.wix
  modCtx x.emitter fun c => { c with em := { c.em with
    votes := c.em.votes.map fun e =>
      if e.id == id then
        match answer with
        | some p => e.add p.1 p.2 key
        | none => { e with awaited := e.awaited - 1 }
      else e } }

/-- A wave's stream stops and its owner is owed the trap (R108, R134). -/
def stopWave (v : Nat) (r : TrapRecord) : Act Unit := do
  modWave v fun w => { w with status := .stopped }
  oweTrap ((← now).wave v).owner (some v) r

/-- A VBAR retires in one wave, which then acquires what its phase released (R371); in the last, a wait completes (R369, Table 16.2). -/
def retireBar (v : Nat) (x : StreamWord) (id : Nat) : Act Unit := do
  let s ← now
  let wg := (s.ctx x.emitter).wg
  match (s.wg wg).vbars.find? (·.id == id) with
  | none => pure ()
  | some b =>
    if b.wait then acquirePhases wg b.lvl b.num [s.waveAgent v] else pure ()
    if b.retiring ≤ 1 then
      if b.wait then modBits wg b.lvl b.num (·.waited b.role) else pure ()
      modWg wg fun y => { y with vbars := y.vbars.filter (·.id != id) }
    else
      modWg wg fun y => { y with vbars := y.vbars.map fun c => if c.id == id then { c with retiring := c.retiring - 1 } else c }

/-- The wave after a word's writes (R53, R104). -/
def Wave.write (w : Wave) (r : WordResult) (handler : Bool) : Wave :=
  let preds := r.preds.foldl (fun ps p => putAt 0 ps p.1 ((ps.getD p.1 0 &&& ~~~ p.2.1) ||| (p.2.2 &&& p.2.1))) w.preds
  let full := (r.preds.filter fun p => p.2.1 == BitVec.allOnes 64).map (·.1)
  { w with preds := preds, badPreds := w.badPreds.filter (! full.contains ·), wxf := w.wxf ||| r.flags,
           latch := if handler then w.latch else (r.latch :: w.latch).take 4,
           hlatch := if handler then (r.latch :: w.hlatch).take 4 else w.hlatch }

/-- A word retires (R172). -/
def retireOne (v : Nat) (f : Flight) : Act Unit := do
  let s ← now
  emits (f.result.regs.map fun p => .vreg p.1 p.2)
  if s.badRegs.isEmpty then pure ()
  else emit (.badRegs (s.badRegs.filter fun k => !(f.result.regs.any fun p => p.1 == k)))
  modWave v fun w => w.write f.result f.entry.handler
  match f.entry.counted with
  | some n => modCtx f.entry.emitter fun c => c.performed n
  | none => pure ()
  match f.entry.vote with
  | some id => answerVote v f.entry id f.result.vote
  | none => pure ()
  match f.entry.bar with
  | some id => retireBar v f.entry id
  | none => pure ()
  let busy := ((← now).wave v).flight.any (·.unit == f.unit)
  modCluster (waveCluster v) fun c =>
    match f.unit with
    | .sfu => if busy then c else { c with sfu := none }
    | .divide => if busy then c else { c with divide := none }
    | .memory => { c with slotsUsed := c.slotsUsed - f.slots }
    | _ => c
  match f.trap with
  | some r => stopWave v r
  | none => pure ()

/-- The words behind which nothing waits any longer. -/
def leadingAlu (fl : List Flight) : List Flight := fl.takeWhile (·.unit == .alu)

/-- Issued words join those in flight; handler words go before a VBAR of the stream that waits (R166, R369). -/
def joinFlight (fl fls : List Flight) : List Flight :=
  match fl.getLast?, fls.head? with
  | some b, some f => if b.unit == .barrier && f.entry.handler && !b.entry.handler then fl.dropLast ++ fls ++ [b] else fl ++ fls
  | _, _ => fl ++ fls

/-- Issued words enter the flight; words of the datapath with nothing before them retire at once. -/
def launch (v : Nat) (fls : List Flight) : Act Unit := do
  let w := (← now).wave v
  if w.flight.isEmpty && fls.all (·.unit == .alu) then each fls (retireOne v)
  else
    setWave v { w with flight := joinFlight w.flight fls }
    each fls fun f => modCluster (waveCluster v) fun c =>
      match f.unit with
      | .sfu => { c with sfu := some v }
      | .divide => { c with divide := some v }
      | .memory => { c with slotsUsed := c.slotsUsed + f.slots }
      | _ => c

/-- The one trap of a pair: a stop under R134 or R177 with the other half's events, else the first half's arithmetic
trap (R108, R134). -/
def pairTrap (a b : Option TrapRecord) : Option TrapRecord :=
  let withEvents (r : TrapRecord) (o : Option TrapRecord) : TrapRecord :=
    match o with
    | some e => if e.cause = 9 then { r with info2 := r.info2 ||| (e.info2 &&& 0x7F00) } else r
    | none => r
  match a, b with
  | some x, some y =>
    if x.cause != 9 then some (withEvents x b) else if y.cause != 9 then some (withEvents y a) else a
  | some x, none => some x
  | none, b => b

/-- The unit of a word: a VBAR that does not wait retires as it issues (R369). -/
def LaneIn.unit (i : LaneIn) : FlightUnit := if i.op = 0x98 && !bitAt i.mod 0 then .alu else unitOf i.op

/-- The word has issued: it leaves its buffer; a pair's first half waits for the second, and the pair is one selection of the engine
(R173). What the wave keeps for its head word goes with the whole pair (R386, R387). -/
def issued (i : LaneIn) (slots : Nat) (r : WordResult) (trap : Option TrapRecord) : Act Unit := do
  let fl : Flight := { entry := i.x, unit := i.unit, slots := slots, result := r, trap := trap, old := [] }
  let w := (← now).wave i.v
  let w := w.popHead i.x.handler
  let w := if i.lw.p then w else { w with failed := w.failed.filter (·.1 != i.x.handler), reply := w.reply.filter (·.1 != i.x.handler) }
  let w := if i.lw.p then w else if i.x.handler then { w with hchain := i.lw.c } else { w with chain := i.lw.c }
  let usesEmpty := ((formOf i.op i.lw).slots.zip (laneFields i.lw)).any fun p =>
    p.1.kind.vector && 768 ≤ p.2 && p.2 < 772 && (match i.hist[p.2 - 768]? with
      | some e => e.kind == .empty
      | none => false)
  if usesEmpty then modDevice fun d => { d with freeCount := d.freeCount + 1 } else pure ()
  modWg w.wg fun x => { x with lastWix := some w.wix }
  modCluster (waveCluster i.v) fun c =>
    let c := { c with lastLane := some w.wg }.tally kindLane c.pass
    if i.unit == .sfu || i.unit == .divide then c.tally kindSlow 1 else c
  if i.lw.p then setWave i.v { w with half := some fl }
  else
    match w.half with
    | none =>
      setWave i.v w
      launch i.v [fl]
    | some f1 =>
      setWave i.v { w with half := none }
      launch i.v [{ f1 with trap := none }, { fl with trap := pairTrap f1.trap fl.trap }]

/-- A word that performs nothing stops its stream (R134, R177). -/
def stopped (i : LaneIn) (cause : Nat) (lanes addr : Word) : Act Unit :=
  issued i 0 emptyResult (some (i.record cause lanes 0 addr))

/-- The registers that a lane reads of another lane, and that lane: srcA of VSHUF, VBCAST and VROTL (R199). DESIGN CHOICE (log entry 115):
the lane that reads is the active one, so poison in an inactive lane that it reads counts for it (R177). -/
def LaneIn.crossReads (i : LaneIn) (l : Nat) : List (Nat × Nat) :=
  let sw := max (i.s.wg i.w.wg).header.sw 1
  let base := l - l % sw
  let k := i.b .i32 l % sw
  let regs := regsOf i.lw.srcA.toNat (if bitAt i.mod 0 then 64 else 32)
  if i.op = 0x92 || i.op = 0x93 then regs.map fun r => (r, base + k)
  else if bitAt i.mod 1 && l % sw < k then []
  else regs.map fun r => (r, base + (l % sw + sw - k) % sw)

/-- The registers that a lane's part of a word reads, with the lanes they lie in. -/
def LaneIn.elements (i : LaneIn) (l : Nat) : List (Nat × Nat) :=
  if 0x92 ≤ i.op && i.op ≤ 0x94 then (regsOf i.lw.srcB.toNat 32).map (·, l) ++ i.crossReads l
  else (regReads i.op i.lw).map (·, l)

/-- The lanes that read poisoned elements or predicates (R177). -/
def LaneIn.poisonLanes (i : LaneIn) : Word :=
  if (predReads i.op i.lw).any i.w.badPreds.contains then i.active
  else if i.s.badRegs.isEmpty then 0
  else maskOf ((lanesOf i.active).filter fun l => (i.elements l).any fun e =>
    i.s.badRegs.contains (regKey i.cluster i.w i.x.base e.1 e.2))

/-- The head word of the current wave is this instruction and can issue. -/
def State.laneAt (s : State) (op : Nat) (w : LaneWord) : Bool :=
  s.laneReady s.curWave && match (s.wave s.curWave).head with
    | some x => laneOp8 x.word.toNat == op && LaneWord.ofNat x.word.toNat == w
    | none => false

/-- The first stream word of a wave after an ERET comes behind the handler's words (R274). -/
def resumeAfter (v : Nat) (handler : Bool) : Act Unit := do
  let s ← now
  match (s.wave v).after with
  | some (k, _) =>
    if handler then pure ()
    else
      setVis (s.handlerWordEdge k v)
      modWave v fun w => { w with after := none }
  | none => pure ()

/-- The head word of the current wave issues: `f` is what it does. -/
def laneAct (name : String) (op : Nat) (f : LaneIn → Act Unit) (w : LaneWord) (s : State) : Result :=
  event name (·.laneAt op w) (do
    match (s.wave s.curWave).head with
    | none => pure ()
    | some x =>
      resumeAfter s.curWave x.handler
      f ((← now).laneIn s.curWave x)) s

/-- A lane word of the datapath, the special-function unit or the divide unit: poison of its sources first, then its
result and flags. -/
def laneExec (name : String) (op : Nat) (f : LaneIn → LaneOut) (w : LaneWord) (s : State) : Result :=
  laneAct name op (fun i =>
    if i.poisonLanes != 0 then stopped i 18 i.poisonLanes 0
    else
      let o := f i
      let r := i.result o
      issued i 0 r (i.arith o r)) w s

end Sys2Proof.Machine
end

