-- ==== Sys2Proof/Machine/LaneInt.lean ====
section
/-! DEFINITION. The integer and logic lane words (R180 to R185, Table 7.4) and the packed integer dot products (R210). -/
namespace Sys2Proof.Machine

/-- The slot type, element width and element count of the integer layout (Table 2.10). -/
def intTy (m : Nat) : SlotTy := match m % 4 with
  | 0 => .i32 | 1 => .i64 | 2 => .i16x2 | _ => .i8x4
def intElem (m : Nat) : Nat × Nat := match m % 4 with
  | 0 => (32, 1) | 1 => (64, 1) | 2 => (16, 2) | _ => (8, 4)

/-- An operation on each element of packed values: the packed results and the flags of all elements (R84, R85). -/
def elemwise (w n : Nat) (f : Nat → Nat → Nat → Nat × Flags) (a b c : Nat) : Nat × Flags :=
  let rs := (List.range n).map fun i => f (elem w a i) (elem w b i) (elem w c i)
  (pack w (rs.map (·.1)), (rs.map (·.2)).foldl (· ||| ·) 0)

/-- A word of the integer layout from its element operation: width, unsigned, saturating, then a, b and c. -/
def intWord (f : Nat → Bool → Bool → Nat → Nat → Nat → Nat × Flags) (i : LaneIn) : LaneOut :=
  let m := i.mod
  let ty := intTy m
  let e := intElem m
  let r (l : Nat) : Nat × Flags :=
    elemwise e.1 e.2 (f e.1 (bitAt m 2) (bitAt m 3)) (i.a ty l) (i.b ty l) (i.c ty l)
  { width := ty.width, vals := fun l => (r l).1, flags := fun l => (r l).2 }

/-- An element operation without flags. -/
def quietOp (f : Nat → Bool → Nat → Nat → Nat) (w : Nat) (uns _sat : Bool) (a b _c : Nat) : Nat × Flags := (f w uns a b, 0)

def addOp (w : Nat) (u sat : Bool) (a b _c : Nat) : Nat × Flags := narrow w u sat (asInt w u a + asInt w u b)
def subOp (w : Nat) (u sat : Bool) (a b _c : Nat) : Nat × Flags := narrow w u sat (asInt w u a - asInt w u b)
def mulOp (w : Nat) (u sat : Bool) (a b _c : Nat) : Nat × Flags := narrow w u sat (asInt w u a * asInt w u b)
def madOp (w : Nat) (u sat : Bool) (a b c : Nat) : Nat × Flags :=
  narrow w u sat (asInt w u a * asInt w u b + asInt w u c)
def mulhOp (w : Nat) (u : Bool) (a b : Nat) : Nat := wrap w (asInt w u a * asInt w u b / (2 ^ w : Nat))
def minOp (w : Nat) (u : Bool) (a b : Nat) : Nat := if asInt w u a ≤ asInt w u b then a else b
def maxOp (w : Nat) (u : Bool) (a b : Nat) : Nat := if asInt w u a ≤ asInt w u b then b else a
def absdOp (w : Nat) (u : Bool) (a b : Nat) : Nat := (asInt w u a - asInt w u b).natAbs % 2 ^ w
def andnOp (w : Nat) (_u : Bool) (a b : Nat) : Nat := a &&& (2 ^ w - 1 - b % 2 ^ w)
def shlOp (w : Nat) (_u : Bool) (a b : Nat) : Nat := a * 2 ^ (b % w) % 2 ^ w
def shrOp (w : Nat) (u : Bool) (a b : Nat) : Nat := wrap w (asInt w u a / (2 ^ (b % w) : Nat))
def rotOp (w : Nat) (_u : Bool) (a b : Nat) : Nat := (a * 2 ^ (b % w) + a / 2 ^ (w - b % w)) % 2 ^ w
def divOp (w : Nat) (u : Bool) (a b : Nat) : Nat :=
  if u then (divU (BitVec.ofNat w a) (BitVec.ofNat w b)).toNat else (divS (BitVec.ofNat w a) (BitVec.ofNat w b)).toNat
def remOp (w : Nat) (u : Bool) (a b : Nat) : Nat :=
  if u then (remU (BitVec.ofNat w a) (BitVec.ofNat w b)).toNat else (remS (BitVec.ofNat w a) (BitVec.ofNat w b)).toNat

/-- VNOP writes nothing and pushes an empty latch entry (R180). -/
def execVnop (w : LaneWord) (s : State) : Result := laneExec "VNOP" 0x00 (fun _ => {}) w s
def execVadd (w : LaneWord) (s : State) : Result := laneExec "VADD" 0x01 (intWord addOp) w s
def execVsub (w : LaneWord) (s : State) : Result := laneExec "VSUB" 0x02 (intWord subOp) w s
def execVmul (w : LaneWord) (s : State) : Result := laneExec "VMUL" 0x03 (intWord mulOp) w s
def execVmulh (w : LaneWord) (s : State) : Result := laneExec "VMULH" 0x04 (intWord (quietOp mulhOp)) w s
def execVmad (w : LaneWord) (s : State) : Result := laneExec "VMAD" 0x05 (intWord madOp) w s
def execVmin (w : LaneWord) (s : State) : Result := laneExec "VMIN" 0x06 (intWord (quietOp minOp)) w s
def execVmax (w : LaneWord) (s : State) : Result := laneExec "VMAX" 0x07 (intWord (quietOp maxOp)) w s
def execVabsd (w : LaneWord) (s : State) : Result := laneExec "VABSD" 0x08 (intWord (quietOp absdOp)) w s
def execVand (w : LaneWord) (s : State) : Result :=
  laneExec "VAND" 0x09 (intWord (quietOp fun _ _ a b => a &&& b)) w s
def execVor (w : LaneWord) (s : State) : Result :=
  laneExec "VOR" 0x0A (intWord (quietOp fun _ _ a b => a ||| b)) w s
def execVxor (w : LaneWord) (s : State) : Result :=
  laneExec "VXOR" 0x0B (intWord (quietOp fun _ _ a b => a ^^^ b)) w s
def execVandn (w : LaneWord) (s : State) : Result := laneExec "VANDN" 0x0C (intWord (quietOp andnOp)) w s
def execVshl (w : LaneWord) (s : State) : Result := laneExec "VSHL" 0x0D (intWord (quietOp shlOp)) w s
def execVshr (w : LaneWord) (s : State) : Result := laneExec "VSHR" 0x0E (intWord (quietOp shrOp)) w s
def execVrot (w : LaneWord) (s : State) : Result := laneExec "VROT" 0x0F (intWord (quietOp rotOp)) w s
def execVpopc (w : LaneWord) (s : State) : Result :=
  laneExec "VPOPC" 0x12 (intWord (quietOp fun w _ a _ => popcount w a)) w s
def execVclz (w : LaneWord) (s : State) : Result := laneExec "VCLZ" 0x13 (intWord (quietOp fun w _ a _ => clz w a)) w s
def execVctz (w : LaneWord) (s : State) : Result := laneExec "VCTZ" 0x14 (intWord (quietOp fun w _ a _ => ctz w a)) w s
def execVbrev (w : LaneWord) (s : State) : Result :=
  laneExec "VBREV" 0x15 (intWord (quietOp fun w _ a _ => bitrev w a)) w s
def execVdiv (w : LaneWord) (s : State) : Result := laneExec "VDIV" 0x17 (intWord (quietOp divOp)) w s
def execVrem (w : LaneWord) (s : State) : Result := laneExec "VREM" 0x18 (intWord (quietOp remOp)) w s
def execVmov (w : LaneWord) (s : State) : Result := laneExec "VMOV" 0x1B (intWord (quietOp fun _ _ a _ => a)) w s

/-! ### Bit fields and bytes (R181, R182) -/

/-- Position and length of a field from its control. -/
def fieldOf (w ctl : Nat) : Nat × Nat :=
  let pos := ctl % 256 % w
  (pos, min (ctl / 256 % 256) (w - pos))

def bfxOp (w : Nat) (u : Bool) (a ctl : Nat) : Nat :=
  let p := fieldOf w ctl
  wrap w (asInt p.2 u (a / 2 ^ p.1 % 2 ^ p.2))
def bfiOp (w a b ctl : Nat) : Nat :=
  let p := fieldOf w ctl
  let mask := (2 ^ p.2 - 1) * 2 ^ p.1
  (b - (b &&& mask)) ||| (a * 2 ^ p.1 &&& mask)

def execVbfx (w : LaneWord) (s : State) : Result := laneExec "VBFX" 0x10 (fun i =>
  let ty := intTy i.mod
  { width := ty.width, vals := fun l => bfxOp ty.width (bitAt i.mod 2) (i.a ty l) (i.b .i32 l) }) w s
def execVbfi (w : LaneWord) (s : State) : Result := laneExec "VBFI" 0x11 (fun i =>
  let ty := intTy i.mod
  { width := ty.width, vals := fun l => bfiOp ty.width (i.a ty l) (i.b ty l) (i.c .i32 l) }) w s

def permb (a sel c : Nat) : Nat :=
  pack 8 ((List.range 4).map fun i => if bitAt sel (4 * i + 3) then 0 else elem 8 (a + 2 ^ 32 * c) (sel / 2 ^ (4 * i) % 8))
def execVpermb (w : LaneWord) (s : State) : Result := laneExec "VPERMB" 0x16 (fun i =>
  { width := 32, vals := fun l => permb (i.a .i32 l) (i.b .i32 l) (i.c .i32 l) }) w s

/-! ### Carries, comparisons, selection, addresses (R183 to R185) -/

def execVaddc (w : LaneWord) (s : State) : Result := laneExec "VADDC" 0x19 (fun i =>
  let ty : SlotTy := if bitAt i.mod 0 then .i64 else .i32
  let q := i.mod / 4
  let sum (l : Nat) : Nat := i.a ty l + i.b ty l + i.c .i32 l
  { width := ty.width, vals := fun l => sum l % 2 ^ ty.width,
    preds := if q = 0 then [] else [(q, fun l => 2 ^ ty.width ≤ sum l)] }) w s

/-- The conditions of R184. -/
def intCond (cond w : Nat) (u : Bool) (a b : Nat) : Bool :=
  let x := asInt w u a
  let y := asInt w u b
  match cond with
  | 0 => x == y
  | 1 => x != y
  | 2 => x < y
  | 3 => x ≤ y
  | 4 => y < x
  | 5 => y ≤ x
  | _ => a &&& b != 0

/-- A predicate destination: p1 to p15, or none for 798 (R47). -/
def predDst (lw : LaneWord) (f : Nat → Bool) : List (Nat × (Nat → Bool)) :=
  let d := lw.dst.toNat
  if 773 ≤ d && d ≤ 787 then [(d - 772, f)] else []

def execVcmp (w : LaneWord) (s : State) : Result := laneExec "VCMP" 0x1A (fun i =>
  let ty : SlotTy := if bitAt i.mod 0 then .i64 else .i32
  { preds := predDst i.lw fun l => intCond (i.mod / 8) ty.width (bitAt i.mod 2) (i.a ty l) (i.b ty l) }) w s
def execVsel (w : LaneWord) (s : State) : Result := laneExec "VSEL" 0x1C (fun i =>
  let ty := intTy i.mod
  { width := ty.width, vals := fun l => if i.c .i32 l = 1 then i.a ty l else i.b ty l }) w s
def execVlea (w : LaneWord) (s : State) : Result := laneExec "VLEA" 0x1D (fun i =>
  { width := 64, vals := fun l =>
      wrap 64 (i.a .i64 l + asInt 32 (!bitAt i.mod 5) (i.b .i32 l) * (2 ^ (i.mod % 8) : Nat)) }) w s

/-! ### Packed integer dot products (R210) -/

/-- The dot product of n elements of w bits with one clamp or wrap. -/
def idot (w n m a b c : Nat) : Nat × Flags :=
  let au := bitAt m 1
  let bu := bitAt m 0
  let uu := au && bu
  let t := (List.range n).foldl (fun t i => t + asInt w au (elem w a i) * asInt w bu (elem w b i)) (asInt 32 uu c)
  narrow 32 uu (bitAt m 3) t
/-- VIDOT4 and VIDOT8 in every lane. A constant in a or b is read as of a 32-bit integer slot, whose elements are then bits of it: the
manual names the elements and no slot type (DESIGN CHOICE, log entry 94). -/
def idotWord (w n : Nat) (i : LaneIn) : LaneOut :=
  let r (l : Nat) : Nat × Flags := idot w n i.mod (i.a .i32 l) (i.b .i32 l) (i.c .i32 l)
  { width := 32, vals := fun l => (r l).1, flags := fun l => (r l).2 }
def execVidot4 (w : LaneWord) (s : State) : Result := laneExec "VIDOT4" 0xE0 (idotWord 8 4) w s
def execVidot8 (w : LaneWord) (s : State) : Result := laneExec "VIDOT8" 0xE1 (idotWord 4 8) w s

end Sys2Proof.Machine
end

