-- ==== Sys2Proof/Machine/Sfu.lean ====
section
/-! DEFINITION. The special functions of R196: each is evaluated to 320 leading bits, far more than any operand's
result needs to decide its rounding, and rounded once to nearest-even. -/
namespace Sys2Proof.Machine

/-- Working precision in bits. -/
def sfuBits : Nat := 320

/-- pi and ln 2, cut below 2^-400. -/
def piDy : Dy := ⟨0x3243f6a8885a308d313198a2e03707344a4093822299f31d0082efa98ec4e6c89452821e638d01377be5466cf34e90c6cc0ac, -400⟩
def ln2Dy : Dy := ⟨0xb17217f7d1cf79abc9e3b39803f2f6af40f343267298b62d8a0d175b8baafa2be7b876206debac98559552fb4afa1b10ed2e, -400⟩

/-- Cut to the working precision, toward minus infinity. -/
def Dy.cut (a : Dy) : Dy :=
  let n := a.m.natAbs.log2 + 1
  if n ≤ sfuBits then a else ⟨a.m / (2 ^ (n - sfuBits) : Nat), a.e + (n - sfuBits : Nat)⟩
def Dy.mulc (a b : Dy) : Dy := (a.mul b).cut
def Dy.addc (a b : Dy) : Dy := (a.add b).cut
/-- a / b to the working precision. -/
def Dy.divc (a b : Dy) : Dy :=
  if b.m = 0 then Dy.zero
  else
    let k := sfuBits + b.m.natAbs.log2 + 1
    Dy.cut ⟨a.m * (2 ^ k : Nat) / b.m, a.e - b.e - (k : Int)⟩
def Dy.one : Dy := ⟨1, 0⟩

/-- sum over i of x^i * a0 / (n (n+1) ...): the tail of a power series whose i-th term is the one before times x
divided by `den i`. -/
def series (x : Dy) (den : Nat → Nat) : Nat → Nat → Dy → Dy → Dy
  | 0, _, _, acc => acc
  | n + 1, i, term, acc =>
    let t := (term.mulc x).divc (Dy.ofInt (den i))
    series x den n (i + 1) t (acc.addc t)

/-- e^y for 0 ≤ y < 1. -/
def expDy (y : Dy) : Dy := series y (fun i => i + 1) 80 0 Dy.one Dy.one
/-- sin x and cos x for |x| < 1. -/
def sinDy (x : Dy) : Dy := series (x.mulc x).negate (fun i => (2 * i + 2) * (2 * i + 3)) 50 0 x x
def cosDy (x : Dy) : Dy := series (x.mulc x).negate (fun i => (2 * i + 1) * (2 * i + 2)) 50 0 Dy.one Dy.one

/-- floor of a dyadic. -/
def Dy.floor (a : Dy) : Int :=
  if 0 ≤ a.e then a.m * (2 ^ a.e.toNat : Nat) else a.m / (2 ^ (-a.e).toNat : Nat)
/-- 2^a for a not an integer, |a| below 2^16. -/
def exp2Dy (a : Dy) : Dy :=
  let n := a.floor
  let f := a.add (Dy.ofInt (-n))
  let y := expDy (f.mulc ln2Dy)
  ⟨y.m, y.e + n⟩
/-- e^a. -/
def expAnyDy (a : Dy) : Dy := exp2Dy (a.divc ln2Dy)

/-- atanh series: t + t^3/3 + ... -/
def atanhFrom (t2 : Dy) : Nat → Nat → Dy → Dy → Dy
  | 0, _, _, acc => acc
  | n + 1, k, p, acc =>
    let p := p.mulc t2
    atanhFrom t2 n (k + 2) p (acc.addc (p.divc (Dy.ofInt (k + 2 : Nat))))
/-- ln of a number near 1. -/
def lnNear (x : Dy) : Dy :=
  let t := (x.add (Dy.ofInt (-1))).divc (x.add Dy.one)
  let r := atanhFrom (t.mulc t) 75 1 t t
  ⟨r.m, r.e + 1⟩

/-- Rounding an approximation of an irrational result: what follows its bits is never zero. -/
def Fmt.roundApprox (f : Fmt) (x : Dy) : FRes := f.round .rne (x.m < 0) x.m.natAbs x.e true
/-- A magnitude just below m * 2^e. -/
def Fmt.roundBelow (f : Fmt) (neg : Bool) (m : Nat) (e : Int) : FRes :=
  f.round .rne neg (m * 2 ^ sfuBits - 1) (e - (sfuBits : Int)) true
/-- A positive magnitude below every subnormal. -/
def Fmt.roundTiny (f : Fmt) (neg : Bool) : FRes := f.round .rne neg (2 ^ 8) (f.qmin - 200) true

/-- The magnitude's exponent: floor(log2). -/
def Dy.top (a : Dy) : Int := a.e + (a.m.natAbs.log2 : Int)

/-- The eight functions of Table 7.8. -/
inductive SfuOp | rcp | rsq | exp2 | log2 | sin | cos | tanh | sigm
  deriving DecidableEq, Repr

def sfuRcp (f : Fmt) (neg : Bool) (m : Nat) (e : Int) : FRes :=
  if m = 0 then (f.sign neg + f.infinity, flagDZ)
  else
    let k := f.mb + 4 + m.log2
    f.round .rne neg (2 ^ k / m) (-e - (k : Int)) (2 ^ k % m != 0)

def sfuRsq (f : Fmt) (neg : Bool) (m : Nat) (e : Int) : FRes :=
  if m = 0 then (f.sign neg + f.infinity, flagDZ)
  else if neg then f.invalid
  else
    let (m, e) := if e % 2 = 0 then (m, e) else (2 * m, e - 1)
    let k := f.mb + 4 + m.log2
    let r := isqrt (2 ^ (2 * k) / m)
    f.round .rne false r (-(e / 2) - (k : Int)) (r * r * m != 2 ^ (2 * k))

def sfuExp2 (f : Fmt) (a : Dy) : FRes :=
  if a.m = 0 then f.round .rne false 1 0
  else if 0 ≤ a.e || a.m % (2 ^ (-a.e).toNat : Nat) = 0 then
    f.round .rne false 1 (max (-8192) (min 8192 (if 14 < a.top then (if a.m < 0 then -8192 else 8192) else a.floor)))
  else if 14 < a.top then (if a.m < 0 then f.roundTiny false else f.round .rne false 1 8192)
  else f.roundApprox (exp2Dy a)

def sfuLog2 (f : Fmt) (neg : Bool) (m : Nat) (e : Int) : FRes :=
  if m = 0 then (f.sign true + f.infinity, flagDZ)
  else if neg then f.invalid
  else
    let k := m.log2
    if m = 2 ^ k then f.roundInt .rne (e + (k : Int)) 0
    else
      -- m = x * 2^k with x in (1, 2); above 1.5 take x/2
      let high := 3 * 2 ^ k < 2 * m
      let x : Dy := ⟨m, -(k : Int) - (if high then 1 else 0)⟩
      let n : Int := e + (k : Int) + (if high then 1 else 0)
      f.roundApprox (((lnNear x).divc ln2Dy).addc (Dy.ofInt n))

/-- sin(2 pi a) for `shift` 0 and cos(2 pi a) for 1: the nearest quarter turn and the rest. -/
def sfuTurn (f : Fmt) (cosine neg : Bool) (a : Dy) : FRes :=
  let fourA : Dy := ⟨a.m, a.e + 2⟩
  let q := (fourA.add ⟨1, -1⟩).floor
  let t := a.add ⟨-q, -2⟩
  let x := (t.mulc piDy)
  let x : Dy := ⟨x.m, x.e + 1⟩
  -- the quarter turn n in which the value is a sine of x
  let n := (q + (if cosine then 1 else 0)) % 4
  if t.m = 0 then
    if n % 2 = 0 then (f.sign (!cosine && neg), 0) else f.round .rne (n = 3) 1 0
  else if n % 2 = 0 then
    let y := sinDy x
    f.roundApprox (if n = 0 then y else y.negate)
  else
    let y := cosDy x
    f.roundApprox (if n = 1 then y else y.negate)

def sfuTanh (f : Fmt) (neg : Bool) (m : Nat) (e : Int) : FRes :=
  let a : Dy := ⟨m, e⟩
  if m = 0 then (f.sign neg, 0)
  else if a.top < -24 then f.roundBelow neg m e
  else if 5 < a.top then f.roundBelow neg 1 0
  else
    let y := expAnyDy ⟨m, e + 1⟩
    let r := (y.add (Dy.ofInt (-1))).divc (y.add Dy.one)
    f.roundApprox (if neg then r.negate else r)

def sfuSigm (f : Fmt) (neg : Bool) (m : Nat) (e : Int) : FRes :=
  let a : Dy := ⟨m, e⟩
  if m = 0 then f.round .rne false 1 (-1)
  else if 10 < a.top then (if neg then f.roundTiny false else f.roundBelow false 1 0)
  else
    let y := expAnyDy (if neg then a else a.negate)
    f.roundApprox (Dy.one.divc (Dy.one.addc y))

/-- One special function of one element. -/
def Fmt.special (f : Fmt) (env : FEnv) (op : SfuOp) (x : Nat) : FRes :=
  let v := f.read env x
  f.flushOut env <| match v with
  | .nan _ _ _ => f.nanRes env [v]
  | .inf neg =>
    match op with
    | .rcp => (f.sign neg, 0)
    | .rsq => if neg then f.invalid else (0, 0)
    | .exp2 => if neg then (0, 0) else (f.infinity, 0)
    | .log2 => if neg then f.invalid else (f.infinity, 0)
    | .sin | .cos => f.invalid
    | .tanh => f.round .rne neg 1 0
    | .sigm => if neg then (0, 0) else f.round .rne false 1 0
  | .fin neg m e =>
    match op with
    | .rcp => sfuRcp f neg m e
    | .rsq => sfuRsq f neg m e
    | .exp2 => sfuExp2 f v.dy
    | .log2 => sfuLog2 f neg m e
    | .sin => sfuTurn f false neg v.dy
    | .cos => sfuTurn f true neg v.dy
    | .tanh => sfuTanh f neg m e
    | .sigm => sfuSigm f neg m e

end Sys2Proof.Machine
end

