-- ==== Sys2Proof/Machine/LaneFloat.lean ====
section
/-! DEFINITION. The floating lane words (R186 to R192, Table 7.5), the conversions (R193 to R195) and the special
functions (R196). -/
namespace Sys2Proof.Machine

/-! ### The floating layout (Table 2.10) -/

def floatTy (t : Nat) : SlotTy := match t % 4 with
  | 0 => .f32 | 1 => .f64 | 2 => .f16x2 | _ => .bf16x2
def floatFmt (t : Nat) : Fmt := match t % 4 with
  | 0 => f32 | 1 => f64 | 2 => f16 | _ => bf16
def floatElem (t : Nat) : Nat × Nat := match t % 4 with
  | 0 => (32, 1) | 1 => (64, 1) | _ => (16, 2)

/-- The environment of a word of the floating layout (R93, Table 4.8). -/
def LaneIn.env (i : LaneIn) : FEnv := fenv (Rounding.ofCode (i.mod % 4)) i.x.compat (i.mod / 4 % 4 = 2)

/-- A word of the floating layout from its element operation. -/
def floatWord (f : Fmt → FEnv → Nat → Nat → Nat → FRes) (i : LaneIn) : LaneOut :=
  let t := i.mod / 4
  let ty := floatTy t
  let e := floatElem t
  let r (l : Nat) : FRes := elemwise e.1 e.2 (f (floatFmt t) i.env) (i.a ty l) (i.b ty l) (i.c ty l)
  { width := ty.width, vals := fun l => (r l).1, flags := fun l => (r l).2 }

def execVfadd (w : LaneWord) (s : State) : Result :=
  laneExec "VFADD" 0x40 (floatWord fun f env a b _ => f.add env a b) w s
def execVfsub (w : LaneWord) (s : State) : Result :=
  laneExec "VFSUB" 0x41 (floatWord fun f env a b _ => f.sub env a b) w s
def execVfmul (w : LaneWord) (s : State) : Result :=
  laneExec "VFMUL" 0x42 (floatWord fun f env a b _ => f.mul env a b) w s
def execVfmulz (w : LaneWord) (s : State) : Result :=
  laneExec "VFMULZ" 0x43 (floatWord fun f env a b _ => f.mulz env a b) w s
def execVfma (w : LaneWord) (s : State) : Result :=
  laneExec "VFMA" 0x44 (floatWord fun f env a b c => f.fma env a b c) w s
def execVfmaz (w : LaneWord) (s : State) : Result :=
  laneExec "VFMAZ" 0x45 (floatWord fun f env a b c => f.fmaz env a b c) w s
def execVfmin (w : LaneWord) (s : State) : Result :=
  laneExec "VFMIN" 0x46 (floatWord fun f env a b _ => f.minmax env false a b) w s
def execVfmax (w : LaneWord) (s : State) : Result :=
  laneExec "VFMAX" 0x47 (floatWord fun f env a b _ => f.minmax env true a b) w s
def execVfsgn (w : LaneWord) (s : State) : Result :=
  laneExec "VFSGN" 0x48 (floatWord fun f _ a b c => (f.sgn a b c, 0)) w s
def execVfdiv (w : LaneWord) (s : State) : Result :=
  laneExec "VFDIV" 0x4B (floatWord fun f env a b _ => f.div env a b) w s
def execVfsqrt (w : LaneWord) (s : State) : Result :=
  laneExec "VFSQRT" 0x4C (floatWord fun f env a _ _ => f.sqrt env a) w s
def execVfrnd (w : LaneWord) (s : State) : Result :=
  laneExec "VFRND" 0x4D (floatWord fun f env a _ _ => f.rnd env a) w s

/-- VFCMP (R188). -/
def execVfcmp (w : LaneWord) (s : State) : Result := laneExec "VFCMP" 0x49 (fun i =>
  let t := i.mod % 4
  let r (l : Nat) : Bool × Flags :=
    (floatFmt t).cmp (i.mod / 8) (bitAt i.mod 2) (i.a (floatTy t) l) (i.b (floatTy t) l)
  { preds := predDst i.lw fun l => (r l).1, flags := fun l => (r l).2 }) w s

/-- VFCLASS (R189): a 32-bit mask, or one in each half. -/
def execVfclass (w : LaneWord) (s : State) : Result := laneExec "VFCLASS" 0x4A (fun i =>
  let t := i.mod / 4
  let e := floatElem t
  { width := 32, vals := fun l =>
      if e.2 = 1 then (floatFmt t).classMask i.env (i.a (floatTy t) l)
      else (elemwise 16 2 (fun a _ _ => ((floatFmt t).classMask i.env a, 0)) (i.a (floatTy t) l) 0 0).1 }) w s

/-- VFSCALE (R190): the scale is an i32, or an i16 in each half. -/
def execVfscale (w : LaneWord) (s : State) : Result := laneExec "VFSCALE" 0x4E (fun i =>
  let t := i.mod / 4
  let ty := floatTy t
  let e := floatElem t
  let f := floatFmt t
  let r (l : Nat) : FRes :=
    if e.2 = 1 then f.scale i.env (i.a ty l) (asInt 32 false (i.b .i32 l))
    else elemwise 16 2 (fun a b _ => f.scale i.env a (asInt 16 false b)) (i.a ty l) (i.b .i16x2 l) 0
  { width := ty.width, vals := fun l => (r l).1, flags := fun l => (r l).2 }) w s

/-- VFXTR (R191): the exponent with sel = 0, the significand with sel = 1. -/
def execVfxtr (w : LaneWord) (s : State) : Result := laneExec "VFXTR" 0x4F (fun i =>
  let t := i.mod / 4
  let ty := floatTy t
  let e := floatElem t
  let f := floatFmt t
  let sel := i.lw.srcB.toNat ≠ 832
  let r (l : Nat) : FRes :=
    if sel then elemwise e.1 e.2 (fun a _ _ => f.significand i.env a) (i.a ty l) 0 0
    else if e.2 = 1 then f.exponent i.env 32 (i.a ty l)
    else elemwise 16 2 (fun a _ _ => f.exponent i.env 16 a) (i.a ty l) 0 0
  { width := if sel then ty.width else 32, vals := fun l => (r l).1, flags := fun l => (r l).2 }) w s

/-- A NaN of a narrower format with its payload where binary32 has it (R99, R192). -/
def widenNan (f : Fmt) : FVal → FVal
  | .nan neg sg frac => .nan neg sg (frac * 2 ^ (23 - f.mb))
  | v => v

/-- VFDOT2 (R192). -/
def execVfdot2 (w : LaneWord) (s : State) : Result := laneExec "VFDOT2" 0x53 (fun i =>
  let t := i.mod / 4
  let ty := floatTy t
  let f := floatFmt t
  let r (l : Nat) : FRes :=
    let v (x k : Nat) : FVal := widenNan f (f.read i.env (elem 16 x k))
    let a := i.a ty l
    let b := i.b ty l
    let c := f32.decode (i.c .f32 l)
    f32.dot i.env [v a 0, v a 1, v b 0, v b 1, c] [(v a 0, v b 0), (v a 1, v b 1)] [c]
  { width := 32, vals := fun l => (r l).1, flags := fun l => (r l).2 }) w s

/-! ### Conversions (R193 to R195, R100, R102) -/

/-- The rounding of a conversion into a narrow format: toward zero at level 0 (Table 4.8). -/
def LaneIn.narrowMode (i : LaneIn) : Rounding := if i.x.compat then Rounding.ofCode (i.mod % 4) else .rz

def LaneIn.conv (i : LaneIn) (dst src : Fmt) (mode : Rounding) (x : Nat) : FRes :=
  dst.convert src mode i.x.compat false (src.decode x)

/-- One conversion of Table 7.7 in a lane: the result and its flags. A constant in the fp8 source of codes 11 and 13 to 15 is read as
of a 32-bit integer slot: the manual names no slot type there (DESIGN CHOICE, log entry 94). -/
def LaneIn.cvtf (i : LaneIn) (l : Nat) : FRes :=
  let mode := Rounding.ofCode (i.mod % 4)
  let two (r0 r1 : FRes) : FRes := (r0.1 + 2 ^ 16 * r1.1, r0.2 ||| r1.2)
  let k := i.lw.srcB.toNat - 832
  let byte (n : Nat) : Nat := elem 8 (i.a .i32 l) n
  let narrowByte (f : Fmt) : FRes :=
    let r := i.conv f f32 i.narrowMode (i.a .f32 l)
    ((i.b .i32 l * 2 ^ 8 + r.1) % 2 ^ 32, r.2)
  match i.mod / 4 with
  | 0 => i.conv f64 f32 mode (i.a .f32 l)
  | 1 => i.conv f32 f64 mode (i.a .f64 l)
  | 2 => i.conv f16 f32 i.narrowMode (i.a .f32 l)
  | 3 => i.conv f32 f16 mode (i.a .f16x2 l % 2 ^ 16)
  | 4 => i.conv bf16 f32 i.narrowMode (i.a .f32 l)
  | 5 => i.conv f32 bf16 mode (i.a .bf16x2 l % 2 ^ 16)
  | 6 => i.conv f16 f64 i.narrowMode (i.a .f64 l)
  | 7 => i.conv f64 f16 mode (i.a .f16x2 l % 2 ^ 16)
  | 8 => two (i.conv f16 f32 i.narrowMode (i.a .f32 l)) (i.conv f16 f32 i.narrowMode (i.b .f32 l))
  | 9 => two (i.conv bf16 f32 i.narrowMode (i.a .f32 l)) (i.conv bf16 f32 i.narrowMode (i.b .f32 l))
  | 10 => narrowByte e4m3
  | 11 => i.conv f32 e4m3 mode (byte k)
  | 12 => narrowByte e5m2
  | 13 => i.conv f32 e5m2 mode (byte k)
  | 14 => two (i.conv f16 e4m3 mode (byte (2 * k))) (i.conv f16 e4m3 mode (byte (2 * k + 1)))
  | _ => two (i.conv f16 e5m2 mode (byte (2 * k))) (i.conv f16 e5m2 mode (byte (2 * k + 1)))

def execVcvtf (w : LaneWord) (s : State) : Result := laneExec "VCVTF" 0x50 (fun i =>
  { width := (convertForm 0x50 i.mod).dst.width, vals := fun l => (i.cvtf l).1, flags := fun l => (i.cvtf l).2 }) w s

/-- VCVTFI (R194). -/
def execVcvtfi (w : LaneWord) (s : State) : Result := laneExec "VCVTFI" 0x51 (fun i =>
  let t := i.mod / 16
  let d := i.mod / 4 % 4
  let n := if 2 ≤ d then 64 else 32
  let r (l : Nat) : FRes :=
    let x := i.a (floatTy t) l % 2 ^ (floatElem t).1
    Fmt.toInteger (Rounding.ofCode (i.mod % 4)) n (d % 2 = 1) ((floatFmt t).decode x)
  { width := n, vals := fun l => (r l).1, flags := fun l => (r l).2 }) w s

/-- VCVTIF (R195). -/
def execVcvtif (w : LaneWord) (s : State) : Result := laneExec "VCVTIF" 0x52 (fun i =>
  let t := i.mod / 16
  let d := i.mod / 4 % 4
  let n := if 2 ≤ d then 64 else 32
  let mode := if 2 ≤ t then i.narrowMode else Rounding.ofCode (i.mod % 4)
  let r (l : Nat) : FRes :=
    (floatFmt t).ofInteger mode (asInt n (d % 2 = 1) (i.a (if 2 ≤ d then .i64 else .i32) l))
  { width := if t = 1 then 64 else 32, vals := fun l => (r l).1, flags := fun l => (r l).2 }) w s

/-! ### Special functions (R196, Table 7.8) -/

def sfuWord (op : SfuOp) (i : LaneIn) : LaneOut :=
  let t := i.mod / 4
  let ty := floatTy t
  let e := floatElem t
  let env := fenv .rne i.x.compat (t = 2)
  let r (l : Nat) : FRes := elemwise e.1 e.2 (fun a _ _ => (floatFmt t).special env op a) (i.a ty l) 0 0
  { width := 32, vals := fun l => (r l).1, flags := fun l => (r l).2 }

def execVrcp (w : LaneWord) (s : State) : Result := laneExec "VRCP" 0x80 (sfuWord .rcp) w s
def execVrsq (w : LaneWord) (s : State) : Result := laneExec "VRSQ" 0x81 (sfuWord .rsq) w s
def execVexp2 (w : LaneWord) (s : State) : Result := laneExec "VEXP2" 0x82 (sfuWord .exp2) w s
def execVlog2 (w : LaneWord) (s : State) : Result := laneExec "VLOG2" 0x83 (sfuWord .log2) w s
def execVsin (w : LaneWord) (s : State) : Result := laneExec "VSIN" 0x84 (sfuWord .sin) w s
def execVcos (w : LaneWord) (s : State) : Result := laneExec "VCOS" 0x85 (sfuWord .cos) w s
def execVtanh (w : LaneWord) (s : State) : Result := laneExec "VTANH" 0x86 (sfuWord .tanh) w s
def execVsigm (w : LaneWord) (s : State) : Result := laneExec "VSIGM" 0x87 (sfuWord .sigm) w s

end Sys2Proof.Machine
end

