-- ==== Sys2Proof/Machine/LaneCross.lean ====
section
/-! DEFINITION. Predicate logic (R197, R198), cross-lane words (R199, R200, R111, R112), votes (R201), VBAR (R369) and
the retirement of lane words (R172). -/
namespace Sys2Proof.Machine

/-! ### Predicates (R197, R198) -/

/-- VPLOP (R197): the truth table selected by pa and pb. -/
def execVplop (w : LaneWord) (s : State) : Result := laneExec "VPLOP" 0x90 (fun i =>
  { preds := predDst i.lw fun l => bitAt i.mod (2 * i.a .i32 l + i.b .i32 l) }) w s

/-- VPMOV (R198). -/
def execVpmov (w : LaneWord) (s : State) : Result := laneExec "VPMOV" 0x91 (fun i =>
  if bitAt i.mod 0 then { preds := predDst i.lw fun l => i.a .i32 l != 0 }
  else { width := 32, vals := fun l => i.a .i32 l }) w s

/-! ### Moves between lanes (R199) -/

/-- The declared wave width, which is the width of a segment. -/
def LaneIn.sw (i : LaneIn) : Nat := max (i.s.wg i.w.wg).header.sw 1
def LaneIn.base (i : LaneIn) (l : Nat) : Nat := l - l % i.sw
def LaneIn.crossTy (i : LaneIn) : SlotTy := if bitAt i.mod 0 then .i64 else .i32

def execVshuf (w : LaneWord) (s : State) : Result := laneExec "VSHUF" 0x92 (fun i =>
  { width := i.crossTy.width, vals := fun l => i.a i.crossTy (i.base l + i.b .i32 l % i.sw) }) w s
def execVbcast (w : LaneWord) (s : State) : Result := laneExec "VBCAST" 0x93 (fun i =>
  { width := i.crossTy.width, vals := fun l => i.a i.crossTy (i.base l + i.b .i32 l % i.sw) }) w s
def execVrotl (w : LaneWord) (s : State) : Result := laneExec "VROTL" 0x94 (fun i =>
  { width := i.crossTy.width, vals := fun l =>
      let x := l % i.sw
      let k := i.b .i32 l % i.sw
      if bitAt i.mod 1 && x < k then 0 else i.a i.crossTy (i.base l + (x + i.sw - k) % i.sw) }) w s

/-! ### Scans and reductions (R111, R112, R200) -/

def scanTy (t : Nat) : SlotTy := match t with
  | 0 | 1 => .i32 | 2 | 3 => .i64 | 4 => .f32 | _ => .f64

/-- The combination of two values: add, minimum or maximum of the type. -/
def combine (op t : Nat) (compat : Bool) (a b : Nat) : FRes :=
  let w := (scanTy t).width
  if t < 4 then
    let u := t % 2 = 1
    match op with
    | 0 => ((a + b) % 2 ^ w, 0)
    | 1 => (minOp w u a b, 0)
    | _ => (maxOp w u a b, 0)
  else
    let f := if t = 4 then f32 else f64
    let env := fenv .rne compat false
    match op with
    | 0 => f.add env a b
    | 1 => f.minmax env false a b
    | _ => f.minmax env true a b

/-- Two nodes combined: a node without an active lane passes the other on. -/
def joinNodes (op t : Nat) (compat : Bool) (a b : Option FRes) : Option FRes :=
  match a, b with
  | some x, some y =>
    let r := combine op t compat x.1 y.1
    some (r.1, x.2 ||| y.2 ||| r.2)
  | some x, none => some x
  | none, b => b

/-- The tree node over the 2^lvl lanes from `lo` (R111). -/
def treeNode (op t : Nat) (compat : Bool) (leaf : Nat → Option FRes) : Nat → Nat → Option FRes
  | 0, lo => leaf lo
  | lvl + 1, lo =>
    joinNodes op t compat (treeNode op t compat leaf lvl lo) (treeNode op t compat leaf lvl (lo + 2 ^ lvl))

/-- The level of the largest block that starts at p and ends at or before j (R112). -/
def blockLevel (p j : Nat) : Nat :=
  ((List.range 7).filter fun k => p % 2 ^ k = 0 && p + 2 ^ k ≤ j + 1).getLastD 0

/-- The blocks from p to j combined from left to right (R112). -/
def scanFrom (op t : Nat) (compat : Bool) (leaf : Nat → Option FRes) (j : Nat) : Nat → Nat → Option FRes → Option FRes
  | 0, _, acc => acc
  | n + 1, p, acc =>
    if j < p then acc
    else
      let k := blockLevel p j
      scanFrom op t compat leaf j n (p + 2 ^ k) (joinNodes op t compat acc (treeNode op t compat leaf k p))

def LaneIn.leaf (i : LaneIn) (l : Nat) : Option FRes :=
  if i.on l then some (i.a (scanTy (i.mod % 8)) l, 0) else none

/-- The first lane of lane l's range: its segment's, or the last head at or before it. -/
def LaneIn.scanStart (i : LaneIn) (l : Nat) : Nat :=
  let b := i.base l
  if bitAt i.mod 3 then
    ((List.range (l + 1)).filter fun k => k = b || (b ≤ k && i.b .i32 k = 1)).getLastD b
  else b

def execVscan (w : LaneWord) (s : State) : Result := laneExec "VSCAN" 0x95 (fun i =>
  let t := i.mod % 8
  let r (l : Nat) : FRes := (scanFrom (i.mod / 16) t i.x.compat i.leaf l 64 (i.scanStart l) none).getD (0, 0)
  { width := (scanTy t).width, vals := fun l => (r l).1, flags := fun l => (r l).2 }) w s
def execVred (w : LaneWord) (s : State) : Result := laneExec "VRED" 0x96 (fun i =>
  let t := i.mod % 8
  let r (l : Nat) : FRes := (treeNode (i.mod / 16) t i.x.compat i.leaf i.sw.log2 (i.base l)).getD (0, 0)
  { width := (scanTy t).width, vals := fun l => (r l).1, flags := fun l => (r l).2 }) w s

/-! ### Votes (R201, Table 7.9) -/

/-- One wave's summary, and whether a lane answered a .first or .uniq vote. -/
def LaneIn.summary (i : LaneIn) : Word × Bool :=
  let on := lanesOf i.active
  let yes := on.filter fun l => i.a .i32 l = 1
  match i.mod % 8 with
  | 0 => (ofBool (!yes.isEmpty), true)
  | 1 => (ofBool (yes.length = on.length), true)
  | 2 => (BitVec.ofNat 64 yes.length, true)
  | 3 => (maskOf yes, true)
  | 4 => match yes with
    | l :: _ => (BitVec.ofNat 64 l, true)
    | [] => (64, false)
  | _ => match on with
    | l :: _ =>
      if bitAt i.mod 3 then (BitVec.ofNat 64 (i.a .i64 l), true)
      else (BitVec.ofNat 64 (i.a .i32 l + l * 2 ^ 32), true)
    | [] => (voteStart 5 (bitAt i.mod 3), false)

def execVvote (w : LaneWord) (s : State) : Result := laneExec "VVOTE" 0x97 (fun i => { vote := some i.summary }) w s

/-! ### VBAR (R369) -/

def modVbar (wg id : Nat) (f : Vbar → Vbar) : Act Unit :=
  modWg wg fun x => { x with vbars := x.vbars.map fun b => if b.id == id then f b else b }

/-- The arrival of a VBAR that has issued in its last target wave, which releases what came before it in each of them (R371); a second
arrival of the phase is refused and owed to the stream's owner, and the stream goes on. -/
def barArrival (i : LaneIn) (b : Vbar) : Act Unit := do
  let s ← now
  let wg := (s.ctx i.x.emitter).wg
  let n := (s.bar wg b.lvl b.num).phases
  modVbar wg b.id fun b => { b with arrived := some n }
  if s.hasArrived wg b.role b.lvl b.num then oweTrap i.w.owner none (i.record 17 0 0 0)
  else arrive wg b.role b.lvl b.num b.ids
  maybeLeave wg b.role

/-- VBAR issues in one wave (R369): its writes join those that the arrival releases, and in the last target wave the role arrives. -/
def execVbar (w : LaneWord) (s : State) : Result := laneAct "VBAR" 0x98 (fun i => do
  let s ← now
  let wg := (s.ctx i.x.emitter).wg
  match (s.wg wg).vbars.find? fun b => some b.id == i.x.bar with
  | some b =>
    if i.x.waiting then pure ()
    else
      let b := { b with left := b.left - 1, ids := (b.ids ++ s.vis.ids (s.waveAgent i.v :: emitCarrier (s.ctxAgent i.x.emitter))).dedup }
      modVbar wg b.id fun _ => b
      if b.left = 0 then barArrival i b else pure ()
  | none => pure ()
  issued i 0 emptyResult none) w s

/-- The phase in which a waiting VBAR's arrival counted has completed. -/
def State.barDone (s : State) (x : StreamWord) : Bool :=
  let wg := (s.ctx x.emitter).wg
  match (s.wg wg).vbars.find? fun b => some b.id == x.bar with
  | some b => match b.arrived with
    | some n => n < (s.bar wg b.lvl b.num).phases
    | none => false
  | none => true

/-! ### Retirement (R172) -/

/-- The words of a wave that retire next: the oldest outside the datapath, with the datapath words around it. -/
def State.retiring (s : State) (v : Nat) : List Flight :=
  let fl := (s.wave v).flight
  let rest := fl.drop (leadingAlu fl).length
  match rest with
  | [] => fl
  | f :: r => if f.unit == .barrier && !s.barDone f.entry then leadingAlu fl else leadingAlu fl ++ [f] ++ leadingAlu r

/-- LANE_WORD_RETIRE. -/
def execLaneWordRetire (v : Nat) (s : State) : Result :=
  event "LANE_WORD_RETIRE" (fun s => !(s.retiring v).isEmpty) (do
    let out := s.retiring v
    modWave v fun w => { w with flight := w.flight.drop out.length }
    each out (retireOne v)) s

end Sys2Proof.Machine
end

