-- ==== Sys2Proof/Machine/Place.lean ====
section
/-! DEFINITION. The dispatcher (13_queue, 15_group): what workgroups hold (R349), the refresh charge and the vault floors
(R352, R353), a placement attempt (R350, R354), the pools (R298), validation (R316) and DISPATCH_SERVE (R317, R318). -/
namespace Sys2Proof.Machine

/-! ### What a workgroup holds of its cluster (R349, Table 15.2) -/

def WgStatus.resident : WgStatus → Bool
  | .starting | .running | .saving | .restoring => true
  | .saved | .retired => false

/-- A workgroup's share of a cluster; `fresh` while the attempt places it. -/
structure Seat where
  cluster : Nat
  gang : Nat
  header : Header
  ctxs : List Nat            -- context slots in role order
  waves : List (Nat × Nat)   -- wave slot and first physical register, in workgroup wave order (R348)
  spad : Nat                 -- first scratchpad unit
  accs : List Nat
  fresh : Bool
  deriving DecidableEq, Repr

/-- The window size of each wave in workgroup wave order. -/
def Header.waveWidths (h : Header) : List Nat := h.roles.flatMap fun r => List.replicate r.waves r.width
def Header.units (h : Header) : Nat := (h.spad + 4095) / 4096

/-- The register blocks of 32 that a seat takes. -/
def Seat.blocks (x : Seat) : List Nat :=
  (x.waves.zip x.header.waveWidths).flatMap fun p => (List.range (p.2 / 32)).map (p.1.2 / 32 + ·)
def Seat.units (x : Seat) : List Nat := (List.range x.header.units).map (x.spad + ·)

/-- The seat of workgroup i. -/
def State.seatOf (s : State) (i : Nat) : Seat :=
  let w := s.wg i
  { cluster := w.cluster, gang := w.gang, header := w.header, ctxs := w.ctxs.map (· % 16)
    waves := w.waves.map (fun v => (v % 32, (s.wave v).phys)), spad := w.spad / 4096, accs := w.accs
    fresh := false }
def State.seats (s : State) : List Seat :=
  ((List.range s.wgs.length).filter fun i => (s.wg i).status.resident).map s.seatOf

/-- The n lowest numbers below `cap` that are not used. -/
def lowestFree (used : List Nat) (n cap : Nat) : Option (List Nat) :=
  let free := ((List.range cap).filter (! used.contains ·)).take n
  if free.length = n then some free else none

/-- The lowest run of n numbers below `cap` that are not used. -/
def firstRun (used : List Nat) (n cap : Nat) : Option Nat :=
  (List.range (cap + 1 - n)).find? fun i => (List.range n).all fun j => !used.contains (i + j)

/-- A contiguous run of register blocks for each wave. -/
def fitWaves : List Nat → List Nat → Option (List Nat)
  | _, [] => some []
  | used, w :: ws => do
    let b ← firstRun used (w / 32) 256
    let rest ← fitWaves ((List.range (w / 32)).map (b + ·) ++ used) ws
    pure (b * 32 :: rest)

/-- The gang barriers held on a die: the count of each gang with a member there. -/
def gangBarsOn (seats : List Seat) (die : Nat) : List (Nat × Nat) :=
  ((seats.filter fun x => x.cluster / 8 == die).map fun x => (x.gang, x.header.gbars)).dedup

/-- The share of cluster c that a member of gang g would take, when every amount is free. -/
def seatIn (seats : List Seat) (h : Header) (g c : Nat) : Option Seat := do
  let here := seats.filter (·.cluster == c)
  let ctxs ← lowestFree (here.flatMap (·.ctxs)) h.roles.length 16
  let widths := h.waveWidths
  let slots ← lowestFree (here.flatMap fun x => x.waves.map (·.1)) widths.length 32
  let phys ← fitWaves (here.flatMap (·.blocks)) widths
  let unit ← firstRun (here.flatMap (·.units)) h.units 1024
  let accs ← lowestFree (here.flatMap (·.accs)) h.accs 32
  let bars := ((g, h.gbars) :: gangBarsOn seats (c / 8)).dedup
  if (here.map (·.header.tiles)).sum + h.tiles ≤ 128 && (here.map (·.header.bars)).sum + h.bars ≤ 128
      && (bars.map (·.2)).sum ≤ 64 then
    pure { cluster := c, gang := g, header := h, ctxs := ctxs, waves := slots.zip phys, spad := unit, accs := accs,
           fresh := true }
  else none

/-! ### Heat, refresh charge and floors (R352, R353); powers in milliwatts -/

def heatPower (h : Nat) : Nat := 3250 * (h + 1)

/-- dp(c) of a cluster with these seats: those the attempt places there, and the placements of the last 2 ms. -/
def State.heatRise (s : State) (seats : List Seat) (c : Nat) : Nat :=
  let now_ := ((seats.filter fun x => x.cluster == c && x.fresh).map fun x => heatPower x.header.heat).sum
  let past := (((s.cluster c).placed.filter fun p => s.dev.time - p.1 < 2000000).map fun p => heatPower p.2).sum
  min (52000 - (s.cluster c).pest) (now_ + past)

/-- A cluster takes a placement of a heat class. -/
def notePlaced (c heat : Nat) : Act Unit := do
  let t := (← now).dev.time
  modCluster c fun x => { x with placed := (t, heat) :: x.placed.filter fun p => t - p.1 < 2000000 }

/-- k(c, v) for a cluster and a vault of its die: the row of the cluster's number, which firmware rewrites for a spare (R26, R399). -/
def State.coupling (s : State) (c v : Nat) : Dy :=
  if c / 8 ≠ v / 32 then Dy.zero
  else
    (f32.decode ((s.die (c / 8)).coupling.getD (c % 8 * 32 + v % 32) 0).toNat).dy

/-- t_pred(v) in units of 1/4000 of a degree. -/
def State.predicted (s : State) (seats : List Seat) (v : Nat) : Dy :=
  (List.range 8).foldl (fun t i =>
    let c := v / 32 * 8 + i
    t.add ((s.coupling c v).mul (Dy.ofInt (4 * s.heatRise seats c)))) (Dy.ofInt ((s.vault v).temp * 1000))

/-- The prediction is at or above, or above, a temperature in degrees. -/
def Dy.atLeast (t : Dy) (deg : Int) : Bool := 0 ≤ (t.add (Dy.ofInt (-4000 * deg))).m
def Dy.above (t : Dy) (deg : Int) : Bool := 0 < (t.add (Dy.ofInt (-4000 * deg))).m
def Dy.band (t : Dy) : Nat := if t.atLeast 100 then 3 else if t.atLeast 90 then 2 else if t.atLeast 80 then 1 else 0

/-- The bandwidth a band loses, in GB/s of 400 (Table 18.1). -/
def bandLoss : Nat → Nat
  | 0 => 12 | 1 => 24 | 2 => 48 | _ => 96
def Dy.avail (t : Dy) : Nat := if t.above 105 then 0 else 400 - bandLoss t.band

/-- The floors in force on each die: the highest of those of the records (floor, die mask). -/
def floorOn (floors : List (Nat × Nat)) (die : Nat) : Nat :=
  ((floors.filter fun f => bitAt f.2 die).map (·.1)).foldl max 0

/-- The floors of the records that have a workgroup resident. -/
def State.residentFloors (s : State) : List (Nat × Nat) :=
  (s.wgs.filter (·.status.resident)).filterMap fun w => match (s.gang w.gang).origin with
    | .launch l => some ((s.launch l).floor, (s.launch l).floorDies)
    | .batch _ _ _ => none

/-- What the prediction says of a candidate: refused at its lowest-numbered vault below a floor or above 105 degrees
(log entry 49), or its refresh charge in GB/s. -/
inductive Verdict
  | refused (vault avail : Nat)
  | charge (gbs : Nat)
  deriving DecidableEq, Repr

def State.judge (s : State) (floors : List (Nat × Nat)) (seats : List Seat) (c : Nat) : Verdict :=
  let preds := (List.range Config.vaults).map fun v => (v, s.predicted seats v)
  let bad := preds.find? fun p =>
    (s.coupling c p.1).m != 0 && (p.2.above 105 || p.2.avail < floorOn floors (p.1 / 32))
  match bad with
  | some (v, t) => .refused v t.avail
  | none => .charge ((preds.map fun p => bandLoss p.2.band - bandLoss (s.vault p.1).band).sum)

/-! ### One placement attempt (R354) -/

/-- The seats that an attempt assigns, when it assigns every member, and the candidates it refused on floor grounds:
cluster, vault and available bandwidth. -/
structure Trial where
  seats : Option (List Seat)
  refused : List (Nat × Nat × Nat)
  deriving DecidableEq, Repr

/-- The seat with the lowest charge, then the lowest cluster number. -/
def cheapest : List (Seat × Nat) → Option Seat
  | [] => none
  | l => (l.foldl (fun best x => match best with
      | none => some x
      | some b => if x.2 < b.2 || (x.2 == b.2 && x.1.cluster < b.1.cluster) then some x else some b) none).map (·.1)

/-- Assign members in ascending member number, each among its own list of clusters. -/
def assignMembers (judge : List Seat → Nat → Verdict) (h : Header) (g : Nat) : List (List Nat) → List Seat → Trial
  | [], _ => { seats := some [], refused := [] }
  | cs :: rest, seats =>
    let cands := (cs.filterMap fun c => seatIn seats h g c).map fun x => (x, judge (x :: seats) x.cluster)
    let refused := cands.filterMap fun p => match p.2 with
      | .refused v a => some (p.1.cluster, v, a)
      | .charge _ => none
    let open_ := cands.filterMap fun p => match p.2 with
      | .charge n => some (p.1, n)
      | .refused _ _ => none
    match cheapest open_ with
    | none => { seats := none, refused := refused }
    | some x =>
      let t := assignMembers judge h g rest (x :: seats)
      { seats := t.seats.map (x :: ·), refused := refused ++ t.refused }

/-- Try groups of clusters in turn. -/
def tryGroups (place : List Nat → Trial) : List (List Nat) → Trial
  | [] => { seats := none, refused := [] }
  | cs :: rest =>
    let t := place cs
    if t.seats.isSome then t
    else
      let u := tryGroups place rest
      { seats := u.seats, refused := t.refused ++ u.refused }

/-- One gang: a confined one on a single die, from d0; a spanning one on any clusters (R350). `fixed` names the cluster of a member that
has no choice (R357). -/
def placeGang (judge : List Seat → Nat → Verdict) (h : Header) (g size : Nat) (cs : List Nat) (seats : List Seat)
    (fixed : Nat → Option Nat := fun _ => none) : Trial :=
  tryGroups (fun group => assignMembers judge h g ((List.range size).map fun m => match fixed m with
      | some c => group.filter (· == c)
      | none => group) seats)
    (if size ≤ 8 then (List.range Config.dies).map (fun d => cs.filter (· / 8 == d)) else [cs])

/-- Several gangs at once, for a co-resident grid. -/
def placeGangs (judge : List Seat → Nat → Verdict) (h : Header) (size : Nat) (cs : List Nat) :
    List Nat → List Seat → Trial
  | [], _ => { seats := some [], refused := [] }
  | g :: gs, seats =>
    let t := placeGang judge h g size cs seats
    match t.seats with
    | none => t
    | some got =>
      let u := placeGangs judge h size cs gs (got ++ seats)
      { seats := u.seats.map (got ++ ·), refused := t.refused ++ u.refused }

/-- The regulator that a partition's harness entry names (R401). -/
def State.regulatorOf (s : State) (part : Nat) : Nat := bits s.dev.harness.toNat (2 * part + 1) (2 * part)

/-- The clusters offered for work of a partition: a cluster on another regulator is offered only while it is gated
and empty, since the harness then moves it (R397, R401; log entry 50). -/
def State.offered (s : State) (part : Nat) : List Nat :=
  (List.range Config.clusters).filter fun c =>
    let cl := s.cluster c
    let resident := (s.wgs.filter fun w => w.status.resident && w.cluster == c).map fun w => (s.dctx w.ctxid).desc.part
    !cl.lost && !cl.noPlace && !cl.powerGate && !cl.failing && resident.all (s.regulatorOf · == s.regulatorOf part)
      && (cl.reg == s.regulatorOf part || (cl.gated && resident.isEmpty))

/-- Chosen clusters that are gated: the dispatcher wakes them, and they take the placement 20 microseconds later
(R407). The harness moves an idle one to the partition's regulator. Whether none was gated. -/
def wakeClusters (part : Nat) (cs : List Nat) : Act Bool := do
  let s ← now
  let asleep := cs.dedup.filter fun c => (s.cluster c).gated
  each asleep fun c => modCluster c fun cl =>
    { cl with reg := s.regulatorOf part, wakeAt := some (cl.wakeAt.getD (s.dev.time + 20000)) }
  pure asleep.isEmpty

/-! ### Pools (R298) -/

/-- The lowest aligned address of a pool at which `size` bytes are free. -/
def fitPool (used : List (Nat × Nat)) (base bytes align size : Nat) : Option Nat :=
  let up (x : Nat) : Nat := (x + align - 1) / align * align
  let ok (x : Nat) : Bool :=
    base ≤ x && x + size ≤ base + bytes && used.all fun u => u.1 + u.2 ≤ x || x + size ≤ u.1
  (((base :: used.map fun u => u.1 + u.2).map up).filter ok).min?

/-- What is used of a context's pools. -/
structure Pools where
  loft : List Nat
  stack : List Nat
  priv : List (Nat × Nat)
  saved : List (Nat × Nat)
  deriving DecidableEq, Repr

/-- What one workgroup takes from them. -/
structure PoolShare where
  loft : List Nat
  stack : List Nat
  priv : List Nat
  saveAt : Nat
  deriving DecidableEq, Repr

/-- Bytes of a wave's backing area (R298), and of a wave block (Table 15.7). -/
def backingBytes (d : Descriptor) (h : Header) : Nat := 64 * (h.lp + 512 * d.spill)
def waveBlockBytes (w : Nat) : Nat := 0x2000 + 256 * w
/-- The offsets A and S of a save area, and its size (Table 15.7). -/
def Header.accOffset (h : Header) : Nat := (0x5000 + (h.waveWidths.map waveBlockBytes).sum + 4095) / 4096 * 4096
def Header.spadOffset (h : Header) : Nat := h.accOffset + 65536 * h.accs
def Header.saveBytes (h : Header) : Nat := h.spadOffset + 4096 * h.units
/-- The offset of a wave's block. -/
def Header.waveOffset (h : Header) (i : Nat) : Nat := 0x5000 + ((h.waveWidths.take i).map waveBlockBytes).sum

/-- One backing area for each wave. -/
def takePrivate (d : Descriptor) (size : Nat) : Nat → List (Nat × Nat) → Option (List Nat × List (Nat × Nat))
  | 0, used => some ([], used)
  | n + 1, used => do
    let a ← fitPool used d.privBase d.privBytes 256 size
    let r ← takePrivate d size n ((a, size) :: used)
    pure (a :: r.1, r.2)

/-- The areas of one workgroup, each the lowest that is free (log entry 51). -/
def takePools (d : Descriptor) (h : Header) (p : Pools) : Option (PoolShare × Pools) := do
  let loft ← lowestFree p.loft h.roles.length d.loftSlots
  let stack ← if d.stackBytes = 0 then some [] else lowestFree p.stack h.roles.length d.stackSlots
  let priv ← takePrivate d (backingBytes d h) h.waveWidths.length p.priv
  let at_ ← fitPool p.saved d.saveBase d.saveBytes 4096 h.saveBytes
  pure ({ loft := loft, stack := stack, priv := priv.1, saveAt := at_ },
        { loft := loft ++ p.loft, stack := stack ++ p.stack, priv := priv.2, saved := (at_, h.saveBytes) :: p.saved })

/-- The areas of n workgroups. -/
def takeAllPools (d : Descriptor) (h : Header) : Nat → Pools → Option (List PoolShare × Pools)
  | 0, p => some ([], p)
  | n + 1, p => do
    let x ← takePools d h p
    let r ← takeAllPools d h n x.2
    pure (x.1 :: r.1, r.2)

def DevCtx.pools (d : DevCtx) : Pools := { loft := d.loftUsed, stack := d.stackUsed, priv := d.privUsed, saved := d.saveUsed }

/-! ### The kernel header (R331, R332) and validation (R316) -/

def roleOf (b : List Byte) : RoleEntry :=
  { entry := field b 0 4, width := field b 4 2, waves := field b 6 1, rights := BitVec.ofNat 3 (field b 7 1) }
def roleOk (b : List Byte) (extent : Nat) : Bool :=
  let r := roleOf b
  r.entry % 4 == 0 && 0x40 ≤ r.entry && r.entry < extent && (r.waves == 0 || (r.width % 32 == 0 && 32 ≤ r.width && r.width ≤ 768))
    && r.waves ≤ 16 && field b 7 1 < 8

/-- The header in 64 bytes at `addr`; none when it is malformed. -/
def parseHeader (b : List Byte) (addr : Nat) : Option Header :=
  let flags := field b 7 1
  let extent := field b 8 4
  let n := field b 0x1B 1
  let entry (i : Nat) : List Byte := (b.drop (0x20 + 8 * i)).take 8
  let roles := (List.range n).map fun i => roleOf (entry i)
  let width := match bits flags 2 1 with
    | 1 => 16
    | 2 => 32
    | _ => 64
  let ok := addr % 64 == 0 && field b 0 4 == 0x484B4250 && field b 4 2 == 1 && field b 6 1 < 2
    && !bitAt flags 0 && flags / 32 == 0 && (!bitAt flags 4 || bitAt flags 3)
    && extent % 4 == 0 && 0x44 ≤ extent && extent ≤ 0x100_0000 && addr + extent ≤ 2 ^ 49
    && field b 0xC 4 % 256 == 0 && field b 0xC 4 ≤ 2 ^ 22
    && field b 0x10 1 ≤ 8 && field b 0x11 1 ≤ 16 && field b 0x12 1 ≤ 16 && field b 0x13 1 ≤ 8
    && (bitAt flags 3 || field b 0x13 1 == 0)
    && field b 0x14 4 % 4 == 0 && field b 0x14 4 ≤ 0xFFFF_0000 && field b 0x18 2 < 16 && field b 0x1A 1 < 16
    && 1 ≤ n && n ≤ 4 && field b 0x1C 4 == 0
    && (List.range 4).all (fun i => if i < n then roleOk (entry i) extent else leNat (entry i) == 0)
    && field b 0x20 4 == 0x40 && (roles.map (·.waves)).sum ≤ 16
  if ok then
    some { addr := addr, compat := field b 6 1 == 1, sw := width, gangReq := bitAt flags 3, multicast := bitAt flags 4,
           extent := extent, spad := field b 0xC 4, accs := field b 0x10 1, tiles := field b 0x11 1,
           bars := field b 0x12 1, gbars := field b 0x13 1, lp := field b 0x14 4,
           traps := BitVec.ofNat 4 (field b 0x18 2), heat := field b 0x1A 1, roles := roles }
  else none

/-- The dispatcher reads the whole header once (R333). -/
def State.readHeader (s : State) (ctxid addr : Nat) : Option Header :=
  if addr + 64 ≤ 2 ^ 48 then parseHeader (s.coreRead ctxid addr 64) addr else none

/-- The context admits the header's level and trap enables (R299). -/
def Descriptor.permits (d : Descriptor) (h : Header) : Bool :=
  d.compats.getLsbD (b2n h.compat) && (h.traps &&& ~~~ d.traps) == 0

/-- `count` gangs of a size fit together on a device that holds nothing. -/
def State.fitsIdle (s : State) (h : Header) (size count : Nat) : Bool :=
  (placeGangs (fun _ _ => .charge 0) h size ((List.range Config.clusters).filter fun c => !(s.cluster c).lost)
    (List.range count) []).seats.isSome

/-- The launch that a valid record stands for (R315, R316; log entry 52 for the ranges). -/
def State.validate (s : State) (ctxid : Nat) (q : Queue) (b : List Byte) : Option Launch := do
  let d := (s.dctx ctxid).desc
  let h ← s.readHeader ctxid (field b 0 8)
  let grid := field b 8 4 * field b 0xC 4 * field b 0x10 4
  let size := field b 0x14 1
  let flags := field b 0x16 2
  let isTask := bitAt flags 1
  let ok := d.permits h && 1 ≤ grid && 1 ≤ size && size ≤ 32 && grid % size == 0
    && (h.gangReq || size == 1)
    && field b 0x15 1 < 4 && flags < 4 && field b 0x28 2 ≤ 400 && field b 0x2A 1 < 16 && field b 0x2B 1 == 0
    && (if isTask then field b 0x2C 4 ≤ 65535 && field b 0x30 4 < 1024 else field b 0x2C 8 == 0)
    && field b 0x34 12 == 0 && field b 0x20 8 % 8 == 0
  if ok && s.fitsIdle h size (if bitAt flags 0 then grid / size else 1) then
    let own := field b 0x28 2 != 0
    pure { ctxid := ctxid, queue := q.num, header := h, grid := grid, size := size, prio := field b 0x15 1,
           coresident := bitAt flags 0, arg := BitVec.ofNat 64 (field b 0x18 8), signal := field b 0x20 8,
           floor := if own then field b 0x28 2 else q.floor, floorDies := if own then field b 0x2A 1 else q.floorDies,
           nextGang := 0, retired := 0, status := 1,
           grbars := List.replicate 4 { phases := 0, arrived := 0, perPhase := grid * h.roles.length } }
  else none

/-- What happens before the retirement of these workgroups: their agents' writes, and all that these know. -/
def Visibility.ofWorkgroups (v : Visibility) (wgs : List Nat) : List Nat :=
  (v.writes.filter fun w => (w.agent :: w.seen.map (·.1)).any fun x => !x.apart && wgs.contains x.wg).map (·.id)

/-- A completion signal is written (R316): a 64-bit store of a record's status, a release at system scope that publishes what these
workgroups have done; then the vector of its queue fires (R413). -/
def writeSignal (ctxid queue signal status : Nat) (wgs : List Nat) : Act Unit := do
  if signal = 0 || signal % 8 ≠ 0 then pure ()
  else
    let s ← now
    match s.superLocs 0 ctxid signal 8 .store false with
    | .ok locs =>
      usePages 0 ctxid [signal] .store
      writeUnder { agent := .core, path := pathScl, family := .core } { release := some (.system, s.vis.ofWorkgroups wgs) } []
        (locs.zip (leBytes 8 status))
    | .error _ => pure ()
    match (s.dctx ctxid).queue queue with
    | some q => match q.vector with
      | some v => fireVector (s.dctx ctxid).desc.part v
      | none => pure ()
    | none => pure ()

/-- The signal cannot be written now (R25). -/
def State.signalHeld (s : State) (ctxid signal : Nat) : Bool := signal != 0 && signal % 8 == 0 && s.superHeld 0 ctxid signal 8 .store

/-! ### Granting a gang its clusters -/

/-- Seat a wave or context slot for a workgroup; WORKGROUP_START and the restore fill it. -/
def reserve (g : Nat) (x : Seat) : Act Unit := do
  each (x.waves.zip x.header.waveWidths) fun p =>
    setWave (x.cluster * 32 + p.1.1) { Wave.free with wg := g, phys := p.1.2, width := p.2 }
  each x.ctxs fun i => setCtx (x.cluster * 16 + i) { Context.free with wg := g }

/-- The workgroup of a member at placement. -/
def newWorkgroup (ctxid gang member wgid : Nat) (h : Header) (arg : Word) (x : Seat) (p : PoolShare) : Workgroup :=
  { Workgroup.blank with
    status := .starting, ctxid := ctxid, gang := gang, member := member, wgid := wgid, header := h, cluster := x.cluster
    ctxs := x.ctxs.map (x.cluster * 16 + ·), waves := x.waves.map (fun v => x.cluster * 32 + v.1)
    spad := 4096 * x.spad, accs := x.accs, arg := arg, saveAt := p.saveAt, loftIx := p.loft, privAt := p.priv
    stackIx := p.stack }

/-- Create one gang of `size` members from its seats (R345). -/
def createGang (origin : Origin) (ctxid size firstWgid : Nat) (h : Header) (arg : Word) (stamps : List Stamp)
    (rels : List Release) (seats : List Seat) (shares : List PoolShare) : Act Unit := do
  let s ← now
  let g := s.gangs.length
  let w0 := s.wgs.length
  emit (.addGang
    { origin := origin, size := size, wgs := (List.range size).map (w0 + ·)
      gbars := List.replicate 8 { phases := 0, arrived := 0, perPhase := size * h.roles.length }
      trigger := none, waits := false, discarded := false, placedAt := s.dev.time, paused := false, progress := 0
      stamps := stamps, rels := rels, read := [] })
  each ((List.range size).zip (seats.zip shares)) fun p => do
    emit (.addWg (newWorkgroup ctxid g p.1 (firstWgid + p.1) h arg p.2.1 p.2.2))
    reserve (w0 + p.1) p.2.1
    notePlaced p.2.1.cluster h.heat

/-- Create `n` gangs one after another. -/
def createGangs (origin : Origin) (ctxid size firstWgid : Nat) (h : Header) (arg : Word) (stamps : List Stamp) (rels : List Release) :
    Nat → List Seat → List PoolShare → Act Unit
  | 0, _, _ => pure ()
  | n + 1, seats, shares => do
    createGang origin ctxid size firstWgid h arg stamps rels (seats.take size) (shares.take size)
    createGangs origin ctxid size (firstWgid + size) h arg stamps rels n (seats.drop size) (shares.drop size)

/-- The refusals of an attempt, as a queue keeps them (R318, R324, R354). `reason` is none when it placed the gang or
only waits for a cluster to wake. -/
def Queue.refuse (q : Queue) (refused : List (Nat × Nat × Nat)) (reason : Option Nat) : Queue :=
  match refused.map (·.1) |>.min? with
  | some c => match refused.find? (·.1 == c) with
    | some (_, v, a) =>
      { q with reason := 2, reasonVault := v, reasonAvail := a, refusals := q.refusals + refused.length }
    | none => q
  | none => match reason with
    | some r => { q with reason := r, reasonVault := 0, reasonAvail := 0, refusals := q.refusals + 1 }
    | none => q

/-- Try to place `n` gangs at once for a context; whether it did. -/
def attempt (origin : Origin) (ctxid size n firstWgid : Nat) (h : Header) (arg : Word) (floors : List (Nat × Nat))
    (queue : Option Nat) (failReason : Nat) (stamps : List Stamp) (rels : List Release) : Act Bool := do
  let s ← now
  let d := s.dctx ctxid
  let refuse (l : List (Nat × Nat × Nat)) (r : Option Nat) : Act Unit := match queue with
    | some q => modQueue ctxid q fun x => x.refuse l r
    | none => pure ()
  let t := placeGangs (s.judge (floors ++ s.residentFloors)) h size (s.offered d.desc.part)
    ((List.range n).map (s.gangs.length + ·)) s.seats
  match takeAllPools d.desc h (size * n) d.pools, t.seats with
  | none, _ => do
    refuse t.refused (some 3)
    pure false
  | some _, none => do
    refuse t.refused (some failReason)
    pure false
  | some (shares, p), some seats => do
    refuse t.refused none
    let awake ← wakeClusters d.desc.part (seats.map (·.cluster))
    if !awake then pure false
    else
      modDctx ctxid fun d => { d with loftUsed := p.loft, stackUsed := p.stack, privUsed := p.priv, saveUsed := p.saved }
      createGangs origin ctxid size firstWgid h arg stamps rels n seats shares
      pure true

/-- Place the next gang of launch l, or all of a co-resident grid (R317, R354). -/
def placeLaunch (l : Nat) (stamps : List Stamp) (rels : List Release) : Act Bool := do
  let r := (← now).launch l
  let n := if r.coresident then r.grid / max r.size 1 else 1
  let ok ← attempt (.launch l) r.ctxid r.size n (r.nextGang * r.size) r.header r.arg [(r.floor, r.floorDies)]
    (some r.queue) (if r.coresident then 4 else 1) stamps rels
  if ok then modLaunch l fun r => { r with nextGang := r.nextGang + n } else pure ()
  pure ok

/-- Every gang of a launch has been placed. -/
def Launch.placed (r : Launch) : Bool := r.grid ≤ r.nextGang * r.size

/-! ### DISPATCH_SERVE (R317) -/

/-- What ranks in the dispatch order: a queue's ring head, a released task record, or a node's first sealed batch. -/
inductive Head
  | ring (ctxid q : Nat)
  | task (ctxid q i : Nat)
  | batch (ctxid node : Nat)
  deriving DecidableEq, Repr

/-- The place of a head in the rotation; nodes stand after the queues of their context. -/
def Head.key : Head → Nat × Nat
  | .ring c q => (c, q)
  | .task c q _ => (c, q)
  | .batch c n => (c, 256 + n)

/-- The heads of a context that can be served, with their priorities and times at the head. -/
def State.headsOf (s : State) (d : DevCtx) : List (Head × Nat × Nat) :=
  let c := d.desc.ctxid
  let qs := d.queues.filter fun q => q.status == .enabled && !q.data
  let rings := qs.filterMap fun q =>
    match q.held with
    | [] => none
    | (_, st) :: _ =>
      if q.current.isSome || s.stampMet st then
        some (Head.ring c q.num, s.headPriority c q, q.headSince)
      else none
  let tasks := qs.flatMap fun q => (List.range q.tasks.length).filterMap fun i =>
    match q.tasks[i]? with
    | some t => if s.stampMet t.stamp then some (Head.task c q.num i, field t.bytes 0x15 1 % 4, t.since) else none
    | none => none
  let batches := d.nodes.filterMap fun n => match n.sealed with
    | b :: _ => if b.stamps.all fun st => s.stampMet (some st) then some (Head.batch c n.handle, n.prio, n.headSince) else none
    | [] => none
  if d.status == .runnable then rings ++ tasks ++ batches else []

/-- The order of service: effective priority, then the rotation after the one served last. -/
def headBefore (time : Nat) (last : Nat × Nat) (x y : Head × Nat × Nat) : Bool :=
  let later (k : Nat × Nat) : Bool := last.1 < k.1 || (last.1 == k.1 && last.2 < k.2)
  let px := effPriority x.2.1 x.2.2 time
  let py := effPriority y.2.1 y.2.2 time
  let kx := x.1.key
  let ky := y.1.key
  if px ≠ py then py < px
  else if later kx != later ky then later kx
  else if kx ≠ ky then kx.1 < ky.1 || (kx.1 == ky.1 && kx.2 < ky.2)
  else x.2.2 ≤ y.2.2

def insertHead (time : Nat) (last : Nat × Nat) (x : Head × Nat × Nat) : List (Head × Nat × Nat) → List (Head × Nat × Nat)
  | [] => [x]
  | y :: ys => if headBefore time last x y then x :: y :: ys else y :: insertHead time last x ys

/-- A head waits for a row that is being copied (R25): its record, the header that it names, or the signal that a failure would write. -/
def State.headHeld (s : State) (h : Head) : Bool :=
  let record (c : Nat) (b : List Byte) : Bool := s.superHeld 0 c (field b 0 8) 64 .load || s.signalHeld c (field b 0x20 8)
  !s.calm && match h with
    | .ring c n => match (s.dctx c).queue n with
      | some q => s.superHeld 0 c (q.slotVa q.headIx) 64 .load || record c (s.coreRead c (q.slotVa q.headIx) 64)
      | none => false
    | .task c n i => match (s.dctx c).queue n with
      | some q => match q.tasks[i]? with
        | some t => record c t.bytes
        | none => false
      | none => false
    | .batch c n => match (s.dctx c).node n with
      | some x => s.superHeld 0 c x.header 64 .load
      | none => false

def State.servable (s : State) : List Head :=
  ((s.devs.flatMap fun d => (s.headsOf d).filter fun x => !s.headHeld x.1).foldl (fun l x => insertHead s.dev.time s.dev.lastServed x l) []).map (·.1)

/-- The launch of a record that is being taken up: its place in `launches`, or none when it fails validation; the
failure writes its status at once (R316). -/
def takeUp (ctxid : Nat) (q : Queue) (bytes : List Byte) : Act (Option Nat) := do
  let s ← now
  match s.validate ctxid q bytes with
  | some r => do
    emit (.addLaunch r)
    pure (some s.launches.length)
  | none => do
    writeSignal ctxid q.num (field bytes 0x20 8) 2 []
    pure none

/-- The head leaves its place: a ring entry, or the i-th released task. -/
def dropHead (ctxid q : Nat) (task : Option Nat) (count : Bool) : Act Unit := do
  let t := (← now).dev.time
  modQueue ctxid q fun x =>
    let x := match task with
      | some i => { x with tasks := x.tasks.eraseIdx i }
      | none => x.popHead t
    if count then x.served else x

/-- Serve a launch record at a head: validate it when it is new, then one attempt for its next gang. Whether the head
has used this service. -/
def serveRecord (ctxid qn : Nat) (task : Option Nat) (q : Queue) (cur : Option Nat) (bytes : List Byte) (stamp : Option Stamp)
    (rels : List Release) : Act Bool := do
  let l ← match cur with
    | some l => pure (some l)
    | none => takeUp ctxid q bytes
  match l with
  | none => do
    dropHead ctxid qn task false
    pure true
  | some l => do
    modQueue ctxid qn fun x => match task with
      | some i => { x with tasks := x.tasks.modify i fun t => { t with launch := some l } }
      | none => { x with current := some l }
    let ok ← placeLaunch l stamp.toList rels
    if ok && ((← now).launch l).placed then dropHead ctxid qn task true else pure ()
    pure ok

/-- The batch of a node becomes one workgroup (R326); a header that fails validation starts none, and its slot frees
(log entry 53). -/
def serveBatch (ctxid h : Nat) : Act Bool := do
  let s ← now
  let d := s.dctx ctxid
  match d.node h with
  | none => pure false
  | some n => match n.sealed with
    | [] => pure false
    | b :: rest =>
      let drop (slotToo : Bool) : Act Unit := modNode ctxid h fun n =>
        { n with sealed := rest, headSince := s.dev.time, slots := if slotToo then n.slots.set b.slot false else n.slots }
      match s.readHeader ctxid n.header with
      | none => do
        drop true
        sealFull ctxid h
        pure true
      | some hd =>
        if !d.desc.permits hd || !s.fitsIdle hd 1 1 then do
          drop true
          sealFull ctxid h
          pure true
        else do
          let ok ← attempt (.batch ctxid h b.slot) ctxid 1 1 0 hd (BitVec.ofNat 64 (n.slotVa b.slot)) [] none 1 b.stamps b.rels
          if ok then drop false else pure ()
          pure ok

/-- Serve one head; whether that was the service. -/
def serveHead (h : Head) : Act Bool := do
  let s ← now
  match h with
  | .ring c qn => match (s.dctx c).queue qn with
    | none => pure false
    | some q =>
      let bytes := s.coreRead c (q.slotVa q.headIx) 64
      let st := match q.held with
        | (_, st) :: _ => st
        | [] => none
      match q.taskCounter bytes, q.current with
      | some n, none => do
        modQueue c qn fun q => (q.popHead s.dev.time).publish n bytes st s.dev.time
        pure true
      | _, cur => serveRecord c qn none q cur bytes st []
  | .task c qn i => match (s.dctx c).queue qn with
    | none => pure false
    | some q => match q.tasks[i]? with
      | none => pure false
      | some t => serveRecord c qn (some i) q t.launch t.bytes t.stamp t.rels
  | .batch c n => serveBatch c n

/-- Try heads in order until one is served (R317). -/
def serveInOrder : List Head → Act Unit
  | [] => pure ()
  | h :: hs => do
    let ok ← serveHead h
    modDevice fun d => { d with lastServed := h.key }
    if ok then pure () else serveInOrder hs

/-- DISPATCH_SERVE (R317, R318). -/
def execDispatchServe (s : State) : Result :=
  event "DISPATCH_SERVE" (fun s => !s.servable.isEmpty) (serveInOrder s.servable) s

end Sys2Proof.Machine
end

