-- ==== Sys2Proof/Machine/Tile.lean ====
section
/-! DEFINITION. Tiles and accumulators (09_tile): tile registers (R233 to R236), the matrix queue and MSEQ (R237 to R240),
MLOOP (R241 to R243), MDRAIN (R245 to R247), and the lane words VPLANE, VSLICE and VSLACC (R244, R248, R250). -/
namespace Sys2Proof.Machine

/-! ### Tile registers (R233, R234) -/

/-- The 64 bits of field f (Table 9.1). -/
def Tile.field (t : Tile) (f : Nat) : Word :=
  match f with
  | 0 => t.base
  | 1 => BitVec.ofNat 64 (t.cols * 256 + t.rows)
  | 2 => BitVec.ofNat 64 t.pitch
  | 3 => BitVec.ofNat 64 (b2n t.sat * 16 + t.fmt)
  | 4 => BitVec.ofNat 64 (t.spitch * 2 ^ 16 + b2n t.rsc * 4 + t.blk)
  | 5 => t.sbase
  | 6 => BitVec.ofNat 64 (b2n t.rnd * 16 + t.planes)
  | _ => BitVec.ofNat 64 t.layout

/-- The register with a field written from 64 bits. -/
def Tile.setField (t : Tile) (f : Nat) (v : Word) : Tile :=
  let x := v.toNat
  match f with
  | 0 => { t with base := v }
  | 1 => { t with rows := bits x 7 0, cols := bits x 15 8 }
  | 2 => { t with pitch := bits x 31 0 }
  | 3 => { t with fmt := bits x 3 0, sat := bitAt x 4 }
  | 4 => { t with blk := bits x 1 0, rsc := bitAt x 2, spitch := bits x 31 16 }
  | 5 => { t with sbase := v }
  | 6 => { t with planes := bits x 3 0, rnd := bitAt x 4 }
  | _ => { t with layout := bits x 1 0 }

/-- The values that TCFG admits (R234). -/
def tileValueOk (f : Nat) (v : Word) : Bool :=
  let x := v.toNat
  let dim (n : Nat) : Bool := 1 ≤ n && n ≤ 128
  match f with
  | 1 => x < 2 ^ 16 && dim (bits x 7 0) && dim (bits x 15 8)
  | 2 => x < 2 ^ 32
  | 3 => x < 2 ^ 5 && bits x 3 0 < 10
  | 4 => x < 2 ^ 32 && bits x 15 3 == 0 && !bitAt x 16
  | 6 => x < 2 ^ 5 && 1 ≤ bits x 3 0 && bits x 3 0 ≤ 8
  | 7 => x < 3
  | _ => true

def Workgroup.tile (w : Workgroup) (n : Nat) : Tile := w.tiles.getD n Tile.start

def execTcfg (f : BitVec 3) (t : BitVec 4) (a : Reg) (s : State) : Result := commit (do
  let k := s.curCtx
  let w := s.wgOf k
  let n := t.toNat
  if w.header.tiles ≤ n || !tileValueOk f.toNat (s.rd a) then illegal (.tcfg f t a)
  else
    setWg (s.ctx k).wg { w with tiles := putAt Tile.start w.tiles n ((w.tile n).setField f.toNat (s.rd a)) }
    finishNone) s

def execTrd (f : BitVec 3) (d : Reg) (t : BitVec 4) (s : State) : Result :=
  let w := s.wgOf s.curCtx
  if w.header.tiles ≤ t.toNat then commit (illegal (.trd f d t)) s
  else writeNext s d ((w.tile t.toNat).field f.toNat)

/-! ### Elements and their addresses (R235, R236) -/

/-- Element size by format code; plane-stacked tiles are addressed by groups. -/
def tileElemBytes (fmt : Nat) : Nat :=
  match fmt with
  | 2 => 2 | 3 => 2 | 8 => 4 | 9 => 4 | _ => 1
/-- What BASE and PITCH must be multiples of. -/
def Tile.unit (t : Tile) : Nat := if t.fmt = 6 then 64 else tileElemBytes t.fmt
def Tile.planar (t : Tile) : Bool := t.fmt == 6
def Tile.scaled (t : Tile) : Bool := t.blk != 0 || t.rsc
/-- The block length L in K-elements. -/
def Tile.blockLen (t : Tile) : Nat := 16 * 2 ^ t.blk

/-- The address of the element with coordinates mu and kappa, in a tile based at `base`; `isA` says that K runs along
the columns. -/
def Tile.elemAddr (t : Tile) (base : Word) (isA : Bool) (mu kappa : Nat) : Word :=
  let es := tileElemBytes t.fmt
  let r := if isA then mu else kappa
  let c := if isA then kappa else mu
  base + BitVec.ofNat 64 (match t.layout with
    | 0 => r * t.pitch + c * es
    | 1 => c * t.pitch + r * es
    | _ => kappa / 8 * t.pitch + mu * 8 * es + kappa % 8 * es)
/-- The 64-byte group of coordinate mu of a plane-stacked tile, and how many of its bytes a step fetches (R89). -/
def Tile.groupAddr (t : Tile) (base : Word) (mu : Nat) : Word := base + BitVec.ofNat 64 (mu * t.pitch)
def Tile.groupBytes (t : Tile) : Nat := 8 * t.planes + (if t.rnd && t.planes < 8 then 8 else 0)

def addrRange (a : Word) (n : Nat) : List Word := (List.range n).map fun i => a + BitVec.ofNat 64 i

/-- The addresses of the elements that a step reads, or that MDRAIN writes. -/
def Tile.dataAddrs (t : Tile) (base : Word) (isA : Bool) (cnt depth : Nat) : List Word :=
  (List.range cnt).flatMap fun mu =>
    if t.planar then addrRange (t.groupAddr base mu) t.groupBytes
    else (List.range depth).flatMap fun kappa => addrRange (t.elemAddr base isA mu kappa) (tileElemBytes t.fmt)

/-- The address of row scale mu, and of the scale of block b for coordinate mu. -/
def Tile.rowScaleAddr (t : Tile) (mu : Nat) : Word := t.sbase + BitVec.ofNat 64 (4 * mu)
def Tile.blockScaleAddr (t : Tile) (mu b : Nat) : Word :=
  t.sbase + BitVec.ofNat 64 ((if t.rsc then 512 else 0) + mu * t.spitch + 2 * b)
/-- The block of K-element kappa in step j. -/
def Tile.block (t : Tile) (kstep j kappa : Nat) : Nat := (j * kstep + kappa) / t.blockLen

/-- The addresses of the scales that step j reads. -/
def Tile.scaleAddrs (t : Tile) (kstep j cnt depth : Nat) : List Word :=
  (if t.rsc then (List.range cnt).flatMap fun mu => addrRange (t.rowScaleAddr mu) 4 else []) ++
    if t.blk = 0 then []
    else (List.range cnt).flatMap fun mu =>
      (((List.range depth).map (t.block kstep j)).dedup).flatMap fun b => addrRange (t.blockScaleAddr mu b) 2

/-! ### Step classes (Table 9.4) -/

/-- The row of Table 9.4 of a pair of formats. -/
def stepRow (fa fb : Nat) : Option Nat :=
  let fp8 (f : Nat) : Bool := f = 0 || f = 1
  let half (f : Nat) : Bool := f = 2 || f = 3
  let int8 (f : Nat) : Bool := f = 4 || f = 5
  if fp8 fa && fp8 fb then some 0
  else if half fa && half fb then some 1
  else if int8 fa && int8 fb then some 2
  else if fa = 6 && int8 fb then some 3
  else if int8 fa && fb = 6 then some 4
  else if fa = 7 && fb = 7 then some 5
  else none

/-- Kstep of a row, and whether its class is integer. -/
def rowShape (row : Nat) : Nat × Bool :=
  match row with
  | 0 => (8, false)
  | 1 => (4, false)
  | 3 | 4 => (64, true)
  | _ => (8, true)
/-- Kstep and whether the class is integer, of a pair of formats. -/
def stepClass (fa fb : Nat) : Option (Nat × Bool) := (stepRow fa fb).map rowShape

/-- The kind of accumulator of an MLOOP: F32 for the floating classes and for any scale. -/
def stepKind (tA tB : Tile) (isInt : Bool) : AccKind := if !isInt || tA.scaled || tB.scaled then .f32 else .i32

def kstepOf (tA tB : Tile) : Nat :=
  match stepClass tA.fmt tB.fmt with
  | some p => p.1
  | none => 0

/-! ### Issue checks (R241, R245) -/

/-- The first misaligned address of a tile's base and pitch. -/
def Tile.misaligned (t : Tile) (base : Word) : Option Word :=
  if base.toNat % t.unit ≠ 0 then some base
  else if t.pitch % t.unit ≠ 0 then some (base + BitVec.ofNat 64 t.pitch)
  else none
/-- SBASE must be a multiple of 4, whether or not a scale is named (R236, R241). -/
def Tile.scaleMisaligned (t : Tile) : Option Word := if t.sbase.toNat % 4 ≠ 0 then some t.sbase else none

/-- The base of step j. -/
def stepBase (t : Tile) (inc : BitVec 32) (j : Nat) : Word := t.base + BitVec.ofNat 64 j * inc.signExtend 64

/-- MLOOP's check 7: a base that is aligned at step 0 and misaligned later is misaligned at step 1. -/
def mloopMisaligned (tA tB : Tile) (m : MloopArgs) : Option Word :=
  let later (t : Tile) (inc : BitVec 32) : Option Word :=
    if 1 < m.steps.toNat then t.misaligned (stepBase t inc 1) else none
  [tA.misaligned tA.base, tB.misaligned tB.base, tA.scaleMisaligned, tB.scaleMisaligned, later tA m.incA,
    later tB m.incB].findSome? id

/-- The location of a byte in a scratchpad aperture; a global address has none here. -/
def State.tileLoc (s : State) (w : Workgroup) (a : Word) : Option Nat :=
  match s.place w false a.toNat 1 with
  | some (.at l) => some l
  | _ => none

/-- Why the byte at an address refuses a command of a workgroup: kind 0 decode, 3 boundary table. -/
def State.tileRefusal (s : State) (w : Workgroup) (need : Need) (a : Word) : Option Nat :=
  match s.tileLoc w a with
  | none => some 0
  | some l => if s.admits (s.dctx w.ctxid).desc.part w.ctxid need l l 1 then none else some 3

/-- The lowest refused address of a list, with its kind. -/
def State.lowestRefused (s : State) (w : Workgroup) (need : Need) (addrs : List Word) : Option (Word × Nat) :=
  addrs.foldl (fun best a =>
    match s.tileRefusal w need a with
    | none => best
    | some kind => match best with
      | some b => if a.toNat < b.1.toNat then some (a, kind) else best
      | none => some (a, kind)) none

/-- The addresses that step j of an MLOOP reads. -/
def stepAddrs (tA tB : Tile) (baseA baseB : Word) (j : Nat) : List Word :=
  let ks := kstepOf tA tB
  tA.dataAddrs baseA true tA.rows tA.cols ++ tB.dataAddrs baseB false tB.cols tA.cols
    ++ tA.scaleAddrs ks j tA.rows tA.cols ++ tB.scaleAddrs ks j tB.cols tA.cols

/-- Checks 3 to 6 of MLOOP: the operands are legal. -/
def mloopLegal (w : Workgroup) (m : MloopArgs) : Bool :=
  let tA := w.tile m.tA.toNat
  let tB := w.tile m.tB.toNat
  if w.header.accs ≤ m.acc.toNat || w.header.tiles ≤ m.tA.toNat || w.header.tiles ≤ m.tB.toNat then false
  else if tA.rows = 0 || tA.cols = 0 || tB.rows = 0 || tB.cols = 0 || tA.cols != tB.rows then false
  else
    match stepClass tA.fmt tB.fmt with
    | none => false
    | some (ks, isInt) =>
      let kind := w.kinds.getD m.acc.toNat .none
      tA.cols ≤ ks && !(tA.planar && tA.layout != 0) && !(tB.planar && tB.layout != 1)
        && !(tA.fmt == 7 && (tA.scaled || tB.scaled))
        && (m.clear || kind == .none || kind == stepKind tA tB isInt)

/-- A command enters its workgroup's queue with the next number (R239), behind the accesses of its context, and with acquire behind the
fence of R271. -/
def enqueue (op : MatrixOp) (left : Nat) (tA tB : Tile) (scale : W32) (accIx : Nat) (kind : AccKind) (acquire : Option Scope) :
    Act Unit := do
  let s ← now
  let c := s.ctx s.curCtx
  let w := s.wg c.wg
  setVis (s.issueEdge s.curCtx (.matrix c.wg (w.mseq + 1).toNat) pathTl acquire)
  setWg c.wg { w with
    mseq := w.mseq + 1, kinds := putAt .none w.kinds accIx kind
    mqueue := w.mqueue ++ [{ op := op, num := w.mseq + 1, left := left, done := 0, started := false, tA := tA, tB := tB,
                             scale := scale, compat := c.compat, kind := kind, role := c.role,
                             handler := c.mode == .handler, pc := c.pc }] }

/-- Why a matrix command that passed its checks cannot enter the queue yet (R238, R271, R358). -/
def State.matrixWait (s : State) (k : Nat) (acquire : Bool) : Option StallReason :=
  match s.commandWait k acquire with
  | some why => some why
  | none => if 4 ≤ (s.wgOf k).mqueue.length then some .matrix else none

/-- MLOOP (R241). -/
def execMloop (m : MloopArgs) (s : State) : Result := commit (do
  let k := s.curCtx
  let c := s.ctx k
  let w := s.wg c.wg
  let tA := w.tile m.tA.toNat
  let tB := w.tile m.tB.toNat
  if !c.hasRight 1 then trapNow (rightsRecord 1)
  else if !mloopLegal w m then illegal (.mloop m)
  else
    match mloopMisaligned tA tB m with
    | some a => trapNow (accessRecord 8 a 4)
    | none =>
      match (List.range m.steps.toNat).findSome? fun j =>
          s.lowestRefused w ⟨true, false⟩ (stepAddrs tA tB (stepBase tA m.incA j) (stepBase tB m.incB j) j) with
      | some (a, kind) => trapNow (accessRecord 7 a kind)
      | none =>
        match s.matrixWait k m.acquire with
        | some why => stallCur why
        | none =>
          let isInt := match stepClass tA.fmt tB.fmt with
            | some p => p.2
            | none => false
          enqueue (.mloop m) m.steps.toNat tA tB 0 m.acc.toNat (stepKind tA tB isInt)
            (if m.acquire then some m.scope else none)
          finishNone 16) s

/-- What MDRAIN asks of tD (R245 checks 3 and 4). -/
def mdrainLegal (w : Workgroup) (m : MdrainArgs) : Bool :=
  let t := w.tile m.tD.toNat
  !(w.header.accs ≤ m.acc.toNat || w.header.tiles ≤ m.tD.toNat)
    && t.rows != 0 && t.cols != 0 && !t.scaled && t.fmt != 6 && t.fmt != 7 && t.layout != 2

def drainNeed (m : MdrainArgs) : Need := ⟨m.addOn, true⟩

/-- MDRAIN (R245); s0 gives a scale of 1.0. DESIGN CHOICE (log entry 116): the alignment check covers BASE and PITCH, and not SBASE, which an
MDRAIN does not use. -/
def execMdrain (m : MdrainArgs) (s : State) : Result := commit (do
  let k := s.curCtx
  let c := s.ctx k
  let w := s.wg c.wg
  let t := w.tile m.tD.toNat
  if !c.hasRight 1 then trapNow (rightsRecord 1)
  else if !mdrainLegal w m then illegal (.mdrain m)
  else
    match t.misaligned t.base with
    | some a => trapNow (accessRecord 8 a 4)
    | none =>
      match s.lowestRefused w (drainNeed m) (t.dataAddrs t.base true t.rows t.cols) with
      | some (a, kind) => trapNow (accessRecord 7 a kind)
      | none =>
        match s.matrixWait k false with
        | some why => stallCur why
        | none =>
          enqueue (.mdrain m) 0 t t (if m.scale == 0 then 0x3F800000 else (s.rd m.scale).truncate 32) m.acc.toNat
            (w.kinds.getD m.acc.toNat .none) none
          finishNone 16) s

/-- MCLR (R240). -/
def execMclr (acc : BitVec 3) (s : State) : Result := commit (do
  let k := s.curCtx
  let c := s.ctx k
  let w := s.wg c.wg
  if !c.hasRight 1 then trapNow (rightsRecord 1)
  else if w.header.accs ≤ acc.toNat then illegal (.mclr acc)
  else
    match s.matrixWait k false with
    | some why => stallCur why
    | none =>
      enqueue (.mclr acc.toNat) 0 Tile.start Tile.start 0 acc.toNat .none none
      finishNone) s

/-- What a wait for the commands up to number n of a workgroup orders (R266, R272). -/
def State.mwaitEdge (s : State) (x : MemAgent) (g n : Nat) : Visibility :=
  let done : MemAgent → Option MemAgent
    | .matrix w m => if w == g && m ≤ n then some (.matrix w m) else none
    | _ => none
  (((s.vis.writes.flatMap fun w => w.agent :: w.seen.map (·.1)) ++ s.vis.done.map (·.agent)).filterMap done).dedup.foldl
    (fun v cmd => { s with vis := v }.completionEdge cmd x true) s.vis

/-- MWAIT (R239). -/
def execMwait (a : Reg) (s : State) : Result := commit (do
  let v := (s.rd a).toInt
  if v ≤ (s.wgOf s.curCtx).mdone.toNat then
    setVis (s.mwaitEdge (s.ctxAgent s.curCtx) (s.ctx s.curCtx).wg v.toNat)
    finishNone
  else stallCur .matrix) s

/-! ### The engine (R238, R242, R243, R246) -/

/-- Physical accumulator a of a cluster: its first element's key; element (i, c) stands 128 i + c further. -/
def accKey (cluster a i c : Nat) : Nat := cluster * 2 ^ 19 + a * 2 ^ 14 + 128 * i + c
def Workgroup.accKey (w : Workgroup) (n i c : Nat) : Nat := Machine.accKey w.cluster (w.accs.getD n 0) i c

def MatrixOp.acc : MatrixOp → Nat
  | .mloop m => m.acc.toNat
  | .mdrain m => m.acc.toNat
  | .mclr n => n

/-- The addresses the head command reads or writes in its next grant. -/
def MatrixCmd.addrs (q : MatrixCmd) : List Word :=
  match q.op with
  | .mloop _ => stepAddrs q.tA q.tB q.tA.base q.tB.base q.done
  | .mdrain _ => q.tA.dataAddrs q.tA.base true q.tA.rows q.tA.cols
  | .mclr _ => []

/-- The command as an agent of the memory model (R252). -/
def MatrixCmd.agent (q : MatrixCmd) (g : Nat) : MemAgent := .matrix g q.num.toNat
/-- The command on the tile path (R128). -/
def MatrixCmd.actor (q : MatrixCmd) (g : Nat) : Actor :=
  { agent := q.agent g, path := pathTl, family := .role g q.role, handler := q.handler }

/-- A list in parts of n. -/
def chunks {α : Type} (n : Nat) (l : List α) : List (List α) :=
  (List.range ((l.length + n - 1) / max n 1)).map fun i => (l.drop (i * n)).take n

/-- The elements of a step and its scales, each read as one unit, a plane-stacked group 8 bytes at a time (R254). -/
def MatrixCmd.reads (q : MatrixCmd) : List (List Word) :=
  let ks := kstepOf q.tA q.tB
  let unit (t : Tile) : Nat := if t.planar then 8 else tileElemBytes t.fmt
  let scales (t : Tile) (cnt : Nat) : List (List Word) :=
    chunks 4 ({ t with blk := 0 }.scaleAddrs ks q.done cnt q.tA.cols) ++ chunks 2 ((t.scaleAddrs ks q.done cnt q.tA.cols).drop
      (if t.rsc then 4 * cnt else 0))
  chunks (unit q.tA) (q.tA.dataAddrs q.tA.base true q.tA.rows q.tA.cols)
    ++ chunks (unit q.tB) (q.tB.dataAddrs q.tB.base false q.tB.cols q.tA.cols)
    ++ scales q.tA q.tA.rows ++ scales q.tB q.tB.cols

def State.tileLocs (s : State) (w : Workgroup) (l : List Word) : List Nat := l.filterMap (s.tileLoc w)

/-- The head command of a workgroup can take a grant: it waits at a landing region only (R238, R284). A workgroup
that is being saved takes none (R358). -/
def State.matrixReady (s : State) (g : Nat) : Bool :=
  let w := s.wg g
  w.status == .running && !(s.cluster w.cluster).gated && (s.reg (s.cluster w.cluster).reg).paused.isNone &&
  match w.mqueue with
  | [] => false
  | q :: _ => s.landing (s.tileLocs w q.addrs) != .held && !s.held (s.tileLocs w q.addrs)

/-- The workgroup that the engine of a cluster grants next: the rotation starts after the one granted last (R238). -/
def State.matrixGrant (s : State) (cluster : Nat) : Option Nat :=
  let ready := (List.range s.wgs.length).filter fun g => (s.wg g).cluster == cluster && s.matrixReady g
  match ready.find? ((s.cluster cluster).lastWg < ·) with
  | some g => some g
  | none => ready.head?

/-- The head command of the granted workgroup. -/
def State.matrixHead (s : State) (g : Nat) : Option MatrixCmd :=
  if s.matrixGrant (s.wg g).cluster == some g then (s.wg g).mqueue.head? else none

/-- The scope of a command's release, when it has one. -/
def MatrixCmd.release (q : MatrixCmd) : Option Scope :=
  match q.op with
  | .mloop m => if m.release then some m.scope else none
  | .mdrain m => if m.release then some m.scope else none
  | .mclr _ => none

/-- The head command has completed (R238, R239), after its release (R272). -/
def completeMatrix (g : Nat) (q : MatrixCmd) : Act Unit := do
  match q.release with
  | some c => setVis ((← now).commandRelease (q.agent g) c)
  | none => pure ()
  modWg g fun w => { w with mqueue := w.mqueue.tail, mdone := q.num }

/-- The head command takes a grant; as it begins, all that the command before it did is visible to it (R238). -/
def grantMatrix (g : Nat) (q : MatrixCmd) : Act Unit := do
  let s ← now
  if q.started then pure () else setVis (s.fullEdge [.matrix g (q.num - 1).toNat] [q.agent g])
  modCluster (s.wg g).cluster fun c => { c with lastWg := g }

/-- A command stops on poison (R243, R293): it completes, and its role is owed the trap with the engine record. -/
def poisonMatrix (g : Nat) (q : MatrixCmd) (op6 cause : Nat) (addr : Word) : Act Unit := do
  completeMatrix g q
  let w := (← now).wg g
  match w.ctxs[q.role]? with
  | some k => oweTrap k none (.of cause addr (BitVec.ofNat 64 (op6 + q.op.acc * 2 ^ 8)) q.pc)
  | none => pure ()

/-- The poison a grant meets: beyond a poisoned watermark, in the bytes it reads, or in the accumulator elements it
reads, which have no address. -/
def State.matrixPoison (s : State) (w : Workgroup) (addrs : List Word) (reads : Bool) (keys : List Nat) :
    Option (Nat × Word) :=
  let at_ (f : Nat → Bool) : Option Word := addrs.find? fun a => match s.tileLoc w a with
    | some l => f l
    | none => false
  match at_ fun l => s.landing [l] == .poisoned with
  | some a => some (12, a)
  | none =>
    match if reads && !(s.badDram.isEmpty && s.badSram.isEmpty) then at_ fun l => s.poisoned [l] else none with
    | some a => some (18, a)
    | none => if !s.badAccs.isEmpty && keys.any s.badAccs.contains then some (18, 0) else none

/-- The value of n bytes at an address. -/
def State.tileRead (s : State) (w : Workgroup) (a : Word) (n : Nat) : Nat :=
  leNat ((addrRange a n).map fun x => match s.tileLoc w x with
    | some l => s.byte l
    | none => 0)

def FVal.ofInt (x : Int) : FVal := .fin (x < 0) x.natAbs 0
/-- The float format of a format code; integers go through binary32's NaN-free values. -/
def tileFmt (fmt : Nat) : Fmt :=
  match fmt with
  | 0 => e4m3 | 1 => e5m2 | 2 => f16 | 3 => bf16 | _ => f32
def tileIsFloat (fmt : Nat) : Bool := fmt < 4 || fmt = 8
/-- The value of an element's bits. -/
def tileVal (fmt raw : Nat) : FVal :=
  if tileIsFloat fmt then (tileFmt fmt).decode raw
  else if fmt = 5 then .ofInt (asInt 8 true raw)
  else if fmt = 9 then .ofInt (asInt 32 false raw)
  else .ofInt (asInt 8 false raw)

/-- A plane-stacked element (R89, R90): the digit of `planes` planes, rounded when the flag asks, times its weight. -/
def planeVal (planes : Nat) (rnd : Bool) (group : Nat) (kappa : Nat) : Int :=
  let bit (q : Nat) : Nat := b2n (bitAt group (64 * q + kappa))
  let u := (List.range planes).foldl (fun n q => 2 * n + bit q) 0
  let d := asInt planes false u
  let d := if rnd && planes < 8 then clampInt planes false (d + bit planes) else d
  d * (2 ^ (8 - planes) : Nat)

/-- The element (mu, kappa) of an operand. -/
def State.operandVal (s : State) (w : Workgroup) (t : Tile) (isA : Bool) (mu kappa : Nat) : FVal :=
  if t.planar then .ofInt (planeVal t.planes t.rnd (s.tileRead w (t.groupAddr t.base mu) t.groupBytes) kappa)
  else tileVal t.fmt (s.tileRead w (t.elemAddr t.base isA mu kappa) (tileElemBytes t.fmt))

/-- The exact product and sum of values; `none` for an invalid one. -/
def FVal.mulX (a b : FVal) : Option FVal :=
  let neg := a.neg != b.neg
  if a.isInf || b.isInf then if a.isZero || b.isZero then none else some (.inf neg)
  else
    let p := a.dy.mul b.dy
    some (.fin neg p.m.natAbs p.e)
def FVal.addX (mode : Rounding) (a b : FVal) : Option FVal :=
  match a, b with
  | .inf n, .inf k => if n == k then some a else none
  | .inf _, _ => some a
  | _, .inf _ => some b
  | _, _ =>
    let d := a.dy.add b.dy
    if d.m = 0 then some (.fin (zeroSign mode (a.neg && b.neg) (!a.neg && !b.neg)) 0 0)
    else some (.fin (d.m < 0) d.m.natAbs d.e)

/-- The NaN that a list of values with their formats gives in binary32 (R242). -/
def firstNan32 (level1 : Bool) (l : List (Fmt × FVal)) : Option Nat :=
  l.findSome? fun p => match p.2 with
    | .nan neg _ frac => some (if level1 then f32.nanFrom p.1 neg frac else f32.nan)
    | _ => none

/-- The scales of one operand: of a row or column, and of a block of it. -/
def State.rowScale (s : State) (w : Workgroup) (t : Tile) (mu : Nat) : Option FVal :=
  if t.rsc then some (f32.decode (s.tileRead w (t.rowScaleAddr mu) 4)) else none
def State.blockScale (s : State) (w : Workgroup) (t : Tile) (mu b : Nat) : Option FVal :=
  if t.blk = 0 then none else some (f16.decode (s.tileRead w (t.blockScaleAddr mu b) 2))

/-- A product with the scales that are named. -/
def scaleBy (x : Option FVal) (l : List (Option FVal)) : Option FVal :=
  l.foldl (fun x sc => match x, sc with
    | some v, some c => v.mulX c
    | _, none => x
    | none, _ => none) x

/-- The float element (i, c) after step j (R92, R242): one rounding of acc + rA rB S. `prods` holds the products'
operands in ascending k with their pair of blocks. -/
def floatElem32 (level1 : Bool) (fa fb : Fmt) (acc : Nat) (prods : List ((Nat × Nat) × FVal × FVal))
    (sA sB : Nat → Option FVal) (rA rB : Option FVal) : Nat :=
  let x := f32.decode acc
  let groups := (prods.map (·.1)).dedup
  let named (f : Fmt) (v : Option FVal) : List (Fmt × FVal) := match v with
    | some v => [(f, v)]
    | none => []
  let order := (f32, x) :: (prods.flatMap fun p => [(fa, p.2.1), (fb, p.2.2)])
    ++ (groups.flatMap fun g => named f16 (sA g.1) ++ named f16 (sB g.2)) ++ named f32 rA ++ named f32 rB
  match firstNan32 level1 order with
  | some n => n
  | none =>
    let add (a b : Option FVal) : Option FVal := match a, b with
      | some a, some b => a.addX .rne b
      | _, _ => none
    let join (l : List (Option FVal)) : Option FVal := match l with
      | [] => some (.fin false 0 0)
      | t :: ts => ts.foldl add t
    let terms := groups.map fun g =>
      scaleBy (join ((prods.filter (·.1 == g)).map fun p => p.2.1.mulX p.2.2)) [sA g.1, sB g.2]
    match add (some x) (scaleBy (join terms) [rA, rB]) with
    | none => f32.nan
    | some (.fin neg m e) => (f32.round .rne neg m e).1
    | some (.inf neg) => f32.sign neg + f32.infinity
    | some (.nan _ _ _) => f32.nan

/-- The integer element after a step (R242, R249). -/
def intElem32 (sat : Bool) (acc : Nat) (prods : List (FVal × FVal)) : Nat :=
  let x := asInt 32 false acc + (prods.map fun p => p.1.dy.m * p.2.dy.m).sum
  wrap 32 (if sat then clampInt 32 false x else x)

/-- The elements of the accumulator after the next step of an MLOOP, by key. -/
def State.stepElems (s : State) (w : Workgroup) (q : MatrixCmd) : List (Nat × W32) :=
  let tA := q.tA
  let tB := q.tB
  let ks := kstepOf tA tB
  let rows := List.range tA.rows
  let cols := List.range tB.cols
  let depth := List.range tA.cols
  let va := rows.map fun i => depth.map fun k => s.operandVal w tA true i k
  let vb := cols.map fun c => depth.map fun k => s.operandVal w tB false c k
  let blk (t : Tile) (k : Nat) : Nat := if t.blk = 0 then 0 else t.block ks q.done k
  (rows.zip va).flatMap fun a => (cols.zip vb).map fun b =>
    let key := w.accKey q.op.acc a.1 b.1
    let old := (sparseGet s.accs key).toNat
    let pairs := a.2.zip b.2
    (key, BitVec.ofNat 32 <|
      if q.kind == .i32 then intElem32 (tA.sat || tA.fmt == 7) old pairs
      else floatElem32 q.compat (tileFmt tA.fmt) (tileFmt tB.fmt) old
        ((depth.zip pairs).map fun p => ((blk tA p.1, blk tB p.1), p.2))
        (s.blockScale w tA a.1) (s.blockScale w tB b.1) (s.rowScale w tA a.1) (s.rowScale w tB b.1))

/-- Elements written by the engine; a written element holds no poison (R28). -/
def writeAccs (l : List (Nat × W32)) : Act Unit := do
  emits (l.map fun p => .acc p.1 p.2)
  let s ← now
  if s.badAccs.isEmpty then pure () else emit (.badAccs (s.badAccs.filter fun k => !(l.any fun p => p.1 == k)))

/-- All elements of an accumulator become zero. -/
def clearAcc (w : Workgroup) (n : Nat) : Act Unit := do
  let lo := w.accKey n 0 0
  emit (.clearAccs lo (lo + 2 ^ 14))
  let s ← now
  if s.badAccs.isEmpty then pure () else emit (.badAccs (s.badAccs.filter fun k => k < lo || lo + 2 ^ 14 ≤ k))

def isMloopHead (s : State) (g : Nat) : Bool :=
  match s.matrixHead g with
  | some q => match q.op with
    | .mloop _ => true
    | _ => false
  | none => false
def isMdrainHead (s : State) (g : Nat) : Bool :=
  match s.matrixHead g with
  | some q => match q.op with
    | .mdrain _ => true
    | _ => false
  | none => false
def isMclrHead (s : State) (g : Nat) : Bool :=
  match s.matrixHead g with
  | some q => match q.op with
    | .mclr _ => true
    | _ => false
  | none => false

/-- The MLOOP at the head after one more step. -/
def MatrixCmd.stepped (q : MatrixCmd) (m : MloopArgs) : MatrixCmd :=
  { q with left := q.left - 1, done := q.done + 1, started := true, tA := { q.tA with base := stepBase q.tA m.incA 1 },
           tB := { q.tB with base := stepBase q.tB m.incB 1 } }

/-- The state as an agent sees it that has read these bytes. -/
def State.seen (s : State) (cells : List (Nat × Byte)) : State :=
  { s with mem := cells.foldl (fun m c => if sparseGet m c.1 == c.2 then m else sparseSet m c.1 c.2) s.mem }

/-- The command reads units of addresses on the tile path (R128); what it sees. -/
def readTile (g : Nat) (q : MatrixCmd) (units : List (List Word)) : Act State := do
  let s ← now
  let locs := units.map (s.tileLocs (s.wg g))
  let r ← readBy (q.actor g) locs
  pure ((← now).seen (locs.flatten.zip r.1.flatten))

/-- MATRIX_STEP (R242, R243): one step of the MLOOP at the head of the granted workgroup. -/
def execMatrixStep (g : Nat) (s : State) : Result :=
  event "MATRIX_STEP" (isMloopHead · g) (do
    match s.matrixHead g with
    | none => pure ()
    | some q =>
      let w := s.wg g
      match q.op with
      | .mloop m =>
        grantMatrix g q
        if m.clear && !q.started then clearAcc w q.op.acc else pure ()
        let t ← now
        let keys := (List.range q.tA.rows).flatMap fun i => (List.range q.tB.cols).map fun c => w.accKey q.op.acc i c
        match t.matrixPoison w q.addrs true keys with
        | some (cause, a) => poisonMatrix g q 1 cause a
        | none =>
          let seen ← readTile g q q.reads
          writeAccs (seen.stepElems w q)
          modCluster w.cluster fun c => c.tally (kindMatrix ((stepRow q.tA.fmt q.tB.fmt).getD 0)) 1
          if q.left ≤ 1 then completeMatrix g q
          else modWg g fun w => { w with mqueue := q.stepped m :: w.mqueue.tail }
      | _ => pure ()) s

/-- What MDRAIN writes for one element (R246, Table 4.8): v is exact, and one conversion rounds it. -/
def drainElem (level1 : Bool) (fmt : Nat) (mode : Rounding) (sat addOn : Bool) (kind : AccKind) (acc : Nat) (scale : W32)
    (old : Nat) : Nat :=
  let x : FVal := match kind with
    | .f32 => f32.decode acc
    | .i32 => .ofInt (asInt 32 false acc)
    | .none => .fin false 0 0
  let c := f32.decode scale.toNat
  let o := tileVal fmt old
  let of_ := tileFmt fmt
  let mode := if !level1 && fmt < 4 then .rz else mode
  let order := [(f32, x), (f32, c)] ++ if addOn then [(of_, o)] else []
  let v : Fmt × FVal :=
    match order.find? fun p => p.2.isNan with
    | some p => p
    | none =>
      let sum := match x.mulX c with
        | some v => if addOn then o.addX mode v else some v
        | none => none
      match sum with
      | some v => (f32, v)
      | none => (f32, .nan false false (2 ^ 22))
  if tileIsFloat fmt then (of_.convert v.1 mode level1 sat v.2).1
  else (Fmt.toInteger mode (if fmt = 9 then 32 else 8) (fmt = 5) v.2).1

/-- The bytes MDRAIN writes at each element's address. -/
def State.drainBytes (s : State) (w : Workgroup) (q : MatrixCmd) (m : MdrainArgs) : List (Nat × Byte) :=
  let t := q.tA
  let n := tileElemBytes t.fmt
  (List.range t.rows).flatMap fun i => (List.range t.cols).flatMap fun c =>
    let a := t.elemAddr t.base true i c
    let acc := (sparseGet s.accs (w.accKey q.op.acc i c)).toNat
    let v := drainElem q.compat t.fmt m.rounding m.saturate m.addOn q.kind acc q.scale
      (if m.addOn then s.tileRead w a n else 0)
    (s.tileLocs w (addrRange a n)).zip (leBytes n v)

/-- Of the bytes written at one place, the last. -/
def lastCells : List (Nat × Byte) → List (Nat × Byte)
  | [] => []
  | c :: r => if r.any (·.1 == c.1) then lastCells r else c :: lastCells r

/-- MDRAIN writes its elements on the tile path, one after another; an add-on-store is one indivisible read and write of the whole tile
(R247): no other write comes between what it has read and what it writes. What the tile overwrites in full is no longer poisoned (R28, log
entry 122). -/
def drainTile (g : Nat) (q : MatrixCmd) (m : MdrainArgs) : Act Unit := do
  let w := (← now).wg g
  if m.addOn then
    modVis fun v => { v with picks := 0 :: v.picks }
    let seen ← readTile g q [q.addrs]
    writeUnder (q.actor g) { rmw := true } [] (lastCells (seen.drainBytes w q m))
  else
    let cells := (← now).drainBytes w q m
    each (chunks (tileElemBytes q.tA.fmt) cells) fun u => writeBy (q.actor g) [u]
    clearPoison (cells.map (·.1))

/-- MDRAIN_EXECUTE (R246, R247): the whole tile in one step. -/
def execMdrainExecute (g : Nat) (s : State) : Result :=
  event "MDRAIN_EXECUTE" (isMdrainHead · g) (do
    match s.matrixHead g with
    | none => pure ()
    | some q =>
      let w := s.wg g
      match q.op with
      | .mdrain m =>
        grantMatrix g q
        let keys := (List.range q.tA.rows).flatMap fun i => (List.range q.tA.cols).map fun c => w.accKey q.op.acc i c
        match s.matrixPoison w q.addrs m.addOn keys with
        | some (cause, a) => poisonMatrix g q 2 cause a
        | none =>
          drainTile g q m
          completeMatrix g q
      | _ => pure ()) s

/-- MCLR_EXECUTE (R240). -/
def execMclrExecute (g : Nat) (s : State) : Result :=
  event "MCLR_EXECUTE" (isMclrHead · g) (do
    match s.matrixHead g with
    | none => pure ()
    | some q =>
      grantMatrix g q
      clearAcc (s.wg g) q.op.acc
      completeMatrix g q) s

/-! ### Lane words -/

/-- VPLANE (R244): bit 7 - q of each of the eight bytes of a. -/
def execVplane (w : LaneWord) (s : State) : Result := laneExec "VPLANE" 0xE4 (fun i =>
  { width := 32
    vals := fun l =>
      let q := i.b .i32 l % 8
      ((List.range 8).map fun b => b2n (bitAt (i.a .i64 l) (8 * b + 7 - q)) * 2 ^ b).sum }) w s

/-- The t-th digit of y in radix 128 (R248). -/
def sliceDigit : Nat → Dy → Int
  | 0, _ => 0
  | n + 1, y =>
    let neg := decide (y.m < 0)
    let k := (roundAt .rne neg y.m.natAbs y.e false (max 0 y.e)).1 * 2 ^ y.e.toNat
    let dig : Int := if neg then -(k : Int) else k
    if n = 0 then dig else sliceDigit n ((y.add (Dy.ofInt (-dig))).mul ⟨128, 0⟩)

/-- VSLICE (R248). A value below 2^-200 has only zero digits among the nine. -/
def sliceRes (a : Nat) (e t : Int) : Nat × Flags :=
  match f64.decode a with
  | .fin neg m x =>
    let top := x + (m.log2 : Int) - e
    if (m ≠ 0 && -1 ≤ top) || t < 1 || 9 < t then (0, flagNV)
    else if m = 0 || top < -200 then (0, 0)
    else (wrap 32 (sliceDigit t.toNat ⟨(if neg then -(m : Int) else m) * 128, x - e⟩), 0)
  | .inf _ => (0, flagNV)
  | .nan _ sig _ => (0, flagNV ||| flagIf sig flagSNC)

def execVslice (w : LaneWord) (s : State) : Result := laneExec "VSLICE" 0xE2 (fun i =>
  let r (l : Nat) : Nat × Flags := sliceRes (i.a .f64 l) (asInt 32 false (i.b .i32 l)) (asInt 32 false (i.c .i32 l))
  { width := 32, vals := fun l => (r l).1, flags := fun l => (r l).2 }) w s

/-- VSLACC (R250): hi in the low 64 bits of the result and lo above. A scale beyond 2^6000 either way acts as that. -/
def slaccRes (level1 init : Bool) (old : Nat) (p e w : Int) : Nat × Flags :=
  let h := f64.decode (old % 2 ^ 64)
  let o := f64.decode (old / 2 ^ 64)
  if !init && anyNan [h, o] then (f64.firstNan level1 [h, o], signalFlags [h, o])
  else if !init && (h.isInf || o.isInf) then
    if h.isInf && o.isInf && h.neg != o.neg then (f64.nan, flagNV)
    else (f64.sign (if h.isInf then h.neg else o.neg) + f64.infinity, 0)
  else
    let term : Dy := ⟨p, max (-6000) (min 6000 (e + w))⟩
    let v := if init then term else (h.dy.add o.dy).add term
    let hi := f64.roundInt .rne v.m v.e
    match f64.decode hi.1 with
    | .inf _ => (hi.1, hi.2)
    | x =>
      let d := v.add x.dy.negate
      let lo := f64.roundInt .rne d.m d.e
      (hi.1 + 2 ^ 64 * lo.1, lo.2)

def execVslacc (w : LaneWord) (s : State) : Result := laneExec "VSLACC" 0xE3 (fun i =>
  let init := bitAt i.mod 0
  let r (l : Nat) : Nat × Flags :=
    slaccRes i.x.compat init (if init then 0 else i.dstRegs 4 l) (asInt 32 false (i.a .i32 l)) (asInt 32 false (i.b .i32 l))
      (asInt 32 false (i.c .i32 l))
  { width := 128, vals := fun l => (r l).1, flags := fun l => (r l).2 }) w s

end Sys2Proof.Machine
end

