-- ==== Sys2Proof/Machine/Start.lean ====
section
/-! DEFINITION. The life of a placed gang (15_group): WORKGROUP_START (R347), retirement and discard (R345, R346, R316,
R308, R435), and the accesses of the spill sequencer to the save area (R361, R435). -/
namespace Sys2Proof.Machine

/-! ### Accesses to the save area (R435) -/

/-- A piece of a save area that lies in one 2 KiB unit: workgroup, virtual address and bytes. -/
structure AreaPiece where
  wg : Nat
  va : Nat
  bytes : List Byte
  spad : Option Nat := none      -- the cluster whose scratchpad it is the image of (R405)
  deriving DecidableEq, Repr

/-- The bytes of a scratchpad's image pass through its cluster (R405). -/
def tallyMoved (spad : Option Nat) (n : Nat) : Act Unit :=
  match spad with
  | some c => modCluster c fun x => x.tally kindSpad n
  | none => pure ()

/-- The location of n bytes inside one 2 KiB unit of a context's space: a supervisor access, checked at the tables with the address
that it carries (R391). -/
def State.areaLoc (s : State) (w : Workgroup) (va n : Nat) (a : Access) : Except XFail Nat :=
  if 2 ^ 48 ≤ va then .error ⟨1, 4⟩
  else
    match s.translateNow w.cluster w.ctxid va a false with
    | .error f => .error f
    | .ok x =>
      match physLoc x.pa with
      | none => .error ⟨4, 0⟩
      | some loc =>
        if s.admits (s.dctx w.ctxid).desc.part w.ctxid a.need loc x.pa n then .ok loc else .error ⟨4, 0⟩

/-- An access to this piece waits for a row that is being copied (R25). -/
def State.areaHeld (s : State) (w : Workgroup) (va n : Nat) (a : Access) : Bool := s.superHeld w.cluster w.ctxid va n a

/-- The hint of the sequencer's traffic (R361): sticky, which a page of policy 1 or 2 does without (R380). -/
def State.stickyHint (s : State) (cluster ctxid va : Nat) (a : Access) : Hint :=
  match s.translateNow cluster ctxid va a false with
  | .ok x => pageHint .sticky x.entry
  | .error _ => .default

/-- The sequencer pauses at an access with a record (R435): source 6 for a save, 7 for a restore. -/
def pauseGang (g w : Nat) (src : Nat) (va : Nat) (f : XFail) (progress : Nat) : Act Unit := do
  let x := (← now).wg w
  let _ ← raiseFault x.ctxid (.save g)
    { source := src, kind := f.recorded, access := if src = 6 then 1 else 0, lvl := f.lvl, va := va, wgid := x.wgid }
  modGang g fun y => { y with paused := true, progress := progress }

/-- Write pieces in order, from piece i on; whether all were written. -/
def writePieces (g : Nat) : Nat → List AreaPiece → Act Bool
  | _, [] => pure true
  | i, p :: rest => do
    let s ← now
    let w := s.wg p.wg
    match s.areaLoc w p.va p.bytes.length .spill with
    | .error f => do
      pauseGang g p.wg 6 p.va f i
      pure false
    | .ok loc => do
      usePages w.cluster w.ctxid [p.va] .spill
      writeLocs (locRange loc p.bytes.length) p.bytes
      tallyMoved p.spad p.bytes.length
      each ((List.range ((p.bytes.length + 127) / 128)).map fun j => loc + 128 * j) fun l =>
        touchL2 l (s.stickyHint w.cluster w.ctxid p.va .spill)
      writePieces g (i + 1) rest

/-- No write that is still to make is held (R25). -/
def State.writesReady (s : State) (g : Nat) (pieces : List AreaPiece) : Bool :=
  s.calm || (pieces.drop (s.gang g).progress).all fun p => !s.areaHeld (s.wg p.wg) p.va p.bytes.length .spill

/-- Go on with the writes that are still to make. -/
def goOnWriting (g : Nat) (pieces : List AreaPiece) : Act Bool := do
  let i := ((← now).gang g).progress
  writePieces g i (pieces.drop i)

/-! ### WORKGROUP_START (R347) -/

/-- The agents of a workgroup: its roles and its waves (R252). -/
def State.agentsOf (s : State) (w : Nat) : List MemAgent :=
  ((List.range (s.wg w).ctxs.length).map (MemAgent.role w ·)) ++ (List.range (s.wg w).waves.length).map (MemAgent.wave w ·)

/-- What the agents of a gang see as they start: what the core has written, which starts them; the counted writes of the producers of its
record (R320); and what its record's releases publish, acquired at device scope (R325, R327). -/
def startEdges (g : Nat) : Act Unit := do
  let s ← now
  let x := s.gang g
  each x.wgs fun w => do
    setVis ((← now).fullEdge [.core] (s.agentsOf w))
    each x.stamps fun st => do setVis ((← now).stampEdge st (s.agentsOf w))
    if x.rels.isEmpty then pure () else setVis ((← now).acquired (.role w 0) .device (s.agentsOf w) x.rels)

/-- Every member of a gang, with the index of its workgroup. -/
def State.members (s : State) (g : Nat) : List (Nat × Workgroup) := (s.gang g).wgs.map fun w => (w, s.wg w)

/-- B_w of the waves of a gang, as they go into the wave blocks of the save areas (R120, R347). -/
def State.startPieces (s : State) (g : Nat) : List AreaPiece :=
  (s.members g).flatMap fun m =>
    (List.range m.2.waves.length).map fun i =>
      { wg := m.1, va := m.2.saveAt + m.2.header.waveOffset i + 0x18, bytes := leBytes 8 (m.2.privAt.getD i 0) }

/-- The table base that s3 holds at role start (R338). -/
def DevCtx.codeBase (d : DevCtx) (h : Nat) : Nat :=
  match d.code.find? fun e => match e with
    | some (b, n, _) => b ≤ h && h < b + n
    | none => false with
  | some (some (_, _, t)) => t
  | _ => 0

/-- The context of a role at its start (R141, R151, R212). -/
def roleContext (w : Workgroup) (wg role : Nat) (d : DevCtx) : Context :=
  let e := w.header.roles.getD role { entry := 0, width := 0, waves := 0, rights := 0 }
  let top := if d.desc.stackBytes = 0 then 0 else d.desc.stackBase + (w.stackIx.getD role 0 + 1) * d.desc.stackBytes
  { Context.free with
    status := .running, ctxid := w.ctxid, wg := wg, role := role, rights := e.rights, nwaves := e.waves, width := e.width
    pc := BitVec.ofNat 64 (w.header.addr + e.entry)
    s := [0, 0, BitVec.ofNat 64 top, BitVec.ofNat 64 (d.codeBase w.header.addr), w.arg] ++ List.replicate 27 0
    xctl := w.header.traps, compat := w.header.compat, em := Emission.start (BitVec.ofNat 64 (2 ^ e.waves - 1))
    loft := BitVec.ofNat 64 (d.desc.loftBase + w.loftIx.getD role 0 * 131072) }

/-- The role of each wave in workgroup wave order, with its index in the role (R348). -/
def Header.waveRoles (h : Header) : List (Nat × Nat) :=
  (List.range h.roles.length).flatMap fun r =>
    (List.range (h.roles.getD r { entry := 0, width := 0, waves := 0, rights := 0 }).waves).map fun j => (r, j)

/-- The instruction caches drop a kernel's lines at its launch (R130). DESIGN CHOICE (log entry 113): those of the clusters on which its
workgroups start or are restored, as each does. -/
def dropKernelLines (cluster ctxid lo hi : Nat) : Act Unit :=
  modCluster cluster fun c =>
    { c with icache := c.icache.filter fun l => !(l.ctxid == ctxid && lo < l.line + 64 && l.line < hi) }

/-- Steps 3 to 6 of R347 for one member. -/
def startMember (g : Nat) : Act Unit := do
  let s ← now
  let w := s.wg g
  let d := s.dctx w.ctxid
  each (List.range w.accs.length) fun n => clearAcc w n
  dropKernelLines w.cluster w.ctxid w.header.addr (w.header.addr + w.header.extent)
  each ((List.range w.ctxs.length).zip w.ctxs) fun p => setCtx p.2 (roleContext w g p.1 d)
  each ((List.range w.waves.length).zip (w.waves.zip w.header.waveRoles)) fun p =>
    modWave p.2.1 fun v =>
      { Wave.free with
        status := .live, owner := w.ctxs.getD p.2.2.1 0, wg := g, wix := p.1, rix := p.2.2.2, phys := v.phys, width := v.width
        bw := BitVec.ofNat 64 (w.privAt.getD p.1 0) }
  modWg g fun w =>
    { w with
      status := .running, bars := List.replicate 16 { phases := 0, arrived := 0, perPhase := w.header.roles.length }
      saveTime := 0 }

/-- A gang that is granted its clusters and whose start is not paused. -/
def State.startReady (s : State) (g : Nat) : Bool :=
  let x := s.gang g
  !x.paused && !x.discarded && !x.wgs.isEmpty && (x.wgs.all fun w => (s.wg w).status == .starting)
    && s.writesReady g (s.startPieces g)

/-- WORKGROUP_START (R347): all roles of a gang start together; a trigger that came meanwhile then pre-empts it. -/
def execWorkgroupStart (g : Nat) (s : State) : Result :=
  event "WORKGROUP_START" (·.startReady g) (do
    let ok ← goOnWriting g (s.startPieces g)
    if !ok then pure ()
    else
      modGang g fun x => { x with progress := 0 }
      each (s.gang g).wgs startMember
      startEdges g
      match (s.gang g).trigger with
      | some t => preempt g t
      | none => pure ()) s

/-! ### Retirement (R345, R346) -/

/-- A wave that is EMPTY with every word retired. -/
def Wave.quiet (w : Wave) : Bool :=
  w.status == .live && w.stream.isEmpty && w.hbuf.isEmpty && w.flight.isEmpty && w.half.isNone

/-- The event of Table 15.1 that ends a workgroup: every role ENDED, every wave DONE, every matrix command and CRED
complete, and every copy PUBLISHED or retired. -/
def State.wgEnded (s : State) (w : Nat) : Bool :=
  let x := s.wg w
  x.status == .running && x.mqueue.isEmpty
    && x.ctxs.all (fun k => (s.ctx k).status == .ended && (s.ctx k).pending.isEmpty && !(s.ctx k).em.seq.busy)
    && x.waves.all (fun v => (s.wave v).quiet)
    && x.marks.all fun m => match m.bound with
      | some b => b.state == .published
      | none => true

/-- Free the units that the words in flight of a wave hold (R14, R16, R175). -/
def releaseFlights (v : Nat) : Act Unit := do
  let s ← now
  let n := ((s.wave v).flight.map (·.slots)).sum
  let free (o : Option Nat) : Option Nat := if o == some v then none else o
  modCluster (waveCluster v) fun c => { c with sfu := free c.sfu, divide := free c.divide, slotsUsed := c.slotsUsed - n }

/-- What a cluster holds for these context slots and waves goes: their loft lines (R227), their turns at the spill sequencer, and their
claims on the fills that are out. -/
def Cluster.forget (c : Cluster) (ctxs waves : List Nat) : Cluster :=
  let gone (k : Option Nat) : Bool := match k with
    | some k => ctxs.contains k
    | none => false
  let drop (f : Fill) : Fill := if gone f.waiter then { f with waiter := none } else f
  { c with
    loft := c.loft.filter (! ctxs.contains ·.ctx), loftFills := c.loftFills.filter (! gone ·.waiter)
    icFills := c.icFills.map drop, dcFills := c.dcFills.map drop
    spillq := c.spillq.filter fun
      | .window v => !waves.contains v
      | .gang _ => true }

/-- A member leaves its cluster: its contexts, waves and allocations are free, and a cluster that holds no workgroup
is idle from now (R407). -/
def leaveCluster (g : Nat) (status : WgStatus) : Act Unit := do
  let s ← now
  let w := s.wg g
  if w.status.resident then
    each w.ctxs fun k => setCtx k Context.free
    each w.waves fun v => do
      releaseFlights v
      setWave v Wave.free
    each (((s.gang w.gang).wgs.map fun m => (s.wg m).cluster).dedup) fun c => modCluster c (·.forget w.ctxs w.waves)
    endSpill w.cluster (.gang w.gang)
  else pure ()
  modWg g fun w => { w with status := status }
  let t ← now
  if t.seats.any (·.cluster == w.cluster) then pure () else modCluster w.cluster fun c => { c with idleSince := t.dev.time }

/-- A member retires: its slots and pools are free, and its watermark registers with its copies retire. -/
def retireMember (g : Nat) : Act Unit := do
  let w := (← now).wg g
  leaveCluster g .retired
  modWg g fun w => { w with marks := List.replicate 16 Watermark.start, mqueue := [], vbars := [], kept := none }
  modDctx w.ctxid fun d =>
    { d with
      loftUsed := d.loftUsed.filter (! w.loftIx.contains ·), stackUsed := d.stackUsed.filter (! w.stackIx.contains ·)
      privUsed := d.privUsed.filter (fun u => !w.privAt.contains u.1), saveUsed := d.saveUsed.filter (·.1 != w.saveAt) }

/-- The workgroups of a launch. -/
def State.workgroupsOf (s : State) (l : Nat) : List Nat := (s.gangs.filter (·.origin == .launch l)).flatMap (·.wgs)

/-- When the last workgroup of a record has retired, its signal is written (R316, R346). -/
def finishLaunch (l : Nat) : Act Unit := do
  let s ← now
  let r := s.launch l
  if r.retired < r.grid then pure ()
  else
    writeSignal r.ctxid r.queue r.signal r.status (s.workgroupsOf l)

/-- A whole gang retires, with the completion status its record then has (Table 13.3). -/
def retireGang (g status : Nat) : Act Unit := do
  let x := (← now).gang g
  each x.wgs retireMember
  modGang g fun x => { x with waits := false, trigger := none, paused := false, discarded := true }
  match x.origin with
  | .launch l =>
    modLaunch l fun r => { r with retired := r.retired + x.size, status := max r.status status }
    finishLaunch l
  | .batch c n slot =>
    modNode c n fun n => { n with slots := n.slots.set slot false }
    sealFull c n

/-- The completion signal that a gang's retirement would write cannot be written now (R25). -/
def State.signalWaits (s : State) (g : Nat) : Bool :=
  match (s.gang g).origin with
  | .launch l => s.signalHeld (s.launch l).ctxid (s.launch l).signal
  | .batch _ _ _ => false

/-- WORKGROUP_RETIRE: every member of the gang is ENDED. -/
def execWorkgroupRetire (g : Nat) (s : State) : Result :=
  event "WORKGROUP_RETIRE" (fun s => !(s.gang g).wgs.isEmpty && (s.gang g).wgs.all s.wgEnded && !s.signalWaits g) (retireGang g 1) s

/-- Drop the unanswered records of a gang's agents. -/
def dropFaults (ctxid g : Nat) : Act Unit := do
  let ws := ((← now).gang g).wgs
  modDctx ctxid fun d => { d with faults := d.faults.filter fun r => r.answer.isSome || match r.source with
    | .lane w _ => !ws.contains w
    | .spill w _ => !ws.contains w
    | .copy w _ => !ws.contains w
    | .save x => x != g }

/-- A gang is discarded (R308, R435): its workgroups retire with status 3. -/
def discardGangWork (g : Nat) : Act Unit := do
  let s ← now
  let ctxid := match (s.gang g).wgs with
    | w :: _ => (s.wg w).ctxid
    | [] => 0
  dropFaults ctxid g
  retireGang g 3

end Sys2Proof.Machine
end

