-- ==== Sys2Proof/Machine/LaneMem.lean ====
section
/-! DEFINITION. The memory lane words (R205 to R209, R113, R131), extension words (R60, R305), and the spills and
reloads of the register window in a wave's stream (R154, R155). -/
namespace Sys2Proof.Machine

/-- Back to where the fault leaves the pair: a first half that has issued issues again (R385). -/
def Wave.unissue (w : Wave) : Wave :=
  match w.half with
  | none => w
  | some f =>
    if f.entry.handler then { w with hbuf := f.entry :: w.hbuf, half := none }
    else { w with stream := .word f.entry :: w.stream, half := none }

/-- A replayable translation fault (R385): the word performs nothing, the wave is FAULTED, a record is posted; the
pages of the lanes that did translate keep their A and D (DEDUCED, log entry 89). -/
def faultWord (i : LaneIn) (a : Access) (lanes : Word) (va : Nat) (f : XFail) : Act Unit := do
  modWave i.v fun w => { (w.unissue) with status := .faulted }
  let x := i.s.wg i.w.wg
  let rp := i.x.replay.getD (0, 0)
  let _ ← raiseFault x.ctxid (.lane i.w.wg i.w.wix)
    { source := 1, kind := f.kind, access := a.code, lvl := f.lvl, role := (i.s.ctx i.w.owner).role, index := i.w.wix,
      va := va, mask := lanes.toNat, ssn := i.x.ssn.toNat, wgid := x.wgid, op := i.op,
      flags := b2n i.x.replay.isSome + 2 * b2n i.x.handler + 4 * rp.1, extra := rp.2 }

/-- What a memory word leaves at its pages and in the L2, each page by its own hint (R127, R379, R381). -/
def settleLanes (i : LaneIn) (write : Bool) (pages : List PageUse) : Act Unit := do
  each ((pages.map fun p => { p.page with pa := p.page.pa / 4096 * 4096 }).dedup) fun x => useXlated i.cluster x write false
  each ((pages.flatMap fun p => p.locs.map fun l => (l / 128 * 128, p.hint)).dedup) fun l => touchL2 l.1 l.2

/-- The wave on the load/store path, for the family of the word's emitter, whose edges the word carries; a counted write has its number
(R319). -/
def LaneIn.actor (i : LaneIn) : Actor :=
  let c := i.s.ctx i.x.emitter
  { agent := i.s.waveAgent i.v, path := pathLs, family := i.s.ctxAgent i.x.emitter, handler := i.x.handler
    num := i.x.counted.getD 0, carries := [.emits c.wg c.role], learns := [.words c.wg c.role i.x.handler] }

/-- A memory word that accesses: poison of its sources, then its plan; `act` performs the accesses and computes. -/
def memExec (name : String) (op : Nat) (act : LaneIn → List (Nat × List Nat) → List PageUse → Act LaneOut)
    (w : LaneWord) (s : State) : Result :=
  laneAct name op (fun i => do
    if i.poisonLanes != 0 then stopped i 18 i.poisonLanes 0
    else
      match i.memPlan with
      | some (.stop cause lanes addr) => stopped i cause lanes addr
      | some (.fault lanes _ va f) => faultWord i ((i.memShape.map (·.2.1)).getD .load) lanes va f
      | some (.ok locs pages) =>
        let o ← act i locs pages
        let r := i.result o
        issued i i.slots r (i.arith o r)
      | _ => pure ()) w s

/-- The value of a lane in a list of lane results. -/
def laneVal (l : List (Nat × Nat)) (lane : Nat) : Nat :=
  match l.find? (·.1 == lane) with
  | some p => p.2
  | none => 0

/-- The extension of a loaded value (R205). -/
def vldExtend (code v : Nat) : Nat :=
  match code with
  | 1 => wrap 32 (asInt 8 false v)
  | 3 => wrap 32 (asInt 16 false v)
  | 7 => v + 2 ^ 16 * v
  | _ => v

/-- The bytes of every lane, 8 at most at a time (R254) and in no order among the lanes (R253), as one number each. -/
def readLanes (i : LaneIn) (n : Nat) (locs : List (Nat × List Nat)) : Act (List (Nat × Nat)) := do
  let r ← readBy i.actor (locs.flatMap fun p => unitsOf p.2)
  let bytes := r.1.flatten
  pure ((List.range locs.length).map fun j => ((locs.getD j (0, [])).1, leNat ((bytes.drop (j * n)).take n)))

/-- VLD (R205): each lane reads a value that R264 lets it return. -/
def execVld (w : LaneWord) (s : State) : Result := memExec "VLD" 0xB0 (fun i locs pages => do
  settleLanes i false pages
  let vals ← readLanes i (sizeBytes (i.mod % 8)) locs
  pure { width := sizeWidth (i.mod % 8), vals := laneVal (vals.map fun p => (p.1, vldExtend (i.mod % 8) p.2)) }) w s

/-- Of the lanes that store to one place, the highest (R131). -/
def lastLanes : List (Nat × List Nat) → List (Nat × List Nat)
  | [] => []
  | p :: r => if r.any (·.2 == p.2) then lastLanes r else p :: lastLanes r

/-- VST (R205): bytes that several lanes store take the highest lane's value (R131). -/
def execVst (w : LaneWord) (s : State) : Result := memExec "VST" 0xB1 (fun i locs pages => do
  settleLanes i true pages
  let n := sizeBytes (i.mod % 8)
  let data (l : Nat) : Nat := i.dstRegs (sizeWidth (i.mod % 8) / 32) l
  writeBy i.actor ((lastLanes locs).flatMap fun p => unitsOf (p.2.zip (leBytes n (data p.1))))
  pure {}) w s

/-- The lanes that name one location, in lane order (R207). -/
def laneGroups (locs : List (Nat × List Nat)) : List (List Nat × List Nat) :=
  ((locs.map (·.2)).dedup).map fun ls => (ls, (locs.filter (·.2 == ls)).map (·.1))

/-- Lanes applied one after another at one location: the old value of each, the last value, and whether one wrote. -/
def laneChain (f : Nat → Nat → Option Nat) : List Nat → Nat → List (Nat × Nat) × Nat × Bool
  | [], m => ([], m, false)
  | l :: r, m =>
    let new := f l m
    let t := laneChain f r (new.getD m)
    ((l, m) :: t.1, t.2.1, new.isSome || t.2.2)

/-- A fadd group (R113): P from the lanes in order, one request, and the old values rebuilt; the flags of the
pre-reduction and of the final rounding. -/
def faddGroup (f : Fmt) (env : FEnv) (opnd : Nat → Nat) (lanes : List Nat) (m : Nat) : List (Nat × Nat) × Nat × Flags :=
  match lanes with
  | [] => ([], m, 0)
  | l0 :: r =>
    let p := r.foldl (fun (acc : FRes) l => let t := f.add env acc.1 (opnd l); (t.1, acc.2 ||| t.2)) (opnd l0, 0)
    let t := f.add env m p.1
    (((laneChain (fun l old => some (f.add env old (opnd l)).1) lanes m).1), t.1, p.2 ||| t.2)

/-- A group's effect at its location (R207): each lane's old value, the last value, whether a lane wrote, and the flags. -/
abbrev GroupEffect := List (Nat × Nat) × Nat × Bool × Flags

/-- What a group writes over a value, if it writes. -/
def groupWrite (f : List Nat → Nat → GroupEffect) (lanes : List Nat) (m : Nat) : Option Nat :=
  let e := f lanes m
  if e.2.2.1 then some e.2.1 else none

/-- Each group is one indivisible request (R207); `f` is what the lanes of a group do to a value, and `before` what a release of the word
publishes. The releases that the reads acquire are given back: no lane's acquire comes before another lane (R253). -/
def atomicGroups (i : LaneIn) (sc : Scope) (o : Order) (before : List Nat) (f : List Nat → Nat → GroupEffect) :
    List (List Nat × List Nat) → Act (List GroupEffect × List Release)
  | [] => pure ([], [])
  | g :: gs => do
    let one ← atomicBy i.actor sc o before g.1 (groupWrite f g.2)
    let rest ← atomicGroups i sc o before f gs
    pure (f g.2 one.1 :: rest.1, one.2 ++ rest.2)

/-- A VATOM's or VCAS's requests, and after them what they acquire (R261). -/
def atomicWord (i : LaneIn) (sc : Scope) (o : Order) (f : List Nat → Nat → GroupEffect) (locs : List (Nat × List Nat)) :
    Act (List GroupEffect) := do
  let r ← atomicGroups i sc o ((← now).vis.ids i.actor.known) f (laneGroups locs)
  acquireBy i.actor sc r.2
  pure r.1

/-- The scope and order of an atomic's control word (Table 2.11). -/
def LaneIn.atomicScope (i : LaneIn) : Scope := (Scope.ofCode (i.lw.srcC.toNat / 64 % 8)).getD .system
def LaneIn.atomicOrder (i : LaneIn) : Order := Order.ofCode (i.lw.srcC.toNat / 16 % 4)

/-- What a VATOM of this operation and width does to a value, lane by lane; a fadd group by R113. -/
def LaneIn.atomEffect (i : LaneIn) (op : AtomOp) (wd : Nat) (lanes : List Nat) (m : Nat) : GroupEffect :=
  let opnd (l : Nat) : Nat := i.dstRegs (wd / 32) l
  if op == .fadd then
    let t := faddGroup (if wd = 64 then f64 else f32) (fenv .rne i.x.compat false) opnd lanes m
    (t.1, t.2.1, true, t.2.2)
  else
    let t := laneChain (fun l old => atomicNew op wd i.x.compat old (opnd l) 0) lanes m
    (t.1, t.2.1, t.2.2, 0)

/-- What a VCAS does to a value: the expected value stands in dst, the new one in the next operand group (R50, R131). -/
def LaneIn.casEffect (i : LaneIn) (wd : Nat) (lanes : List Nat) (m : Nat) : GroupEffect :=
  let both (l : Nat) : Nat := i.dstRegs (2 * wd / 32) l
  let t := laneChain (fun l old => if old = both l % 2 ^ wd then some (both l / 2 ^ wd) else none) lanes m
  (t.1, t.2.1, t.2.2, 0)

/-- Some group writes (R379): each takes one choice. -/
def LaneIn.anyWrite (i : LaneIn) (f : List Nat → Nat → GroupEffect) (groups : List (List Nat × List Nat)) : Bool :=
  ((List.range groups.length).zip groups).any fun g =>
    State.atomicWrites { i.s with vis := { i.s.vis with picks := i.s.vis.picks.drop g.1 } } i.actor g.2.1 (groupWrite f g.2.2)

/-- VATOM (R207). -/
def execVatom (w : LaneWord) (s : State) : Result := memExec "VATOM" 0xB2 (fun i locs pages => do
  let wd := if i.mod % 8 = 5 then 64 else 32
  let op := (AtomOp.ofCode (i.lw.srcC.toNat % 16)).getD .load
  let f := i.atomEffect op wd
  settleLanes i (i.anyWrite f (laneGroups locs)) pages
  let done ← atomicWord i i.atomicScope i.atomicOrder f locs
  let flagsOf (l : Nat) : Flags :=
    match done.find? fun e => e.1.any (·.1 == l) with
    | some e => e.2.2.2
    | none => 0
  pure { width := if bitAt i.lw.srcC.toNat 9 then wd else 0, vals := laneVal (done.flatMap (·.1)), flags := flagsOf }) w s

/-- VCAS (R50, R131). -/
def execVcas (w : LaneWord) (s : State) : Result := memExec "VCAS" 0xB3 (fun i locs pages => do
  let wd := if i.mod % 8 = 5 then 64 else 32
  let f := i.casEffect wd
  settleLanes i (i.anyWrite f (laneGroups locs)) pages
  let done ← atomicWord i i.atomicScope i.atomicOrder f locs
  pure { width := wd, vals := laneVal (done.flatMap (·.1)) }) w s

/-- VPREF (R208, R389): a fill of each line that an active lane names; no lane faults. -/
def execVpref (w : LaneWord) (s : State) : Result := laneAct "VPREF" 0xB4 (fun i => do
  if i.poisonLanes != 0 then stopped i 18 i.poisonLanes 0
  else
    each i.prefLines fun va => startPrefetch i.cluster (i.s.wg i.w.wg).ctxid va (!i.x.handler) (.vpref i.hint)
    issued i i.slots emptyResult none) w s

/-- VFENCE (R209, R269): it orders the wave's accesses before and after it; without an active lane it orders nothing. -/
def execVfence (w : LaneWord) (s : State) : Result := laneAct "VFENCE" 0xB5 (fun i => do
  let c := i.lw.srcC.toNat
  if i.poisonLanes != 0 then stopped i 18 i.poisonLanes 0
  else
    if i.active == 0 then pure ()
    else setVis (i.s.vfenced i.actor (BitVec.ofNat 4 (c / 16)) ((Scope.ofCode (c % 8)).getD .system) (bitAt c 3))
    issued i 0 emptyResult none) w s

/-! ### Extension words (R60, R304, R305) -/

/-- An extension word at the head parks its stream until the core has performed it. -/
def execVext (op : BitVec 4) (w : LaneWord) (s : State) : Result :=
  event "VEXT" (·.laneAt (0xF0 + op.toNat) w) (modWave s.curWave fun x => { x with status := .parked }) s

/-- What an agent waits for from the core; a trap is held while the agent's domain pauses (R168). -/
def State.emulating (s : State) (a : Agent) : Bool :=
  match a with
  | .context k => match (s.ctx k).status with
    | .parked (.emulation _) => !s.pausing (ctxCluster k)
    | _ => false
  | .wave v => (s.wave v).status == .parked && (s.wave v).head.isSome
  | .copy _ _ => false

/-- EMULATION_COMPLETE (R305): no word is in the emulated set of level 2, so a parked context takes the emulation trap, precise at the
word (R304); a parked stream's word completes, and what it would write is free (log entry 2). -/
def execEmulationComplete (a : Agent) (s : State) : Result :=
  event "EMULATION_COMPLETE" (·.emulating a) (do
    match a with
    | .context k =>
      let c := s.ctx k
      match c.status with
      | .parked (.emulation w) => takeTrap k c.pc c.pc false (wordRecord 4 w.toNat)
      | _ => pure ()
    | .wave v =>
      modWave v fun w => { w with status := w.awake }
      match (s.wave v).head with
      | some x =>
        let i := s.laneIn v x
        let ix ← freshIx
        let o : LaneOut :=
          { width := resultWidth i.op i.lw, vals := fun l => (Config.emulated ix l).toNat,
            preds := predDst i.lw fun l => (Config.emulated ix l).getLsbD 0 }
        issued i 0 (i.result o) none
      | none => pure ()
    | .copy _ _ => pure ()) s

/-! ### Spills and reloads (R154, R155) -/

/-- The transfer at the head of a wave's stream, when it can proceed: every earlier word has retired. -/
def State.transfer (s : State) (v : Nat) : Option StreamItem :=
  let w := s.wave v
  if w.status == .live && w.flight.isEmpty && w.half.isNone && s.mayIssue v then
    match w.stream with
    | .spill lo hi e :: _ => some (.spill lo hi e)
    | .reload lo hi e :: _ => some (.reload lo hi e)
    | _ => none
  else none

/-- The rows of a transfer: fault code, private offset, bytes, and the row's address in the backing area. -/
def State.rowVa (s : State) (v off : Nat) : Nat :=
  let w := s.wave v
  backing w.bw 0 ((s.wg w.wg).header.lp + off)

def registerRows (lo hi : Nat) : List Nat := (List.range (hi - lo)).map (lo + ·)

/-- The locations of a wave's rows for a spill or a reload, or the first that fails. -/
def State.rowLocs (s : State) (v : Nat) (a : Access) (rows : List (Nat × Nat × Nat)) :
    Except (Nat × Nat × XFail) (List (Nat × List Nat)) :=
  let ctxid := (s.wg (s.wave v).wg).ctxid
  rows.foldr (fun r acc =>
    match s.superLocs (waveCluster v) ctxid r.2.1 r.2.2 a true with
    | .error f => .error (r.1, r.2.1, f)
    | .ok ls => match acc with
      | .error e => .error e
      | .ok t => .ok ((r.1, ls) :: t)) (.ok [])

/-- The rows of a transfer: its registers, then the two words of a window stack entry (R154). -/
def State.transferRows (s : State) (v lo hi : Nat) (entry : Option Nat) : List (Nat × Nat × Nat) :=
  (registerRows lo hi).map (fun n => (n, s.rowVa v (512 + 4 * n), 256)) ++
    match entry with
    | some k => [(2 ^ 63 + k, s.rowVa v (8 * (k - 16)), 4), (2 ^ 63 + k, s.rowVa v (8 * (k - 16) + 4), 4)]
    | none => []

/-- A transfer that fails translation pauses its wave with a record (R155, R385). -/
def faultTransfer (v source access code va : Nat) (f : XFail) : Act Unit := do
  modWave v fun w => { w with status := .faulted }
  let s ← now
  let w := s.wave v
  let x := s.wg w.wg
  let _ ← raiseFault x.ctxid (.spill w.wg w.wix)
    { source := source, kind := f.recorded, access := access, lvl := f.lvl, role := (s.ctx w.owner).role, index := w.wix,
      va := va, wgid := x.wgid, extra := code }

/-- The keys of logical register n of a wave in its 64 lanes. -/
def rowKeys (cluster : Nat) (w : Wave) (n : Nat) : List Nat := (List.range 64).map fun l => regKey cluster w n 0 l

/-- The transfer at the head is done, and with it the sequencer's job. -/
def popTransfer (v : Nat) : Act Unit := do
  modWave v fun w => { w with stream := w.stream.tail }
  endSpill (waveCluster v) (.window v)

/-- Nothing that the rows of a transfer need is held (R25). -/
def State.rowsReady (s : State) (v : Nat) (a : Access) (rows : List (Nat × Nat × Nat)) : Bool :=
  s.calm || rows.all fun r => !s.superHeld (waveCluster v) (s.wg (s.wave v).wg).ctxid r.2.1 r.2.2 a

/-- Whether a wave's next transfer is a spill, or a reload, that can proceed. -/
def State.spillDue (s : State) (v : Nat) : Bool := match s.transfer v with
  | some (.spill lo hi e) => s.rowsReady v .spill (s.transferRows v lo hi (e.map (·.1)))
  | _ => false
def State.reloadDue (s : State) (v : Nat) : Bool := match s.transfer v with
  | some (.reload lo hi e) => s.rowsReady v .reload (s.transferRows v lo hi e)
  | _ => false

/-- The lines of a piece whose bytes run on, but that a new run starts at a line's start. -/
def lineStarts : List Nat → List Nat
  | [] => []
  | l :: r => l / 128 * 128 :: r.filter (· % 128 == 0)
/-- The traffic of the spill sequencer reaches the L2 with the hint of its page (R361, R380). -/
def touchSticky (v : Nat) (a : Access) (rows : List (Nat × Nat × Nat)) (found : List (Nat × List Nat)) : Act Unit := do
  let s ← now
  let c := waveCluster v
  each (rows.zip found) fun r => each (lineStarts r.2.2) fun l => touchL2 l (s.stickyHint c (s.wg (s.wave v).wg).ctxid r.1.2.1 a)

/-- Registers of a wave go to their rows; poisoned elements poison what they are written to (R28). -/
def spillRow (v : Nat) (s : State) (r : Nat × List Nat) : Act Unit := do
  let keys := rowKeys (waveCluster v) (s.wave v) r.1
  writeNewest (.spill (waveCluster v)) r.2 (keys.flatMap fun k => leBytes 4 (sparseGet s.vregs k).toNat)
  let bad := (List.range 64).filter fun l => s.badRegs.contains (keys.getD l 0)
  if bad.isEmpty then pure () else poisonLocs (bad.flatMap fun l => (r.2.drop (4 * l)).take 4)

/-- Registers of a wave come back from their rows with the poison found there. -/
def reloadRow (v : Nat) (s : State) (r : Nat × List Nat) : Act Unit := do
  let keys := rowKeys (waveCluster v) (s.wave v) r.1
  let part (l : Nat) : List Nat := (r.2.drop (4 * l)).take 4
  emits ((List.range 64).map fun l => .vreg (keys.getD l 0) (BitVec.ofNat 32 (s.readLocs (part l))))
  let bad := (List.range 64).filter fun l => s.poisoned (part l)
  let t ← now
  if bad.isEmpty && t.badRegs.isEmpty then pure ()
  else emit (.badRegs ((t.badRegs.filter (! keys.contains ·)) ++ bad.map fun l => keys.getD l 0))

/-- The rows of registers, and the bytes of the stack entry, of a transfer. -/
def registersOf (rows : List (Nat × List Nat)) : List (Nat × List Nat) := rows.filter (·.1 < 2 ^ 63)
def entryBytes (rows : List (Nat × List Nat)) : List Nat := (rows.filter (2 ^ 63 ≤ ·.1)).flatMap (·.2)

/-- The spill at the head of a wave's stream. -/
def runSpill (v lo hi : Nat) (entry : Option (Nat × Nat × Nat)) : Act Unit := do
  let s ← now
  let c := waveCluster v
  let rows := s.transferRows v lo hi (entry.map (·.1))
  match s.rowLocs v .spill rows with
  | .error (code, va, f) => faultTransfer v 4 1 code va f
  | .ok found =>
    popTransfer v
    usePages c (s.wg (s.wave v).wg).ctxid (rows.map (·.2.1)) .spill
    touchSticky v .spill rows found
    each (registersOf found) (spillRow v s)
    match entry with
    | some (_, base, frame) => writeNewest (.spill c) (entryBytes found) (leBytes 8 (base % 2 ^ 32 + frame % 2 ^ 16 * 2 ^ 32))
    | none => pure ()

/-- What a WLEAVE that waits gets of its stack entry: its words, or the address of their poison (R28). -/
def Window.gotEntry (w : Window) (va : Nat) (bad : Bool) (x : Nat) : Window :=
  if !w.popPending then w
  else if bad then { w with popBad := some (BitVec.ofNat 64 va) }
  else { w with popRead := some (x % 2 ^ 32, x / 2 ^ 32 % 2 ^ 16) }

/-- The reload at the head of a wave's stream. -/
def runReload (v lo hi : Nat) (entry : Option Nat) : Act Unit := do
  let s ← now
  let c := waveCluster v
  let rows := s.transferRows v lo hi entry
  match s.rowLocs v .reload rows with
  | .error (code, va, f) => faultTransfer v 5 0 code va f
  | .ok found =>
    popTransfer v
    usePages c (s.wg (s.wave v).wg).ctxid (rows.map (·.2.1)) .reload
    touchSticky v .reload rows found
    each (registersOf found) (reloadRow v s)
    match entry with
    | some k =>
      let locs := entryBytes found
      modCtx (s.wave v).owner fun x =>
        { x with win := x.win.gotEntry (s.rowVa v (8 * (k - 16))) (s.poisoned locs) (s.readLocs locs) }
    | none => pure ()

/-- WINDOW_SPILL: the registers and the stack entry at the head of the stream go to the spill region, in their turn at the cluster's
spill sequencer (R361). -/
def execWindowSpill (v : Nat) (s : State) : Result :=
  event "WINDOW_SPILL" (fun s => s.spillDue v && s.spillTurn (waveCluster v) (.window v)) (
    match s.transfer v with
    | some (.spill lo hi entry) => withSpill (waveCluster v) (.window v) (runSpill v lo hi entry)
    | _ => pure ()) s

/-- WINDOW_RELOAD: registers come back from the spill region; a stack entry goes to the WLEAVE that waits. -/
def execWindowReload (v : Nat) (s : State) : Result :=
  event "WINDOW_RELOAD" (fun s => s.reloadDue v && s.spillTurn (waveCluster v) (.window v)) (
    match s.transfer v with
    | some (.reload lo hi entry) => withSpill (waveCluster v) (.window v) (runReload v lo hi entry)
    | _ => pure ()) s

end Sys2Proof.Machine
end

