-- ==== Sys2Proof/Machine/Restore.lean ====
section
/-! DEFINITION. Saving and restoring gangs (R357 to R360, R373, R435): the boundaries of Table 15.6, the save area of
Tables 15.7 to 15.11, 8.4, 11.6 and 16.7, and the answers to fault records that they hold (R386). -/
namespace Sys2Proof.Machine

/-! ### Boundaries (Table 15.6) -/

/-- A context that has stopped at an instruction boundary outside a chain, with its sequencers at the end of one repeat (R231). -/
def Context.atBoundary (c : Context) : Bool :=
  c.em.seq.atBoundary && match c.status with
  | .running => !c.chainOpen
  | .stalled _ => !c.chainOpen
  | .ended => true
  | .halted => true
  | _ => false

/-- An entry of a residue (R232), and the words among what stands in a stream. -/
def StreamWord.savedFields (w : StreamWord) : List (Nat × Nat) :=
  [(w.word.toNat, 8), (w.payA.toNat, 8), (w.payB.toNat, 8), (w.payC.toNat, 8)]
def streamWords (l : List StreamItem) : List StreamWord := l.filterMap fun
  | .word w => some w
  | _ => none

/-- A word of the handler buffer has faulted, and its record waits (Table 17.4). -/
def State.handlerFault (s : State) (w : Wave) : Bool :=
  (s.dctx (s.wg w.wg).ctxid).faults.any fun r => r.source == .lane w.wg w.wix && bitAt (field r.bytes 0x25 1) 1

/-- A wave at a word boundary outside a chain, in its stream and in its handler buffer; a waiting VBAR.aw is saved with its residue (R369).
A chain that its emitter has stopped short of closing, by a halt or in its handler, has no more words to wait for; one whose word is
FAULTED holds the pre-emption (R387). -/
def State.waveAtBoundary (s : State) (w : Wave) : Bool :=
  let closed := !w.chain || ((streamWords w.stream).isEmpty && match w.lockedBy with
    | some k => (s.ctx k).atBoundary
    | none => true)
  let handlerClosed := !w.hchain || (w.hbuf.isEmpty && (s.ctx w.owner).atBoundary)
  w.half.isNone && w.flight.all (·.unit == .barrier) &&
  match w.status with
  | .live => closed && handlerClosed
  | .faulted => if s.handlerFault w then !w.hchain else !w.chain
  | .stopped => handlerClosed
  | _ => false

def Bound.atBoundary (b : Bound) : Bool :=
  b.asks.isNone && match b.state with
  | .poisoned => true
  | .published => true
  | .landed => b.isCopy
  | .parked => true
  | _ => false

def State.savable (s : State) (g : Nat) : Bool :=
  let x := s.gang g
  !x.paused && !x.wgs.isEmpty && x.wgs.all fun i =>
    let w := s.wg i
    w.status == .saving && w.ctxs.all (fun k => (s.ctx k).atBoundary && (s.ctx k).loads.isEmpty) && w.waves.all (fun v => s.waveAtBoundary (s.wave v))
      && w.marks.all fun m => match m.bound with
        | some b => b.atBoundary
        | none => true

/-! ### What a member keeps, and its image -/

/-- A wave as it is saved: a waiting VBAR.aw stands again at the head of its stream, marked in srcA's payload. -/
def Wave.stopped (w : Wave) : Wave :=
  let waiting := w.flight.map fun f => { f.entry with payA := 1, waiting := true }
  { w with status := .saved, left := w.status, flight := []
           stream := (waiting.filter (! ·.handler)).map .word ++ w.stream
           hbuf := waiting.filter (·.handler) ++ w.hbuf }

/-- Table 15.10's state code. -/
def Context.leftCode (c : Context) : Nat :=
  match c.status with
  | .ended => 3
  | .halted => 4
  | _ => if c.mode == .handler then 2 else 1

/-- Table 15.11's state code of a saved wave. -/
def Wave.leftCode (w : Wave) (owner : Context) : Nat :=
  match w.left with
  | .stopped => 3
  | .faulted => 4
  | _ => if w.stream.isEmpty && w.hbuf.isEmpty then (if owner.status == .ended then 5 else 1) else 2

/-- The repeats that a sequencer has still to push, and its bindings for the next one (Table 8.4). -/
def Sequencer.remaining (q : Sequencer) : Nat := if q.busy then q.total - q.begun else 0
def Sequencer.nextBinds (q : Sequencer) : List Binding := q.binds.map (Binding.advance · q.begun)

def w8 (x : Word) : Nat × Nat := (x.toNat, 8)
def n8 (n : Nat) : Nat × Nat := (n, 8)
/-- A list of 8-byte fields, filled to `n` fields. -/
def words8 (n : Nat) (l : List Word) : List (Nat × Nat) :=
  (List.range n).map fun i => w8 (l.getD i 0)

def AccKind.code : AccKind → Nat
  | .none => 0 | .f32 => 1 | .i32 => 2

def Tile.fields (t : Tile) : List (Nat × Nat) := (List.range 8).map fun f => w8 (t.field f)

/-- Table 11.6; bit 43 is a fault that is pending. -/
def Watermark.savedFields (m : Watermark) : List (Nat × Nat) :=
  match m.bound with
  | none => words8 5 [] ++ [(0, 4), (0, 4), w8 m.status, n8 0]
  | some b =>
    let pend := b.before == .frozen && b.state == .parked
    words8 5 b.block ++ [(b.bits.toNat, 4), (0, 4), n8 (m.status.toNat ||| b2n pend * 2 ^ 43), w8 b.stamp]

/-- The long word, or MCLR's word, of a matrix command. -/
def MatrixOp.word : MatrixOp → Nat
  | .mloop m => ((encode (.mloop m)).map (·.2)).getD 0
  | .mdrain m => ((encode (.mdrain m)).map (·.2)).getD 0
  | .mclr n => ((encode (.mclr (BitVec.ofNat 3 n))).map (·.2)).getD 0

/-- Table 15.9. -/
def MatrixCmd.savedFields (q : MatrixCmd) : List (Nat × Nat) :=
  [(q.op.word, 16), w8 q.num, n8 (match q.op with
      | .mloop _ => q.left
      | _ => 0), n8 (q.scale.toNat + b2n q.compat * 2 ^ 32), (0, 24)]
    ++ q.tA.fields ++ q.tB.fields ++ [(0, 64)]

/-- Table 16.7; the counts of a gang barrier stand in member 0's area only. -/
def barrierRecordWord (b : Barrier) (r : RoleBits) (counts : Bool) : Nat :=
  r.aw.toNat * 2 ^ 4 + r.arr.toNat * 2 ^ 8 + r.unw.toNat * 2 ^ 12 +
    if counts then b.phases % 2 + b.arrived * 2 ^ 16 + b.perPhase * 2 ^ 32 else 0

def recordFields (p : PendingTrap) : List (Nat × Nat) :=
  [n8 (p.record.cause + p.seq * 2 ^ 32), w8 p.record.info0, w8 p.record.info1, w8 p.record.info2, w8 p.record.info3, n8 0]
def recordsFields (n : Nat) (l : List PendingTrap) : List (Nat × Nat) :=
  (l.take n).flatMap recordFields ++ [(0, 48 * (n - l.length))]

/-- Table 8.3. -/
def DirEntry.word (d : DirEntry) : Nat :=
  b2n d.defd * 2 ^ 63 + b2n d.recd * 2 ^ 62 + b2n d.ovf * 2 ^ 30 + b2n d.maskv * 2 ^ 29 + d.nvote * 2 ^ 19 + d.fmin * 2 ^ 9 + d.len

def bindFields (l : List Binding) : List (Nat × Nat) :=
  (List.range 8).flatMap fun i => [w8 (l.getD i Binding.zero).base, w8 (l.getD i Binding.zero).step]

/-- Table 8.4. -/
def Emission.savedFields (e : Emission) : List (Nat × Nat) :=
  bindFields e.binds ++ [w8 e.target.mask, w8 e.target.grp,
    n8 (e.capId + b2n e.capOpen * 2 ^ 8 + b2n e.capSuspended * 2 ^ 9 + b2n e.userChain.lastC * 2 ^ 10
      + b2n e.handlerChain.lastC * 2 ^ 11),
    n8 (e.seq.id + b2n e.seq.busy * 2 ^ 8 + e.seq.remaining * 2 ^ 32), w8 e.seq.target.mask, w8 e.seq.target.grp,
    n8 (e.seq.xctl.toNat + b2n e.seq.compat * 2 ^ 16)] ++ bindFields e.seq.nextBinds
    ++ (List.range 16).flatMap (fun i => match e.votes[i]? with
      | some v => [w8 v.value, n8 (v.awaited % 32 + 2 ^ 8)]
      | none => [n8 0, n8 0])
    ++ e.dir.map fun d => n8 d.word

/-- Entry k of a window stack, counted from the first one pushed. -/
def Window.entry (w : Window) (k : Nat) : Nat × Nat :=
  if k < w.stack.length then w.stack.getD (w.stack.length - 1 - k) (0, 0) else (0, 0)

/-- Table 15.10. -/
def Context.savedFields (c : Context) (code : Nat) : List (Nat × Nat) :=
  let eng := c.pending.filter (·.wave.isNone)
  [n8 code, w8 c.pc] ++ words8 31 (c.s.drop 1) ++ words8 8 c.bank
    ++ [n8 c.xctl.toNat, n8 (b2n c.compat), w8 c.wsel, w8 c.trap.cause, w8 c.trap.pc, w8 c.trap.info0, w8 c.trap.info1,
        w8 c.trap.info2, w8 c.trap.info3, w8 c.trap.epc, n8 (c.cycles / 20),
        n8 (c.win.base % 2 ^ 32 + c.win.frame * 2 ^ 32), n8 (c.win.lo % 2 ^ 32 + c.win.stack.length * 2 ^ 32)]
    ++ (List.range 16).map (fun k => n8 ((c.win.entry k).1 % 2 ^ 32 + (c.win.entry k).2 * 2 ^ 32))
    ++ [n8 c.issued, n8 c.drain, n8 eng.length] ++ recordsFields 8 eng ++ [(0, 56)]
    ++ c.em.savedFields ++ recordsFields 12 (eng.drop 8) ++ [(0, 1416)]

/-- Table 15.11, but for the registers. `owed` is the trap that a STOPPED wave still owes its owner. -/
def Wave.savedFields (w : Wave) (code : Nat) (owed : Option PendingTrap) : List (Nat × Nat) :=
  let r := match owed with
    | some p => p.record
    | none => .of 0
  let words := streamWords w.stream
  [n8 code, n8 w.wxf.toNat, w8 w.ssn, w8 w.bw] ++ words8 16 (BitVec.allOnes 64 :: w.preds.drop 1)
    ++ [w8 r.info0, w8 r.info1, w8 r.info2, w8 r.info3, n8 w.hbuf.length]
    ++ (w.hbuf.take 8).flatMap StreamWord.savedFields ++ [(0, 32 * (8 - w.hbuf.length))]
    ++ [n8 (match owed with
        | some p => p.record.cause + p.seq * 2 ^ 32
        | none => 0), (0, 48), n8 words.length]
    ++ (words.take 128).flatMap StreamWord.savedFields ++ [(0, 32 * (128 - words.length)), (0, 3576)]

/-- Table 15.8. -/
def Workgroup.headerFields (w : Workgroup) (size member0 time : Nat) : List (Nat × Nat) :=
  let h := w.header
  [n8 (1 + h.roles.length * 2 ^ 16 + w.waves.length * 2 ^ 24), n8 h.saveBytes, n8 h.addr, (w.wgid, 4), (w.member, 1),
    (size, 1), (0, 2), n8 member0, n8 time, w8 w.mseq,
    n8 (((List.range h.accs).map fun i => (w.kinds.getD i .none).code * 4 ^ i).sum), n8 h.accOffset, n8 h.spadOffset,
    n8 (4096 * h.units), (0, 168)]

/-- The save area of member 0, which identifies a gang (Table 15.8). -/
def State.member0 (s : State) (g : Nat) : Nat :=
  match (s.gang g).wgs with
  | m :: _ => (s.wg m).saveAt
  | [] => 0

/-- The sections of a member's save area that a save writes: offset and bytes. `kept` holds its stopped agents. -/
def State.image (s : State) (g : Nat) (kept : Kept) : List (Nat × List Byte) :=
  let w := s.wg g
  let x := s.gang w.gang
  let h := w.header
  let fixed := layBytes (w.headerFields x.size (s.member0 w.gang) s.dev.time
    ++ (List.range 16).flatMap (fun i => (w.tiles.getD i Tile.start).fields)
    ++ (List.range 16).flatMap (fun i => (w.marks.getD i Watermark.start).savedFields)
    ++ (w.mqueue.take 4).flatMap MatrixCmd.savedFields ++ [(0, 256 * (4 - w.mqueue.length))]
    ++ (List.range 16).map (fun k => n8 (barrierRecordWord (w.bars.getD k Barrier.zero) (w.barBits 0 k) true))
    ++ (List.range 8).map (fun k => n8 (barrierRecordWord (x.gbars.getD k Barrier.zero) (w.barBits 1 k) (w.member == 0)))
    ++ [(0, 576)])
  let roles := (List.range w.ctxs.length).map fun r =>
    (0x1000 + 4096 * r, layBytes ((kept.ctxs.getD r Context.free).savedFields (s.ctx (w.ctxs.getD r 0)).leftCode))
  let waves := (List.range w.waves.length).map fun i =>
    let slot := w.waves.getD i 0
    let v := kept.waves.getD i Wave.free
    let owner := s.ctx v.owner
    let owed := owner.pending.find? (·.wave == some slot)
    (h.waveOffset i, layBytes (v.savedFields (v.leftCode owner) owed)
      ++ (List.range v.width).flatMap fun n => (List.range 64).flatMap fun l =>
        leBytes 4 (sparseGet s.vregs (regKey w.cluster v 0 n l)).toNat)
  let accs := (List.range h.accs).map fun n =>
    (h.accOffset + 65536 * n, (List.range 16384).flatMap fun e => leBytes 4 (sparseGet s.accs (w.accKey n 0 e)).toNat)
  (0, fixed) :: roles ++ waves ++ accs
    ++ [(h.spadOffset, (List.range (4096 * h.units)).map fun i => s.byte (spadLoc w.cluster (w.spad + i)))]

/-- The offsets of a member's poisoned elements in its save area (R28, R362). -/
def State.poisonOffsets (s : State) (g : Nat) (waves : List Wave) : List Nat :=
  let w := s.wg g
  let h := w.header
  let regs := if s.badRegs.isEmpty then [] else (List.range waves.length).flatMap fun i =>
    let v := waves.getD i Wave.free
    (List.range v.width).flatMap fun n => ((List.range 64).filter fun l =>
      s.badRegs.contains (regKey w.cluster v 0 n l)).map fun l => h.waveOffset i + 0x2000 + 256 * n + 4 * l
  let accs := if s.badAccs.isEmpty then [] else (List.range h.accs).flatMap fun n =>
    ((List.range 16384).filter fun e => s.badAccs.contains (w.accKey n 0 e)).map fun e => h.accOffset + 65536 * n + 4 * e
  let spad := (s.badSram.filter fun u =>
    spadLoc w.cluster w.spad ≤ 8 * u && 8 * u < spadLoc w.cluster w.spad + 4096 * h.units).map fun u =>
      h.spadOffset + (8 * u - spadLoc w.cluster w.spad)
  regs ++ accs ++ spad

def cutBytes : Nat → List Byte → List (List Byte)
  | 0, _ => []
  | n + 1, l => if l.isEmpty then [] else l.take 2048 :: cutBytes n (l.drop 2048)
/-- A section as pieces of 2 KiB; the last one is the image of a cluster's scratchpad. -/
def areaPieces (w base cluster spadOffset : Nat) (sec : Nat × List Byte) : List AreaPiece :=
  let parts := cutBytes (sec.2.length / 2048 + 1) sec.2
  (List.range parts.length).map fun i =>
    { wg := w, va := base + sec.1 + 2048 * i, bytes := parts.getD i []
      spad := if sec.1 = spadOffset then some cluster else none }

/-- What a member keeps at a save. -/
def State.keptOf (s : State) (g : Nat) : Kept :=
  let w := s.wg g
  let waves := w.waves.map fun v => (s.wave v).stopped
  { ctxs := w.ctxs.map (fun k => { (s.ctx k) with status := .saved }), waves := waves
    ctxSlots := w.ctxs, waveSlots := w.waves, bad := s.poisonOffsets g waves }

/-- What a save writes. -/
def State.savePieces (s : State) (g : Nat) : List AreaPiece :=
  (s.gang g).wgs.flatMap fun m =>
    let w := s.wg m
    (s.image m (s.keptOf m)).flatMap (areaPieces m w.saveAt w.cluster w.header.spadOffset)

/-- Every access of an agent before the save happens before every one after the restore, on every path (R275). -/
def keepOrder (g : Nat) : Act Unit := do
  let s ← now
  each (s.gang g).wgs fun w => each (s.agentsOf w) fun x =>
    modVis fun v => v.edge [x] fun u => if u.agent == x then some allPaths else none

/-- GANG_SAVE_COMPLETE (R358): every agent of every member is at its boundary; in its turn at the members' spill sequencers (R361) the
areas are written, and the members leave their clusters. Regions on a cluster's scratchpad go with it; those on the chip scratchpad stay
armed (R295). A window transfer of its own waves that has not been made stays in its stream. -/
def execGangSaveComplete (g : Nat) (s : State) : Result :=
  event "GANG_SAVE_COMPLETE" (fun s => s.savable g && s.gangTurn g && s.writesReady g (s.savePieces g)) (do
    each (s.gang g).wgs fun m => dropSpills (s.wg m).cluster (s.wg m).waves
    withSpills g do
    let ok ← goOnWriting g (s.savePieces g)
    if !ok then pure ()
    else
      keepOrder g
      each (s.gang g).wgs fun m => do
        let k := s.keptOf m
        leaveCluster m .saved
        modWg m fun w =>
          { w with
            kept := some k, saveTime := s.dev.time
            marks := w.marks.map fun mk => { mk with bound := mk.bound.map fun b =>
              { b with armed := b.armed && match b.dstLoc with
                  | some l => isChip l
                  | none => false } } }
      modGang g fun x => { x with waits := true, progress := 0 }) s

/-! ### Answers to fault records (R386) -/

/-- A context halts on a failed spill or reload as on a failed loft access: the data fault as a boundary trap (R227, R386). -/
def haltSpill (k : Nat) (va kind : Nat) : Act Unit :=
  haltAt k (accessRecord 7 (BitVec.ofNat 64 va) (if kind = 2 then 2 else if kind = 4 then 3 else 1))

/-- The effect of an answer on the agent that raised the record. -/
def settleAnswer (r : FaultRecord) (fail : Bool) : Act Unit := do
  let s ← now
  match r.source with
  | .lane w i =>
    match (s.wg w).waves[i]? with
    | none => pure ()
    | some v => modWave v fun x =>
      let lanes := (bitAt (field r.bytes 0x25 1) 1, BitVec.ofNat 64 (field r.bytes 0x10 8), BitVec.ofNat 64 (field r.bytes 8 8))
      if x.status == .faulted then { x with status := x.awake, failed := if fail then some lanes else none } else x
  | .spill w i =>
    match (s.wg w).waves[i]? with
    | none => pure ()
    | some v =>
      modWave v fun x => if x.status == .faulted then { x with status := x.awake } else x
      if fail then
        endSpill (waveCluster v) (.window v)
        haltSpill (s.wave v).owner (field r.bytes 8 8) (field r.bytes 1 1)
      else pure ()
  | .copy w n =>
    match s.bound w n with
    | none => pure ()
    | some b =>
      if b.record != some r.seq then pure ()
      else if b.state == .frozen then
        if fail then poisonBound w n
        else setBound w n (some { b with state := b.moving })
        modBound w n fun b => { b with record := none }
      else pure ()
  | .save g =>
    if fail then do
      match (s.gang g).wgs with
      | m :: _ =>
        let w := s.wg m
        raiseEvent (s.dctx w.ctxid).desc.part 1 w.ctxid 0 w.cluster 0x107 (BitVec.ofNat 64 w.wgid)
      | [] => pure ()
      discardGangWork g
    else modGang g fun x => { x with paused := false }

/-- The workgroup or gang that raised a record is saved: its answer takes effect at restore (R295, R387). -/
def State.holdsAnswer (s : State) (r : FaultRecord) : Bool :=
  let away (w : Nat) : Bool := (s.wg w).status == .saved || (s.wg w).status == .restoring
  match r.source with
  | .lane w _ => away w
  | .spill w _ => away w
  | .copy w n => match s.bound w n with
    | some b => b.state == .parked
    | none => false
  | .save _ => false

/-- Apply the held answers of a context that can take effect now. -/
def settleHeld (ctxid : Nat) : Act Unit := do
  let ds := ((← now).dctx ctxid).faults
  each ds fun r => do
    let s ← now
    match r.answer with
    | none => pure ()
    | some fail =>
      if (s.dctx ctxid).status != .runnable || s.holdsAnswer r then pure ()
      else
        modDctx ctxid fun d => { d with faults := d.faults.filter (·.seq != r.seq) }
        settleAnswer r fail

/-! ### Range checks (R359) -/

/-- Reading a saved field: offset and bytes. -/
abbrev AreaRead := Nat → Nat → Nat

def tileBad (rd : AreaRead) (off f : Nat) : Bool :=
  let v := BitVec.ofNat 64 (rd (off + 8 * f) 8)
  !(tileValueOk f v || (f == 1 && v == 0))

/-- The command that a matrix queue entry's word stands for; an entry whose word is 0 is empty. -/
def savedOp (word : Nat) : Option MatrixOp :=
  match decodeLong word with
  | some (.mloop m) => some (.mloop m)
  | some (.mdrain m) => some (.mdrain m)
  | _ => match decodeGen word with
    | some (.mclr n) => some (.mclr n.toNat)
    | _ => none

/-- The command whose parameter block and low bits a watermark record at offset o holds. -/
def State.savedBound (s : State) (w : Workgroup) (rd : AreaRead) (o : Nat) : Option Bound :=
  let block := (List.range 5).map fun i => BitVec.ofNat 64 (rd (o + 8 * i) 8)
  match decodeLong (rd (o + 0x28) 4) with
  | some (.copy m) => some (blockBound m block)
  | some (.cred m) => s.credBlock w m (block.take 4)
  | _ => none

/-- The fields of a watermark record at offset o that are out of range: its STATE (Table 11.3), the command of a parked copy, and COUNT
(R282). -/
def badMark (o : Nat) (b : Option Bound) (rd : AreaRead) : List (Nat × Nat) :=
  let st := bits (rd (o + 0x30) 8) 47 44
  let n := bits (rd (o + 0x30) 8) 39 0
  let countOk := match b with
    | some b => st == 0 || (n ≤ b.len && (n % 64 == 0 || n == b.len))
    | none => true
  if st == 5 && !b.any (·.isCopy) then [(o + 0x28, 1)]
  else if 8 ≤ st || !countOk then [(o + 0x30, 1)] else []

/-- The fields of the workgroup as a whole that are out of range: offset and cause. -/
def State.badFixed (s : State) (w : Workgroup) (size member0 : Nat) (rd : AreaRead) : List (Nat × Nat) :=
  let h := w.header
  let want (off n v : Nat) : List (Nat × Nat) := if rd off n == v then [] else [(off, 1)]
  let bad (c : Bool) (off : Nat) : List (Nat × Nat) := if c then [(off, 1)] else []
  want 0 4 (1 + h.roles.length * 2 ^ 16 + w.waves.length * 2 ^ 24) ++ want 8 8 h.saveBytes ++ want 0x10 8 h.addr
    ++ want 0x18 4 w.wgid ++ want 0x1C 1 w.member ++ want 0x1D 1 size ++ want 0x20 8 member0
    ++ bad ((List.range h.accs).any fun i => rd 0x38 8 / 4 ^ i % 4 == 3) 0x38
    ++ want 0x40 8 h.accOffset ++ want 0x48 8 h.spadOffset ++ want 0x50 8 (4096 * h.units)
    ++ (List.range 16).flatMap (fun t => (List.range 8).flatMap fun f =>
      bad (tileBad rd (0x100 + 64 * t) f) (0x100 + 64 * t + 8 * f))
    ++ (List.range 16).flatMap (fun n =>
      badMark (0x500 + 64 * n) (s.savedBound w rd (0x500 + 64 * n)) rd)
    ++ (List.range 4).flatMap (fun i =>
      let o := 0x900 + 256 * i
      let word := rd o 16
      let tooMany := match savedOp word with
        | some (.mloop m) => m.steps.toNat < rd (o + 0x18) 8
        | _ => false
      bad (word != 0 && (savedOp word).isNone) o ++ bad tooMany (o + 0x18)
        ++ (if word == 0 then [] else [0x40, 0x80].flatMap fun t => (List.range 8).flatMap fun f =>
          bad (tileBad rd (o + t) f) (o + t + 8 * f)))
    ++ (List.range h.bars).flatMap (fun k =>
      let v := rd (0xD00 + 8 * k) 8
      bad (h.roles.length < bits v 47 32 || bits v 47 32 < bits v 31 16) (0xD00 + 8 * k))
    ++ if w.member = 0 then (List.range h.gbars).flatMap fun k =>
        let v := rd (0xD80 + 8 * k) 8
        bad (size * h.roles.length < bits v 47 32 || bits v 47 32 < bits v 31 16) (0xD80 + 8 * k)
      else []

/-- The fields of an emission target at offset o that STGT would refuse (R212); `multi` says whether a multicast group may stand there. -/
def badTarget (waves size : Nat) (multi : Bool) (o : Nat) (rd : AreaRead) : List (Nat × Nat) :=
  let grp := rd (o + 8) 8
  (if rd o 8 / 2 ^ min waves 16 ≠ 0 then [(o, 1)] else [])
    ++ if grp ≠ 0 && (!multi || grp / 2 ^ min size 32 ≠ 0) then [(o + 8, 1)] else []

/-- The fields of a role block, at offset o, that are out of range. Bases and frames are multiples of 32 (R152); the frame lies above the
span of the registers that stand in the wave, and what lies below the span fits the spill region (R154). -/
def badRole (d : Descriptor) (h : Header) (size : Nat) (e : RoleEntry) (o : Nat) (rd : AreaRead) : List (Nat × Nat) :=
  let bad (c : Bool) (off cause : Nat) : List (Nat × Nat) := if c then [(o + off, cause)] else []
  let code := rd o 8 % 16
  let base := bits (rd (o + 0x1A0) 8) 31 0
  let frame := bits (rd (o + 0x1A0) 8) 47 32
  let lo := bits (rd (o + 0x1A8) 8) 31 0
  let depth := bits (rd (o + 0x1A8) 8) 38 32
  let most := if e.waves = 0 then 768 else e.width
  let entryBad (k : Nat) : Bool :=
    let v := rd (o + 0x1B0 + 8 * k) 8
    k < depth && (bits v 31 0 % 32 != 0 || bits v 47 32 % 32 != 0 || most < bits v 47 32)
  let wsel := rd (o + 0x158) 8
  bad (code < 1 || 4 < code) 0 1
    ++ bad ((BitVec.ofNat 4 (rd (o + 0x148) 8) &&& ~~~ d.traps) != 0) 0x148 1
    ++ bad (!d.compats.getLsbD (rd (o + 0x150) 8 % 2)) 0x150 1
    ++ bad (if e.waves = 0 then wsel != 0 else e.waves ≤ wsel) 0x158 1
    ++ bad (base % 32 != 0 || frame % 32 != 0 || most < frame || (e.waves != 0 && e.width < base + frame - lo)) 0x1A0 16
    ++ bad ((if e.waves = 0 then 16 else 80) < depth) 0x1A8 16
    ++ bad (if e.waves = 0 then lo != 0 else base < lo || (lo != 0 && 512 * d.spill < 512 + 4 * lo)) 0x1A8 1
    ++ (List.range 16).flatMap (fun k => bad (entryBad k) (0x1B0 + 8 * k) 16)
    ++ bad (rd (o + 0x230) 8 < rd (o + 0x238) 8) 0x238 1
    ++ bad (20 < rd (o + 0x240) 8) 0x240 1
    ++ badTarget e.waves size (h.multicast && code != 2) (o + 0x480) rd
    ++ (if bitAt (rd (o + 0x498) 8) 8 then badTarget e.waves size h.multicast (o + 0x4A0) rd else [])
    ++ (List.range 64).flatMap fun i =>
      let v := rd (o + 0x638 + 8 * i) 8
      bad (256 < bits v 8 0 || 768 < bits v 18 9 || 256 < bits v 27 19) (0x638 + 8 * i) 1

/-- The fields of a wave block at offset o that are out of range. -/
def badWave (o : Nat) (rd : AreaRead) : List (Nat × Nat) :=
  let bad (c : Bool) (off : Nat) : List (Nat × Nat) := if c then [(o + off, 1)] else []
  bad (rd o 8 % 16 < 1 || 5 < rd o 8 % 16) 0 ++ bad (8 < rd (o + 0xC0) 8) 0xC0 ++ bad (128 < rd (o + 0x200) 8) 0x200

/-- The first field out of range for a role of a member: its offset and the cause it gives. -/
def State.badField (s : State) (w : Workgroup) (size member0 role : Nat) (rd : AreaRead) : Option (Nat × Nat) :=
  let e := w.header.roles.getD role { entry := 0, width := 0, waves := 0, rights := 0 }
  ((if role = 0 then s.badFixed w size member0 rd else [])
    ++ badRole (s.dctx w.ctxid).desc w.header size e (0x1000 + 4096 * role) rd
    ++ ((List.range w.header.waveRoles.length).filter fun i => (w.header.waveRoles.getD i (0, 0)).1 == role).flatMap
      fun i => badWave (w.header.waveOffset i) rd).head?

/-! ### Loading (R360) -/

def AreaRead.word (rd : AreaRead) (off : Nat) : Word := BitVec.ofNat 64 (rd off 8)

def loadTile (rd : AreaRead) (off : Nat) : Tile :=
  (List.range 8).foldl (fun t f => t.setField f (rd.word (off + 8 * f))) Tile.start

/-- A watermark register from its record; `old` is what the device kept of it, and `fresh` the command that the record holds. A copy past SRC_FREE whose COUNT the driver has not changed
goes on with the bytes it had read (log entry 101). -/
def loadMark (rd : AreaRead) (o : Nat) (old : Watermark) (fresh : Option Bound) : Watermark :=
  let st := rd (o + 0x30) 8
  let block := (List.range 5).map fun i => rd.word (o + 8 * i)
  let bits32 : W32 := BitVec.ofNat 32 (rd (o + 0x28) 4)
  let base : Option Bound := match old.bound with
    | some b => if b.block == block.take b.block.length && b.bits == bits32 then some b
      else fresh.map fun f =>
        { f with bits := bits32, role := b.role, handler := b.handler, pc := b.pc, dstLoc := b.dstLoc,
                 record := b.record, answer := b.answer, state := b.state, before := b.before }
    | none => fresh.map fun f => { f with bits := bits32 }
  let state (b : Bound) : CopyState := match bits st 47 44 with
    | 4 => .poisoned
    | 5 => if bitAt st 43 then .frozen else if bits st 39 0 = 0 then .issued else .landing
    | 6 => .landed
    | 7 => .published
    | 1 => .issued
    | 3 => .frozen
    | _ => b.moving
  { bc := BitVec.ofNat 16 (bits st 63 48)
    bound := if bits st 47 44 = 0 then none
      else base.map fun b =>
        let b := { b with state := state b, count := bits st 39 0, stamp := rd.word (o + 0x38), park := none }
        if b.srcf && bitAt st 40 && bits st 39 0 == (old.bound.map (·.count)).getD 0 then b
        else { b with sent := bits st 39 0, srcf := bitAt st 40, buffer := [], badBytes := [] } }

/-- A matrix queue entry; `old` is what the device kept of it. -/
def loadMatrix (rd : AreaRead) (o : Nat) (old : Option MatrixCmd) (kinds : List AccKind) : Option MatrixCmd :=
  (savedOp (rd o 16)).map fun op =>
    let left := rd (o + 0x18) 8
    let done := match op with
      | .mloop m => m.steps.toNat - left
      | _ => 0
    let b : MatrixCmd := old.getD
      { op := op, num := 0, left := 0, done := done, started := done != 0, tA := Tile.start, tB := Tile.start, scale := 0,
        compat := true, kind := kinds.getD op.acc .none, role := 0, handler := false, pc := 0 }
    { b with
      op := op, num := rd.word (o + 0x10), left := left, done := done, started := b.started || done != 0
      scale := BitVec.ofNat 32 (rd (o + 0x20) 4), compat := bitAt (rd (o + 0x20) 8) 32
      tA := loadTile rd (o + 0x40), tB := loadTile rd (o + 0x80) }

/-- A barrier's counts and bits from its record. -/
def loadBarrier (v : Nat) (b : Barrier) : Barrier :=
  { phases := if b.phases % 2 = v % 2 then b.phases else b.phases + 1, arrived := bits v 31 16, perPhase := bits v 47 32 }
def loadBits (v : Nat) : RoleBits :=
  { aw := BitVec.ofNat 4 (bits v 7 4), arr := BitVec.ofNat 4 (bits v 11 8), unw := BitVec.ofNat 4 (bits v 15 12) }

def loadBinds (rd : AreaRead) (o : Nat) : List Binding :=
  (List.range 8).map fun i => { base := rd.word (o + 16 * i), step := rd.word (o + 16 * i + 8) }

def loadDir (v : Nat) : DirEntry :=
  { defd := bitAt v 63, recd := bitAt v 62, ovf := bitAt v 30, maskv := bitAt v 29, nvote := bits v 27 19,
    fmin := bits v 18 9, len := bits v 8 0 }

/-- A binding n repeats earlier. -/
def Binding.rewind (b : Binding) (n : Nat) : Binding := { b with base := b.base - BitVec.ofNat 64 n * b.step }

/-- The stream block at offset o (Table 8.4). A replay goes on at its next repeat; its repeats keep their numbers, and its window base
that of the RPLY, where the device kept them (log entry 17), and is else that of the frame. -/
def loadEmission (rd : AreaRead) (o : Nat) (e : Emission) (frameBase : Nat) : Emission :=
  let cap := rd (o + 0x90) 8
  let rp := rd (o + 0x98) 8
  let ctl := rd (o + 0xB0) 8
  let remaining := bits rp 63 32
  let total := if e.seq.busy then max e.seq.total remaining else remaining
  let done := total - remaining
  { e with
    binds := loadBinds rd o, target := { mask := rd.word (o + 0x80), grp := rd.word (o + 0x88) }
    capId := bits cap 5 0, capOpen := bitAt cap 8, capSuspended := bitAt cap 9
    userChain := { e.userChain with lastC := bitAt cap 10 }, handlerChain := { e.handlerChain with lastC := bitAt cap 11 }
    seq := { e.seq with
      id := bits rp 5 0, busy := bitAt rp 8, base := if e.seq.busy then e.seq.base else frameBase, total := total
      parts := [{ cluster := 0, rep := done, next := 0 }], target := { mask := rd.word (o + 0xA0), grp := rd.word (o + 0xA8) }
      xctl := BitVec.ofNat 4 ctl, compat := bitAt ctl 16, binds := (loadBinds rd (o + 0xB8)).map (Binding.rewind · done), allocs := [] }
    votes := (List.range 16).filterMap fun i =>
      let v := rd (o + 0x140 + 16 * i) 8
      if bitAt v 8 then
        let old := e.votes.getD i { id := e.nextVote + i, kind := 0, wide := false, value := 0, awaited := 0, best := none }
        let more := if old.awaited % 32 = bits v 4 0 then old.awaited else bits v 4 0
        some { old with value := rd.word (o + 0x138 + 16 * i), awaited := more }
      else none
    nextVote := e.nextVote + 16
    dir := (List.range 64).map fun i => loadDir (rd (o + 0x238 + 8 * i) 8) }

/-- A trap record at offset o, owed for a wave or by an engine. -/
def loadTrap (rd : AreaRead) (head o : Nat) (wave : Option Nat) : PendingTrap :=
  { record := .of (bits (rd head 8) 5 0) (rd.word o) (rd.word (o + 8)) (rd.word (o + 16)) (rd.word (o + 24))
    seq := bits (rd head 8) 63 32, wave := wave }

/-- The counted writes still outstanding: what the device kept while the drain count says the same, else those above the count. -/
def loadCounted (kept : Context) (issued drain : Nat) : List CountedWrite :=
  if kept.issued == issued && kept.drain == drain then kept.counted
  else (List.range (issued - drain)).map fun i =>
    (kept.counted.find? (·.num == drain + 1 + i)).getD { num := drain + 1 + i, scalar := false, awaited := 1 }

def insertTrap (p : PendingTrap) : List PendingTrap → List PendingTrap
  | [] => [p]
  | q :: l => if p.seq < q.seq then p :: q :: l else q :: insertTrap p l

/-- The traps beyond the first that waves still owe: the layout has no field for them, and the device keeps them (log entry 17). -/
def laterTraps (l : List PendingTrap) : List PendingTrap :=
  (List.range l.length).filterMap fun i => match l[i]? with
    | some p => if p.wave.isSome && (l.take i).any (·.wave == p.wave) then some p else none
    | none => none

/-- The role block at offset o; `c` is what the device kept, `owed` the traps of its stopped waves. Reserved bits of TRAPCAUSE stay 0
(R4). -/
def loadContext (rd : AreaRead) (o : Nat) (c : Context) (owed : List PendingTrap) : Context :=
  let code := rd o 8 % 16
  let win := rd (o + 0x1A0) 8
  let span := rd (o + 0x1A8) 8
  let depth := bits span 38 32
  let entry (k : Nat) : Nat × Nat :=
    if k < 16 then (bits (rd (o + 0x1B0 + 8 * k) 8) 31 0, bits (rd (o + 0x1B0 + 8 * k) 8) 47 32) else c.win.entry k
  let eng := (List.range (min (rd (o + 0x240) 8) 20)).map fun i =>
    let r := if i < 8 then o + 0x248 + 48 * i else o + 0x838 + 48 * (i - 8)
    loadTrap rd r (r + 8) none
  let pending := (eng ++ owed ++ laterTraps c.pending).foldl (fun l p => insertTrap p l) []
  { c with
    status := if code = 3 then .ended else if code = 4 then .halted else .running
    mode := if code = 2 then .handler else if code = 4 then c.mode else .user
    pc := rd.word (o + 8), s := 0 :: (List.range 31).map fun i => rd.word (o + 0x10 + 8 * i)
    bank := (List.range 8).map fun i => rd.word (o + 0x108 + 8 * i)
    xctl := BitVec.ofNat 4 (rd (o + 0x148) 8), compat := bitAt (rd (o + 0x150) 8) 0, wsel := rd.word (o + 0x158)
    trap := { cause := rd.word (o + 0x160) &&& 0x13F, pc := rd.word (o + 0x168), info0 := rd.word (o + 0x170),
              info1 := rd.word (o + 0x178), info2 := rd.word (o + 0x180), info3 := rd.word (o + 0x188),
              epc := rd.word (o + 0x190) }
    cycles := if c.cycles / 20 = rd (o + 0x198) 8 then c.cycles else 20 * rd (o + 0x198) 8
    win := { c.win with
      base := bits win 31 0, frame := bits win 47 32, lo := bits span 31 0
      stack := ((List.range depth).map entry).reverse }
    em := loadEmission rd (o + 0x400) c.em (bits win 31 0), issued := rd (o + 0x230) 8, pending := pending
    counted := loadCounted c (rd (o + 0x230) 8) (rd (o + 0x238) 8), waits := if rd.word (o + 8) == c.pc then c.waits else none
    evSeq := pending.foldl (fun m p => max m (p.seq + 1)) c.evSeq, reply := none }

/-- The cause of the trap that the wave of a block at offset o still owes; 0 when it owes none (Table 15.11). -/
def stopCause (rd : AreaRead) (o : Nat) : Nat := bits (rd (o + 0x1C8) 8) 5 0

/-- What a buffered word is when the device kept nothing of it: it comes from the wave's owner. -/
def plainWord (owner : Nat) (c : Context) (handler : Bool) : StreamWord :=
  { word := 0, payA := 0, payB := 0, payC := 0, xctl := c.xctl, compat := c.compat, emitter := owner, ssn := 0, order := 0,
    handler := handler, base := c.win.base, replay := none, vote := none, counted := none, bar := none, waiting := false }

/-- An entry of a residue over the word it replaces. -/
def loadWord (rd : AreaRead) (o : Nat) (x : StreamWord) : StreamWord :=
  let word := rd.word o
  { x with word := word, payA := rd.word (o + 8), payB := rd.word (o + 16), payC := rd.word (o + 24)
           waiting := laneOp8 word.toNat == 0x98 && bitAt word.toNat 18 && rd.word (o + 8) == 1 }

/-- Entries laid over the words of a stream; spills and reloads keep their places. -/
def loadStream (fresh : StreamWord) : List StreamItem → List (StreamWord → StreamWord) → List StreamItem
  | [], es => es.map fun f => .word (f fresh)
  | .word w :: l, e :: es => .word (e w) :: loadStream fresh l es
  | .word _ :: l, [] => loadStream fresh l []
  | x :: l, es => x :: loadStream fresh l es

def loadBuffer (fresh : StreamWord) : List StreamWord → List (StreamWord → StreamWord) → List StreamWord
  | _, [] => []
  | [], e :: es => e fresh :: loadBuffer fresh [] es
  | w :: l, e :: es => e w :: loadBuffer fresh l es

/-- The wave block at offset o, but for the registers. A stream that a trap stopped stays so while its trap is owed or handled; after a
halt, the driver's resume of the gang lets it go on (R434). -/
def loadWave (rd : AreaRead) (o : Nat) (w : Wave) (owner : Context) : Wave :=
  let code := rd o 8 % 16
  let entries (base n : Nat) : List (StreamWord → StreamWord) := (List.range n).map fun i => loadWord rd (base + 32 * i)
  { w with
    status := if code = 3 && (stopCause rd o != 0 || owner.mode == .handler) then .stopped else if code = 4 then .faulted else .live
    left := .live, wxf := BitVec.ofNat 7 (rd (o + 8) 8), ssn := rd.word (o + 0x10), bw := rd.word (o + 0x18)
    preds := BitVec.allOnes 64 :: (List.range 15).map fun i => rd.word (o + 0x28 + 8 * i)
    hbuf := loadBuffer (plainWord w.owner owner true) w.hbuf (entries (o + 0xC8) (rd (o + 0xC0) 8))
    stream := loadStream (plainWord w.owner owner false) w.stream (entries (o + 0x208) (rd (o + 0x200) 8)) }

/-- Old context slots become new ones in a saved record. -/
def remapAt (m : List (Nat × Nat)) (k : Nat) : Nat :=
  match m.find? (·.1 == k) with
  | some p => p.2
  | none => k
def StreamWord.remap (m : List (Nat × Nat)) (x : StreamWord) : StreamWord := { x with emitter := remapAt m x.emitter }
def StreamItem.remap (m : List (Nat × Nat)) : StreamItem → StreamItem
  | .word w => .word (w.remap m)
  | x => x
def Wave.remap (m : List (Nat × Nat)) (w : Wave) : Wave :=
  { w with
    owner := remapAt m w.owner, lockedBy := w.lockedBy.map (remapAt m), after := w.after.map fun p => (remapAt m p.1, p.2)
    stream := w.stream.map (·.remap m), hbuf := w.hbuf.map (·.remap m) }

/-- The slots that the members of a gang held and hold now. -/
def State.ctxMoves (s : State) (g : Nat) : List (Nat × Nat) :=
  (s.members g).flatMap fun m => match m.2.kept with
    | some k => k.ctxSlots.zip m.2.ctxs
    | none => []
def State.waveMoves (s : State) (g : Nat) : List (Nat × Nat) :=
  (s.members g).flatMap fun m => match m.2.kept with
    | some k => k.waveSlots.zip m.2.waves
    | none => []

/-- The 2 KiB piece at an address of a save area, as the spill sequencer has read it before a pause or reads it now (R435). -/
def State.areaPiece (s : State) (w : Workgroup) (va : Nat) : List Byte :=
  match (s.gang w.gang).read.find? (·.1 == va) with
  | some p => p.2
  | none => match s.areaLoc w va 2048 .reload with
    | .ok loc => (locRange loc 2048).map s.byte
    | .error _ => []

/-- A saved field of a member, which lies in one piece. -/
def State.areaRead (s : State) (w : Workgroup) : AreaRead := fun off n =>
  let va := w.saveAt + off
  match (s.gang w.gang).read.find? (·.1 == va / 2048 * 2048) with
  | some p => leNat ((p.2.drop (va % 2048)).take n)
  | none => match s.superLocs w.cluster w.ctxid va n .load false with
    | .ok ls => s.readLocs ls
    | .error _ => 0

/-- Step 1 of R360: the scratchpad image. -/
def loadSpad (s0 : State) (g : Nat) : Act Unit := do
  let w := s0.wg g
  let n := 4096 * w.header.units
  let locs := locRange (spadLoc w.cluster w.spad) n
  each (List.range (w.header.units * 2)) fun i => do
    writeLocs ((locs.drop (2048 * i)).take 2048) (s0.areaPiece w (w.saveAt + w.header.spadOffset + 2048 * i))
    tallyMoved (some w.cluster) 2048
  let bad := match w.kept with
    | some k => (k.bad.filter (w.header.spadOffset ≤ ·)).map fun o => spadLoc w.cluster (w.spad + (o - w.header.spadOffset))
    | none => []
  if bad.isEmpty then pure () else poisonLocs bad

/-- Step 2: the regions are armed again before any agent runs (R295). DESIGN CHOICE (log entry 118): every one is, also where the 16
comparators of its new scratchpad or chip share are taken. -/
def rearm (g : Nat) : Act Unit := do
  let s ← now
  let w := s.wg g
  let rd := s.areaRead w
  modWg g fun w => { w with marks := (List.range 16).map fun n =>
    let m := loadMark rd (0x500 + 64 * n) (w.mark n) (s.savedBound w rd (0x500 + 64 * n))
    { m with bound := m.bound.map fun b =>
      let loc := if b.len = 0 then none else s.spanLoc w b.dst
      { b with dstLoc := loc, armed := loc.isSome && b.state != .published } } }

/-- Step 3 for accumulators, registers and their poison. -/
def loadElements (s0 : State) (g : Nat) : Act Unit := do
  let w := s0.wg g
  let h := w.header
  let rd := s0.areaRead w
  let bad := match w.kept with
    | some k => k.bad
    | none => []
  each (List.range h.accs) fun n => do
    emits ((List.range 16384).map fun e => .acc (w.accKey n 0 e) (BitVec.ofNat 32 (rd (h.accOffset + 65536 * n + 4 * e) 4)))
    let t ← now
    let lo := w.accKey n 0 0
    let mine := (bad.filter fun o => h.accOffset + 65536 * n ≤ o && o < h.accOffset + 65536 * (n + 1)).map fun o =>
      lo + (o - (h.accOffset + 65536 * n)) / 4
    emit (.badAccs ((t.badAccs.filter fun k => k < lo || lo + 16384 ≤ k) ++ mine))
  each ((List.range w.waves.length).zip w.waves) fun p => do
    let v := (← now).wave p.2
    let o := h.waveOffset p.1 + 0x2000
    let key (n l : Nat) : Nat := regKey w.cluster v 0 n l
    each (List.range v.width) fun n =>
      emits ((List.range 64).map fun l => .vreg (key n l) (BitVec.ofNat 32 (rd (o + 256 * n + 4 * l) 4)))
    let t ← now
    let mine := (bad.filter fun b => o ≤ b && b < o + 256 * v.width).map fun b => key ((b - o) / 256) ((b - o) % 256 / 4)
    let lo := key 0 0
    emit (.badRegs ((t.badRegs.filter fun k => k < lo || lo + 64 * v.width ≤ k) ++ mine))

/-- The rest of step 3 and step 4 for one member. -/
def loadMember (s0 : State) (g : Nat) : Act Unit := do
  let w := s0.wg g
  let h := w.header
  let d := s0.dctx w.ctxid
  let rd := s0.areaRead w
  let moves := s0.ctxMoves w.gang
  let wmoves := s0.waveMoves w.gang
  let kinds := (List.range 8).map fun i => match rd 0x38 8 / 4 ^ i % 4 with
    | 1 => AccKind.f32
    | 2 => AccKind.i32
    | _ => AccKind.none
  let queue := (List.range 4).filterMap fun i => loadMatrix rd (0x900 + 256 * i) w.mqueue[i]? kinds
  modWg g fun w =>
    { w with
      tiles := (List.range 16).map (fun t => loadTile rd (0x100 + 64 * t)), kinds := kinds, mqueue := queue
      mseq := rd.word 0x30, mdone := rd.word 0x30 - BitVec.ofNat 64 queue.length
      bars := (List.range 16).map fun k => if k < h.bars then loadBarrier (rd (0xD00 + 8 * k) 8) (w.bars.getD k Barrier.zero)
        else w.bars.getD k Barrier.zero
      bits := (List.range 16).map fun k => if k < h.bars then loadBits (rd (0xD00 + 8 * k) 8) else w.barBits 0 k
      gbits := (List.range 8).map fun k => if k < h.gbars then loadBits (rd (0xD80 + 8 * k) 8) else w.barBits 1 k }
  if w.member = 0 then modGang w.gang fun x =>
      { x with gbars := (List.range 8).map fun k =>
          if k < h.gbars then loadBarrier (rd (0xD80 + 8 * k) 8) (x.gbars.getD k Barrier.zero) else x.gbars.getD k Barrier.zero }
    else pure ()
  let ctxOf (role : Nat) : Context :=
    let mine := ((List.range w.waves.length).zip w.waves).filter fun p =>
      (h.waveRoles.getD p.1 (0, 0)).1 == role && (rd (h.waveOffset p.1) 8 % 16 == 3 || rd (h.waveOffset p.1) 8 % 16 == 4)
    let owed := mine.filterMap fun p =>
      let o := h.waveOffset p.1
      if stopCause rd o = 0 then none else some (loadTrap rd (o + 0x1C8) (o + 0xA0) (some p.2))
    let fresh := roleContext w g role d
    let c := loadContext rd (0x1000 + 4096 * role) (match w.kept with
      | some k =>
        let c := k.ctxs.getD role fresh
        { c with
          resumes := c.resumes.map (remapAt wmoves)
          pending := c.pending.map fun p => { p with wave := p.wave.map (remapAt wmoves) } }
      | none => { fresh with resumes := (mine.find? fun p => stopCause rd (h.waveOffset p.1) == 0).map (·.2) }) owed
    let q := c.em.seq
    let parts := (s0.seqClusters (w.ctxs.getD role 0) q.target).map fun x => { cluster := x, rep := (q.part 0).rep, next := 0 : SeqPart }
    { c with
      resumes := if c.mode == .handler then c.resumes else none
      em := { c.em with seq := { q with parts := if q.busy then parts else [] } } }
  each ((List.range w.ctxs.length).zip w.ctxs) fun p => setCtx p.2 (ctxOf p.1)
  each ((List.range w.waves.length).zip w.waves) fun p =>
    modWave p.2 fun v =>
      let role := (h.waveRoles.getD p.1 (0, 0)).1
      let fresh : Wave :=
        { Wave.free with wg := g, wix := p.1, rix := (h.waveRoles.getD p.1 (0, 0)).2, bw := BitVec.ofNat 64 (w.privAt.getD p.1 0),
                         owner := w.ctxs.getD role 0 }
      let base := match w.kept with
        | some k => (k.waves.getD p.1 fresh).remap moves
        | none => fresh
      let c := ctxOf role
      let y := loadWave rd (h.waveOffset p.1) base c
      let stop := ((c.pending.find? (·.wave == some p.2)).map (·.seq)).getD (base.stopSeq.getD 0)
      { y with
        phys := v.phys, width := v.width
        stopSeq := if y.status == .stopped || (y.status == .faulted && (base.stopSeq.isSome || stopCause rd (h.waveOffset p.1) != 0)) then
          some stop else none }

/-! ### What a gang's residues say of it, when the device kept nothing (R369, R373, R431; log entry 65) -/

/-- Numbers, the newest first, go to the newest words that take one. -/
def tieNewest (takes : StreamWord → Bool) (put : StreamWord → Nat → StreamWord) : List Nat → List StreamWord → List StreamWord
  | i :: ids, x :: l => if takes x then put x i :: tieNewest takes put ids l else x :: tieNewest takes put (i :: ids) l
  | _, l => l

def StreamWord.isOp (op : Nat) (x : StreamWord) : Bool := laneOp8 x.word.toNat == op
def StreamWord.counts (x : StreamWord) : Bool := isCounted (laneOp8 x.word.toNat)

/-- The VBARs that stand in a role's waves, with numbers for each: those of one word are told apart by their place among the waves' words
of it, so that VBARs of different barriers stay apart (R369). -/
def barNumbers (role : Nat) (buffers : List (List StreamWord)) : List (Word × List Nat) :=
  let words := ((buffers.flatten.filter (·.isOp 0x98)).map (·.word)).dedup
  (words.foldl (fun acc b =>
    let n := (buffers.map fun l => (l.filter (·.word == b)).length).foldl max 0
    (acc.1 ++ [(b, (List.range n).map (role * 2 ^ 16 + acc.2 + ·))], acc.2 + n)) ([], 0)).1

/-- The arrival that the words of one VBAR in a role's waves stand for. -/
def State.recoveredBar (s : State) (g role id : Nat) (words : List StreamWord) : Option Vbar :=
  match words with
  | [] => none
  | x :: _ =>
    let w := LaneWord.ofNat x.word.toNat
    let lvl := w.srcC.toNat / 16 % 4
    let num := w.srcC.toNat % 16
    let left := (words.filter (! ·.waiting)).length
    let phases := (s.bar g lvl num).phases
    some { id := id, role := role, lvl := lvl, num := num, wait := w.mod6.getLsbD 0, left := left, retiring := words.length
           arrived := if left = 0 then some (if s.hasArrived g role lvl num then phases else phases - 1) else none, ids := [] }

/-- The entry that the words of one VVOTE will answer: its kind from the word; of the waves that have answered a .first or .uniq vote,
the lowest of those that have no word of it left is taken to hold the answer. -/
def recoveredVote (e : VoteEntry) (words : List StreamWord) (answered : Option Nat) : VoteEntry :=
  match words with
  | [] => e
  | x :: _ =>
    let m := (LaneWord.ofNat x.word.toNat).mod6.toNat
    { e with kind := m % 8, wide := bitAt m 3, best := if e.value == voteStart (m % 8) (bitAt m 3) then none else answered }

/-- The votes, counted writes and arrivals of a role's residues. -/
def recoverRole (g role : Nat) : Act Unit := do
  let s ← now
  let w := s.wg g
  match w.ctxs[role]? with
  | none => pure ()
  | some k =>
    let c := s.ctx k
    let vs := s.roleWaves k
    let newest (v : Nat) : List StreamWord := (streamWords (s.wave v).stream ++ (s.wave v).hbuf).reverse
    let bars := barNumbers role (vs.map newest)
    let tied (v : Nat) : List StreamWord :=
      bars.foldl (fun l b => tieNewest (·.word == b.1) (fun x i => { x with bar := some i }) b.2 l)
        (tieNewest (·.isOp 0x97) (fun x i => { x with vote := some i }) ((c.em.votes.filter (0 < ·.awaited)).map (·.id)).reverse
          (tieNewest (·.counts) (fun x i => { x with counted := some i }) (c.counted.map (·.num)).reverse (newest v)))
    let all := vs.flatMap tied
    each vs fun v => modWave v fun y =>
      let l := (tied v).reverse
      let n := (streamWords y.stream).length
      { y with stream := (l.take n).map .word, hbuf := l.drop n }
    let free (id : Nat) : Option Nat :=
      (vs.find? fun v => !((tied v).any (·.vote == some id))).map fun v => w.member * 64 + (s.wave v).wix
    setCtx k { c with
      counted := c.counted.filterMap fun n =>
        let a := (all.filter (·.counted == some n.num)).length
        if a = 0 then none else some { n with awaited := a }
      em := { c.em with votes := c.em.votes.map fun e => recoveredVote e (all.filter (·.vote == some e.id)) (free e.id) } }
    modWg g fun w =>
      { w with
        nextVbar := 2 ^ 20
        vbars := w.vbars ++ (bars.flatMap (·.2)).filterMap fun id => s.recoveredBar g role id (all.filter (·.bar == some id)) }
    if c.status == .ended && !(← now).anyArrivalDue g role then modWg g fun w => { w with left := w.left ||| roleBit role } else pure ()

/-- The pieces of 2 KiB that a restore reads of a member between two offsets. -/
def memberPieces (m : Nat × Workgroup) (lo hi : Nat) : List (Nat × Nat) :=
  (List.range ((hi - lo + 2047) / 2048)).map fun i => (m.1, m.2.saveAt + lo + 2048 * i)

/-- What a restore reads, in the order of R360: the scratchpad images, the watermark records, then accumulators, the rest of the header
and the waves, and the contexts. -/
def State.restorePieces (s : State) (g : Nat) : List (Nat × Nat) :=
  let ms := s.members g
  ms.flatMap (fun m => memberPieces m m.2.header.spadOffset m.2.header.saveBytes)
    ++ ms.flatMap (fun m => memberPieces m 0 0x800)
    ++ ms.flatMap (fun m => memberPieces m m.2.header.accOffset m.2.header.spadOffset ++ memberPieces m 0x800 0x1000
        ++ memberPieces m 0x5000 m.2.header.accOffset)
    ++ ms.flatMap (fun m => memberPieces m 0x1000 (0x1000 + 4096 * m.2.ctxs.length))

/-- No piece that a restore has still to read is held (R25). -/
def State.readsReady (s : State) (g : Nat) : Bool :=
  s.calm || ((s.restorePieces g).drop (s.gang g).progress).all fun p => !s.areaHeld (s.wg p.1) p.2 2048 .reload

/-- Read the pieces of the areas from where a pause has left them; at the first that cannot be read pause, and keep what has been read
(R435). -/
def readAreas (g : Nat) : Act Bool := do
  let s ← now
  let i := (s.gang g).progress
  let rest := (s.restorePieces g).drop i
  let found (p : Nat × Nat) : Except XFail Nat := s.areaLoc (s.wg p.1) p.2 2048 .reload
  let good := rest.takeWhile fun p => match found p with
    | .ok _ => true
    | .error _ => false
  each good fun p => do
    let w := s.wg p.1
    usePages w.cluster w.ctxid [p.2] .reload
    match found p with
    | .ok loc => each (lineStarts (locRange loc 2048)) fun l => touchL2 l (s.stickyHint w.cluster w.ctxid p.2 .reload)
    | .error _ => pure ()
  match (rest.drop good.length).head? with
  | none => pure true
  | some p => do
    modGang g fun x => { x with read := x.read ++ good.map fun q => (q.2, s.areaPiece (s.wg q.1) q.2) }
    match found p with
    | .error f => pauseGang g p.1 7 p.2 f (i + good.length)
    | .ok _ => pure ()
    pure false

/-- The restore finds fields out of range (R359): each affected context halts, its area shows it, and the gang stays
saved until the driver resumes it. -/
def refuseRestore (g : Nat) (bad : List (Nat × Nat × Nat × Nat)) : Act Unit := do
  each bad fun b => do
    let s ← now
    let w := s.wg b.1
    let o := w.saveAt + 0x1000 + 4096 * b.2.1
    coreWrite w.ctxid o (leBytes 8 4)
    coreWrite w.ctxid (o + 0x160) (layBytes [n8 b.2.2.2, n8 (s.areaRead w (0x1000 + 4096 * b.2.1 + 8) 8), n8 b.2.2.1, n8 0, n8 0, n8 0])
    raiseEvent (s.dctx w.ctxid).desc.part 1 w.ctxid 0 w.cluster (BitVec.ofNat 64 b.2.2.2)
      (BitVec.ofNat 64 (w.wgid + b.2.1 * 2 ^ 32))
  each ((← now).gang g).wgs fun m => leaveCluster m .saved
  modGang g fun x => { x with waits := true, trigger := some .halt, progress := 0, read := [] }

/-- The gang's saved fields that are out of range: workgroup, role, offset and cause. -/
def State.badFields (s : State) (g : Nat) : List (Nat × Nat × Nat × Nat) :=
  (s.members g).flatMap fun m => (List.range m.2.ctxs.length).filterMap fun r =>
    (s.badField m.2 (s.gang g).size (s.member0 g) r (s.areaRead m.2)).map fun p => (m.1, r, p.1, p.2)

/-- Steps 1 to 5 of R360, once the gang has its clusters, in its turn at their spill sequencers (R361). -/
def restoreGang (g : Nat) : Act Unit := withSpills g do
  let s ← now
  let ok ← if s.readsReady g then readAreas g else pure false
  if !ok then pure ()
  else
    let s0 ← now
    let bad := s0.badFields g
    if !bad.isEmpty then refuseRestore g bad
    else
      let ms := (s0.gang g).wgs
      each ms (loadSpad s0)
      each ms rearm
      each ms (loadElements s0)
      each ms (loadMember s0)
      each ms fun m => if (s0.wg m).kept.isSome then pure () else each (List.range (s0.wg m).ctxs.length) (recoverRole m)
      each ms fun m => do
        let w := (← now).wg m
        endSpill w.cluster (.gang g)
        dropKernelLines w.cluster w.ctxid w.header.addr (w.header.addr + w.header.extent)
        modWg m fun w => { w with status := .running, kept := none }
      let again := ((← now).gang g).trigger
      modGang g fun x => { x with trigger := none, waits := false, progress := 0, read := [] }
      match ms with
      | m :: _ => settleHeld ((← now).wg m).ctxid
      | [] => pure ()
      match again with
      | some t => preempt g t
      | none => pure ()

/-! ### GANG_RESTORE -/

/-- Its trigger lets a saved gang be placed again (Table 15.5): one that was saved for a spare substitution, once the spare has taken the
cluster's number (R26). -/
def State.mayRestore (s : State) (g : Nat) : Bool :=
  let x := s.gang g
  match x.wgs with
  | [] => false
  | m :: _ =>
    x.waits && !x.discarded && x.trigger != some .halt && (s.dctx (s.wg m).ctxid).status == .runnable
      && x.wgs.all fun w => (s.wg w).status == .saved && !(x.trigger == some .spare && (s.cluster (s.wg w).cluster).failing)

/-- A gang that holds its clusters and whose restore was answered goes on. -/
def State.restoreGoesOn (s : State) (g : Nat) : Bool :=
  let x := s.gang g
  !x.paused && !x.wgs.isEmpty && (x.wgs.all fun w => (s.wg w).status == .restoring) && s.gangTurn g && s.readsReady g

/-- The member held a cluster whose number a spare has taken over (R26). -/
def State.spared (s : State) (c : Nat) : Bool := (s.die (dieOf c)).spareFor == some c

/-- Place a saved gang by R354; after a spare substitution, a member of the failed cluster goes to the spare with its number (R357). -/
def placeAgain (g : Nat) : Act Bool := do
  let s ← now
  let x := s.gang g
  match x.wgs with
  | [] => pure false
  | m :: _ =>
    let w := s.wg m
    let part := (s.dctx w.ctxid).desc.part
    let own := match x.origin with
      | .launch l => [((s.launch l).floor, (s.launch l).floorDies)]
      | .batch _ _ _ => []
    let fixed (m : Nat) : Option Nat :=
      let c := (s.wg (x.wgs.getD m 0)).cluster
      if x.trigger == some .spare && s.spared c then some c else none
    let t := placeGang (s.judge (own ++ s.residentFloors)) w.header g x.size (s.offered part) s.seats fixed
    match x.origin with
    | .launch l => modQueue w.ctxid (s.launch l).queue fun q => q.refuse t.refused (if t.seats.isSome then none else some 1)
    | .batch _ _ _ => pure ()
    match t.seats with
    | none => pure false
    | some seats =>
      let awake ← wakeClusters part (seats.map (·.cluster))
      if !awake then pure false
      else
        modGang g fun x => { x with placedAt := s.dev.time, trigger := none, waits := false, progress := 0 }
        each (x.wgs.zip seats) fun p => do
          modWg p.1 fun w =>
            { w with
              status := .restoring, cluster := p.2.cluster, ctxs := p.2.ctxs.map (p.2.cluster * 16 + ·)
              waves := p.2.waves.map (fun v => p.2.cluster * 32 + v.1), spad := 4096 * p.2.spad, accs := p.2.accs }
          reserve p.1 p.2
          notePlaced p.2.cluster w.header.heat
        pure true

/-- GANG_RESTORE (R360): a saved gang is placed and restored; one that has paused goes on (R435). -/
def execGangRestore (g : Nat) (s : State) : Result :=
  event "GANG_RESTORE" (fun s => s.mayRestore g || s.restoreGoesOn g) (do
    if s.restoreGoesOn g then restoreGang g
    else
      let ok ← placeAgain g
      if ok then restoreGang g else pure ()) s

end Sys2Proof.Machine
end

