-- ==== Sys2Proof/Machine/Command.lean ====
section
/-! DEFINITION. How the core runs commands (R427 to R429): host memory as it reaches it, permissions, completions, and the
life of device contexts (R297, R306, R307). -/
namespace Sys2Proof.Machine

/-! ### Host memory by bus address (R414, R428) -/

/-- The location of a host bus address: the host window addresses the first 2^48; those above have places of their own. -/
def busLoc (a : Nat) : Nat := if a < 2 ^ 48 then 0x8_0000_0000_0000 + a else 2 ^ 58 + a
def busLocs (a n : Nat) : List Nat := (List.range n).map fun i => busLoc ((a + i) % 2 ^ 64)
def State.busRead (s : State) (a n : Nat) : List Byte := (busLocs a n).map s.byte
def busWrite (a : Nat) (bytes : List Byte) : Act Unit := do
  keepWrite (busLocs a bytes.length) ((← now).newest .core (busLocs a bytes.length) bytes)

/-! ### Checks and completions -/

/-- The status of the first check that fails, or 0 (Table 19.7). -/
def firstStatus : List (Bool × Nat) → Nat
  | [] => 0
  | (bad, st) :: r => if bad then st else firstStatus r

/-- A record completes (R429): STATUS and RESULT in one write, then the event of kind 9 (Table 12.4). -/
def completeCommand (h : CmdHead) (op status result : Nat) : Act Unit := do
  busWrite (h.slot + 0x38) (leBytes 4 status ++ leBytes 4 result)
  raiseEvent h.part 9 h.ctxid 3 0 (BitVec.ofNat 64 (h.tag.toNat + op * 2 ^ 32)) (BitVec.ofNat 64 (status + result * 2 ^ 32))

/-- A command that ends at once: a status other than 0 changes nothing (R429). -/
def command (h : CmdHead) (op status : Nat) (a : Act Nat) : Act Unit := do
  if status ≠ 0 then completeCommand h op status 0
  else
    let result ← a
    completeCommand h op 0 result

/-- A command that waits holds its partition until COMMAND_COMPLETE finds it over (R427). -/
def waitingCommand (h : CmdHead) (op status : Nat) (i : Instr) (a : Act Unit) : Act Unit := do
  if status ≠ 0 then completeCommand h op status 0
  else
    modPart h.part fun p => { p with busy := some i, waits := [] }
    a

/-- Naming a context (R428): 4 when there is none, 9 when it was destroyed, 2 when another partition owns it. -/
def State.ctxStatus (s : State) (h : CmdHead) : Nat :=
  match s.devIx h.ctxid with
  | none => if s.devs.any (·.desc.ctxid == h.ctxid) then 9 else 4
  | some i => if h.part = 0 || (s.devAt i).desc.part = h.part then 0 else 2

/-- A command marked H (R411). -/
def hyperOnly (h : CmdHead) : Bool × Nat := (h.part ≠ 0, 2)

/-- The checks of a command on a context, after the context itself. -/
def State.ctxChecks (s : State) (h : CmdHead) (l : List (Bool × Nat)) : Nat :=
  firstStatus ((s.ctxStatus h != 0, s.ctxStatus h) :: l)

def DevCtx.isIn (d : DevCtx) (l : List DevStatus) : Bool := l.contains d.status

/-! ### CREATE_CONTEXT (R297) -/

def isPow2 (n : Nat) : Bool := (List.range 17).any fun i => n == 2 ^ i

/-- The descriptor in 128 bytes (Table 12.1). -/
def parseDescriptor (b : List Byte) : Descriptor :=
  { root := field b 0 8, ctxid := field b 8 2, part := field b 0xA 1, level := field b 0xB 1
    compats := BitVec.ofNat 2 (field b 0xC 1), traps := BitVec.ofNat 4 (field b 0xD 1), spill := field b 0xE 2
    tvec := BitVec.ofNat 64 (field b 0x10 8), hext := field b 0x18 4, loftBase := field b 0x20 8, loftSlots := field b 0x28 4
    privBase := field b 0x30 8, privBytes := field b 0x38 8, faultBase := field b 0x40 8, faultCount := field b 0x48 4
    saveBase := field b 0x50 8, saveBytes := field b 0x58 8, stackBase := field b 0x60 8, stackBytes := field b 0x68 4
    stackSlots := field b 0x6C 4 }

/-- Table 12.1's alignments and ranges; a reserved byte is 0 and the level is 2. -/
def descriptorOk (b : List Byte) : Bool :=
  let d := parseDescriptor b
  d.root % 4096 == 0 && (dramLoc d.root).isSome && 1 ≤ d.ctxid && d.ctxid ≤ 4095 && d.part < 16 && d.level == 2
    && field b 0xC 1 < 4 && d.compats != 0 && field b 0xD 1 < 16 && 1 ≤ d.spill && d.spill ≤ 128
    && d.tvec.toNat % 4 == 0 && d.hext % 4 == 0 && (d.tvec != 0 || d.hext == 0)
    && d.loftBase % 131072 == 0 && 1 ≤ d.loftSlots && d.loftSlots ≤ 65536 && d.privBase % 256 == 0
    && d.faultBase % 64 == 0 && isPow2 d.faultCount && 16 ≤ d.faultCount && d.faultCount ≤ 65536
    && d.saveBase % 4096 == 0 && d.stackBase % 4096 == 0 && d.stackBytes % 4096 == 0 && d.stackBytes ≤ 0x100_0000
    && (if d.stackBytes = 0 then d.stackSlots == 0 else 1 ≤ d.stackSlots && d.stackSlots ≤ 65536)
    && field b 0x1C 4 == 0 && field b 0x2C 4 == 0 && field b 0x4C 4 == 0 && field b 0x70 16 == 0

/-- The checks of a descriptor that a command brings (R297, R428, R431). -/
def State.descStatus (s : State) (h : CmdHead) (b : List Byte) : Nat :=
  let d := parseDescriptor b
  firstStatus [(!descriptorOk b || d.ctxid ≠ h.ctxid, 3), (h.part ≠ 0 && d.part ≠ h.part, 2), ((s.devIx d.ctxid).isSome, 6)]

/-- CREATE_CONTEXT (R297). -/
def execCreateContext (h : CmdHead) (desc : Nat) (s : State) : Result := commit (do
  let b := s.busRead desc 128
  let st := if h.answers then s.descStatus h b else 7
  command h 0x0001 st (do
    emit (.addDev { DevCtx.blank with desc := parseDescriptor b, status := .created })
    pure 0)) s

/-! ### Enable, suspend, resume (R306) -/

/-- ENABLE_CONTEXT. -/
def execEnableContext (h : CmdHead) (s : State) : Result := commit (
  command h 0x0002 (s.ctxChecks h [((s.dctx h.ctxid).status != .created, 5)]) (do
    modDctx h.ctxid fun d => { d with status := .runnable }
    pure 0)) s

/-- The gangs of a context that are not retired. -/
def State.gangsOf (s : State) (ctxid : Nat) : List Nat :=
  (List.range s.gangs.length).filter fun g =>
    !(s.gang g).discarded && (s.gang g).wgs.any fun w => (s.wg w).ctxid == ctxid

/-- Queues stop dispatching, and every gang is pre-empted (R306, R314, R357). -/
def beginSuspend (ctxid : Nat) : Act Unit := do
  modDctx ctxid fun d =>
    { d with status := .suspending,
             queues := d.queues.map fun q => if q.status == .enabled then { q with status := .stopped } else q }
  each ((← now).gangsOf ctxid) fun g => preempt g .suspend

/-- Every workgroup of the context is SAVED; its copies are then PARKED or beyond. -/
def State.suspendDone (s : State) (ctxid : Nat) : Bool :=
  (s.gangsOf ctxid).all fun g => (s.gang g).wgs.all fun w => (s.wg w).status == .saved

/-- The context is RUNNABLE again: queues start, and held answers take effect (R306, R314). -/
def resumeDev (ctxid : Nat) : Act Unit := do
  modDctx ctxid fun d =>
    { d with status := .runnable,
             queues := d.queues.map fun q => if q.status == .stopped then { q with status := .enabled } else q }
  settleHeld ctxid
  flushFaults ctxid

/-- A boundary-table change keeps the context suspended (R392). -/
def State.heldByTables (s : State) (ctxid : Nat) : Bool :=
  s.parts.any fun p => p.waits.contains ctxid && match p.busy with
    | some (.writeBoundaryEntry _ _ _ _ _ _) => true
    | _ => false

/-- SUSPEND_CONTEXT. -/
def execSuspendContext (h : CmdHead) (s : State) : Result := commit (
  waitingCommand h 0x0003 (s.ctxChecks h [((s.dctx h.ctxid).status != .runnable, 5)]) (.suspendContext h)
    (beginSuspend h.ctxid)) s

/-- RESUME_CONTEXT. -/
def execResumeContext (h : CmdHead) (s : State) : Result := commit (
  command h 0x0004 (s.ctxChecks h [((s.dctx h.ctxid).status != .suspended || s.heldByTables h.ctxid, 5)]) (do
    resumeDev h.ctxid
    pure 0)) s

/-! ### DESTROY_CONTEXT (R307) -/

/-- The chain units learn that the workgroups of a context are gone (R422). -/
def killRanks (ctxid : Nat) : Act Unit := do
  let s ← now
  let gone := ((s.gangsOf ctxid).flatMap fun g => (s.gang g).wgs).map fun w => (s.wg w).wgid
  modDevice fun d => { d with comms := d.comms.map fun c =>
    { c with dead := (c.dead ++ (List.range c.ranks.length).filter fun r => match c.ranks[r]? with
        | some (p, x, w) => p == d.package && x == ctxid && gone.contains w
        | none => false).dedup } }

/-- Translations, lines and walks of a context leave the device. -/
def dropContextCaches (ctxid : Nat) : Act Unit := do
  each (List.range Config.clusters) fun k => modCluster k fun c =>
    { c with
      icache := c.icache.filter (·.ctxid != ctxid), icFills := c.icFills.filter (·.ctxid != ctxid)
      dcache := c.dcache.filter (·.1 != ctxid), dcFills := c.dcFills.filter (·.ctxid != ctxid)
      loftFills := c.loftFills.filter (·.ctxid != ctxid), tlb := c.tlb.filter (·.ctxid != ctxid) }
  each (List.range Config.dies) fun k => modDie k fun d =>
    { d with
      l2tlb := d.l2tlb.filter (·.ctxid != ctxid), walks := d.walks.filter (·.ctxid != ctxid)
      joined := d.joined.filter (·.ctxid != ctxid), misses := d.misses.filter (·.ctxid != ctxid) }

/-- Destroy takes effect at once (R307): no signal is written, queues and nodes discard what they hold. -/
def destroyDev (ctxid : Nat) : Act Unit := do
  killRanks ctxid
  let s ← now
  each ((List.range s.launches.length).filter fun l => (s.launch l).ctxid == ctxid) fun l =>
    modLaunch l fun r => { r with signal := 0 }
  modDctx ctxid fun d =>
    { d with nodes := [], faults := [], queues := d.queues.map fun q =>
      { q with status := .destroyed, held := [], tasks := [], counters := [], current := none } }
  each (s.gangsOf ctxid) fun g => retireGang g 3
  dropContextCaches ctxid
  modDctx ctxid fun d => { d with status := .destroyed, comms := [] }

/-- DESTROY_CONTEXT. -/
def execDestroyContext (h : CmdHead) (s : State) : Result := commit (
  command h 0x0005 (s.ctxStatus h) (do
    destroyDev h.ctxid
    pure 0)) s

/-! ### Queues and nodes (R313, R314, R326) -/

def newQueue (q : Nat) (data : Bool) (ring entries floor dies : Nat) : Queue :=
  { num := q, data := data, ring := ring, entries := entries, floor := floor, floorDies := dies, status := .disabled, held := []
    tail := 0, counters := [], tasks := [], disp := 0, reason := 0, reasonVault := 0, reasonAvail := 0, refusals := 0
    headSince := 0, current := none, vector := none }

/-- CREATE_QUEUE (R313). -/
def execCreateQueue (h : CmdHead) (q : Nat) (data : Bool) (ring entries floor dies : Nat) (s : State) : Result := commit (
  let d := s.dctx h.ctxid
  let ok := q < 256 && ring % 64 == 0 && isPow2 entries && 16 ≤ entries && entries ≤ 65536 && ring + 64 * entries ≤ 2 ^ 48
    && floor ≤ 400 && dies < 16
  command h 0x0010 (s.ctxChecks h [(!ok, 3), ((d.queue q).isSome, 6)]) (do
    modDctx h.ctxid fun d =>
      { d with queues := d.queues.filter (·.num != q) ++ [newQueue q data ring entries floor dies] }
    pure 0)) s

/-- A queue command: the queue exists and is in one of the states it applies from (Table 13.1). -/
def queueCommand (h : CmdHead) (op q : Nat) (wants : List QueueStatus) (to_ : QueueStatus) : Act Unit := do
  let s ← now
  let x := (s.dctx h.ctxid).queue q
  let inState := match x with
    | some x => wants.contains x.status
    | none => false
  command h op (s.ctxChecks h [(x.isNone, 4), (!inState, 5)]) (do
    modQueue h.ctxid q fun x => { x with status := to_ }
    pure 0)

/-- ENABLE_QUEUE, STOP_QUEUE and START_QUEUE (R314). -/
def execEnableQueue (h : CmdHead) (q : Nat) (s : State) : Result := commit (queueCommand h 0x0011 q [.disabled] .enabled) s
def execStopQueue (h : CmdHead) (q : Nat) (s : State) : Result := commit (queueCommand h 0x0012 q [.enabled] .stopped) s
def execStartQueue (h : CmdHead) (q : Nat) (s : State) : Result := commit (queueCommand h 0x0013 q [.stopped] .enabled) s

/-- DESTROY_QUEUE (R314): records still held are discarded, and no completion signal is written for them. -/
def execDestroyQueue (h : CmdHead) (q : Nat) (s : State) : Result := commit (
  let x := (s.dctx h.ctxid).queue q
  command h 0x0014 (s.ctxChecks h [(x.isNone, 4)]) (do
    match x with
    | none => pure ()
    | some x => each (x.current.toList ++ x.tasks.filterMap (·.launch)) fun l => modLaunch l fun r => { r with signal := 0 }
    modQueue h.ctxid q fun x =>
      { x with status := .destroyed, held := [], tasks := [], counters := [], current := none }
    pure 0)) s

/-- CREATE_NODE (R326). -/
def execCreateNode (h : CmdHead) (node prio header size count timer pool : Nat) (s : State) : Result := commit (
  let ok := node < 4096 && prio < 4 && size % 8 == 0 && 8 ≤ size && size ≤ 64 && 1 ≤ count && count ≤ 256 && timer < 65536
    && pool % 64 == 0
  command h 0x0018 (s.ctxChecks h [(!ok, 3), (((s.dctx h.ctxid).node node).isSome, 6)]) (do
    modDctx h.ctxid fun d => { d with nodes := d.nodes ++ [{
      handle := node, header := header, prio := prio, size := size, count := count, timer := timer, pool := pool, opened := none
      sealed := [], slots := List.replicate 17 false, dying := false, headSince := 0 }] }
    pure 0)) s

/-- DESTROY_NODE: the open batch is discarded at once; the node goes when its sealed batches have run (R428). -/
def execDestroyNode (h : CmdHead) (node : Nat) (s : State) : Result := commit (
  waitingCommand h 0x0019 (s.ctxChecks h [(((s.dctx h.ctxid).node node).isNone, 4)]) (.destroyNode h node)
    (modNode h.ctxid node fun n =>
      { n with dying := true, opened := none, slots := match n.opened with
          | some b => n.slots.set b.slot false
          | none => n.slots })) s

/-! ### Code and translations (R338, R383) -/

/-- REGISTER_CODE (R338); the result is the entry's index. -/
def execRegisterCode (h : CmdHead) (base bytes table : Nat) (s : State) : Result := commit (
  let d := s.dctx h.ctxid
  let overlap := d.code.any fun e => match e with
    | some (b, n, _) => b < base + bytes && base < b + n
    | none => false
  let slot := d.code.findIdx? (·.isNone)
  command h 0x0020 (s.ctxChecks h [(overlap, 8), (slot.isNone, 6)]) (do
    let i := slot.getD 0
    modDctx h.ctxid fun d => { d with code := d.code.set i (some (base, bytes, table)) }
    pure i)) s

/-- DEREGISTER_CODE (R338). -/
def execDeregisterCode (h : CmdHead) (base : Nat) (s : State) : Result := commit (
  let slot := (s.dctx h.ctxid).code.findIdx? fun e => match e with
    | some (b, _, _) => b == base
    | none => false
  command h 0x0021 (s.ctxChecks h [(slot.isNone, 4)]) (do
    modDctx h.ctxid fun d => { d with code := d.code.set (slot.getD 0) none }
    pure 0)) s

/-- A TLB entry of a context that overlaps [va, va + bytes); 0 bytes stand for the whole address space. -/
def TlbEntry.inRange (t : TlbEntry) (ctxid va bytes : Nat) : Bool :=
  t.ctxid == ctxid && (bytes == 0 || (t.va < va + bytes && va < t.va + 2 ^ t.size))

/-- The line at `line` lies in [va, va + bytes); 0 bytes stand for the whole address space. -/
def lineInRange (line va bytes : Nat) : Bool := bytes == 0 || (line < va + bytes && va < line + 64)

/-- A cluster after an invalidate: no translation of the range is left, nor a fill or a kept loft line that was translated by one; who
waits for such a fill asks again. -/
def State.invalidated (s : State) (c : Cluster) (ctxid va bytes : Nat) : Cluster :=
  let keep (f : Fill) : Bool := !(f.ctxid == ctxid && lineInRange f.line va bytes)
  { c with
    tlb := c.tlb.filter (! ·.inRange ctxid va bytes), icFills := c.icFills.filter keep, dcFills := c.dcFills.filter keep
    loftFills := c.loftFills.filter keep
    loft := c.loft.filter fun l => !((s.ctx l.ctx).ctxid == ctxid && lineInRange l.line va bytes) }

/-- INVALIDATE (R383): an access but for a fill translates and is performed in one step here, so none is under way. -/
def execInvalidate (h : CmdHead) (va bytes : Nat) (s : State) : Result := commit (
  command h 0x0028 (s.ctxChecks h [(va % 4096 ≠ 0 || bytes % 4096 ≠ 0, 3)]) (do
    each (List.range Config.clusters) fun k => modCluster k fun c => s.invalidated c h.ctxid va bytes
    each (List.range Config.dies) fun k => modDie k fun d =>
      { d with l2tlb := d.l2tlb.filter (! ·.inRange h.ctxid va bytes) }
    pure 0)) s

/-! ### Faults and gangs (R386, R357, R308) -/

/-- ANSWER_FAULT (R386): the answer takes effect, or is held while the context is SUSPENDED or MIGRATING (R306) or its agent is
saved (R387). -/
def execAnswerFault (h : CmdHead) (seq : Nat) (fail : Bool) (s : State) : Result := commit (
  let rec_ := (s.dctx h.ctxid).faults.find? fun r => r.seq == seq && r.posted && r.answer.isNone
  command h 0x0029 (s.ctxChecks h [(rec_.isNone, 4)]) (do
    match rec_ with
    | none => pure ()
    | some r =>
      if (s.dctx h.ctxid).isIn [.suspended, .migrating] || s.holdsAnswer r then
        modDctx h.ctxid fun d =>
          { d with faults := d.faults.map fun x => if x.seq == seq then { x with answer := some fail } else x }
      else
        modDctx h.ctxid fun d => { d with faults := d.faults.filter (·.seq != seq) }
        settleAnswer r fail
    flushFaults h.ctxid
    pure 0)) s

/-- PRE_EMPT_GANG (R357): the first gang of the context, not retired, with a member of this WGID. -/
def execPreEmptGang (h : CmdHead) (wgid : Nat) (s : State) : Result := commit (
  let g := (s.gangsOf h.ctxid).find? fun g => (s.gang g).wgs.any fun w => (s.wg w).wgid == wgid
  let saved := match g with
    | some g => (s.gang g).waits
    | none => false
  waitingCommand h 0x0030 (s.ctxChecks h [(g.isNone, 4), (saved, 5)]) (.preEmptGang h wgid) (do
    modPart h.part fun p => { p with waits := g.toList }
    match g with
    | some g => preempt g .driver
    | none => pure ())) s

/-- The gang whose member 0 has its save area at an address. -/
def State.gangAt (s : State) (ctxid save : Nat) : Option Nat :=
  (s.gangsOf ctxid).find? fun g => match (s.gang g).wgs with
    | w :: _ => (s.wg w).saveAt == save
    | [] => false

/-- RESUME_GANG (R308): a gang saved after a halt waits for placement. -/
def execResumeGang (h : CmdHead) (save : Nat) (s : State) : Result := commit (
  let g := s.gangAt h.ctxid save
  let halted := match g with
    | some g => (s.gang g).waits && (s.gang g).trigger == some .halt
    | none => false
  command h 0x0031 (s.ctxChecks h [(g.isNone, 4), (!halted, 5)]) (do
    match g with
    | some g => modGang g fun x => { x with trigger := some .driver }
    | none => pure ()
    pure 0)) s

/-- DISCARD_GANG (R308, R345): after a halt, its workgroups retire with status 3. -/
def execDiscardGang (h : CmdHead) (save : Nat) (s : State) : Result := commit (
  let g := s.gangAt h.ctxid save
  let halted := match g with
    | some g => (s.gang g).trigger == some .halt
    | none => false
  command h 0x0032 (s.ctxChecks h [(g.isNone, 4), (!halted, 5)]) (do
    match g with
    | some g => discardGangWork g
    | none => pure ()
    pure 0)) s

end Sys2Proof.Machine
end

