-- ==== Sys2Proof/Machine/Sm3.lean ====
section
/-! DEFINITION. The SM3 hash, in which the manual gives the identity of a communicator (R419) and the digests of images and reports (R311,
R312). The manual names the algorithm and does not define it: this is the published standard GB/T 32905 (log entry 108). -/
namespace Sys2Proof.Machine.Sm3

/-- The eight working words. -/
abbrev Chain := List W32

def start : Chain :=
  [0x7380166F, 0x4914B2B9, 0x172442D7, 0xDA8A0600, 0xA96F30BC, 0x163138AA, 0xE38DEE4D, 0xB0FB0E4E]

def p0 (x : W32) : W32 := x ^^^ x.rotateLeft 9 ^^^ x.rotateLeft 17
def p1 (x : W32) : W32 := x ^^^ x.rotateLeft 15 ^^^ x.rotateLeft 23

/-- The constant, the two Boolean functions of round j. -/
def constant (j : Nat) : W32 := if j < 16 then 0x79CC4519 else 0x7A879D8A
def ff (j : Nat) (x y z : W32) : W32 := if j < 16 then x ^^^ y ^^^ z else (x &&& y) ||| (x &&& z) ||| (y &&& z)
def gg (j : Nat) (x y z : W32) : W32 := if j < 16 then x ^^^ y ^^^ z else (x &&& y) ||| (~~~ x &&& z)

/-- Message expansion: the words so far, newest first, and n more. -/
def expand : Nat → List W32 → List W32
  | 0, l => l
  | n + 1, l =>
    let w (i : Nat) : W32 := l.getD (i - 1) 0
    expand n ((p1 (w 16 ^^^ w 9 ^^^ (w 3).rotateLeft 15) ^^^ (w 13).rotateLeft 7 ^^^ w 6) :: l)

/-- One round: w and w' are W[j] and W[j] xor W[j + 4]. -/
def round (v : Chain) (j : Nat) (w w' : W32) : Chain :=
  match v with
  | [a, b, c, d, e, f, g, h] =>
    let ss1 := (a.rotateLeft 12 + e + (constant j).rotateLeft (j % 32)).rotateLeft 7
    let ss2 := ss1 ^^^ a.rotateLeft 12
    let tt1 := ff j a b c + d + ss2 + w'
    let tt2 := gg j e f g + h + ss1 + w
    [tt1, a, b.rotateLeft 9, c, p0 tt2, e, f.rotateLeft 19, g]
  | _ => v

def rounds (v : Chain) : Nat → List W32 → Chain
  | j, w :: ws => if 64 ≤ j then v else rounds (round v j w (w ^^^ ws.getD 3 0)) (j + 1) ws
  | _, [] => v

/-- A big-endian word of 4 bytes, and its bytes. -/
def beWord (b : List Byte) : W32 := BitVec.ofNat 32 (leNat b.reverse)
def beBytes (w : W32) : List Byte := (leBytes 4 w.toNat).reverse

/-- The compression of one 64-byte block. -/
def compress (v : Chain) (block : List Byte) : Chain :=
  let ws := (List.range 16).map fun i => beWord ((block.drop (4 * i)).take 4)
  (v.zip (rounds v 0 (expand 52 ws.reverse).reverse)).map fun p => p.1 ^^^ p.2

/-- Padding: a 1 bit, zeros, and the length in bits as 8 bytes. -/
def pad (m : List Byte) : List Byte :=
  m ++ 0x80 :: List.replicate ((119 - m.length % 64) % 64) 0 ++ (leBytes 8 (8 * m.length)).reverse

def blocks : Nat → List Byte → Chain → Chain
  | 0, _, v => v
  | n + 1, m, v => blocks n (m.drop 64) (compress v (m.take 64))

/-- The 32-byte digest. -/
def digest (m : List Byte) : List Byte :=
  let p := pad m
  (blocks (p.length / 64) p start).flatMap beBytes

end Sys2Proof.Machine.Sm3
end

