-- ==== Sys2Proof/Machine/Migrate.lean ====
section
/-! DEFINITION. Migration (R306, R431): the image of Tables 19.9 and 19.10, MIGRATE_BEGIN, MIGRATE_COMMIT and MIGRATE_ABORT.
The places inside the records of types 1, 2, 4 and 6, which the manual leaves open, are those of log entry 18. -/
namespace Sys2Proof.Machine

/-! ### Writing the image -/

def Descriptor.bytes (d : Descriptor) : List Byte :=
  layBytes [(d.root, 8), (d.ctxid, 2), (d.part, 1), (d.level, 1), (d.compats.toNat, 1), (d.traps.toNat, 1), (d.spill, 2),
    (d.tvec.toNat, 8), (d.hext, 4), (0, 4), (d.loftBase, 8), (d.loftSlots, 4), (0, 4), (d.privBase, 8), (d.privBytes, 8),
    (d.faultBase, 8), (d.faultCount, 4), (0, 4), (d.saveBase, 8), (d.saveBytes, 8), (d.stackBase, 8), (d.stackBytes, 4),
    (d.stackSlots, 4), (0, 16)]

/-- A record: its head, then its content padded to 8 bytes. -/
def imageRecord (ty : Nat) (content : List Byte) : List Byte :=
  layBytes [(ty + content.length * 2 ^ 16, 8)] ++ content ++ List.replicate ((8 - content.length % 8) % 8) 0

/-- The gangs that a record which is being placed has on the device. -/
def State.gangsPlaced (s : State) (launch : Option Nat) : Nat :=
  match launch with
  | some l => (s.launch l).nextGang
  | none => 0

/-- Type 1: creation operands, state, ring indices, last refusal and the gangs placed of the head; the counters, the pending bits and the
task records: those that are pending, those released, and those that wait for their counter; at the end the gangs placed of each
released one (log entry 18). -/
def State.queueContent (s : State) (q : Queue) : List Byte :=
  let ns := List.range 1024
  let pend (n : Nat) : Nat := if (q.counter n).task.isSome then 1 else 0
  let waiting := ns.flatMap fun n => (q.counter n).next
  layBytes [(q.num + b2n q.data * 2 ^ 8, 8), (q.ring, 8), (q.entries, 4), (q.floor + q.floorDies * 2 ^ 16, 4),
      (q.status.code, 1), (waiting.length, 3), (q.tasks.length, 4), (q.headIx, 8), (q.tail, 8),
      (q.reason + q.reasonVault * 2 ^ 8 + q.reasonAvail * 2 ^ 16 + q.refusals % 2 ^ 32 * 2 ^ 32, 8), (s.gangsPlaced q.current, 8)]
    ++ ns.flatMap (fun n => leBytes 4 (q.counter n).value.toNat)
    ++ (List.range 128).flatMap (fun i => leBytes 1 ((List.range 8).map fun j => pend (8 * i + j) * 2 ^ j).sum)
    ++ ns.flatMap (fun n => match (q.counter n).task with
      | some t => t.1
      | none => [])
    ++ q.tasks.flatMap (·.bytes) ++ waiting.flatten ++ q.tasks.flatMap fun t => leBytes 8 (s.gangsPlaced t.launch)

/-- Type 2: creation operands, slots in use, the open batch and the sealed ones. -/
def Node.content (n : Node) : List Byte :=
  let used := ((List.range 17).map fun i => b2n (n.slots.getD i false) * 2 ^ i).sum
  layBytes ([(n.handle + n.prio * 2 ^ 16, 8), (n.header, 8), (n.size + n.count * 2 ^ 8 + n.timer * 2 ^ 32, 8), (n.pool, 8), (used, 8)]
    ++ (match n.opened with
      | some b => [(b.slot, 4), (b.count, 4)]
      | none => [(0xFFFF_FFFF, 4), (0, 4)])
    ++ [(n.sealed.length, 8)] ++ n.sealed.flatMap fun b => [(b.slot, 4), (b.count, 4)])

/-- Type 4: the record as posted, or as it waits for its slot, and its answer: 0 none, 1 resume, 2 fail, with bit 8 for one that waits. -/
def State.faultContent (s : State) (d : DevCtx) (r : FaultRecord) : List Byte :=
  let cnt := max d.desc.faultCount 1
  let posted := s.coreRead d.desc.ctxid (d.desc.faultBase + 64 * (r.seq % cnt)) 64
  (if r.posted then posted else r.bytes ++ layBytes [(0, 8), (r.seq, 4), (0, 4)])
    ++ layBytes [((match r.answer with
      | none => 0
      | some false => 1
      | some true => 2) + b2n (!r.posted) * 2 ^ 8, 8)]

/-- The identity of a communicator: the SM3 digest of N and the group sizes, 2 bytes each (R419, log entry 108). -/
def identityOf (n : Nat) (groups : List Nat) : List Byte := Sm3.digest (leBytes 2 n ++ groups.flatMap (leBytes 2))

/-- Type 6: handle and the package that writes the image, identity digest, N and the rank list. -/
def Comm.content (c : Comm) (package : Nat) : List Byte :=
  layBytes [(c.handle + package * 2 ^ 16, 8)] ++ c.identity ++ layBytes [(c.ranks.length, 8)]
    ++ c.ranks.flatMap fun r => layBytes [(r.1, 2), (r.2.1, 2), (r.2.2, 4), (0, 8)]

def State.migrationImage (s : State) (ctxid : Nat) : List Byte :=
  let d := s.dctx ctxid
  let records :=
    (d.queues.filter (·.status != .destroyed)).flatMap (fun q => imageRecord 1 (s.queueContent q))
      ++ d.nodes.flatMap (fun n => imageRecord 2 n.content)
      ++ d.code.flatMap (fun e => match e with
        | some (b, n, t) => imageRecord 3 (layBytes [(b, 8), (n, 8), (t, 8)])
        | none => [])
      ++ d.faults.flatMap (fun r => imageRecord 4 (s.faultContent d r))
      ++ (s.gangsOf ctxid).flatMap (fun g => match (s.gang g).wgs with
        | w :: _ => imageRecord 5 (layBytes [((s.wg w).saveAt, 8)])
        | [] => [])
      ++ d.comms.flatMap (fun h => match s.comm h with
        | some c => imageRecord 6 (c.content s.dev.package)
        | none => [])
  layBytes [(1 + 2 * 2 ^ 16, 8), (0x90 + records.length, 8)] ++ d.desc.bytes ++ records

/-- MIGRATE_BEGIN (R431): the result is the image's size; a buffer that is too small is out of range. -/
def execMigrateBegin (h : CmdHead) (buf bytes : Nat) (s : State) : Result := commit (
  let image := s.migrationImage h.ctxid
  command h 0x0006 (s.ctxChecks h [((s.dctx h.ctxid).status != .suspended || s.heldByTables h.ctxid, 5),
      (bytes < image.length, 3), (!h.answers, 7)]) (do
    modDctx h.ctxid fun d => { d with status := .migrating }
    busWrite buf image
    pure image.length)) s

/-! ### Reading the image -/

/-- The records of an image after its head: type and content. -/
def imageRecords : Nat → List Byte → List (Nat × List Byte)
  | 0, _ => []
  | n + 1, b =>
    if b.length < 8 then []
    else
      let len := field b 2 4
      (field b 0 2, (b.drop 8).take len) :: imageRecords n (b.drop (8 + (len + 7) / 8 * 8))

def QueueStatus.ofCode : Nat → QueueStatus
  | 0 => .disabled | 1 => .enabled | 2 => .stopped | _ => .destroyed

/-- The counters of a queue record: those that are not 0 or hold a pending record, with the records that wait for each. -/
def loadCounters (c : List Byte) (waiting : List (List Byte)) : Nat → List (List Byte) → List Counter
  | 0, _ => []
  | k + 1, tasks =>
    let n := 1023 - k
    let value := BitVec.ofNat 32 (field c (64 + 4 * n) 4)
    let blank : Counter := { num := n, value := value, task := none, next := waiting.filter (field · 0x30 4 == n), rels := [] }
    if bitAt (field c (64 + 4096 + n / 8) 1) (n % 8) then
      { blank with task := tasks.head?.map fun t => (t, none) } :: loadCounters c waiting k tasks.tail
    else if value == 0 then loadCounters c waiting k tasks
    else blank :: loadCounters c waiting k tasks

def cutTasks : Nat → List Byte → List (List Byte)
  | 0, _ => []
  | n + 1, l => if l.length < 64 then [] else l.take 64 :: cutTasks n (l.drop 64)

/-- A queue from its record; what stands in its ring was pushed before, so nothing of it waits for a drain. -/
def loadQueue (c : List Byte) (time : Nat) : Queue :=
  let tasks := cutTasks (c.length / 64) (c.drop (64 + 4096 + 128))
  let pending := (List.range 1024).countP fun n => bitAt (field c (64 + 4096 + n / 8) 1) (n % 8)
  let heads := field c 0x1C 4
  let counters := loadCounters c ((tasks.drop (pending + heads)).take (field c 0x19 3)) 1024 tasks
  let reason := field c 0x30 8
  let head := field c 0x20 8
  { newQueue (field c 0 1) (bitAt (field c 1 1) 0) (field c 8 8) (field c 0x10 4) (field c 0x14 2) (field c 0x16 2) with
    status := .ofCode (field c 0x18 1), tail := field c 0x28 8
    held := (List.range (field c 0x28 8 - head)).map (fun i => (head + i, none)), counters := counters
    tasks := ((tasks.drop pending).take heads).map fun b => { bytes := b, stamp := none, rels := [], since := time, launch := none }
    reason := reason % 2 ^ 8, reasonVault := reason / 2 ^ 8 % 2 ^ 8, reasonAvail := reason / 2 ^ 16 % 2 ^ 16
    refusals := reason / 2 ^ 32, headSince := time }

def loadNode (c : List Byte) (time : Nat) : Node :=
  let w := field c 0x10 8
  let batch (o : Nat) : Batch := { slot := field c o 4, count := field c (o + 4) 4, since := time, stamps := [], rels := [] }
  { handle := field c 0 2, prio := field c 2 2, header := field c 8 8, size := w % 2 ^ 8, count := bits w 16 8, timer := bits w 47 32
    pool := field c 0x18 8, opened := if field c 0x28 4 = 0xFFFF_FFFF then none else some (batch 0x28)
    sealed := (List.range (field c 0x30 8)).map fun i => batch (0x38 + 8 * i)
    slots := (List.range 17).map fun i => bitAt (field c 0x20 8) i, dying := false, headSince := time }

/-- The launch of a record of which gangs were placed on the source goes on from there: `hold` keeps it at the record. -/
def resumeRecord (ctxid : Nat) (q : Queue) (bytes : List Byte) (placed : Nat) (hold : Nat → Queue → Queue) : Act Unit := do
  let s ← now
  if placed = 0 then pure ()
  else
    match s.validate ctxid q bytes with
    | none => pure ()
    | some l =>
      emit (.addLaunch { l with nextGang := placed, retired := placed * l.size })
      modQueue ctxid q.num (hold s.launches.length)

/-- So it does for the ring's head and for each released task record of a queue. -/
def resumeLaunches (ctxid : Nat) (c : List Byte) : Act Unit := do
  let s ← now
  match (s.dctx ctxid).queue (field c 0 1) with
  | none => pure ()
  | some q => do
    resumeRecord ctxid q (s.coreRead ctxid (q.slotVa q.headIx) 64) (field c 0x38 8) fun l q => { q with current := some l }
    let counts := c.drop (c.length - 8 * q.tasks.length)
    each (List.range q.tasks.length) fun i =>
      resumeRecord ctxid q ((q.tasks[i]?.map (·.bytes)).getD []) (field counts (8 * i) 8) fun l q =>
        { q with tasks := q.tasks.modify i fun t => { t with launch := some l } }

/-! ### Saved gangs -/

/-- A barrier before its record is loaded: it has completed phases, of either parity (R373). -/
def imageBarrier : Barrier := { phases := 2, arrived := 0, perPhase := 0 }

/-- The area of member m of the gang whose member 0 is saved at `save`: its header names that address and the same TIME. -/
def State.memberArea (s : State) (d : Descriptor) (save m : Nat) : Option Nat :=
  let hd (a : Nat) : List Byte := s.coreRead d.ctxid a 0x58
  if m = 0 then some save
  else ((List.range (d.saveBytes / 4096)).map fun k => d.saveBase + 4096 * k).find? fun a =>
    field (hd a) 0x20 8 == save && field (hd a) 0x1C 1 == m && field (hd a) 0x28 8 == field (hd save) 0x28 8

/-- The workgroup of an area. The slots its roles keep are not in the image (log entry 2). -/
def State.areaWorkgroup (s : State) (d : Descriptor) (g m a ix : Nat) (faults : List (Nat × List Byte)) : Option Workgroup := do
  let hd := s.coreRead d.ctxid a 0x58
  let h ← s.readHeader d.ctxid (field hd 0x10 8)
  let wgid := field hd 0x18 4
  let mark (n : Nat) : Watermark :=
    match faults.find? fun f => field f.2 0x20 4 == wgid && (field f.2 0 1 == 2 || field f.2 0 1 == 3) && field f.2 7 1 == n with
    | some f => { Watermark.start with bound := some { blankBound with state := .parked, before := .frozen, record := some f.1 } }
    | none => Watermark.start
  let slot (r : Nat) : Nat := Config.imageSlot ix (4 * m + r)
  pure { Workgroup.blank with
    status := .saved, ctxid := d.ctxid, gang := g, member := m, wgid := wgid, header := h, saveAt := a
    saveTime := field hd 0x28 8, marks := (List.range 16).map mark, bars := List.replicate 16 imageBarrier
    privAt := (List.range h.waveRoles.length).map (fun i => field (s.coreRead d.ctxid (a + h.waveOffset i + 0x18) 8) 0 8)
    loftIx := (List.range h.roles.length).map slot
    stackIx := if d.stackBytes = 0 then [] else (List.range h.roles.length).map slot }

/-- Where a saved gang comes from on the target: a batch whose slot its s4 names, else no record (its launch has no signal
here). -/
def State.areaOrigin (s : State) (ctxid a header : Nat) : Origin :=
  let s4 := field (s.coreRead ctxid (a + 0x1000 + 0x10 + 8 * 3) 8) 0 8
  let hit := (s.dctx ctxid).nodes.findSome? fun n =>
    if n.header = header then ((List.range 17).find? fun i => n.slots.getD i false && n.slotVa i == s4).map fun i => (n.handle, i)
    else none
  match hit with
  | some (n, i) => .batch ctxid n i
  | none => .launch s.launches.length

def blankLaunch (ctxid : Nat) (h : Header) (size : Nat) : Launch :=
  { ctxid := ctxid, queue := 256, header := h, grid := size, size := size, prio := 0, coresident := false, arg := 0, signal := 0
    floor := 0, floorDies := 0, nextGang := 1, retired := 0, status := 1, grbars := [] }

/-- A saved gang of a type 5 record waits for placement (R360). -/
def recreateGang (ctxid save : Nat) (faults : List (Nat × List Byte)) : Act Unit := do
  let ix ← freshIx
  let s ← now
  let d := (s.dctx ctxid).desc
  let hd := s.coreRead ctxid save 0x58
  let size := field hd 0x1D 1
  let g := s.gangs.length
  let w0 := s.wgs.length
  let ws := (List.range size).filterMap fun m => match s.memberArea d save m with
    | some a => s.areaWorkgroup d g m a ix faults
    | none => none
  match ws with
  | [] => pure ()
  | w :: _ =>
    if ws.length ≠ size then pure ()
    else
      let origin := s.areaOrigin ctxid save w.header.addr
      match origin with
      | .launch _ => emit (.addLaunch (blankLaunch ctxid w.header size))
      | .batch _ _ _ => pure ()
      emit (.addGang
        { origin := origin, size := size, wgs := (List.range size).map (w0 + ·), gbars := List.replicate 8 imageBarrier
          trigger := some .suspend, waits := true, discarded := false, placedAt := 0, paused := false, progress := 0
          stamps := [], rels := [], read := [] })
      each ws fun w => do
        emit (.addWg w)
        modDctx ctxid fun x =>
          { x with
            loftUsed := w.loftIx ++ x.loftUsed, stackUsed := w.stackIx ++ x.stackUsed
            privUsed := w.privAt.map (·, backingBytes d w.header) ++ x.privUsed
            saveUsed := (w.saveAt, w.header.saveBytes) :: x.saveUsed }

/-- The agent that a fault record names, by its source, WGID and index. -/
def State.faultSource (s : State) (ctxid : Nat) (b : List Byte) : FaultSource :=
  let w := (((List.range s.wgs.length).filter fun i => (s.wg i).ctxid == ctxid && (s.wg i).status == .saved).find? fun i =>
    (s.wg i).wgid == field b 0x20 4).getD s.wgs.length
  match field b 0 1 with
  | 1 => .lane w (field b 7 1)
  | 2 => .copy w (field b 7 1)
  | 3 => .copy w (field b 7 1)
  | 4 => .spill w (field b 7 1)
  | 5 => .spill w (field b 7 1)
  | _ => .save (s.wg w).gang

def loadFault (ctxid : Nat) (b : List Byte) : Act Unit := do
  let s ← now
  let r : FaultRecord :=
    { seq := field b 0x38 4, source := s.faultSource ctxid b, bytes := b.take 0x30, posted := !bitAt (field b 0x40 8) 8
      answer := match field b 0x40 1 with
        | 1 => some false
        | 2 => some true
        | _ => none }
  modDctx ctxid fun d => { d with faults := d.faults ++ [r], faultSeq := max d.faultSeq (r.seq + 1) }

/-- Every group's ranks are on one device (R419). -/
def groupsOnDevices : List Nat → List (Nat × Nat × Nat) → Bool
  | [], _ => true
  | n :: r, l => (l.take n).all (fun x => x.1 == (l.headD (0, 0, 0)).1) && groupsOnDevices r (l.drop n)

/-- The grouping in which consecutive ranks of one package form one group. -/
def groupSizes : List (Nat × Nat × Nat) → List Nat
  | [] => []
  | r :: l => match l, groupSizes l with
    | q :: _, n :: ns => if q.1 = r.1 then (n + 1) :: ns else 1 :: n :: ns
    | _, _ => [1]

/-- The groupings that the cores may hold for a communicator of these ranks: the one this device knows, else the one that the packages
show or the one that the other members' cores answer with (log entry 18). -/
def State.groupings (s : State) (handle ix : Nat) (ranks : List (Nat × Nat × Nat)) : List (List Nat) :=
  match s.comm handle with
  | some x => [x.groups]
  | none => [groupSizes ranks, Config.agreedGroups ix]

/-- A communicator is rejoined under the identity of its record when the cores of every member device agree and its grouping has that
identity (R431); the ranks that the context has on the image's package are then on this one. Otherwise its handle is dropped. -/
def rejoin (ctxid : Nat) (c : List Byte) : Act Unit := do
  let ix ← freshIx
  let s ← now
  let handle := field c 0 2
  let source := field c 2 1
  let identity := (c.drop 8).take 32
  let n := field c 0x28 8
  let ranks := (List.range n).map fun i =>
    let o := 0x30 + 16 * i
    (field c o 1, field c (o + 2) 2, field c (o + 4) 4)
  let moved := ranks.map fun r => if r.1 = source && r.2.1 = ctxid then (s.dev.package, r.2) else r
  let fits (gs : List Nat) : Bool :=
    gs.sum == n && gs.all (1 ≤ ·) && groupsOnDevices gs moved && identityOf n gs == identity
  match Config.coresAgree ix, (s.groupings handle ix ranks).find? fits with
  | true, some gs =>
    let blank : Comm := { handle := handle, ranks := [], groups := gs, identity := identity, calls := List.replicate n 0, dead := [] }
    modDevice fun d =>
      { d with comms := d.comms.filter (·.handle != handle) ++ [{ (s.comm handle).getD blank with ranks := moved, groups := gs }] }
    modDctx ctxid fun d => { d with comms := d.comms ++ [handle] }
  | _, _ => pure ()

/-- Recreate what an image holds. -/
def loadImage (ctxid : Nat) (records : List (Nat × List Byte)) : Act Unit := do
  let t := (← now).dev.time
  let of (ty : Nat) : List (List Byte) := (records.filter (·.1 == ty)).map (·.2)
  let faults := (of 4).map fun b => (field b 0x38 4, b)
  modDctx ctxid fun d =>
    { d with
      queues := (of 1).map (loadQueue · t), nodes := (of 2).map (loadNode · t)
      code := (((of 3).map fun c => some (field c 0 8, field c 8 8, field c 16 8)) ++ d.code).take 256 }
  each (of 1) (resumeLaunches ctxid)
  each (of 5) fun c => recreateGang ctxid (field c 0 8) faults
  each (of 4) (loadFault ctxid)
  each (of 6) (rejoin ctxid)

/-- MIGRATE_COMMIT (R431): the target recreates the context and runs it; the source destroys its own. -/
def execMigrateCommit (h : CmdHead) (buf bytes : Nat) (target : Bool) (root : Nat) (s : State) : Result := commit (
  if target then
    let b := s.busRead buf bytes
    let desc := (b.drop 0x10).take 128
    let refused := 1 < field b 0 2 || field b 2 1 ≠ 2
    let rootBad := root % 4096 ≠ 0 || (dramLoc root).isNone
    let st := firstStatus [(!h.answers, 7), (bytes < 0x90 || bytes < field b 8 8, 3), (refused, 8),
      (s.descStatus h desc != 0, s.descStatus h desc), (rootBad, 3)]
    command h 0x0007 st (do
      emit (.addDev { DevCtx.blank with desc := { parseDescriptor desc with root := root }, status := .suspended })
      let body := (b.take (field b 8 8)).drop 0x90
      loadImage h.ctxid (imageRecords (body.length / 8) body)
      resumeDev h.ctxid
      pure 0)
  else
    command h 0x0007 (s.ctxChecks h [((s.dctx h.ctxid).status != .migrating, 5)]) (do
      destroyDev h.ctxid
      pure 0)) s

/-- MIGRATE_ABORT (R306). -/
def execMigrateAbort (h : CmdHead) (s : State) : Result := commit (
  command h 0x0008 (s.ctxChecks h [((s.dctx h.ctxid).status != .migrating, 5)]) (do
    modDctx h.ctxid fun d => { d with status := .suspended }
    pure 0)) s

end Sys2Proof.Machine
end

