-- ==== Sys2Proof/Machine/Admin.lean ====
section
/-! DEFINITION. The commands on the device as a whole (Table 19.6): communicators (R419), boundary tables (R390, R392),
attestation (R312), functions, links and routes (R411, R415, R417), the coupling table (R399), and COMMAND_COMPLETE (R427,
R429). -/
namespace Sys2Proof.Machine

/-- A device command names no context; one that names one is checked like a context command. -/
def State.deviceStatus (s : State) (h : CmdHead) : Nat := if h.ctxid = 0 then 0 else s.ctxStatus h

/-! ### Communicators (R419) -/

/-- The rank list of a create-communicator record: 16 bytes each. -/
def parseRanks (n : Nat) (b : List Byte) : List (Nat × Nat × Nat) :=
  (List.range n).map fun i => (field b (16 * i) 1, field b (16 * i + 2) 2, field b (16 * i + 4) 4)
/-- Bytes 8 to 15 of an entry are zero (Table 19.6). Byte 1, which the table names neither as a field nor as zero, the model holds to be
reserved like them (log entry 119). -/
def ranksOk (n : Nat) (b : List Byte) : Bool :=
  (List.range n).all fun i => field b (16 * i + 1) 1 == 0 && field b (16 * i + 8) 8 == 0

/-- The local contexts that a rank list names. -/
def State.localContexts (s : State) (ranks : List (Nat × Nat × Nat)) : List Nat :=
  ((ranks.filter (·.1 == s.dev.package)).map (·.2.1)).dedup

/-- The lowest handle that is free. -/
def State.freeHandle (s : State) : Option Nat :=
  (List.range 65536).find? fun n => s.dev.comms.all (·.handle != n)

/-- CREATE_COMMUNICATOR: the cores of other members agree or do not (log entry 2); the result is the handle. -/
def execCreateCommunicator (h : CmdHead) (ranks n groups sizes : Nat) (s : State) : Result := commit (do
  let b := s.busRead ranks (16 * n)
  let list := parseRanks n b
  let gs := (List.range groups).map fun i => leNat (s.busRead (sizes + 2 * i) 2)
  let locals := s.localContexts list
  let handle := s.freeHandle
  let alone := list.all (·.1 == s.dev.package)
  let ok := 1 ≤ n && n ≤ 4096 && 1 ≤ groups && ranksOk n b && gs.all (1 ≤ ·) && gs.sum == n
  let st := firstStatus [(s.deviceStatus h != 0, s.deviceStatus h), (!h.answers, 7), (!ok, 3),
    (locals.any fun c => (s.devIx c).isNone, 4), (h.part ≠ 0 && locals.any (fun c => (s.dctx c).desc.part ≠ h.part), 2),
    (handle.isNone, 6), (!groupsOnDevices gs list || !(alone || Config.coresAgree s.dev.freeCount), 8)]
  if alone then pure () else modDevice fun d => { d with freeCount := d.freeCount + 1 }
  command h 0x0038 st (do
    let k := handle.getD 0
    modDevice fun d => { d with comms := d.comms ++ [{
      handle := k, ranks := list, groups := gs, identity := identityOf n gs, calls := List.replicate n 0, dead := [] }] }
    each locals fun c => modDctx c fun d => { d with comms := d.comms ++ [k] }
    pure k)) s

/-- A CRED of the handle is in flight. -/
def State.credInFlight (s : State) (handle : Nat) : Bool :=
  s.bounds.any fun (_, _, b) => match b.kind with
    | .cred _ k _ _ _ _ => k == handle && b.state != .published && b.state != .poisoned
    | .copy _ => false

/-- DESTROY_COMMUNICATOR: no later CRED may name the handle; the command waits for those in flight (R428). -/
def execDestroyCommunicator (h : CmdHead) (handle : Nat) (s : State) : Result := commit (
  let known := if h.ctxid = 0 then (s.comm handle).isSome else (s.dctx h.ctxid).comms.contains handle
  waitingCommand h 0x0039 (firstStatus [(s.deviceStatus h != 0, s.deviceStatus h), (!known, 4)])
    (.destroyCommunicator h handle)
    (each (s.devs.map (·.desc.ctxid)) fun c => modDctx c fun d => { d with comms := d.comms.filter (· != handle) })) s

/-! ### Boundary tables (R390, R392) -/

def tableCount : Nat → Nat
  | 0 => 128 | 1 => 64 | 2 => 4 | _ => 16

/-- An entry's words with its reserved bits zero (R4, Table 17.5). -/
def entryOf (cls num ix : Nat) (lo hi : Word) : BoundaryEntry :=
  { cls := cls, num := num, ix := ix, lo := lo &&& 0x000F_FFFF_FFFF_FF0F#64, hi := hi &&& 0x000F_FFFF_FFFF_FFFF#64 }

def State.tableEntry (s : State) (cls num ix : Nat) : BoundaryEntry :=
  match s.dev.boundary.find? fun e => e.cls == cls && e.num == num && e.ix == ix with
  | some e => e
  | none => { cls := cls, num := num, ix := ix, lo := 0, hi := 0 }

/-- The new entry admits everything that the old one admits. -/
def BoundaryEntry.keeps (new old : BoundaryEntry) : Bool :=
  let o := old.lo.toNat
  let n := new.lo.toNat
  let oh := old.hi.toNat
  let nh := new.hi.toNat
  !bitAt o 3 ||
    (bitAt n 3 && bits n 11 8 == bits o 11 8 && (bitAt n 0 || (!bitAt o 0 && bits nh 11 0 == bits oh 11 0))
      && (!bitAt o 1 || bitAt n 1) && (!bitAt o 2 || bitAt n 2)
      && bits n 51 12 ≤ bits o 51 12 && bits oh 51 12 ≤ bits nh 51 12)

/-- An entry that holds nothing is not listed. -/
def setEntry (e : BoundaryEntry) : Act Unit :=
  modDevice fun d =>
    let rest := d.boundary.filter fun x => !(x.cls == e.cls && x.num == e.num && x.ix == e.ix)
    { d with boundary := if e.lo == 0 && e.hi == 0 then rest else rest ++ [e] }

/-- The contexts that hold a right of the old entry and are neither SUSPENDED nor not yet enabled. -/
def State.holders (s : State) (old : BoundaryEntry) : List Nat :=
  (s.devs.filter fun d => (d.status == .runnable || d.status == .suspending) && bitAt old.lo.toNat 3 && d.desc.part == bits old.lo.toNat 11 8
    && (bitAt old.lo.toNat 0 || d.desc.ctxid == bits old.hi.toNat 11 0)).map (·.desc.ctxid)

/-- The core suspends, for the change that a partition waits for, those of these contexts that run; others are being suspended for another
command, and the change waits for them too. -/
def suspendHolders (part : Nat) (holders : List Nat) : Act Unit :=
  each holders fun c => do
    if ((← now).dctx c).status == .runnable then
      modPart part fun p => { p with waits := p.waits ++ [c] }
      beginSuspend c
    else pure ()

/-- WRITE_BOUNDARY_ENTRY (R392): a change that only adds rights applies at once; one that removes rights first suspends the
contexts that hold them. -/
def execWriteBoundaryEntry (h : CmdHead) (cls num entry : Nat) (lo hi : Word) (s : State) : Result := commit (
  let new := entryOf cls num entry lo hi
  let old := s.tableEntry cls num entry
  let holders := if new.keeps old then [] else s.holders old
  let st := firstStatus [hyperOnly h, (4 ≤ cls || tableCount cls ≤ num || 64 ≤ entry, 3)]
  if holders.isEmpty then
    command h 0x0040 st (do
      setEntry new
      pure 0)
  else
    waitingCommand h 0x0040 st (.writeBoundaryEntry h cls num entry lo hi) (suspendHolders h.part holders)) s

/-- READ_BOUNDARY_ENTRY. -/
def execReadBoundaryEntry (h : CmdHead) (cls num entry dest : Nat) (s : State) : Result := commit (
  let e := s.tableEntry cls num entry
  command h 0x0041 (firstStatus [hyperOnly h, (4 ≤ cls || tableCount cls ≤ num || 64 ≤ entry, 3), (!h.answers, 7)]) (do
    busWrite dest (leBytes 8 e.lo.toNat ++ leBytes 8 e.hi.toNat)
    pure 0)) s

/-! ### Attestation, functions, links (R312, R411, R415, R417) -/

/-- What a report says (R312): the nonce, the feature level, the context's CTXID, partition and level, the digests of the images that run,
and the identity's public key, in the layout of log entry 18. -/
def State.reportBody (s : State) (ctxid : Nat) (nonce : List Byte) : List Byte :=
  let d := (s.dctx ctxid).desc
  let running := s.dev.images.filter (·.runs)
  nonce ++ layBytes [(2, 8), (if ctxid = 0 then 0 else d.ctxid, 2), (if ctxid = 0 then 0 else d.part, 1),
      (if ctxid = 0 then 0 else d.level, 1), (running.length, 4)]
    ++ running.flatMap (·.digest) ++ (List.range 64).map Config.identityKey

/-- The report: what it says, signed over its SM3 digest by the identity key, whose signature is open (log entry 2). -/
def State.report (s : State) (ctxid ix : Nat) (nonce : List Byte) : List Byte :=
  let body := s.reportBody ctxid nonce
  body ++ (List.range 64).map fun i => Config.signature (Sm3.digest body) (64 * ix + i)

/-- ATTEST (R312); the result is the report's size. -/
def execAttest (h : CmdHead) (nonce buf bytes : Nat) (s : State) : Result := commit (
  let r := s.report h.ctxid s.dev.freeCount (s.busRead nonce 32)
  command h 0x0048 (firstStatus [(s.deviceStatus h != 0, s.deviceStatus h), (!h.answers, 7), (bytes < r.length, 3)]) (do
    let _ ← freshIx
    busWrite buf r
    pure r.length)) s

/-- BIND_FUNCTION (R411). -/
def execBindFunction (h : CmdHead) (vf part : Nat) (bind : Bool) (s : State) : Result := commit (
  command h 0x0050 (firstStatus [hyperOnly h, (vf < 1 || 16 < vf || 16 ≤ part, 3)]) (do
    modDevice fun d => { d with functions := d.functions.set (vf - 1) (if bind then some part else none) }
    pure 0)) s

/-- ENABLE_LINK (Table 19.2). -/
def execEnableLink (h : CmdHead) (link part : Nat) (s : State) : Result := commit (
  let st := (s.link link).status
  command h 0x0051 (firstStatus [hyperOnly h, (16 ≤ link || 16 ≤ part, 3), (st != .down && st != .failed, 5)]) (do
    modLink link fun l =>
      { l with status := .training, part := part, since := s.dev.time, retrains := 0, resends := 0, rxSeq := 0, discarding := false }
    pure 0)) s

/-- SET_ROUTE (R417); commands whose package is no longer reached become POISONED (R416). -/
def execSetRoute (h : CmdHead) (package mask : Nat) (s : State) : Result := commit (
  command h 0x0052 (firstStatus [hyperOnly h, (256 ≤ package || 65536 ≤ mask, 3)]) (do
    modDevice fun d => { d with routes := d.routes.filter (·.1 != package) ++ [(package, BitVec.ofNat 16 mask)] }
    poisonUnreachable
    pure 0)) s

/-- SET_PACKAGE_NUMBER (R417): refused while a link is UP. -/
def execSetPackageNumber (h : CmdHead) (num : Nat) (s : State) : Result := commit (
  command h 0x0053 (firstStatus [hyperOnly h, (256 ≤ num, 3), (s.links.any (·.status == .up), 8)]) (do
    modDevice fun d => { d with package := num }
    pure 0)) s

/-- READ_COUPLING_TABLE (R399): 9 sites of 32 values. -/
def execReadCouplingTable (h : CmdHead) (die dest : Nat) (s : State) : Result := commit (
  command h 0x0058 (firstStatus [(s.deviceStatus h != 0, s.deviceStatus h), (4 ≤ die, 3), (!h.answers, 7)]) (do
    busWrite dest ((s.die die).coupling.flatMap fun v => leBytes 4 v.toNat)
    pure 0)) s

/-- UNKNOWN_COMMAND (R428): the record's opcode goes back in the event; nothing else changes. -/
def execUnknownCommand (h : CmdHead) (status : Nat) (s : State) : Result := commit (
  completeCommand h (leNat (s.busRead h.slot 2)) status 0) s

/-! ### COMMAND_COMPLETE (R427, R429) -/

/-- The contexts that a waiting table change must find suspended. -/
def State.tableHolders (s : State) (p : Partition) : List Nat :=
  match p.busy with
  | some (.writeBoundaryEntry _ cls num entry _ _) => s.holders (s.tableEntry cls num entry)
  | _ => []
/-- Those of them that run: they were enabled or resumed during the wait. -/
def State.newHolders (s : State) (p : Partition) : List Nat :=
  (s.tableHolders p).filter fun c => (s.dctx c).status == .runnable

/-- A context that its command names is gone. -/
def State.gone (s : State) (h : CmdHead) : Bool := (s.devIx h.ctxid).isNone

/-- The opcode, and the status once the waiting command of a partition is over. -/
def State.waitOver (s : State) (p : Partition) : Option (CmdHead × Nat × Nat) :=
  match p.busy with
  | some (.suspendContext h) =>
    if s.gone h then some (h, 0x0003, 9) else if s.suspendDone h.ctxid then some (h, 0x0003, 0) else none
  | some (.destroyNode h n) =>
    if s.gone h then some (h, 0x0019, 9)
    else match (s.dctx h.ctxid).node n with
      | none => some (h, 0x0019, 0)
      | some x => if x.sealed.isEmpty && x.slots.all (! ·) then some (h, 0x0019, 0) else none
  | some (.preEmptGang h _) =>
    if s.gone h then some (h, 0x0030, 9)
    else
      let g := s.gang (p.waits.headD s.gangs.length)
      if g.discarded then some (h, 0x0030, 4)
      else if g.trigger.isNone || g.wgs.all fun w => (s.wg w).status == .saved || (s.wg w).status == .restoring then
        some (h, 0x0030, 0)
      else none
  | some (.destroyCommunicator h k) => if s.credInFlight k then none else some (h, 0x0039, 0)
  | some (.writeBoundaryEntry h _ _ _ _ _) =>
    if (s.tableHolders p).all fun c => (s.dctx c).status == .suspending && p.waits.contains c && s.suspendDone c then
      some (h, 0x0040, 0) else none
  | _ => none

/-- What ends with the command. -/
def endWait (p : Partition) : Act Unit := do
  match p.busy with
  | some (.suspendContext h) => modDctx h.ctxid fun d => { d with status := .suspended }
  | some (.destroyNode h n) => modDctx h.ctxid fun d => { d with nodes := d.nodes.filter (·.handle != n) }
  | some (.destroyCommunicator _ k) => modDevice fun d => { d with comms := d.comms.filter (·.handle != k) }
  | some (.writeBoundaryEntry _ cls num entry lo hi) => do
    setEntry (entryOf cls num entry lo hi)
    each p.waits fun c => do
      if ((← now).dctx c).status == .suspending then resumeDev c else pure ()
  | _ => pure ()

/-- COMMAND_COMPLETE: the partition's waiting command is over; a table change first suspends the holders that have come since (R392). -/
def execCommandComplete (part : Nat) (s : State) : Result :=
  event "COMMAND_COMPLETE" (fun s => (s.waitOver (s.part part)).isSome || !(s.newHolders (s.part part)).isEmpty) (do
    match s.waitOver (s.part part) with
    | none => suspendHolders part (s.newHolders (s.part part))
    | some (h, op, st) =>
      if st = 0 then endWait (s.part part) else pure ()
      modPart part fun p => { p with busy := none, waits := [] }
      completeCommand h op st 0) s

end Sys2Proof.Machine
end

