-- ==== Sys2Proof/Machine/HostLink.lean ====
section
/-! DEFINITION. The host attach (R410 to R414): management registers (R412, R426, R430, R401, R402, R398), the event ring
(R430), the doorbell, BAR2 and the completions of requests; and the traverse links (R415 to R418). -/
namespace Sys2Proof.Machine

/-! ### Functions (R410, R411) -/

/-- The completion that a function's request gets. DESIGN CHOICE (log entry 121): it carries the report of R311, for which the manual names
no place. -/
def replyTo (func : Nat) (st : ReplyStatus) (bytes : List Byte) : Act Unit :=
  modDevice fun d => { d with reply := some { func := func, status := st, bytes := bytes, failures := d.failures } }

/-- A memory request of a function acts for the function's partition; a VF bound to none returns Unsupported Request (R411). -/
def forPart (func : Nat) (f : Nat → Act Unit) : Act Unit := do
  match (← now).dev.partOf func with
  | some part => f part
  | none => replyTo func .unsupported []

/-! ### Rings of a partition (R426, R430) -/

/-- Enabling a ring: a bad RING or SIZE sets ERR and leaves ENABLE at 0. -/
def RingRegs.tryEnable (r : RingRegs) (align lo hi : Nat) : RingRegs :=
  if r.enable then r
  else if r.ring % align = 0 && isPow2 r.size && lo ≤ r.size && r.size ≤ hi then { r with enable := true, err := false }
  else { r with err := true }

/-- ENABLE of the command queue: RDIDX becomes WRIDX (R426). -/
def enableCommands (r : RingRegs) : RingRegs :=
  let n := r.tryEnable 64 16 4096
  if n.enable && !r.enable then { n with rd := n.wr } else n
def enableEvents (r : RingRegs) : RingRegs := r.tryEnable 32 64 65536

/-- COMMAND_QUEUE_ENABLE (R426). -/
def execCommandQueueEnable (func : Nat) (s : State) : Result := commit (
  forPart func fun part => modPart part fun p => { p with cmd := enableCommands p.cmd }) s
/-- EVENT_QUEUE_ENABLE (R430). -/
def execEventQueueEnable (func : Nat) (s : State) : Result := commit (
  forPart func fun part => modPart part fun p => { p with ev := enableEvents p.ev }) s
/-- EVENT_QUEUE_RDIDX (R430): the driver has read the records below the index. -/
def execEventQueueRdidx (func : Nat) (v : W32) (s : State) : Result := commit (
  forPart func fun part => modPart part fun p => { p with ev := { p.ev with rd := v } }) s

/-! ### EVENT_RING_WRITE (R430) -/

def EventRec.bytes (e : EventRec) : List Byte :=
  layBytes [(e.kind, 2), (e.ctxid, 2), (e.cls * 2 ^ 24 + e.num, 4), (e.time, 8), (e.d0.toNat, 8), (e.d1.toNat, 8)]

/-- An event can be written: the ring is enabled and has room. -/
def Partition.mayWriteEvent (p : Partition) : Bool :=
  p.ev.enable && (p.ev.wr - p.ev.rd).toNat < p.ev.size && (!p.held.isEmpty || p.discarded != 0)

/-- EVENT_RING_WRITE: the record of discarded events goes ahead of the held ones; then WRIDX moves, and vector 0 fires
when the ring was empty (R413, R430). -/
def execEventRingWrite (part : Nat) (s : State) : Result :=
  event "EVENT_RING_WRITE" (fun s => (s.part part).mayWriteEvent) (do
    let p := s.part part
    let lost : EventRec :=
      { kind := 10, ctxid := 0, cls := 3, num := 0, time := s.dev.time, d0 := BitVec.ofNat 64 p.discarded,
        d1 := BitVec.ofNat 64 p.discardMask }
    let e := if p.discarded ≠ 0 then some lost else p.held.head?
    match e with
    | none => pure ()
    | some e =>
      busWrite (p.ev.ring + 32 * (p.ev.wr.toNat % p.ev.size)) e.bytes
      modPart part fun q =>
        { q with
          ev := { q.ev with wr := q.ev.wr + 1 }, held := if p.discarded ≠ 0 then q.held else q.held.drop 1
          discarded := 0, discardMask := 0 }
      if p.ev.wr = p.ev.rd then fireVector part 0 else pure ()) s

/-! ### The doorbell (R412) -/

/-- A doorbell for a context outside the function's partition is dropped. -/
def ringBell (part : Nat) (v : Word) : Act Unit := do
  let s ← now
  let c := bits v.toNat 11 0
  match s.devIx c with
  | none => pure ()
  | some i =>
    if (s.devAt i).desc.part = part then ringDoorbell c (bits v.toNat 19 12) (bits v.toNat 51 20) else pure ()

/-- The doorbell of a function waits: the core reads the ring's new entries, and a row of the ring is being copied (R25). -/
def State.bellHeld (s : State) (func : Nat) (v : Word) : Bool :=
  let c := bits v.toNat 11 0
  !s.calm && (s.dev.partOf func).any fun part => (s.dctx c).desc.part == part && match (s.dctx c).queue (bits v.toNat 19 12) with
    | some q => (List.range q.entries).any fun i => s.superHeld 0 c (q.slotVa i) 64 .load
    | none => false
def execDoorbell (func : Nat) (v : Word) (s : State) : Result :=
  event "DOORBELL" (! ·.bellHeld func v) (forPart func (ringBell · v)) s

/-! ### The hypervisor's registers (R401, R402): only PF0 writes them (R412), which carries partition 0 (R411) -/

/-- HARNESS_MAP_WRITE (R401): the clusters follow as they are gated and idle. -/
def writeHarness (func : Nat) (v : W32) : Act Unit :=
  if func = 0 then modDevice fun d => { d with harness := v } else pure ()
def execHarnessMapWrite (func : Nat) (v : W32) (s : State) : Result := commit (forPart func fun _ => writeHarness func v) s

/-- PACKAGE_LIMIT_WRITE (R402): a value outside 900 to 2300 is ignored. -/
def writeLimit (func : Nat) (v : Word) : Act Unit :=
  let n := bits v.toNat 11 0
  if func = 0 && 900 ≤ n && n ≤ 2300 then modDevice fun d => { d with limit := n } else pure ()
def execPackageLimitWrite (func : Nat) (v : Word) (s : State) : Result := commit (forPart func fun _ => writeLimit func v) s

/-- DOMAIN_CONTROL_WRITE (R402): a bad range is ignored whole; FCUR outside the new range calls for a transition. -/
def writeDomain (func reg : Nat) (v : Word) : Act Unit :=
  let lo := bits v.toNat 23 16
  let hi := bits v.toNat 15 8
  if func = 0 && 13 ≤ lo && lo ≤ hi && hi ≤ 26 then
    modReg reg fun r =>
      { r with
        fmin := lo, fmax := hi
        pendingF := if r.fcur < lo then some lo else if hi < r.fcur then some hi else none }
  else pure ()
def execDomainControlWrite (func reg : Nat) (v : Word) (s : State) : Result := commit (
  forPart func fun _ => writeDomain func reg v) s

/-! ### BAR0 (R412) -/

/-- Clusters on a regulator (Table 18.4). -/
def State.clustersOn (s : State) (r : Nat) : Nat := (s.clusters.filter fun c => c.reg == r && !c.lost).length

/-- The vault status word (Table 18.3). -/
def Vault.status (v : Vault) : Word :=
  BitVec.ofNat 64 (v.spares.sum % 2 ^ 10 * 2 ^ 40 + min v.ce 65535 * 2 ^ 24 + b2n v.hot * 2 ^ 19 + b2n v.pend * 2 ^ 18
    + v.band * 2 ^ 16 + (BitVec.ofInt 16 v.temp).toNat)

def RingRegs.ctl (r : RingRegs) : Nat := b2n r.enable + b2n r.err * 2

/-- The 8-byte register slot at an offset of a partition's block; every other offset reads 0. -/
def State.readBar0 (s : State) (part off : Nat) : Word :=
  let p := s.part part
  let ring (r : RingRegs) (o : Nat) : Nat :=
    match o with
    | 0 => r.ring
    | 8 => r.size + r.ctl * 2 ^ 32
    | 16 => r.wr.toNat + r.rd.toNat * 2 ^ 32
    | _ => 0
  BitVec.ofNat 64 (
    if off = 0 then s.dev.harness.toNat
    else if off = 8 then s.dev.limit
    else if 0x10 ≤ off && off ≤ 0x28 then
      let r := s.reg ((off - 0x10) / 8)
      s.clustersOn ((off - 0x10) / 8) * 2 ^ 32 + r.fmin * 2 ^ 16 + r.fmax * 2 ^ 8 + r.fcur
    else if 0x1000 ≤ off && off < 0x1020 then ring p.ev (off - 0x1000)
    else if 0x2000 ≤ off && off < 0x2400 then (s.vault ((off - 0x2000) / 8)).status.toNat
    else if 0x4000 ≤ off && off < 0x4020 then ring p.cmd (off - 0x4000)
    else 0)

/-- RING and SIZE change only while ENABLE is 0; then CTL takes effect. -/
def writeRing (r : RingRegs) (o : Nat) (v : Nat) (isCmd : Bool) (enable : RingRegs → RingRegs) : RingRegs :=
  match o with
  | 0 => if r.enable then r else { r with ring := v }
  | 8 =>
    let r := if r.enable then r else { r with size := v % 2 ^ 32 }
    if bitAt v 32 then enable r else { r with enable := false }
  | 16 => if isCmd then { r with wr := BitVec.ofNat 32 v } else { r with rd := BitVec.ofNat 32 (v / 2 ^ 32) }
  | _ => r

/-- A write of a whole 8-byte slot by a function of a partition. -/
def writeSlot (func part off : Nat) (v : Word) : Act Unit := do
  if off = 0 then writeHarness func (v.truncate 32)
  else if off = 8 then writeLimit func v
  else if 0x10 ≤ off && off ≤ 0x28 then writeDomain func ((off - 0x10) / 8) v
  else if 0x1000 ≤ off && off < 0x1020 then
    modPart part fun p => { p with ev := writeRing p.ev (off - 0x1000) v.toNat false enableEvents }
  else if 0x4000 ≤ off && off < 0x4020 then
    modPart part fun p => { p with cmd := writeRing p.cmd (off - 0x4000) v.toNat true enableCommands }
  else pure ()

/-- The slot's value after a write of `bytes` bytes at `at_` within it. -/
def mergeBytes (old v : Word) (at_ bytes : Nat) : Word :=
  let m := BitVec.ofNat 64 ((2 ^ (8 * bytes) - 1) * 2 ^ (8 * at_))
  (old &&& ~~~ m) ||| (BitVec.ofNat 64 (v.toNat * 2 ^ (8 * at_)) &&& m)

/-- A write of up to 8 bytes at an offset reaches the register slots that hold them, the lower first. -/
def writeBar0 (func part off bytes : Nat) (v : Word) : Act Unit := do
  let low := min bytes (8 - off % 8)
  let slot := off / 8 * 8
  if low = 0 then pure () else writeSlot func part slot (mergeBytes ((← now).readBar0 part slot) v (off % 8) low)
  if bytes ≤ low then pure ()
  else writeSlot func part (slot + 8) (mergeBytes ((← now).readBar0 part (slot + 8)) (v >>> (8 * low)) 0 (bytes - low))

/-- REGISTER_WRITE (R412): a write of up to 8 bytes; the doorbell takes one 64-bit write; other offsets ignore writes. -/
def execRegisterWrite (func off bytes : Nat) (v : Word) (s : State) : Result :=
  event "REGISTER_WRITE" (fun s => bytes ≤ 8 && !(off == 0x3000 && bytes == 8 && s.bellHeld func v)) (
    forPart func fun part => if off = 0x3000 && bytes = 8 then ringBell part v else writeBar0 func part off bytes v) s

/-- A read of BAR0 (R412): its completion carries the registers' bytes; a function bound to no partition gets Unsupported Request. -/
def hostRead (func off bytes : Nat) (s : State) : Result := commit (
  forPart func fun part => replyTo func .done ((List.range bytes).map fun i =>
    (leBytes 8 (s.readBar0 part ((off + i) / 8 * 8)).toNat).getD ((off + i) % 8) 0)) s

/-! ### Requests of the host and of other packages (R412, R417) -/

/-- Accesses without a context carry a CTXID that no entry holds: they match entries with ANY = 1 only (R391). -/
def noContext : Nat := 4096

/-- The address and size of a request. -/
def accSpan : HostAcc → Nat × Nat
  | .read a n => (a, n)
  | .write a l => (a, l.length)
  | .fetchAdd a n _ => (a, n)
  | .swap a n _ => (a, n)
  | .cas a n _ _ => (a, n)
/-- A write or an AtomicOp carries at most 512 bytes, and a read asks for at most 4096 (R410). -/
def accFits : HostAcc → Bool
  | .read _ n => n ≤ 4096
  | .write _ l => l.length ≤ 512
  | _ => true
/-- What it needs of the tables. -/
def accNeed : HostAcc → Need
  | .read _ _ => ⟨true, false⟩
  | .write _ _ => ⟨false, true⟩
  | _ => ⟨true, true⟩
/-- Atomics are of 4 or 8 bytes, naturally aligned. -/
def accLegal : HostAcc → Bool
  | .read _ _ => true
  | .write _ _ => true
  | .fetchAdd a n _ => (n == 4 || n == 8) && a % n == 0
  | .swap a n _ => (n == 4 || n == 8) && a % n == 0
  | .cas a n _ _ => (n == 4 || n == 8) && a % n == 0

/-- What memory receives, from the old value; `none` for no write. -/
def accResult (a : HostAcc) (old : Nat) : Option (List Byte) :=
  match a with
  | .read _ _ => none
  | .write _ l => some l
  | .fetchAdd _ n v => some (leBytes n (old + v.toNat))
  | .swap _ n v => some (leBytes n v.toNat)
  | .cas _ n e v => if old = e.toNat % 2 ^ (8 * n) then some (leBytes n v.toNat) else none

/-- What its completion carries: the bytes read, of an AtomicOp the old value; a write is posted and has none. -/
def accReply (a : HostAcc) (old : List Byte) : List Byte :=
  match a with
  | .write _ _ => []
  | _ => old
def accPosted : HostAcc → Bool
  | .write _ _ => true
  | _ => false

/-- The locations of a request when the tables admit it: each 2 KiB of a physical range lies in one vault. -/
def State.requestLocs (s : State) (part : Nat) (need : Need) (a n : Nat) : Option (List Nat) :=
  let pieces := cutSpan 2048 a n
  let locs := pieces.map fun p => (dramLoc p.1).filter fun l => s.admits part noContext need l p.1 p.2
  if locs.any (·.isNone) then none
  else some ((pieces.zip locs).flatMap fun q => locRange (q.2.getD 0) q.1.2)

/-- Perform an admitted request. -/
def performRequest (part : Nat) (a : HostAcc) : Act Unit := do
  let s ← now
  match s.requestLocs part (accNeed a) (accSpan a).1 (accSpan a).2 with
  | none => pure ()
  | some locs =>
    if !accLegal a then pure ()
    else
      each ((locs.map (· / 128 * 128)).dedup) fun l => touchL2 l .default
      match accResult a (s.readLocs locs) with
      | some b => writeLocs locs b
      | none => pure ()

/-- A request waits for a row that is being copied (R25). -/
def State.requestHeld (s : State) (part : Nat) (a : HostAcc) : Bool :=
  match s.requestLocs part (accNeed a) (accSpan a).1 (accSpan a).2 with
  | some locs => s.held locs
  | none => false

/-- How a request ends (R391, R412): a refused one is aborted; an AtomicOp of another size or alignment is unsupported. -/
def State.requestReply (s : State) (part : Nat) (a : HostAcc) : ReplyStatus × List Byte :=
  match s.requestLocs part (accNeed a) (accSpan a).1 (accSpan a).2 with
  | none => (.aborted, [])
  | some locs => if accLegal a then (.done, accReply a (locs.map s.byte)) else (.unsupported, [])

/-- What a read through BAR2 returns (R412, R391): all ones outside the window, none when it is refused. -/
def State.bar2Read (s : State) (part a n : Nat) : Option (List Byte) :=
  if dramEnd < a + n then some (List.replicate n 0xFF)
  else (s.requestLocs part ⟨true, false⟩ a n).map fun l => l.map s.byte

/-- HOST_BAR2_ACCESS (R410, R412) through a function. Above the DRAM window the request is unsupported, and a read returns all ones; a
refused read or AtomicOp is aborted, and a refused write is dropped (AER is out by log entry 86). -/
def execHostBar2Access (func : Nat) (a : HostAcc) (s : State) : Result :=
  event "HOST_BAR2_ACCESS" (fun s => accFits a && (s.dev.partOf func).all fun p => !s.requestHeld p a) (
    forPart func fun part =>
      if dramEnd < (accSpan a).1 + (accSpan a).2 then
        replyTo func .unsupported (accReply a (List.replicate (accSpan a).2 0xFF))
      else do
        performRequest part a
        if accPosted a then pure () else replyTo func (s.requestReply part a).1 (s.requestReply part a).2) s

/-- The part of a request that lies in one piece of its span; an AtomicOp lies in one. -/
def accPart (a : HostAcc) (p : Nat × Nat) : HostAcc :=
  match a with
  | .read _ _ => .read p.1 p.2
  | .write o l => .write p.1 ((l.drop (p.1 - o)).take p.2)
  | x => x

/-- A request for another package goes on by this one's route table, each 4 KiB unit of it on the link that the unit chooses (R417). -/
def forward (package : Nat) (a : HostAcc) : Act Unit :=
  each (cutSpan 4096 (accSpan a).1 (accSpan a).2) fun p => do
    sendFar package p.1
    match (← now).routeLink package (p.1 / 4096) with
    | some l => modLink l fun x => { x with passed := some (accPart a p) }
    | none => pure ()

/-- REMOTE_REQUEST (R417): a request of another package for this one carries the link's partition, and its answer leaves by the link. One
for another package is forwarded, once a link of its route is UP; with none left it fails. -/
def execRemoteRequest (link package : Nat) (a : HostAcc) (s : State) : Result :=
  event "REMOTE_REQUEST" (fun s => (s.link link).status == .up
      && if package = s.dev.package then !s.requestHeld (s.link link).part a else s.packageWay package != .waits) (
    if package = s.dev.package then do
      performRequest (s.link link).part a
      modLink link fun l =>
        { l with answer := some ((s.requestReply l.part a).1 == .done, (s.requestReply l.part a).2) }
    else if s.packageWay package = .leaves then forward package a
    else modLink link fun l => { l with answer := some (false, []) }) s

/-! ### Completions (R414, R417) -/

/-- A word of wave v lacks nothing but the completion of its far accesses. -/
def State.wordAwaitsFar (s : State) (v : Nat) (x : StreamWord) : Bool :=
  let i := s.laneIn v x
  let answered := { i with w := { i.w with reply := some (x.handler, true) } }
  i.memPlan == some .wait && answered.memPlan != some .wait

/-- A line of code that context k fetches from host memory (R414). -/
def State.hostFetch (s : State) (k : Nat) : Option Fill :=
  (s.cluster (ctxCluster k)).icFills.find? fun f => f.waiter == some k && isHost f.pa

/-- The agent has a request out to the host or to another package. -/
def State.awaitsFar (s : State) : Agent → Bool
  | .context k => ((s.ctx k).status == .stalled .host && (s.ctx k).reply.isNone) || (s.hostFetch k).isSome
  | .wave v =>
    let w := s.wave v
    match w.head with
    | some x => (w.status == .live || (w.status == .stopped && x.handler))
        && (s.wordAwaitsFar v x || ((LaneWord.ofNat x.word.toNat).p && w.half.isNone && w.second.any (s.wordAwaitsFar v)))
    | none => false
  | .copy w n => match s.bound w n with
    | some b => b.asks.isSome
    | none => false

/-- A line of code arrives from host memory for context k, and no cache keeps it (R380); an error refuses it, so that the word takes the
fetch fault (Table 17.6). -/
def completeFetch (k : Nat) (f : Fill) (ok : Bool) : Act Unit := do
  let s ← now
  modCluster (ctxCluster k) fun c => { c with icFills := c.icFills.filter (· != f) }
  modCtx k fun c => { c with fetched := (f.line, if ok then .bytes ((locRange f.pa 64).map s.byte) else .refused) :: c.fetched }

def completeAgent (a : Agent) (ok : Bool) : Act Unit := do
  let s ← now
  match a with
  | .context k => match s.hostFetch k with
    | some f => completeFetch k f ok
    | none => modCtx k fun c => { c with reply := some ok }
  | .wave v => modWave v fun w => { w with reply := w.head.map fun x => (x.handler, ok) }
  | .copy w n => completeFar w n ok

/-- The context of an agent. -/
def State.agentCtxid (s : State) : Agent → Nat
  | .context k => (s.ctx k).ctxid
  | .wave v => (s.wg (s.wave v).wg).ctxid
  | .copy w _ => (s.wg w).ctxid

/-- HOST_COMPLETION (R414) and REMOTE_COMPLETION (R417): the request has completed, or with an error. A request to the host has gone out with
the requester ID of its context's partition. -/
def execHostCompletion (a : Agent) (ok : Bool) (s : State) : Result :=
  event "HOST_COMPLETION" (·.awaitsFar a) (do
    askHost (s.agentCtxid a)
    completeAgent a ok) s
def execRemoteCompletion (a : Agent) (ok : Bool) (s : State) : Result :=
  event "REMOTE_COMPLETION" (·.awaitsFar a) (completeAgent a ok) s

/-! ### Traverse links (R415, R416) -/

/-- FEATQ's topology generation counts the changes of class 3 (R302). -/
def topologyChange : Act Unit := modDevice fun d => { d with topology := d.topology + 1 }

def linkEvent (link : Nat) : Act Unit := raiseEvent 0 8 0 2 link 0 0

/-- LINK_TRAINED: the partner is trained within 10 ms. -/
def execLinkTrained (link : Nat) (s : State) : Result :=
  event "LINK_TRAINED" (fun s => (s.link link).status == .training && s.dev.time ≤ (s.link link).since + 10000000) (do
    modLink link fun l => { l with status := .up, since := s.dev.time, retrains := 0 }
    topologyChange) s

/-- LINK_TRAINING_TIMEOUT: no partner. -/
def execLinkTrainingTimeout (link : Nat) (s : State) : Result :=
  event "LINK_TRAINING_TIMEOUT" (fun s => (s.link link).status == .training && (s.link link).since + 10000000 ≤ s.dev.time)
    (modLink link fun l => { l with status := .down, since := s.dev.time }) s

/-- UP to RETRAINING, with its event. -/
def startRetrain (link : Nat) : Act Unit := do
  let t := (← now).dev.time
  modLink link fun l => { l with status := .retraining, since := t, resends := 0 }
  linkEvent link
  topologyChange

/-- LINK_RETRAIN: loss of lock. -/
def execLinkRetrain (link : Nat) (s : State) : Result :=
  event "LINK_RETRAIN" (fun s => (s.link link).status == .up) (startRetrain link) s

/-- LINK_RETRAIN_END: retrained within 100 µs, or the attempt fails; three failures in a row make the link FAILED. -/
def execLinkRetrainEnd (link : Nat) (ok : Bool) (s : State) : Result :=
  event "LINK_RETRAIN_END" (fun s => (s.link link).status == .retraining
      && (!ok || s.dev.time ≤ (s.link link).since + 100000)) (
    if ok then do
      modLink link fun l => { l with status := .up, since := s.dev.time, retrains := 0 }
      topologyChange
    else if (s.link link).retrains + 1 < 3 then
      modLink link fun l => { l with retrains := l.retrains + 1, since := s.dev.time }
    else do
      modLink link fun l => { l with status := .failed, retrains := 0, since := s.dev.time }
      linkEvent link
      poisonUnreachable) s

/-- LINK_FLIT_RECEIVE (R416): the expected flit, good, is delivered; a bad one is resent, the eighth time in a row by way of
RETRAINING; others are discarded meanwhile. Compression (R418) changes no bit. -/
def execLinkFlitReceive (link seq : Nat) (good : Bool) (s : State) : Result :=
  event "LINK_FLIT_RECEIVE" (fun s => (s.link link).status == .up) (
    let l := s.link link
    if seq % 4096 ≠ l.rxSeq then pure ()
    else if good then modLink link fun l => { l with rxSeq := (l.rxSeq + 1) % 4096, resends := 0, discarding := false }
    else if l.resends + 1 < 8 then modLink link fun l => { l with resends := l.resends + 1, discarding := true }
    else do
      modLink link fun l => { l with discarding := true }
      startRetrain link) s

end Sys2Proof.Machine
end

