-- ==== Sys2Proof/Machine/Power.lean ====
section
/-! DEFINITION. Vaults, heat and power (18_vault): sensors and refresh bands (R394 to R397), current and package power
(R403, R404), the estimate and its weights (R405, R406), gating (R407) and frequency transitions (R408). Times are in nanoseconds,
powers in milliwatts. -/
namespace Sys2Proof.Machine

/-! ### Pass counts (R356) -/

def raisePass (p : Nat) : Nat := if p ≤ 1 then 2 else 4
def lowerPass (p : Nat) : Nat := if 4 ≤ p then 2 else 1
/-- The pass count after n raises from 1. -/
def passAfter (n : Nat) : Nat := if n = 0 then 1 else if n = 1 then 2 else 4

/-- The clusters of a regulator's domain (R400). -/
def State.domain (s : State) (r : Nat) : List Nat :=
  (List.range Config.clusters).filter fun c => (s.cluster c).reg == r && !(s.cluster c).lost
def State.allSlow (s : State) (r : Nat) : Bool := (s.domain r).all fun c => (s.cluster c).pass == 4

/-- Keep the time since which the whole of each domain is at pass count 4 (R404). -/
def noteSlow : Act Unit := do
  let s ← now
  each (List.range 4) fun r => modReg r fun x =>
    { x with slowSince := if s.allSlow r then some (x.slowSince.getD s.dev.time) else none }

/-- Raise every cluster of a domain by one step. -/
def raiseDomain (r : Nat) : Act Unit := do
  each ((← now).domain r) fun c => modCluster c fun x => { x with pass := raisePass x.pass }
  noteSlow

/-! ### Sensors (R394 to R397) -/

/-- Readings are in quarter degrees. -/
def risingTarget (t : Int) : Nat := if 400 ≤ t then 3 else if 360 ≤ t then 2 else if 320 ≤ t then 1 else 0
def fallingTarget (t : Int) : Nat := if 388 ≤ t then 3 else if 348 ≤ t then 2 else if 308 ≤ t then 1 else 0
/-- The band that a reading calls for (R395). -/
def wantBand (band : Nat) (t : Int) : Nat :=
  if band < risingTarget t then risingTarget t else if fallingTarget t < band then fallingTarget t else band

/-- The vault after a sample (R395): a change waits for the dwell of 2 ms. -/
def Vault.sample (v : Vault) (t : Int) (time : Nat) : Vault :=
  let want := wantBand v.band t
  let v := { v with temp := t, hot := 420 < t, sampled := some time }
  if want = v.band then { v with pend := false }
  else if v.entered + 2000000 ≤ time then { v with band := want, entered := time, pend := false }
  else { v with pend := true }

/-- The vaults beneath a cluster (R7): logical vault v lies beneath logical cluster v / 4. -/
def vaultsUnder (c : Nat) : List Nat := (List.range 4).map (4 * c + ·)
def State.hotUnder (s : State) (c : Nat) : Bool := (vaultsUnder c).any fun v => (s.vault v).hot
def State.coolUnder (s : State) (c : Nat) : Bool := (vaultsUnder c).all fun v => (s.vault v).temp < 408

/-- VAULT_SENSOR_SAMPLE: a reading above 105 degrees sets pass count 4 (R397); four readings below 102 end the hold. -/
def execVaultSensorSample (vault : Nat) (temp : Int) (s : State) : Result :=
  event "VAULT_SENSOR_SAMPLE" (fun s => vault < 128 && (s.vault vault).sampled.all fun t => t + 100000 ≤ s.dev.time)
    (do
      modVault vault fun v => v.sample temp s.dev.time
      let c := vault / 4
      if 420 < temp then
        modCluster c fun x => { x with pass := 4, heatHold := true, heatSince := some (x.heatSince.getD s.dev.time) }
      else pure ()
      if (← now).coolUnder c then modCluster c fun x => { x with heatHold := false, heatSince := none, noPlace := false }
      else pure ()
      noteSlow) s

/-- The gangs with a member resident on a cluster. -/
def State.gangsOn (s : State) (c : Nat) : List Nat :=
  ((s.seats.filter (·.cluster == c)).map (·.gang)).dedup

/-- OVERHEAT_GATE_CHECK (R397), 1 ms after the reading: a vault that is still hot has the cluster gated, once its work is
saved. -/
def execOverheatGateCheck (cluster : Nat) (s : State) : Result :=
  event "OVERHEAT_GATE_CHECK" (fun s => match (s.cluster cluster).heatSince with
    | some t => t + 1000000 ≤ s.dev.time
    | none => false) (
    if s.hotUnder cluster then do
      modCluster cluster fun x => { x with heatSince := none, noPlace := true }
      each (s.gangsOn cluster) fun g => preempt g .gate
    else modCluster cluster fun x => { x with heatSince := none }) s

/-! ### Current alarms (R403) -/

/-- A raise of a domain by one step, unless it is at 4 already; the alarm is sampled 1 µs later. -/
def alarmRaise (reg : Nat) : Act Unit := do
  let s ← now
  if s.allSlow reg then modReg reg fun r => { r with raisedAt := none }
  else
    raiseDomain reg
    modReg reg fun r => { r with raisedAt := some s.dev.time }

/-- CURRENT_ALARM: the level changes; an assertion raises, unless a sample is due. -/
def execCurrentAlarm (reg : Nat) (level : Bool) (s : State) : Result :=
  event "CURRENT_ALARM" (fun s => (s.reg reg).alarm != level) (do
    modReg reg fun r => { r with alarm := level, alarmAt := s.dev.time }
    if level && (s.reg reg).raisedAt.isNone then alarmRaise reg else pure ()) s

/-- CURRENT_ALARM_SAMPLE, 1 µs after a raise. -/
def execCurrentAlarmSample (reg : Nat) (s : State) : Result :=
  event "CURRENT_ALARM_SAMPLE" (fun s => match (s.reg reg).raisedAt with
    | some t => t + 1000 ≤ s.dev.time
    | none => false) (
    if (s.reg reg).alarm then alarmRaise reg else modReg reg fun r => { r with raisedAt := none }) s

/-- No alarm and no other step for 50 µs. -/
def State.quiet (s : State) (reg : Nat) : Bool :=
  let r := s.reg reg
  !r.alarm && r.alarmAt + 50000 ≤ s.dev.time && r.steppedAt + 50000 ≤ s.dev.time

/-- A step down is due: it is quiet, the estimate is within the limit, and a cluster stands above what the package limit has raised
(R403, R397); those steps R404 takes back. -/
def State.stepDownDue (s : State) (reg : Nat) : Bool :=
  s.quiet reg && s.dev.pkgEst ≤ 1000 * s.dev.limit
    && (s.domain reg).any fun c => passAfter (s.reg reg).pkgRaised < (s.cluster c).pass && !(s.cluster c).heatHold

/-- Lower a domain by one step, not below what the package limit has raised; a cluster that heat holds keeps pass count 4 (R397). -/
def lowerDomain (reg : Nat) : Act Unit := do
  let s ← now
  let least := passAfter (s.reg reg).pkgRaised
  each (s.domain reg) fun c => modCluster c fun x =>
    if x.heatHold || x.pass ≤ least then x else { x with pass := max (lowerPass x.pass) least }
  modReg reg fun r => { r with steppedAt := s.dev.time }
  noteSlow

/-- PASS_COUNT_STEP_DOWN. -/
def execPassCountStepDown (reg : Nat) (s : State) : Result :=
  event "PASS_COUNT_STEP_DOWN" (·.stepDownDue reg) (lowerDomain reg) s

/-! ### The estimate (R405) -/

/-- p_est for 1 µs: w0 and the weighted event counts, in whole milliwatts (log entry 103). -/
def estimate (weights : List Rat) (counts : List Nat) : Nat :=
  (weights.headD 0 + (List.zipWith (fun w n => w * (n : Rat)) (weights.drop 1) counts).sum).floor.toNat

/-- A cluster after n ends of a microsecond: the events so far belong to the first of them. -/
def Cluster.microseconds (c : Cluster) (weights : List Rat) (n : Nat) : Cluster :=
  if n = 0 then c
  else
    let first := estimate weights c.counts
    let idle := estimate weights []
    { c with
      counts := c.counts.map fun _ => 0, pest := if n = 1 then first else idle, psum := c.psum + first + (n - 1) * idle }

/-- The events of all clusters, by kind. -/
def State.eventCounts (s : State) : List Nat := (List.range 11).map fun k => (s.clusters.map fun c => c.counts.getD k 0).sum

/-- The estimates after time passes to t. -/
def State.estimated (s : State) (t : Nat) : State :=
  let n := t / 1000 - s.dev.time / 1000
  if n = 0 then s
  else
    { s with
      clusters := s.clusters.map fun c => c.microseconds s.dev.weights n
      dev := { s.dev with secCounts := List.zipWith (· + ·) s.dev.secCounts s.eventCounts } }

/-! ### The package limit (R404) -/

def State.domainEst (s : State) (r : Nat) : Nat := ((s.domain r).map fun c => (s.cluster c).psum).sum
/-- The first of a list with the highest value. -/
def highest (f : Nat → Nat) : List Nat → Option Nat
  | [] => none
  | x :: l => match highest f l with
    | some y => if f x < f y then some y else some x
    | none => some x

/-- One of a list with the highest value: `pick` where several have it and it is one of them, which R404 leaves open, else the first. -/
def highestOf (f : Nat → Nat) (pick : Nat) (l : List Nat) : Option Nat :=
  match highest f l with
  | some y => if l.contains pick && f pick == f y then some pick else some y
  | none => none

/-- Domains that have been at pass count 4 for 1 ms and can go slower. -/
def State.slowable (s : State) : List Nat :=
  (List.range 4).filter fun r => (s.reg r).fmin < (s.reg r).fcur && (s.reg r).pendingF.isNone && match (s.reg r).slowSince with
    | some t => t + 1000000 ≤ s.dev.time
    | none => false

/-- The cluster, not gated, that holds the most recently placed gang; without one, none. -/
def State.newestCluster (s : State) (pick : Nat) : Option Nat :=
  highestOf (fun c => ((s.gangsOn c).map fun g => (s.gang g).placedAt + 1).foldl max 0) pick
    ((List.range Config.clusters).filter fun c => !(s.cluster c).gated && !(s.cluster c).powerGate && !(s.gangsOn c).isEmpty)

def note (a : PowerAction) : Act Unit := modDevice fun d => { d with actions := a :: d.actions }

/-- The next action against an excess. -/
def throttle (domain cluster : Nat) : Act Unit := do
  let s ← now
  let fast := (List.range 4).filter fun r => !s.allSlow r
  match highestOf s.domainEst domain fast with
  | some r =>
    raiseDomain r
    modReg r fun x => { x with pkgRaised := x.pkgRaised + 1 }
    note (.pass r)
  | none =>
    if !s.slowable.isEmpty then
      each s.slowable fun r => do
        modReg r fun x => { x with pendingF := some (x.fcur - 1) }
        note (.clock r)
    else if (List.range 4).all fun r => (s.reg r).fcur ≤ (s.reg r).fmin then
      match s.newestCluster cluster with
      | some c => do
        modCluster c fun x => { x with powerGate := true }
        each (s.gangsOn c) fun g => preempt g .gate
        note (.gate c)
      | none => pure ()
    else pure ()

/-- An action can be reversed now: a clock step after the transition under way, a pass count while it is quiet (R403). -/
def State.reversible (s : State) : PowerAction → Bool
  | .gate _ => true
  | .clock r => (s.reg r).pendingF.isNone
  | .pass r => s.quiet r

/-- The reverse of an action. -/
def reverse (a : PowerAction) : Act Unit :=
  match a with
  | .gate c => modCluster c fun x => { x with powerGate := false }
  | .clock r => modReg r fun x => { x with pendingF := if x.fcur < x.fmax then some (x.fcur + 1) else none }
  | .pass r => do
    modReg r fun x => { x with pkgRaised := x.pkgRaised - 1 }
    lowerDomain r

/-- The reverse of the newest action that stands, one a window, when at least 5 % of the limit is unused. -/
def unthrottle : Act Unit := do
  let s ← now
  match s.dev.actions with
  | a :: rest =>
    if s.reversible a then
      modDevice fun d => { d with actions := rest }
      reverse a
    else pure ()
  | [] => pure ()

/-- The package estimate of the window that ends: the average over the clusters' microseconds, the DRAM term and the fixed one, which
are open (R405, log entry 103). -/
def State.packageEst (s : State) (ix : Nat) : Nat :=
  (s.clusters.map (·.psum)).sum / max 1 (s.dev.time / 1000 - s.dev.windowAt / 1000) + Config.dramPower ix + Config.fixedPower

/-- POWER_WINDOW_END: the average of a 1 ms window against the limit (R404, R405). -/
def execPowerWindowEnd (domain cluster : Nat) (s : State) : Result :=
  event "POWER_WINDOW_END" (fun s => s.dev.windowAt + 1000000 ≤ s.dev.time) (do
    let ix ← freshIx
    let package := s.packageEst ix
    modDevice fun d => { d with pkgEst := package, windowAt := s.dev.time }
    if 1000 * s.dev.limit < package then throttle domain cluster
    else if package ≤ 950 * s.dev.limit then unthrottle else pure ()
    each (List.range Config.clusters) fun c => modCluster c fun x => { x with psum := 0 }) s

/-! ### The weights (R406) -/

def dot (a b : List Rat) : Rat := (List.zipWith (· * ·) a b).sum

/-- One update of recursive least squares with forgetting factor 0.98: the weights and the inverse correlation matrix after a
measurement y at the regressors x. -/
def leastSquares (weights : List Rat) (cov : List (List Rat)) (x : List Rat) (y : Rat) : List Rat × List (List Rat) :=
  let px := cov.map (dot · x)
  let gain := px.map (· / (98 / 100 + dot x px))
  let xp := (List.range x.length).map fun j => dot x (cov.map fun row => row.getD j 0)
  (List.zipWith (fun w g => w + g * (y - dot weights x)) weights gain,
    List.zipWith (fun row g => List.zipWith (fun p q => (p - g * q) / (98 / 100)) row xp) cov gain)

/-- A weight between half and twice its factory value f. -/
def clampWeight (f w : Rat) : Rat := max (f / 2) (min (2 * f) w)

/-- WEIGHT_REFIT (R406), once a second: a fit against the shunt's package power, less the DRAM and fixed terms. The regressors are the
clusters, for w0, and the events of each kind in a microsecond. -/
def execWeightRefit (shunt : Nat) (s : State) : Result :=
  event "WEIGHT_REFIT" (fun s => s.dev.refitAt + 1000000000 ≤ s.dev.time) (do
    let ix ← freshIx
    let d := s.dev
    let us : Rat := ((d.time - d.refitAt) / 1000 : Nat)
    let x : List Rat := (s.clusters.length : Rat) :: d.secCounts.map fun n => (n : Rat) / us
    let fit := leastSquares d.weights d.cov x ((shunt : Rat) - (Config.dramPower ix + Config.fixedPower : Nat))
    modDevice fun d =>
      { d with
        refitAt := d.time, secCounts := List.replicate 11 0, cov := fit.2
        weights := fit.1.mapIdx fun k w => clampWeight (Config.factoryWeight k) w }) s

/-! ### Gating (R407) -/

/-- A cluster that may be gated: it holds no workgroup, for 100 µs or under R397, R404 or R26. -/
def State.gateDue (s : State) (c : Nat) : Bool :=
  let x := s.cluster c
  c < Config.clusters && !x.gated && !x.lost && x.wakeAt.isNone && !s.seats.any (·.cluster == c)
    && (x.idleSince + 100000 ≤ s.dev.time || x.noPlace || x.powerGate || x.failing)

/-- IDLE_GATE: caches, loft and TLB are cleared; the cluster's free resources and its harness connection stay. -/
def execIdleGate (cluster : Nat) (s : State) : Result :=
  event "IDLE_GATE" (·.gateDue cluster) (do
    modCluster cluster fun x =>
      { x with
        gated := true, icache := [], icFills := [], dcache := [], dcFills := [], loft := [], loftFills := [], tlb := []
        slotsUsed := 0, sfu := none, divide := none, spillq := [] }
    modDie (dieOf cluster) fun d =>
      { d with
        walks := d.walks.filter (·.cluster != cluster), joined := d.joined.filter (·.cluster != cluster)
        misses := d.misses.filter (·.cluster != cluster) }) s

/-- CLUSTER_WAKE: 20 µs after the dispatcher woke it, zero stands in every vector register and accumulator (R151). -/
def execClusterWake (cluster : Nat) (s : State) : Result :=
  event "CLUSTER_WAKE" (fun s => (s.cluster cluster).gated && match (s.cluster cluster).wakeAt with
    | some t => t ≤ s.dev.time
    | none => false) (do
    let lo := cluster * 2 ^ 19
    let hi := lo + 2 ^ 19
    emits [.clearVregs lo hi, .clearAccs lo hi]
    emit (.badRegs (s.badRegs.filter fun k => k < lo || hi ≤ k))
    emit (.badAccs (s.badAccs.filter fun k => k < lo || hi ≤ k))
    modCluster cluster fun x => { x with gated := false, wakeAt := none, idleSince := s.dev.time }) s

/-! ### Frequency transitions (R408) -/

/-- The contexts of a domain. -/
def State.domainCtxs (s : State) (reg : Nat) : List Nat :=
  (s.domain reg).flatMap fun c => (List.range 16).map (c * 16 + ·)

/-- RUNNING and HANDLER contexts are PARKED while their domain pauses, and go back (Table 6.2). -/
def Context.parkForPause (c : Context) : Context := if c.status == .running then { c with status := .parked .pause } else c
def Context.endPause (c : Context) : Context := if c.status == .parked .pause then { c with status := .running } else c

/-- FREQUENCY_TRANSITION: the domain pauses for the switch to the point the controller has chosen, at most once in 100 µs. -/
def execFrequencyTransition (reg point : Nat) (s : State) : Result :=
  event "FREQUENCY_TRANSITION" (fun s =>
      let r := s.reg reg
      r.pendingF == some point && r.paused.isNone && r.changedAt.all fun t => t + 100000 ≤ s.dev.time) (do
    modReg reg fun r => { r with paused := some s.dev.time }
    each (s.domainCtxs reg) fun k => modCtx k Context.parkForPause) s

/-- FREQUENCY_PAUSE_END: within 1.5 µs the domain resumes at the new point; traps owed meanwhile are then taken (R168). -/
def execFrequencyPauseEnd (reg : Nat) (s : State) : Result :=
  event "FREQUENCY_PAUSE_END" (fun s => match (s.reg reg).paused with
    | some t => s.dev.time ≤ t + 1500
    | none => false) (do
    modReg reg fun r =>
      { r with fcur := r.pendingF.getD r.fcur, pendingF := none, paused := none, changedAt := some s.dev.time }
    each (s.domainCtxs reg) fun k => modCtx k Context.endPause) s

end Sys2Proof.Machine
end

