-- ==== Sys2Proof/Machine/Errors.lean ====
section
/-! DEFINITION. Reset, errors of the hardware and their repair: DEVICE_RESET (R311), corrected errors and spare rows (R25),
uncorrectable errors (R28), spare clusters (R26) and die-to-die ports (Table 11.4). -/
namespace Sys2Proof.Machine

/-! ### DEVICE_RESET (R311) -/

/-- The state after a reset: every register at its reset value; memory keeps its contents (log entry 20), the agenda its turns, and
which firmware images verify is open (log entry 2). DESIGN CHOICE (log entry 96): a spare substitution and the loss of a cluster (R26),
on which the manual is silent here, are forgotten. -/
def resetState (s : State) : State :=
  { State.reset with
    agenda := s.agenda, mem := s.mem, badDram := s.badDram, badSram := s.badSram, dev := Device.boot s.dev.freeCount }

def execDeviceReset (s : State) : Result := .next (resetState s)

/-! ### Corrected errors and spare rows (R25) -/

/-- A row's layer; row numbers count 2^20 rows a layer (log entry 21). -/
def layerOf (row : Nat) : Nat := row / 2 ^ 20 % 8
def dayNs : Nat := 86400000000000
def Vault.errorsOf (v : Vault) (row time : Nat) : Nat :=
  (v.errors.filter fun e => e.1 == row && time < e.2 + dayNs).length

/-- CORRECTED_ERROR: the fourth in one row within 24 hours remaps it to a spare row of its layer; without one left the
driver is told. -/
def execCorrectedError (vault row : Nat) (s : State) : Result := commit (do
  let time := s.dev.time
  modVault vault fun v =>
    { v with ce := min (v.ce + 1) 65535, errors := (row, time) :: v.errors.filter fun e => time < e.2 + dayNs }
  let v := (← now).vault vault
  if 4 ≤ v.errorsOf row time && !v.remapping.any (·.1 == row) then
    if v.spares.getD (layerOf row) 0 + (v.remapping.filter fun r => layerOf r.1 == layerOf row).length < 64 then
      modVault vault fun v => { v with remapping := v.remapping ++ [(row, time)] }
    else raiseEvent 0 5 0 1 vault 0 0
  else pure ()) s

/-- What has waited for a row goes on: fault records for their ring slots, and full batches for their heads. -/
def afterRemap : Act Unit := do
  each (← now).devs fun d => do
    flushFaults d.desc.ctxid
    each d.nodes fun n => sealFull d.desc.ctxid n.handle

/-- ROW_REMAP_DONE: within 2 µs the spare row has the contents, and what it held goes on. -/
def execRowRemapDone (vault row : Nat) (s : State) : Result :=
  event "ROW_REMAP_DONE" (fun s => (s.vault vault).remapping.any fun r => r.1 == row && s.dev.time ≤ r.2 + 2000) (do
    modVault vault fun v =>
      { v with
        remapping := v.remapping.filter (·.1 != row), errors := v.errors.filter (·.1 != row)
        spares := v.spares.modify (layerOf row) (· + 1) }
    raiseEvent 0 4 0 1 vault 0 0
    afterRemap) s

/-! ### UNCORRECTABLE_ERROR (R28) -/

/-- The poison event: source class and number, address and unit size (Table 12.4). -/
def poisonEvent (cls num addr size : Nat) : Act Unit :=
  raiseEvent 0 2 0 cls num (BitVec.ofNat 64 addr) (BitVec.ofNat 64 size)

/-- Poison for an element that has no address, in an SRAM or register of a cluster (log entry 41). -/
def poisonElement (c size : Nat) : Act Unit := poisonEvent 0 c 0 size

/-- UNCORRECTABLE_ERROR: the unit is poisoned and the driver is told at once (R310). DESIGN CHOICE (log entry 97): for a unit of the
chip scratchpad, for whose shares Table 12.4 has no class, the source is cluster 8 × die. -/
def execUncorrectableError (t : PoisonTarget) (s : State) : Result := commit (
  match t with
  | .dram pa => match dramLoc pa with
    | none => pure ()
    | some loc => do
      emit (.badDram ((loc / 64 :: s.badDram).dedup))
      poisonEvent 1 (vaultOf loc) (pa / 64 * 64) 64
  | .sram loc =>
    if isSpad loc then do
      emit (.badSram ((loc / 8 :: s.badSram).dedup))
      poisonEvent 0 ((loc - 2 ^ 56) / 2 ^ 22) ((loc - 2 ^ 56) % 2 ^ 22 / 8 * 8) 8
    else if isChip loc then do
      emit (.badSram ((loc / 8 :: s.badSram).dedup))
      poisonEvent 0 (8 * locDie loc) ((loc - 2 ^ 57) / 8 * 8) 8
    else pure ()
  | .vreg c r l => do
    emit (.badRegs (((c * 2 ^ 19 + r * 64 + l) :: s.badRegs).dedup))
    poisonElement c 4
  | .acc c a e => do
    emit (.badAccs (((c * 2 ^ 19 + a * 16384 + e) :: s.badAccs).dedup))
    poisonElement c 4
  | .pred w p => do
    modWave w fun v => { v with badPreds := (p :: v.badPreds).dedup }
    poisonElement (waveCluster w) 4
  | .loft c line unit =>
    if line < (s.cluster c).loft.length && unit < 8 then do
      modCluster c fun x => { x with loft := x.loft.modify line fun l => { l with bad := (unit :: l.bad).dedup } }
      poisonElement c 8
    else pure ()
  | .landing g n seg => match s.bound g n with
    | none => pure ()
    | some b =>
      let hit := (List.range (b.sent - b.count)).filterMap fun i => if (b.count + i) / 2048 = seg then some (b.count + i) else none
      if b.isCopy && !hit.isEmpty then do
        setBound g n (some { b with badBytes := (hit ++ b.badBytes).dedup })
        poisonElement (s.wg g).cluster 8
      else pure ()) s

/-! ### SPARE_SUBSTITUTION (R26) -/

/-- The gangs that wait for the spare of a lost cluster are placed anywhere. -/
def releaseSpared (c : Nat) : Act Unit := do
  let s ← now
  each ((List.range s.gangs.length).filter fun g =>
      (s.gang g).trigger == some .spare && (s.gang g).wgs.any fun w => (s.wg w).cluster == c) fun g =>
    modGang g fun x => { x with trigger := some .gate }

/-- The coupling table once the spare stands in a site's place: firmware's new figures for its position (R26, R399), which are open
(log entry 2). -/
def Die.recouple (d : Die) (site ix : Nat) : Die :=
  { d with coupling := d.coupling.mapIdx fun i w => if i / 32 = site then Config.spareCoupling ix (i % 32) else w }

/-- SPARE_SUBSTITUTION: first the failing cluster's work is pre-empted; once it is gated and empty, or at reset, the die's spare takes
its number and its vaults. A die whose spare is in use runs without the cluster. -/
def execSpareSubstitution (cluster : Nat) (s : State) : Result :=
  event "SPARE_SUBSTITUTION" (fun s => cluster < Config.clusters && !(s.cluster cluster).lost) (
    let x := s.cluster cluster
    let d := dieOf cluster
    if (!x.gated && s.dev.time != 0) || s.seats.any (·.cluster == cluster) then do
      modCluster cluster fun x => { x with failing := true }
      each (s.gangsOn cluster) fun g => preempt g .spare
    else if (s.die d).spareFor.isNone then do
      let ix ← freshIx
      modDie d fun y => { y with spareFor := some cluster }.recouple (cluster % 8) ix
      modCluster cluster fun x => { x with failing := false }
      raiseEvent 0 3 0 0 cluster 0 0
    else do
      modCluster cluster fun x => { x with failing := false, lost := true, wakeAt := none }
      topologyChange
      raiseEvent 0 6 0 0 cluster 0 0
      releaseSpared cluster) s

/-! ### DIE_TO_DIE_PORT_FAILURE (Table 11.4) -/

/-- DIE_TO_DIE_PORT_FAILURE: copies whose source and destination it joins become POISONED (R281, R293). -/
def execDieToDiePortFailure (d1 d2 : Nat) (s : State) : Result :=
  event "DIE_TO_DIE_PORT_FAILURE" (fun _ => d1 < 4 && d2 < 4 && d1 != d2) (do
    modDie d1 fun d => { d with ports := d.ports.set d2 false }
    modDie d2 fun d => { d with ports := d.ports.set d1 false }
    let t ← now
    each t.bounds fun (g, n, b) =>
      if (b.state == .issued || b.state == .landing || b.state == .frozen) && t.crossesFailed (t.wg g) b then poisonBound g n
      else pure ()) s

end Sys2Proof.Machine
end

