-- ==== Sys2Proof/Machine/Dispatch.lean ====
section
/-! DEFINITION. The dispatcher of instructions: one arm per constructor of Instr, each one direct call of its meaning. -/
namespace Sys2Proof.Machine

/-- The meaning of an instruction. Generator words act on the context `curCtx`, lane words on the wave `curWave`, device
steps on what their parameters name. -/
def exec (i : Instr) (s : State) : Host.Outcome State Fault Refusal :=
  match i with
  | .gnop => Sys2Proof.Machine.execGnop s
  | .endRole => Sys2Proof.Machine.execEnd s
  | .trap code => Sys2Proof.Machine.execTrap code s
  | .eret => Sys2Proof.Machine.execEret s
  | .featq d cls => Sys2Proof.Machine.execFeatq d cls s
  | .sdrain => Sys2Proof.Machine.execSdrain s
  | .add d a b => Sys2Proof.Machine.execAdd d a b s
  | .sub d a b => Sys2Proof.Machine.execSub d a b s
  | .and_ d a b => Sys2Proof.Machine.execAnd d a b s
  | .or_ d a b => Sys2Proof.Machine.execOr d a b s
  | .xor_ d a b => Sys2Proof.Machine.execXor d a b s
  | .shl d a b => Sys2Proof.Machine.execShl d a b s
  | .shr d a b => Sys2Proof.Machine.execShr d a b s
  | .sar d a b => Sys2Proof.Machine.execSar d a b s
  | .mul d a b => Sys2Proof.Machine.execMul d a b s
  | .mulh d a b => Sys2Proof.Machine.execMulh d a b s
  | .mulhn d a b => Sys2Proof.Machine.execMulhn d a b s
  | .div d a b => Sys2Proof.Machine.execDiv d a b s
  | .divn d a b => Sys2Proof.Machine.execDivn d a b s
  | .rem d a b => Sys2Proof.Machine.execRem d a b s
  | .remn d a b => Sys2Proof.Machine.execRemn d a b s
  | .min_ d a b => Sys2Proof.Machine.execMin d a b s
  | .max_ d a b => Sys2Proof.Machine.execMax d a b s
  | .minn d a b => Sys2Proof.Machine.execMinn d a b s
  | .maxn d a b => Sys2Proof.Machine.execMaxn d a b s
  | .slt d a b => Sys2Proof.Machine.execSlt d a b s
  | .sltn d a b => Sys2Proof.Machine.execSltn d a b s
  | .seq d a b => Sys2Proof.Machine.execSeq d a b s
  | .clz d a => Sys2Proof.Machine.execClz d a s
  | .ctz d a => Sys2Proof.Machine.execCtz d a s
  | .popc d a => Sys2Proof.Machine.execPopc d a s
  | .addw d a b => Sys2Proof.Machine.execAddw d a b s
  | .subw d a b => Sys2Proof.Machine.execSubw d a b s
  | .andn d a b => Sys2Proof.Machine.execAndn d a b s
  | .addi d a imm => Sys2Proof.Machine.execAddi d a imm s
  | .andi d a imm => Sys2Proof.Machine.execAndi d a imm s
  | .ori d a imm => Sys2Proof.Machine.execOri d a imm s
  | .xori d a imm => Sys2Proof.Machine.execXori d a imm s
  | .shli d a n => Sys2Proof.Machine.execShli d a n s
  | .shri d a n => Sys2Proof.Machine.execShri d a n s
  | .sari d a n => Sys2Proof.Machine.execSari d a n s
  | .slti d a imm => Sys2Proof.Machine.execSlti d a imm s
  | .sltni d a imm => Sys2Proof.Machine.execSltni d a imm s
  | .seqi d a imm => Sys2Proof.Machine.execSeqi d a imm s
  | .shi d imm => Sys2Proof.Machine.execShi d imm s
  | .pchi d imm => Sys2Proof.Machine.execPchi d imm s
  | .ld sz d a imm => Sys2Proof.Machine.execLd sz d a imm s
  | .st sz d a imm => Sys2Proof.Machine.execSt sz d a imm s
  | .amo wide scope order op d a b => Sys2Proof.Machine.execAmo wide scope order op d a b s
  | .beq a b off => Sys2Proof.Machine.execBeq a b off s
  | .bne a b off => Sys2Proof.Machine.execBne a b off s
  | .blt a b off => Sys2Proof.Machine.execBlt a b off s
  | .bge a b off => Sys2Proof.Machine.execBge a b off s
  | .bltn a b off => Sys2Proof.Machine.execBltn a b off s
  | .bgen a b off => Sys2Proof.Machine.execBgen a b off s
  | .jal d off => Sys2Proof.Machine.execJal d off s
  | .jalr d a imm => Sys2Proof.Machine.execJalr d a imm s
  | .wenter n => Sys2Proof.Machine.execWenter n s
  | .wleave => Sys2Proof.Machine.execWleave s
  | .stgt a b => Sys2Proof.Machine.execStgt a b s
  | .capb id => Sys2Proof.Machine.execCapb id s
  | .cape => Sys2Proof.Machine.execCape s
  | .cdrop id => Sys2Proof.Machine.execCdrop id s
  | .hset h a => Sys2Proof.Machine.execHset h a s
  | .hstep h a => Sys2Proof.Machine.execHstep h a s
  | .rply id a => Sys2Proof.Machine.execRply id a s
  | .vread d => Sys2Proof.Machine.execVread d s
  | .gfence cp tl scl str sc scope => Sys2Proof.Machine.execGfence cp tl scl str sc scope s
  | .bara lvl k => Sys2Proof.Machine.execBara lvl k s
  | .barw str lvl k => Sys2Proof.Machine.execBarw str lvl k s
  | .baraw str lvl k => Sys2Proof.Machine.execBaraw str lvl k s
  | .wmrd d wm => Sys2Proof.Machine.execWmrd d wm s
  | .wmwait ev wm a => Sys2Proof.Machine.execWmwait ev wm a s
  | .wmfree wm => Sys2Proof.Machine.execWmfree wm s
  | .cpkill wm => Sys2Proof.Machine.execCpkill wm s
  | .tcfg f t a => Sys2Proof.Machine.execTcfg f t a s
  | .trd f d t => Sys2Proof.Machine.execTrd f d t s
  | .mclr acc => Sys2Proof.Machine.execMclr acc s
  | .mwait a => Sys2Proof.Machine.execMwait a s
  | .qpush d a q => Sys2Proof.Machine.execQpush d a q s
  | .qpop d a q => Sys2Proof.Machine.execQpop d a q s
  | .qsig d a q => Sys2Proof.Machine.execQsig d a q s
  | .qstat d a q => Sys2Proof.Machine.execQstat d a q s
  | .gpref a imm => Sys2Proof.Machine.execGpref a imm s
  | .dpref a imm => Sys2Proof.Machine.execDpref a imm s
  | .rdsr d n => Sys2Proof.Machine.execRdsr d n s
  | .wrsr n a => Sys2Proof.Machine.execWrsr n a s
  | .genExtension n x => Sys2Proof.Machine.execGenExtension n x s
  | .li64 d imm => Sys2Proof.Machine.execLi64 d imm s
  | .mloop m => Sys2Proof.Machine.execMloop m s
  | .mdrain m => Sys2Proof.Machine.execMdrain m s
  | .copy m => Sys2Proof.Machine.execCopy m s
  | .nrec m => Sys2Proof.Machine.execNrec m s
  | .cred m => Sys2Proof.Machine.execCred m s
  | .emitLaneWord w next => Sys2Proof.Machine.execEmitLaneWord w next s
  | .replayPush ctx => Sys2Proof.Machine.execReplayPush ctx s
  | .vnop w => Sys2Proof.Machine.execVnop w s
  | .vadd w => Sys2Proof.Machine.execVadd w s
  | .vsub w => Sys2Proof.Machine.execVsub w s
  | .vmul w => Sys2Proof.Machine.execVmul w s
  | .vmulh w => Sys2Proof.Machine.execVmulh w s
  | .vmad w => Sys2Proof.Machine.execVmad w s
  | .vmin w => Sys2Proof.Machine.execVmin w s
  | .vmax w => Sys2Proof.Machine.execVmax w s
  | .vabsd w => Sys2Proof.Machine.execVabsd w s
  | .vand w => Sys2Proof.Machine.execVand w s
  | .vor w => Sys2Proof.Machine.execVor w s
  | .vxor w => Sys2Proof.Machine.execVxor w s
  | .vandn w => Sys2Proof.Machine.execVandn w s
  | .vshl w => Sys2Proof.Machine.execVshl w s
  | .vshr w => Sys2Proof.Machine.execVshr w s
  | .vrot w => Sys2Proof.Machine.execVrot w s
  | .vbfx w => Sys2Proof.Machine.execVbfx w s
  | .vbfi w => Sys2Proof.Machine.execVbfi w s
  | .vpopc w => Sys2Proof.Machine.execVpopc w s
  | .vclz w => Sys2Proof.Machine.execVclz w s
  | .vctz w => Sys2Proof.Machine.execVctz w s
  | .vbrev w => Sys2Proof.Machine.execVbrev w s
  | .vpermb w => Sys2Proof.Machine.execVpermb w s
  | .vdiv w => Sys2Proof.Machine.execVdiv w s
  | .vrem w => Sys2Proof.Machine.execVrem w s
  | .vaddc w => Sys2Proof.Machine.execVaddc w s
  | .vcmp w => Sys2Proof.Machine.execVcmp w s
  | .vmov w => Sys2Proof.Machine.execVmov w s
  | .vsel w => Sys2Proof.Machine.execVsel w s
  | .vlea w => Sys2Proof.Machine.execVlea w s
  | .vfadd w => Sys2Proof.Machine.execVfadd w s
  | .vfsub w => Sys2Proof.Machine.execVfsub w s
  | .vfmul w => Sys2Proof.Machine.execVfmul w s
  | .vfmulz w => Sys2Proof.Machine.execVfmulz w s
  | .vfma w => Sys2Proof.Machine.execVfma w s
  | .vfmaz w => Sys2Proof.Machine.execVfmaz w s
  | .vfmin w => Sys2Proof.Machine.execVfmin w s
  | .vfmax w => Sys2Proof.Machine.execVfmax w s
  | .vfsgn w => Sys2Proof.Machine.execVfsgn w s
  | .vfcmp w => Sys2Proof.Machine.execVfcmp w s
  | .vfclass w => Sys2Proof.Machine.execVfclass w s
  | .vfdiv w => Sys2Proof.Machine.execVfdiv w s
  | .vfsqrt w => Sys2Proof.Machine.execVfsqrt w s
  | .vfrnd w => Sys2Proof.Machine.execVfrnd w s
  | .vfscale w => Sys2Proof.Machine.execVfscale w s
  | .vfxtr w => Sys2Proof.Machine.execVfxtr w s
  | .vfdot2 w => Sys2Proof.Machine.execVfdot2 w s
  | .vcvtf w => Sys2Proof.Machine.execVcvtf w s
  | .vcvtfi w => Sys2Proof.Machine.execVcvtfi w s
  | .vcvtif w => Sys2Proof.Machine.execVcvtif w s
  | .vrcp w => Sys2Proof.Machine.execVrcp w s
  | .vrsq w => Sys2Proof.Machine.execVrsq w s
  | .vexp2 w => Sys2Proof.Machine.execVexp2 w s
  | .vlog2 w => Sys2Proof.Machine.execVlog2 w s
  | .vsin w => Sys2Proof.Machine.execVsin w s
  | .vcos w => Sys2Proof.Machine.execVcos w s
  | .vtanh w => Sys2Proof.Machine.execVtanh w s
  | .vsigm w => Sys2Proof.Machine.execVsigm w s
  | .vplop w => Sys2Proof.Machine.execVplop w s
  | .vpmov w => Sys2Proof.Machine.execVpmov w s
  | .vshuf w => Sys2Proof.Machine.execVshuf w s
  | .vbcast w => Sys2Proof.Machine.execVbcast w s
  | .vrotl w => Sys2Proof.Machine.execVrotl w s
  | .vscan w => Sys2Proof.Machine.execVscan w s
  | .vred w => Sys2Proof.Machine.execVred w s
  | .vvote w => Sys2Proof.Machine.execVvote w s
  | .vbar w => Sys2Proof.Machine.execVbar w s
  | .vld w => Sys2Proof.Machine.execVld w s
  | .vst w => Sys2Proof.Machine.execVst w s
  | .vatom w => Sys2Proof.Machine.execVatom w s
  | .vcas w => Sys2Proof.Machine.execVcas w s
  | .vpref w => Sys2Proof.Machine.execVpref w s
  | .vfence w => Sys2Proof.Machine.execVfence w s
  | .vidot4 w => Sys2Proof.Machine.execVidot4 w s
  | .vidot8 w => Sys2Proof.Machine.execVidot8 w s
  | .vslice w => Sys2Proof.Machine.execVslice w s
  | .vslacc w => Sys2Proof.Machine.execVslacc w s
  | .vplane w => Sys2Proof.Machine.execVplane w s
  | .vext op w => Sys2Proof.Machine.execVext op w s
  | .laneWordRetire wave => Sys2Proof.Machine.execLaneWordRetire wave s
  | .windowSpill wave => Sys2Proof.Machine.execWindowSpill wave s
  | .windowReload wave => Sys2Proof.Machine.execWindowReload wave s
  | .boundaryTrapEntry ctx => Sys2Proof.Machine.execBoundaryTrapEntry ctx s
  | .emulationComplete a => Sys2Proof.Machine.execEmulationComplete a s
  | .icacheLineFill cluster ix => Sys2Proof.Machine.execIcacheLineFill cluster ix s
  | .dcacheLineFill cluster ix => Sys2Proof.Machine.execDcacheLineFill cluster ix s
  | .tlbMissWalk die ix => Sys2Proof.Machine.execTlbMissWalk die ix s
  | .matrixStep wg => Sys2Proof.Machine.execMatrixStep wg s
  | .mdrainExecute wg => Sys2Proof.Machine.execMdrainExecute wg s
  | .mclrExecute wg => Sys2Proof.Machine.execMclrExecute wg s
  | .copySegmentSend wg wm => Sys2Proof.Machine.execCopySegmentSend wg wm s
  | .copyUnitCommit wg wm => Sys2Proof.Machine.execCopyUnitCommit wg wm s
  | .copyPark wg wm => Sys2Proof.Machine.execCopyPark wg wm s
  | .chainUnitReduce comm => Sys2Proof.Machine.execChainUnitReduce comm s
  | .nodeBatchTimer ctxid node => Sys2Proof.Machine.execNodeBatchTimer ctxid node s
  | .dispatchServe => Sys2Proof.Machine.execDispatchServe s
  | .workgroupStart gang => Sys2Proof.Machine.execWorkgroupStart gang s
  | .workgroupRetire gang => Sys2Proof.Machine.execWorkgroupRetire gang s
  | .gangSaveComplete gang => Sys2Proof.Machine.execGangSaveComplete gang s
  | .gangRestore gang => Sys2Proof.Machine.execGangRestore gang s
  | .createContext h desc => Sys2Proof.Machine.execCreateContext h desc s
  | .enableContext h => Sys2Proof.Machine.execEnableContext h s
  | .suspendContext h => Sys2Proof.Machine.execSuspendContext h s
  | .resumeContext h => Sys2Proof.Machine.execResumeContext h s
  | .destroyContext h => Sys2Proof.Machine.execDestroyContext h s
  | .migrateBegin h buf bytes => Sys2Proof.Machine.execMigrateBegin h buf bytes s
  | .migrateCommit h buf bytes target root => Sys2Proof.Machine.execMigrateCommit h buf bytes target root s
  | .migrateAbort h => Sys2Proof.Machine.execMigrateAbort h s
  | .createQueue h q data ring entries floor dies => Sys2Proof.Machine.execCreateQueue h q data ring entries floor dies s
  | .enableQueue h q => Sys2Proof.Machine.execEnableQueue h q s
  | .stopQueue h q => Sys2Proof.Machine.execStopQueue h q s
  | .startQueue h q => Sys2Proof.Machine.execStartQueue h q s
  | .destroyQueue h q => Sys2Proof.Machine.execDestroyQueue h q s
  | .createNode h node prio header size count timer pool => Sys2Proof.Machine.execCreateNode h node prio header size count timer pool s
  | .destroyNode h node => Sys2Proof.Machine.execDestroyNode h node s
  | .registerCode h base bytes table => Sys2Proof.Machine.execRegisterCode h base bytes table s
  | .deregisterCode h base => Sys2Proof.Machine.execDeregisterCode h base s
  | .invalidate h va bytes => Sys2Proof.Machine.execInvalidate h va bytes s
  | .answerFault h seq fail => Sys2Proof.Machine.execAnswerFault h seq fail s
  | .preEmptGang h wgid => Sys2Proof.Machine.execPreEmptGang h wgid s
  | .resumeGang h save => Sys2Proof.Machine.execResumeGang h save s
  | .discardGang h save => Sys2Proof.Machine.execDiscardGang h save s
  | .createCommunicator h ranks n groups sizes => Sys2Proof.Machine.execCreateCommunicator h ranks n groups sizes s
  | .destroyCommunicator h handle => Sys2Proof.Machine.execDestroyCommunicator h handle s
  | .writeBoundaryEntry h cls num entry lo hi => Sys2Proof.Machine.execWriteBoundaryEntry h cls num entry lo hi s
  | .readBoundaryEntry h cls num entry dest => Sys2Proof.Machine.execReadBoundaryEntry h cls num entry dest s
  | .attest h nonce buf bytes => Sys2Proof.Machine.execAttest h nonce buf bytes s
  | .bindFunction h vf part bind => Sys2Proof.Machine.execBindFunction h vf part bind s
  | .enableLink h link part => Sys2Proof.Machine.execEnableLink h link part s
  | .setRoute h package mask => Sys2Proof.Machine.execSetRoute h package mask s
  | .setPackageNumber h num => Sys2Proof.Machine.execSetPackageNumber h num s
  | .readCouplingTable h die dest => Sys2Proof.Machine.execReadCouplingTable h die dest s
  | .unknownCommand h status => Sys2Proof.Machine.execUnknownCommand h status s
  | .commandComplete part => Sys2Proof.Machine.execCommandComplete part s
  | .commandQueueEnable func => Sys2Proof.Machine.execCommandQueueEnable func s
  | .eventQueueEnable func => Sys2Proof.Machine.execEventQueueEnable func s
  | .eventQueueRdidx func v => Sys2Proof.Machine.execEventQueueRdidx func v s
  | .eventRingWrite part => Sys2Proof.Machine.execEventRingWrite part s
  | .doorbell func v => Sys2Proof.Machine.execDoorbell func v s
  | .harnessMapWrite func v => Sys2Proof.Machine.execHarnessMapWrite func v s
  | .packageLimitWrite func v => Sys2Proof.Machine.execPackageLimitWrite func v s
  | .domainControlWrite func reg v => Sys2Proof.Machine.execDomainControlWrite func reg v s
  | .registerWrite func off bytes v => Sys2Proof.Machine.execRegisterWrite func off bytes v s
  | .hostBar2Access func a => Sys2Proof.Machine.execHostBar2Access func a s
  | .hostCompletion a ok => Sys2Proof.Machine.execHostCompletion a ok s
  | .linkFlitReceive link seq good => Sys2Proof.Machine.execLinkFlitReceive link seq good s
  | .remoteRequest link package a => Sys2Proof.Machine.execRemoteRequest link package a s
  | .linkTrained link => Sys2Proof.Machine.execLinkTrained link s
  | .linkTrainingTimeout link => Sys2Proof.Machine.execLinkTrainingTimeout link s
  | .linkRetrain link => Sys2Proof.Machine.execLinkRetrain link s
  | .linkRetrainEnd link ok => Sys2Proof.Machine.execLinkRetrainEnd link ok s
  | .deviceReset => Sys2Proof.Machine.execDeviceReset s
  | .correctedError vault row => Sys2Proof.Machine.execCorrectedError vault row s
  | .rowRemapDone vault row => Sys2Proof.Machine.execRowRemapDone vault row s
  | .uncorrectableError t => Sys2Proof.Machine.execUncorrectableError t s
  | .spareSubstitution cluster => Sys2Proof.Machine.execSpareSubstitution cluster s
  | .vaultSensorSample vault temp => Sys2Proof.Machine.execVaultSensorSample vault temp s
  | .overheatGateCheck cluster => Sys2Proof.Machine.execOverheatGateCheck cluster s
  | .currentAlarm reg level => Sys2Proof.Machine.execCurrentAlarm reg level s
  | .currentAlarmSample reg => Sys2Proof.Machine.execCurrentAlarmSample reg s
  | .passCountStepDown reg => Sys2Proof.Machine.execPassCountStepDown reg s
  | .powerWindowEnd domain cluster => Sys2Proof.Machine.execPowerWindowEnd domain cluster s
  | .weightRefit shunt => Sys2Proof.Machine.execWeightRefit shunt s
  | .idleGate cluster => Sys2Proof.Machine.execIdleGate cluster s
  | .clusterWake cluster => Sys2Proof.Machine.execClusterWake cluster s
  | .frequencyTransition reg point => Sys2Proof.Machine.execFrequencyTransition reg point s
  | .frequencyPauseEnd reg => Sys2Proof.Machine.execFrequencyPauseEnd reg s
  | .dieToDiePortFailure d1 d2 => Sys2Proof.Machine.execDieToDiePortFailure d1 d2 s
  | .remoteCompletion a ok => Sys2Proof.Machine.execRemoteCompletion a ok s
  | .loftLineFill cluster ix => Sys2Proof.Machine.execLoftLineFill cluster ix s
  | .scalarAccessComplete ctx => Sys2Proof.Machine.execScalarAccessComplete ctx s

end Sys2Proof.Machine
end

