-- ==== Sys2Proof/Machine/Fetch.lean ====
section
/-! DEFINITION. Instruction fetch (R29 to R31, R137, R139): what a generator context does at its PC. Step.lean calls it. -/
namespace Sys2Proof.Machine

/-! ### Whether a context may issue -/

/-- The clocks of a cluster run: its domain is not paused (R408) and it is not gated (R407). -/
def State.clocked (s : State) (cluster : Nat) : Bool :=
  (s.reg (s.cluster cluster).reg).paused.isNone && !(s.cluster cluster).gated

/-- A context that may issue: in RUNNING, HANDLER or STALLED, of a running workgroup. While its workgroup is being saved it
issues only until its open chain has closed (R358). -/
def State.mayRun (s : State) (k : Nat) : Bool :=
  let c := s.ctx k
  s.clocked (ctxCluster k)
    && (match c.status with
      | .running => true
      | .stalled _ => true
      | _ => false)
    && match (s.wg c.wg).status with
      | .running => true
      | .saving => c.chainOpen
      | _ => false

/-- A boundary trap is taken before the next instruction issues (R162); one that is pending at a save is taken after the
restore (R358, R360). -/
def State.trapDue (s : State) (k : Nat) : Bool :=
  let c := s.ctx k
  !c.pending.isEmpty && c.mode == .user && (s.wg c.wg).status == .running

/-! ### One line of code -/

inductive LineFetch
  | bytes (l : List Byte)
  | poison
  | fault
  | wait
  | miss (line pa : Nat) (x : Xlated)
  deriving DecidableEq, Repr

/-- The 64-byte line that holds va: every fetch translates with execute permission (R137, R378), and takes the line from the
instruction cache, or as it was delivered for this word, when it is there and a TLB served the translation. Code may lie in DRAM or in
the host window, whose lines are not cached (R380), never in the remote one. -/
def State.codeLine (s : State) (k va : Nat) : LineFetch :=
  let c := s.ctx k
  let line := va / 64 * 64
  if 2 ^ 48 ≤ va then .fault
  else
    match s.translate (ctxCluster k) c.ctxid va .fetch (c.mode == .user) with
    | .error f => if f.kind == 0 then .wait else if f.kind == 5 then .poison else .fault
    | .ok x =>
      let cached := if isHost x.pa then none else (s.cluster (ctxCluster k)).icache.find? fun l => l.ctxid == c.ctxid && l.line == line
      match cached, c.fetched.find? (·.1 == line) with
      | some l, _ => if x.walked then .miss line (x.pa - va % 64) x else .bytes l.bytes
      | none, some (_, .bytes l) => if x.walked then .miss line (x.pa - va % 64) x else .bytes l
      | none, some (_, .poison) => .poison
      | none, some (_, .refused) => .fault
      | none, none =>
        match physLoc x.pa with
        | none => .fault
        | some loc =>
          if isRemote loc || !s.admits (s.dctx c.ctxid).desc.part c.ctxid Access.fetch.need loc x.pa 1 then .fault
          else .miss line (x.pa - va % 64) x

/-! ### The word at the PC -/

/-- What a fetch gives: a word, a line to fill first, nothing yet, or a trap with the address that TRAPPC takes. -/
inductive Fetch
  | word (i : Instr)
  | wait
  | fill (line pa : Nat) (x : Xlated)
  | trap (pc : Nat) (r : TrapRecord)
  deriving DecidableEq, Repr

/-- Take bytes of the line that holds va, for the word at pc: its first parcel for poison, and the faulting address for a fetch fault
(R137, log entry 34). -/
def State.withLine (s : State) (k pc va : Nat) (f : List Byte → Fetch) : Fetch :=
  match s.codeLine k va with
  | .bytes l => f (l.drop (va % 64))
  | .poison => .trap pc (accessRecord 18 (BitVec.ofNat 64 pc) 5)
  | .fault => .trap va (.of 6)
  | .wait => .wait
  | .miss line pa x => .fill line pa x

/-- The word of n bytes at the PC, once its alignment and extent have been checked (R30, R31). DESIGN CHOICE (log entry 91): where the
extent ends inside the second half of a pair, the pair is formed without it, and emission check 10 refuses it. -/
def State.wholeWord (s : State) (k pc hi n : Nat) (w : Nat) : Fetch :=
  if n = 4 then
    match decodeGen w with
    | some i => .word i
    | none => .trap pc (wordRecord 1 w)
  else if n = 16 then
    match decodeLong w with
    | some i => .word i
    | none => .trap pc (wordRecord 1 w)
  else if !bitAt w 2 || hi < pc + 16 then .word (.emitLaneWord (BitVec.ofNat 64 w) none)
  else s.withLine k pc (pc + 8) fun l => .word (.emitLaneWord (BitVec.ofNat 64 w) (some (BitVec.ofNat 64 (leNat (l.take 8)))))

/-- The fetch at the PC of context k (R29 to R31, R137, R139). The misaligned and extent traps of a lane word are emission
checks 1 and 2 of Table 2.14. -/
def State.fetchWord (s : State) (k : Nat) : Fetch :=
  let pc := (s.ctx k).pc.toNat
  let ext := s.codeExtent k
  if pc < ext.1 || ext.2 < pc + 4 then .trap pc (.of 5)
  else if pc % 4 ≠ 0 then .trap pc (.of 8)
  else
    s.withLine k pc pc fun l =>
      let n := wordBytes (l.headD 0)
      let check (c : Nat) : Word := if n = 8 then BitVec.ofNat 64 c else 0
      if n ≠ 4 && pc % n ≠ 0 then .trap pc (.of 8 0 0 (check 1))
      else if ext.2 < pc + n then .trap pc (.of 5 0 0 (check 2))
      else s.wholeWord k pc ext.2 n (leNat (l.take n))

/-- A miss: the fill starts, and the context waits for it (R137). -/
def missLine (k line pa : Nat) (x : Xlated) : Act Unit := do
  useXlated (ctxCluster k) x false false
  startIcFill (ctxCluster k) ((← now).ctx k).ctxid line pa (pageHint .default x.entry) (some k)
  modCtx k fun c => c.stall .icache

/-- A failed fetch takes its trap, precise at the word (R137). -/
def fetchTrap (k pc : Nat) (r : TrapRecord) : Act Unit := do
  let c := (← now).ctx k
  takeTrap k (BitVec.ofNat 64 pc) c.pc false r

/-- The addresses at which a word's parcels were fetched. -/
def fetchedAt (pc : Nat) (i : Instr) : List Nat :=
  match i with
  | .emitLaneWord _ (some _) => [pc, pc + 8]
  | _ => [pc]

/-- The TLB entries that the fetch of a word has used are the most recently used ones (R381). -/
def noteFetch (k : Nat) (i : Instr) : Act Unit := do
  let s ← now
  let c := s.ctx k
  each (fetchedAt c.pc.toNat i) fun va =>
    match s.translate (ctxCluster k) c.ctxid va .fetch (c.mode == .user) with
    | .ok x => if x.walked then pure () else installTlb (ctxCluster k) x.entry true
    | .error _ => pure ()

/-- The machine in which a fetched word runs. -/
def State.fetchedBy (s : State) (k : Nat) (i : Instr) : State := applyAll s (noteFetch k i s []).2.reverse

/-! ### The lane word at the head of a wave -/

/-- The lane instruction that a wave issues next, when its cluster's lane engine selects it (R173, R174). -/
def State.laneWordAt (s : State) (v : Nat) : Option Instr :=
  if s.laneChosen v then
    match (s.wave v).head with
    | some x => decodeLane x.word.toNat
    | none => none
  else none

end Sys2Proof.Machine
end

