-- ==== Sys2Proof/Machine/Turns.lean ====
section
/-! DEFINITION. What Step.lean calls: the acting agent, the record the core takes next, the passing of time, the device steps an
agenda may name, the moves tried when the agenda is empty, and the smallest machine that runs one given word. -/
namespace Sys2Proof.Machine

/-! ### The acting agent -/

/-- Context k is the one that acts. -/
def State.actingCtx (s : State) (k : Nat) : State := { s with curCtx := k }
/-- Wave v is the one that issues. -/
def State.actingWave (s : State) (v : Nat) : State := { s with curWave := v }

/-- A context in RUNNING or HANDLER whose next word has been fetched (R138). -/
def State.readyCtx (s : State) (k : Nat) : Bool :=
  (s.ctx k).status == .running && s.mayRun k && match s.fetchWord k with
    | .word _ => true
    | _ => false

/-- It is the turn of context k: no ready context of its cluster stands before it in the rotation, which starts after the one that issued
last (R138). The two contexts of one clock are two turns. -/
def State.turnOf (s : State) (k : Nat) : Bool :=
  let c := ctxCluster k
  let last := some (s.cluster c).lastCtx
  (List.range 16).all fun i => turnsAfter last 16 (k % 16) ≤ turnsAfter last 16 i || !s.readyCtx (16 * c + i)

/-- After a word of context k: unless it stalled, it has issued, and the rotation goes on behind it (R136, R138). -/
def State.afterWord (s : State) (k : Nat) : State :=
  match (s.ctx k).status with
  | .stalled _ => s
  | _ =>
    { s with
      ctxs := s.ctxs.modify k fun c => { c with fetched := [] }
      clusters := s.clusters.modify (ctxCluster k) fun c => { c.tally kindGen 1 with lastCtx := k % 16 } }

/-! ### Commands (R426, R427) -/

/-- The numbers below n, starting after `last`. -/
def rotation (last n : Nat) : List Nat := (List.range n).map fun i => (last + 1 + i) % n

/-- The bus address of the record that the core takes next for a partition. -/
def State.recordSlot (s : State) (p : Nat) : Nat :=
  let r := (s.part p).cmd
  r.ring + 64 * (r.rd.toNat % max r.size 1)
/-- The record waits: what it does to the context that it names may write a completion signal, whose row is being copied (R25). -/
def State.recordHeld (s : State) (p : Nat) : Bool :=
  !s.calm && (s.gangsOf (leNat (s.busRead (s.recordSlot p + 2) 2))).any s.signalWaits
/-- The partition has a record waiting, and no command of it runs. Firmware of which an image did not verify runs none (R311). -/
def State.hasRecord (s : State) (p : Nat) : Bool :=
  let x := s.part p
  s.dev.images.all (·.runs) && x.cmd.enable && x.busy.isNone && x.cmd.rd != x.cmd.wr && !s.recordHeld p
/-- It is a partition's turn: of those with a record waiting, it is the first after the one served last (R427). -/
def State.servesPart (s : State) (p : Nat) : Bool :=
  (rotation s.dev.lastPart 16).find? s.hasRecord == some p
def State.commandAt (s : State) (p : Nat) (answers : Bool) : Option Instr :=
  if s.servesPart p then
    some (decodeCommand p (s.recordSlot p) answers (s.busRead (s.recordSlot p) 64))
  else none
/-- The record is taken: RDIDX moves, and the partition has had its turn. -/
def State.tookRecord (s : State) (p : Nat) : State :=
  { s with
    parts := s.parts.modify p fun x => { x with cmd := { x.cmd with rd := x.cmd.rd + 1 } }
    dev := { s.dev with lastPart := p } }

/-! ### Time -/

/-! The estimates of the power controller go on by whole microseconds (`State.estimated`, R405). -/

/-- CYCLES of a context after some nanoseconds: its domain's clock runs unless it is paused (R160, R408). -/
def State.ticked (s : State) (ns k : Nat) : Context :=
  let c := s.ctx k
  let r := s.reg (s.cluster (ctxCluster k)).reg
  if c.status == .free || r.paused.isSome then c else { c with cycles := c.cycles + ns * r.fcur }
/-- What must end by a time: the copy of a row to its spare within 2 µs (R25), and a domain's pause within 1.5 µs (R408). -/
def State.deadlines (s : State) : List Nat :=
  s.vaults.flatMap (fun v => v.remapping.map (·.2 + 2000)) ++ s.regs.filterMap fun r => r.paused.map (· + 1500)
/-- How far time can pass before the first of them. -/
def State.untilDeadline (s : State) (ns : Nat) : Nat := s.deadlines.foldl (fun n t => min n (t - s.dev.time)) ns

/-- Time passes for the device and the contexts, up to the first deadline. -/
def State.elapse (s : State) (ns : Nat) : State :=
  let ns := s.untilDeadline ns
  let t := s.estimated (s.dev.time + ns)
  { t with
    dev := { t.dev with time := s.dev.time + ns }
    ctxs := (List.range s.ctxs.length).map fun k => s.ticked ns k }

/-! ### The driver's writes -/

/-- The driver writes host memory (R427), at a bus address. -/
def driverWrite (addr : Nat) (bytes : List Byte) (s : State) : Result := commit (busWrite addr bytes) s

/-- The driver assigns a vector from 2 to 63 to a launch queue, or takes it away (R413, log entry 104). -/
def assignVector (ctxid queue : Nat) (vector : Option Nat) (s : State) : Result := commit (
  if vector.all fun v => 2 ≤ v && v ≤ 63 then modQueue ctxid queue fun q => { q with vector := vector } else pure ()) s

/-! ### Device steps -/

/-- The steps of the device itself, of the host and of the outside, which an agenda may name. -/
def isEvent (i : Instr) : Bool :=
  match i with
  | .replayPush _ | .laneWordRetire _ | .windowSpill _ | .windowReload _ | .boundaryTrapEntry _ | .emulationComplete _
  | .icacheLineFill _ _ | .dcacheLineFill _ _ | .tlbMissWalk _ _ | .matrixStep _ | .mdrainExecute _ | .mclrExecute _
  | .copySegmentSend _ _ | .copyUnitCommit _ _ | .copyPark _ _ | .chainUnitReduce _ | .nodeBatchTimer _ _ | .dispatchServe
  | .workgroupStart _ | .workgroupRetire _ | .gangSaveComplete _ | .gangRestore _ | .commandComplete _
  | .commandQueueEnable _ | .eventQueueEnable _ | .eventQueueRdidx _ _ | .eventRingWrite _ | .doorbell _ _
  | .harnessMapWrite _ _ | .packageLimitWrite _ _ | .domainControlWrite _ _ _ | .registerWrite _ _ _ _ | .hostBar2Access _ _
  | .hostCompletion _ _ | .linkFlitReceive _ _ _ | .remoteRequest _ _ _ | .linkTrained _ | .linkTrainingTimeout _
  | .linkRetrain _ | .linkRetrainEnd _ _ | .deviceReset | .correctedError _ _ | .rowRemapDone _ _ | .uncorrectableError _
  | .spareSubstitution _ | .vaultSensorSample _ _ | .overheatGateCheck _ | .currentAlarm _ _ | .currentAlarmSample _
  | .passCountStepDown _ | .powerWindowEnd _ _ | .weightRefit _ | .idleGate _ | .clusterWake _ | .frequencyTransition _ _
  | .frequencyPauseEnd _ | .dieToDiePortFailure _ _ | .remoteCompletion _ _ | .loftLineFill _ _
  | .scalarAccessComplete _ => true
  | _ => false

/-! ### Moves tried when the agenda is empty (log entry 1) -/

/-- What a move must change: everything but the agenda and the marks of who acted last. -/
def State.blur (s : State) : State :=
  { s with
    agenda := [], curCtx := 0, curWave := 0
    clusters := s.clusters.map fun c => { c with lastCtx := 0, lastLane := none, lastWg := 0 }
    wgs := s.wgs.map fun w => { w with lastWix := none }
    dev := { s.dev with lastServed := (0, 0), lastPart := 0 } }

def State.ctxIx (s : State) (p : Context → Bool) : List Nat := (List.range s.ctxs.length).filter fun k => p (s.ctx k)
def State.waveIx (s : State) (p : Wave → Bool) : List Nat := (List.range s.waves.length).filter fun k => p (s.wave k)

/-- One turn for each index that a list names. -/
def turnsOf {α : Type} (l : List α) (f : α → Instr) : List Turn := l.map fun x => .event (f x)

/-- Fills, walks, completions, emulations and traps owed that are under way. -/
def State.dueMoves (s : State) : List Turn :=
  let cs := List.range Config.clusters
  let agents := (s.ctxIx fun _ => true).map Agent.context ++ (s.waveIx fun _ => true).map Agent.wave
  List.flatten [
    turnsOf (cs.filter fun c => !(s.cluster c).icFills.isEmpty) (.icacheLineFill · 0),
    turnsOf (cs.filter fun c => !(s.cluster c).dcFills.isEmpty) (.dcacheLineFill · 0),
    turnsOf (cs.filter fun c => !(s.cluster c).loftFills.isEmpty) (.loftLineFill · 0),
    turnsOf (cs.filter fun c => (s.cluster c).wakeAt.isSome) .clusterWake,
    turnsOf ((List.range Config.dies).filter fun d => !(s.die d).walks.isEmpty) (.tlbMissWalk · 0),
    turnsOf (s.waveIx fun w => !w.flight.isEmpty) .laneWordRetire,
    turnsOf (s.waveIx fun w => !w.stream.isEmpty) .windowSpill,
    turnsOf (s.waveIx fun w => !w.stream.isEmpty) .windowReload,
    turnsOf (s.ctxIx fun c => c.counted.any (·.scalar) || !c.loads.isEmpty) .scalarAccessComplete,
    turnsOf (agents.filter s.emulating) .emulationComplete,
    turnsOf (s.ctxIx fun c => c.status == .ended && !c.pending.isEmpty) .boundaryTrapEntry]

/-- Words of contexts and waves, in rotation, and replays. -/
def State.issueMoves (s : State) : List Turn :=
  (List.range Config.clusters).flatMap fun c =>
    ((rotation (s.cluster c).lastCtx 16).filter fun i => (s.ctx (c * 16 + i)).status != .free).flatMap (fun i =>
        Turn.ctx (c * 16 + i) :: (s.ctx (c * 16 + i)).em.seq.parts.map fun p => .event (.replayPush ⟨c * 16 + i, p.cluster⟩))
      ++ ((List.range 32).filter fun i => s.laneChosen (c * 32 + i)).map fun i => .wave (c * 32 + i)

/-- Engines, gangs and the dispatcher. -/
def State.engineMoves (s : State) : List Turn :=
  let engines := (List.range s.wgs.length).filter fun g => !(s.wg g).mqueue.isEmpty
  let gangs := (List.range s.gangs.length).filter fun g => !(s.gang g).discarded
  List.flatten [
    engines.flatMap fun g => turnsOf [.matrixStep g, .mdrainExecute g, .mclrExecute g] id,
    s.bounds.flatMap fun b => turnsOf [.copySegmentSend b.1 b.2.1, .copyUnitCommit b.1 b.2.1, .copyPark b.1 b.2.1] id,
    turnsOf s.dev.comms fun c => .chainUnitReduce c.handle,
    gangs.flatMap fun g => turnsOf [.workgroupStart g, .workgroupRetire g, .gangSaveComplete g, .gangRestore g] id,
    (rotation s.dev.lastPart 16).flatMap fun p => turnsOf [.commandComplete p, .eventRingWrite p] id ++ [.command p true],
    s.devs.flatMap fun d => turnsOf d.nodes fun n => .nodeBatchTimer d.desc.ctxid n.handle,
    [.event .dispatchServe]]

def State.candidates (s : State) : List Turn := s.dueMoves ++ s.issueMoves ++ s.engineMoves

/-! ### A machine that runs one word next (log entry 19) -/

/-- A kernel of one role with one wave, all rights, and every table. -/
def loadHeader : Header :=
  { Header.blank with
    addr := 0x1000, extent := 0x1000, spad := 4096, accs := 8, tiles := 16, bars := 16, gbars := 8, gangReq := true
    roles := [{ entry := 0x40, width := 64, waves := 1, rights := 7 }] }
def loadDevice : DevCtx :=
  { DevCtx.blank with
    desc := { Descriptor.blank with ctxid := 1, compats := 3, traps := 15, spill := 1, faultCount := 16 }, status := .runnable }
def loadWorkgroup : Workgroup :=
  { Workgroup.blank with
    status := .running, ctxid := 1, header := loadHeader, ctxs := [0], waves := [0], accs := [0, 1, 2, 3, 4, 5, 6, 7]
    bars := List.replicate 16 { phases := 0, arrived := 0, perPhase := 1 }, privAt := [0], loftIx := [0] }
def loadGang : Gang :=
  { Gang.blank with wgs := [0], gbars := List.replicate 8 { phases := 0, arrived := 0, perPhase := 1 }, discarded := false }
def loadLaunch : Launch :=
  { Launch.blank with ctxid := 1, header := loadHeader, grid := 1, nextGang := 1
                      grbars := List.replicate 4 { phases := 0, arrived := 0, perPhase := 1 } }
def loadContext0 : Context :=
  { Context.free with
    status := .running, ctxid := 1, rights := 7, nwaves := 1, width := 64, pc := 0x1040, em := Emission.start 1 }
/-- A lane word that stands at the head of the wave's stream. -/
def loadStreamWord (w : Nat) : StreamItem :=
  .word
    { word := BitVec.ofNat 64 w, payA := 0, payB := 0, payC := 0, xctl := 0, compat := true, emitter := 0, ssn := 0, order := 0
      handler := false, base := 0, replay := none, vote := none, counted := none, bar := none, waiting := false }
def loadWave0 (lane : Option Nat) : Wave :=
  { Wave.free with status := .live, width := 64, stream := lane.toList.map loadStreamWord }
/-- The line of code with the instruction at 0x1040. -/
def loadLine (w : Nat) : ICacheLine := { ctxid := 1, line := 0x1040, bytes := leBytes 64 w }
/-- The page of the code, which user mode may read and execute. -/
def loadPage : TlbEntry := { ctxid := 1, va := 0x1000, size := 12, frame := 0x1000, flags := 0xBB, ret := 0, leafAt := 0 }

/-- The machine with one workgroup loaded whose next instruction is the given one: at the PC of context 0 for a generator or long
word, at the head of wave 0 for a lane word of 64 bits. -/
def State.loadWord (s : State) (nbits w : Nat) : State :=
  let n := w % 2 ^ nbits
  let lane := decide (nbits = 64)
  { s with
    agenda := [if lane then .wave 0 else .ctx 0], curCtx := 0, curWave := 0, devs := [loadDevice], launches := [loadLaunch]
    gangs := [loadGang], wgs := [loadWorkgroup], ctxs := s.ctxs.set 0 loadContext0
    waves := s.waves.set 0 (loadWave0 (if lane then some n else none))
    clusters := s.clusters.modify 0 fun c => { c with icache := [loadLine n], tlb := [loadPage], gated := false } }

end Sys2Proof.Machine
end

