-- ==== Sys2Proof/Machine/Step.lean ====
section
/-! DEFINITION. One step of the machine: the agenda's next turn, or with an empty agenda the first agent that can move (log
entry 1). And where the instruction that the next step runs stands (`State.withFetchWord`). -/
namespace Sys2Proof.Machine

/-! ### Turns -/

/-- The outcome of a word of context k, with the rotation behind it. -/
def wordDone (k : Nat) : Result → Result
  | .next t => .next (t.afterWord k)
  | r => r

/-- The word at the PC of context k: it waits for loads that have not returned, or runs (R140). -/
def runWord (k : Nat) (i : Instr) (s : State) : Result :=
  if s.interlocked k i then commit (modCtx k (·.stall .interlock)) s else wordDone k (exec i (s.fetchedBy k i))

/-- Context k acts, when the rotation has come to it: its waiting boundary trap, the word at its PC, or the outcome of its fetch (R137 to
R139, R162). -/
def ctxTurn (k : Nat) (s : State) : Result :=
  if s.mayRun k && s.turnOf k then
    let s := s.actingCtx k
    if s.trapDue k then exec (.boundaryTrapEntry k) s
    else match s.fetchWord k with
      | .word i => runWord k i s
      | .wait => commit (modCtx k (·.stall .icache)) s
      | .fill line pa x => commit (missLine k line pa x) s
      | .trap pc r => commit (fetchTrap k pc r) s
  else .next s

/-- Wave v issues the word at its head, when its lane engine selects it (R173, R174). -/
def waveTurn (v : Nat) (s : State) : Result :=
  match s.laneWordAt v with
  | some i => exec i (s.actingWave v)
  | none => .next s

/-- The core takes the next record of a partition (R427). -/
def commandTurn (p : Nat) (answers : Bool) (s : State) : Result :=
  match s.commandAt p answers with
  | some i => exec i (s.tookRecord p)
  | none => .next s

/-- A turn. A device step that the agenda names must be one of the device's own, not a word or a command. -/
def runTurn (t : Turn) (s : State) : Result :=
  match t with
  | .ctx k => ctxTurn k s
  | .wave v => waveTurn v s
  | .command p a => commandTurn p a s
  | .event i => if isEvent i then exec i s else .next s
  | .elapse ns => .next (s.elapse ns)
  | .hostWrite a b => driverWrite a b s
  | .assign c q v => assignVector c q v s
  | .hostRead f o n => hostRead f o n s

/-! ### An empty agenda -/

/-- The first turn of a list that changes the machine. -/
def firstMove (s : State) : List Turn → Result
  | [] => .next s
  | t :: ts =>
    match runTurn t s with
    | .next s' => if s'.blur = s.blur then firstMove s ts else .next s'
    | _ => firstMove s ts

/-- One step. -/
def step (s : State) : Host.Outcome State Fault Refusal :=
  match s.agenda with
  | t :: rest => runTurn t { s with agenda := rest }
  | [] => firstMove s s.candidates

/-! ### The instruction that the next step runs -/

def State.withFetchWord (s : State) (nbits w : Nat) : State := s.loadWord nbits w

end Sys2Proof.Machine
end

