-- ==== Sys2Proof/Laws/PerInstr.lean ====
section
/-! SUPPORT. Decode and encode agree: one lemma for every constructor of Instr (R32 to R40, R59, R61, R62). -/
namespace Sys2Proof.Laws.RoundTrip

/-- An instruction that has an encoding fits its words, and decoding them gives it back: a lane word as the lane engine
reads it, every other word as a context fetches it, with no byte left over. -/
def Statement (i : Instr) : Prop :=
  i.wellFormed = true → ∀ n w, encode i = some (n, w) →
    w < 2 ^ n ∧ if (laneParts i).isSome then decodeLane w = some i else decode (leBytes (n / 8) w) = .ok (i, [])

/-! ### Bytes and fields -/


theorem leNat_leBytes (n x : Nat) : leNat (leBytes n x) = x % 256 ^ n := by
  induction n generalizing x with
  | zero => simp [leBytes, leNat, Nat.mod_one]
  | succ n ih =>
    have h := Nat.mod_mul (x := x) (a := 256) (b := 256 ^ n)
    have h2 : 256 ^ (n + 1) = 256 * 256 ^ n := by rw [Nat.pow_succ, Nat.mul_comm]
    simp only [leBytes, leNat, ih, BitVec.toNat_ofNat, h2, h]

theorem leBytes_length (n x : Nat) : (leBytes n x).length = n := by
  induction n generalizing x with
  | zero => rfl
  | succ n ih => simp [leBytes, ih]

theorem decode_gen {w : Nat} {i : Instr} (h0 : w % 2 = 0) (hw : w < 2 ^ 32) (h : decodeGen w = some i) :
    decode (leBytes 4 w) = .ok (i, []) := by
  have hl : leNat (leBytes 4 w) = w := by rw [leNat_leBytes]; exact Nat.mod_eq_of_lt hw
  have hb : wordBytes (BitVec.ofNat 8 w) = 4 := by
    simp [wordBytes]; omega
  have hd : leBytes 4 w = BitVec.ofNat 8 w :: leBytes 3 (w / 256) := rfl
  unfold decode
  rw [hd]
  simp only [hb]
  rw [← hd]
  simp [leBytes_length, List.take_of_length_le, List.drop_eq_nil_of_le, hl, h]

theorem decode_long {w : Nat} {i : Instr} (h0 : w % 4 = 3) (hw : w < 2 ^ 128) (h : decodeLong w = some i) :
    decode (leBytes 16 w) = .ok (i, []) := by
  have hl : leNat (leBytes 16 w) = w := by rw [leNat_leBytes]; exact Nat.mod_eq_of_lt hw
  have hb : wordBytes (BitVec.ofNat 8 w) = 16 := by
    simp only [wordBytes, BitVec.toNat_ofNat]
    have h1 : w % 256 % 2 = 1 := by omega
    have h2 : w % 256 % 4 = 3 := by omega
    simp [h1, h2]
  have hd : leBytes 16 w = BitVec.ofNat 8 w :: leBytes 15 (w / 256) := rfl
  unfold decode
  rw [hd]
  simp only [hb]
  rw [← hd]
  simp [leBytes_length, List.take_of_length_le, List.drop_eq_nil_of_le, hl, h]



@[simp] theorem reg_toNat (r : Reg) : reg r.toNat = r := by simp [reg]

theorem of_gen {i : Instr} {w : Nat} (he : encodeGen i = some w) (hl : laneParts i = none)
    (h : i.wellFormed = true → w % 2 = 0 ∧ w < 2 ^ 32 ∧ decodeGen w = some i) : Statement i := by
  intro hw n v hv
  obtain ⟨h0, h1, h2⟩ := h hw
  simp only [encode, he, Option.some.injEq, Prod.mk.injEq] at hv
  obtain ⟨rfl, rfl⟩ := hv
  exact ⟨h1, by simpa [hl] using decode_gen h0 h1 h2⟩

theorem of_GR {i : Instr} {op fn b a d : Nat} (he : encodeGen i = some (wordGR op fn b a d)) (hl : laneParts i = none)
    (hb : b < 32 ∧ a < 32 ∧ d < 32 ∧ fn < 1024 ∧ op < 64)
    (h : i.wellFormed = true → ∀ w, bits w 6 1 = op → bits w 31 22 = fn → bits w 21 17 = b → bits w 16 12 = a →
      bits w 11 7 = d → decodeGen w = some i) : Statement i := by
  refine of_gen he hl fun hw => ⟨?_, ?_, h hw _ ?_ ?_ ?_ ?_ ?_⟩ <;> simp only [wordGR, bits] <;> omega

theorem of_GI {i : Instr} {op imm fn a d : Nat} (he : encodeGen i = some (wordGI op imm fn a d)) (hl : laneParts i = none)
    (hb : imm < 4096 ∧ a < 32 ∧ d < 32 ∧ fn < 8 ∧ op < 64)
    (h : i.wellFormed = true → ∀ w, bits w 6 1 = op → bits w 31 20 = imm → bits w 19 17 = fn → bits w 16 12 = a →
      bits w 11 7 = d → decodeGen w = some i) : Statement i := by
  refine of_gen he hl fun hw => ⟨?_, ?_, h hw _ ?_ ?_ ?_ ?_ ?_⟩ <;> simp only [wordGI, bits] <;> omega


theorem of_GU {i : Instr} {op imm d : Nat} (he : encodeGen i = some (wordGU op imm d)) (hl : laneParts i = none)
    (hb : imm < 2 ^ 20 ∧ d < 32 ∧ op < 64)
    (h : ∀ w, bits w 6 1 = op → bits w 31 12 = imm → bits w 11 7 = d → decodeGen w = some i) : Statement i := by
  refine of_gen he hl fun hw => ⟨?_, ?_, h _ ?_ ?_ ?_⟩ <;> simp only [wordGU, bits] <;> omega

theorem of_long {i : Instr} {w : Nat} (hg : encodeGen i = none) (he : encodeLong i = some w) (hl : laneParts i = none)
    (h : i.wellFormed = true → w % 4 = 3 ∧ w < 2 ^ 128 ∧ decodeLong w = some i) : Statement i := by
  intro hw n v hv
  obtain ⟨h0, h1, h2⟩ := h hw
  simp only [encode, hg, he, Option.some.injEq, Prod.mk.injEq] at hv
  obtain ⟨rfl, rfl⟩ := hv
  exact ⟨h1, by simpa [hl] using decode_long h0 h1 h2⟩

/-- What has no encoding. -/
theorem of_none {i : Instr} (h : encode i = none) : Statement i := by
  intro _ n w hv
  rw [h] at hv
  exact absurd hv (by simp)

/-- A word of n bytes below one that follows. -/
theorem leBytes_append {a b n m : Nat} (h : a < 256 ^ n) :
    leBytes (n + m) (a + b * 256 ^ n) = leBytes n a ++ leBytes m b := by
  induction n generalizing a with
  | zero =>
    have : a = 0 := by simpa using h
    simp [this, leBytes]
  | succ n ih =>
    have e : n + 1 + m = (n + m) + 1 := by omega
    have h2 : b * 256 ^ (n + 1) = 256 * (b * 256 ^ n) := by rw [Nat.pow_succ]; ac_rfl
    have h3 : (a + 256 * (b * 256 ^ n)) / 256 = a / 256 + b * 256 ^ n := by omega
    have h4 : BitVec.ofNat 8 (a + 256 * (b * 256 ^ n)) = BitVec.ofNat 8 a := by
      apply BitVec.eq_of_toNat_eq
      simp only [BitVec.toNat_ofNat]
      omega
    have h5 : a / 256 < 256 ^ n := by rw [Nat.pow_succ] at h; omega
    simp only [e, leBytes, h2, h3, h4, ih h5, List.cons_append]

theorem laneInstr_isSome {op : Nat} (h : laneOpAssigned op = true) (w : LaneWord) : (laneInstr op w).isSome = true := by
  unfold laneInstr
  split <;> try rfl
  simp only [laneOpAssigned, Bool.or_eq_true, Bool.and_eq_true, decide_eq_true_eq] at h
  split
  · rfl
  · simp only [imp_false] at *
    exfalso
    omega

/-- Decoding a lane word that other bytes follow. -/
theorem decode_lane {w : Nat} {rest : List Byte} (h0 : w % 4 = 1) (hw : w < 2 ^ 64) (hd : (decodeLane w).isNone = false) :
    decode (leBytes 8 w ++ rest) =
      if bitAt w 2 && 8 ≤ rest.length then
        .ok (.emitLaneWord (BitVec.ofNat 64 w) (some (BitVec.ofNat 64 (leNat (rest.take 8)))), rest.drop 8)
      else .ok (.emitLaneWord (BitVec.ofNat 64 w) none, rest) := by
  have hl : leNat (leBytes 8 w) = w := by rw [leNat_leBytes]; exact Nat.mod_eq_of_lt hw
  have hb : wordBytes (BitVec.ofNat 8 w) = 8 := by
    simp only [wordBytes, BitVec.toNat_ofNat]
    have h1 : w % 256 % 2 = 1 := by omega
    have h2 : w % 256 % 4 = 1 := by omega
    simp [h1, h2]
  have hc : leBytes 8 w = BitVec.ofNat 8 w :: leBytes 7 (w / 256) := rfl
  have ht : (leBytes 8 w ++ rest).take 8 = leBytes 8 w := List.take_left' (leBytes_length 8 w)
  have hr : (leBytes 8 w ++ rest).drop 8 = rest := List.drop_left' (leBytes_length 8 w)
  have hn : ¬ (leBytes 8 w ++ rest).length < 8 := by simp [leBytes_length]
  unfold decode
  split
  · rename_i h; rw [hc] at h; simp at h
  · rename_i b l h
    have : b = BitVec.ofNat 8 w := by rw [hc] at h; simpa using (List.cons.inj h).1.symm
    subst this
    rw [← h] at *
    simp only [hb, hn, ht, hr, hl, hd]
    simp

theorem decode_one {w : Word} (h1 : w.toNat % 4 = 1) (hd : (decodeLane w.toNat).isNone = false) :
    decode (leBytes 8 w.toNat) = .ok (.emitLaneWord w none, []) := by
  have h := decode_lane (rest := []) h1 w.isLt hd
  rw [List.append_nil] at h
  rw [h]
  simp

theorem decode_two {w x : Word} (h1 : w.toNat % 4 = 1) (hp : bitAt w.toNat 2 = true)
    (hd : (decodeLane w.toNat).isNone = false) :
    decode (leBytes 16 (w.toNat + x.toNat * 2 ^ 64)) = .ok (.emitLaneWord w (some x), []) := by
  have h := decode_lane (rest := leBytes 8 x.toNat) h1 w.isLt hd
  have hb : leBytes (8 + 8) (w.toNat + x.toNat * 256 ^ 8) = leBytes 8 w.toNat ++ leBytes 8 x.toNat :=
    leBytes_append w.isLt
  have hl : leNat (leBytes 8 x.toNat) = x.toNat := by rw [leNat_leBytes]; exact Nat.mod_eq_of_lt x.isLt
  have hn := leBytes_length 8 x.toNat
  have ht : (leBytes 8 x.toNat).take 8 = leBytes 8 x.toNat := List.take_of_length_le (by omega)
  have hr : (leBytes 8 x.toNat).drop 8 = [] := List.drop_eq_nil_of_le (by omega)
  rw [show (16 : Nat) = 8 + 8 from rfl, show (2 : Nat) ^ 64 = 256 ^ 8 from by norm_num, hb, h, hn, ht, hr, hl, hp]
  simp

theorem encode_lane (w : Word) (n v : Nat) (h : encode (.emitLaneWord w none) = some (n, v)) : n = 64 ∧ v = w.toNat := by
  have := Option.some.inj h
  exact ⟨(congrArg Prod.fst this).symm, (congrArg Prod.snd this).symm⟩
theorem encode_pair (w x : Word) (n v : Nat) (h : encode (.emitLaneWord w (some x)) = some (n, v)) :
    n = 128 ∧ v = w.toNat + x.toNat * 2 ^ 64 := by
  have := Option.some.inj h
  exact ⟨(congrArg Prod.fst this).symm, (congrArg Prod.snd this).symm⟩

theorem b2n_lt (b : Bool) : b2n b < 2 := by cases b <;> decide
@[simp] theorem b2n_beq (b : Bool) : (b2n b == 1) = b := by cases b <;> decide

theorem lane_fields {op8 : Nat} (h : op8 < 256) (w : LaneWord) :
    w.toNat op8 < 2 ^ 64 ∧ w.toNat op8 % 4 = 1 ∧ laneOp8 (w.toNat op8) = op8 ∧ LaneWord.ofNat (w.toNat op8) = w := by
  obtain ⟨c, b, a, d, m, s, pn, pg, cc, p⟩ := w
  have hc := c.isLt
  have hb := b.isLt
  have ha := a.isLt
  have hd := d.isLt
  have hm := m.isLt
  have hpg := pg.isLt
  have h1 := b2n_lt s
  have h2 := b2n_lt pn
  have h3 := b2n_lt cc
  have h4 := b2n_lt p
  refine ⟨?_, ?_, ?_, ?_⟩
  · simp only [LaneWord.toNat]; omega
  · simp only [LaneWord.toNat]; omega
  · simp only [LaneWord.toNat, laneOp8, bits]; omega
  · simp only [LaneWord.ofNat, LaneWord.toNat, bitAt, bits]
    generalize hw : c.toNat * 2 ^ 54 + b.toNat * 2 ^ 44 + a.toNat * 2 ^ 34 + d.toNat * 2 ^ 24 + m.toNat * 2 ^ 18
      + b2n s * 2 ^ 17 + b2n pn * 2 ^ 16 + pg.toNat * 2 ^ 12 + op8 * 2 ^ 4 + b2n cc * 2 ^ 3 + b2n p * 2 ^ 2 + 1 = w
    have e1 : w / 2 ^ 54 % 2 ^ (63 + 1 - 54) = c.toNat := by omega
    have e2 : w / 2 ^ 44 % 2 ^ (53 + 1 - 44) = b.toNat := by omega
    have e3 : w / 2 ^ 34 % 2 ^ (43 + 1 - 34) = a.toNat := by omega
    have e4 : w / 2 ^ 24 % 2 ^ (33 + 1 - 24) = d.toNat := by omega
    have e5 : w / 2 ^ 18 % 2 ^ (23 + 1 - 18) = m.toNat := by omega
    have e6 : w / 2 ^ 17 % 2 = b2n s := by omega
    have e7 : w / 2 ^ 16 % 2 = b2n pn := by omega
    have e8 : w / 2 ^ 12 % 2 ^ (15 + 1 - 12) = pg.toNat := by omega
    have e9 : w / 2 ^ 3 % 2 = b2n cc := by omega
    have e10 : w / 2 ^ 2 % 2 = b2n p := by omega
    rw [e1, e2, e3, e4, e5, e6, e7, e8, e9, e10]
    simp

/-- A lane word from its op8. -/
theorem of_lane {i : Instr} {op8 : Nat} {w : LaneWord}
    (hp : laneParts i = some (op8, w)) (hlt : op8 < 256) (hi : laneInstr op8 w = some i)
    (he : encode i = (encodeLane i).map fun w => (64, w)) : Statement i := by
  intro _ n v hv
  obtain ⟨h1, h2, h3, h4⟩ := lane_fields hlt w
  rw [he] at hv
  simp only [encodeLane, hp, Option.map_some, Option.some.injEq, Prod.mk.injEq] at hv
  obtain ⟨rfl, rfl⟩ := hv
  refine ⟨h1, ?_⟩
  simp only [hp, Option.isSome_some, if_true, decodeLane, h2, h3, h4, hi]
  rfl

/-! ### Codes -/

@[simp] theorem scope_code (x : Scope) : Scope.ofCode x.code = some x := by cases x <;> rfl
@[simp] theorem order_code (x : Order) : Order.ofCode x.code = x := by cases x <;> rfl
@[simp] theorem atomOp_code (x : AtomOp) : AtomOp.ofCode x.code = some x := by cases x <;> rfl
@[simp] theorem ldSize_code (x : LdSize) : LdSize.ofCode x.code = some x := by cases x <;> rfl
@[simp] theorem stSize_code (x : StSize) : StSize.ofCode x.code = some x := by cases x <;> rfl
@[simp] theorem rounding_code (x : Rounding) : Rounding.ofCode x.code = x := by cases x <;> rfl
@[simp] theorem barLevel_code (x : BarLevel) : BarLevel.ofCode x.code = some x := by cases x <;> rfl
@[simp] theorem wmEvent_code (x : WmEvent) : WmEvent.ofCode x.code = x := by cases x <;> rfl
@[simp] theorem hint_code (x : Hint) : Hint.ofCode x.code = x := by cases x <;> rfl
@[simp] theorem credOp_code (x : CredOp) : CredOp.ofCode x.code = some x := by cases x <;> rfl
@[simp] theorem credRed_code (x : CredRed) : CredRed.ofCode x.code = some x := by cases x <;> rfl
@[simp] theorem credType_code (x : CredType) : CredType.ofCode x.code = some x := by cases x <;> rfl
theorem scope_lt (x : Scope) : x.code < 6 := by cases x <;> decide
theorem order_lt (x : Order) : x.code < 4 := by cases x <;> decide
theorem atomOp_lt (x : AtomOp) : x.code < 13 := by cases x <;> decide
theorem ldSize_lt (x : LdSize) : x.code < 7 := by cases x <;> decide
theorem stSize_lt (x : StSize) : x.code < 4 := by cases x <;> decide
theorem rounding_lt (x : Rounding) : x.code < 4 := by cases x <;> decide
theorem barLevel_lt (x : BarLevel) : x.code < 3 := by cases x <;> decide
theorem wmEvent_lt (x : WmEvent) : x.code < 4 := by cases x <;> decide
theorem hint_lt (x : Hint) : x.code < 4 := by cases x <;> decide
theorem credOp_lt (x : CredOp) : x.code < 6 := by cases x <;> decide
theorem credRed_lt (x : CredRed) : x.code < 3 := by cases x <;> decide
theorem credType_lt (x : CredType) : x.code < 9 := by cases x <;> decide

/-! ### Generator words -/

theorem gnop : Statement (.gnop) := by
  refine of_GR rfl rfl (by omega) ?_
  intro hw w h1 h2 h3 h4 h5
  simp [decodeGen, decodeSys, accept, h1, h2, h3, h4, h5]

theorem endRole : Statement (.endRole) := by
  refine of_GR rfl rfl (by omega) ?_
  intro hw w h1 h2 h3 h4 h5
  simp [decodeGen, decodeSys, accept, h1, h2, h3, h4, h5]

theorem trap (code : BitVec 5) : Statement (.trap code) := by
  have := code.isLt
  refine of_GR rfl rfl (by omega) ?_
  intro hw w h1 h2 h3 h4 h5
  simp [decodeGen, decodeSys, accept, h1, h2, h3, h4, h5]

theorem eret : Statement (.eret) := by
  refine of_GR rfl rfl (by omega) ?_
  intro hw w h1 h2 h3 h4 h5
  simp [decodeGen, decodeSys, accept, h1, h2, h3, h4, h5]

theorem featq (d : Reg) (cls : BitVec 5) : Statement (.featq d cls) := by
  have := d.isLt
  have := cls.isLt
  refine of_GR rfl rfl (by omega) ?_
  intro hw w h1 h2 h3 h4 h5
  simp [decodeGen, decodeSys, accept, h1, h2, h3, h4, h5]
  simpa [Instr.wellFormed] using hw

theorem sdrain : Statement (.sdrain) := by
  refine of_GR rfl rfl (by omega) ?_
  intro hw w h1 h2 h3 h4 h5
  simp [decodeGen, decodeSys, accept, h1, h2, h3, h4, h5]

theorem add (d a b : Reg) : Statement (.add d a b) := by
  have := d.isLt
  have := a.isLt
  have := b.isLt
  refine of_GR rfl rfl (by omega) ?_
  intro hw w h1 h2 h3 h4 h5
  simp [decodeGen, decodeAlu, h1, h2, h3, h4, h5]

theorem sub (d a b : Reg) : Statement (.sub d a b) := by
  have := d.isLt
  have := a.isLt
  have := b.isLt
  refine of_GR rfl rfl (by omega) ?_
  intro hw w h1 h2 h3 h4 h5
  simp [decodeGen, decodeAlu, h1, h2, h3, h4, h5]

theorem and_ (d a b : Reg) : Statement (.and_ d a b) := by
  have := d.isLt
  have := a.isLt
  have := b.isLt
  refine of_GR rfl rfl (by omega) ?_
  intro hw w h1 h2 h3 h4 h5
  simp [decodeGen, decodeAlu, h1, h2, h3, h4, h5]

theorem or_ (d a b : Reg) : Statement (.or_ d a b) := by
  have := d.isLt
  have := a.isLt
  have := b.isLt
  refine of_GR rfl rfl (by omega) ?_
  intro hw w h1 h2 h3 h4 h5
  simp [decodeGen, decodeAlu, h1, h2, h3, h4, h5]

theorem xor_ (d a b : Reg) : Statement (.xor_ d a b) := by
  have := d.isLt
  have := a.isLt
  have := b.isLt
  refine of_GR rfl rfl (by omega) ?_
  intro hw w h1 h2 h3 h4 h5
  simp [decodeGen, decodeAlu, h1, h2, h3, h4, h5]

theorem shl (d a b : Reg) : Statement (.shl d a b) := by
  have := d.isLt
  have := a.isLt
  have := b.isLt
  refine of_GR rfl rfl (by omega) ?_
  intro hw w h1 h2 h3 h4 h5
  simp [decodeGen, decodeAlu, h1, h2, h3, h4, h5]

theorem shr (d a b : Reg) : Statement (.shr d a b) := by
  have := d.isLt
  have := a.isLt
  have := b.isLt
  refine of_GR rfl rfl (by omega) ?_
  intro hw w h1 h2 h3 h4 h5
  simp [decodeGen, decodeAlu, h1, h2, h3, h4, h5]

theorem sar (d a b : Reg) : Statement (.sar d a b) := by
  have := d.isLt
  have := a.isLt
  have := b.isLt
  refine of_GR rfl rfl (by omega) ?_
  intro hw w h1 h2 h3 h4 h5
  simp [decodeGen, decodeAlu, h1, h2, h3, h4, h5]

theorem mul (d a b : Reg) : Statement (.mul d a b) := by
  have := d.isLt
  have := a.isLt
  have := b.isLt
  refine of_GR rfl rfl (by omega) ?_
  intro hw w h1 h2 h3 h4 h5
  simp [decodeGen, decodeAlu, h1, h2, h3, h4, h5]

theorem mulh (d a b : Reg) : Statement (.mulh d a b) := by
  have := d.isLt
  have := a.isLt
  have := b.isLt
  refine of_GR rfl rfl (by omega) ?_
  intro hw w h1 h2 h3 h4 h5
  simp [decodeGen, decodeAlu, h1, h2, h3, h4, h5]

theorem mulhn (d a b : Reg) : Statement (.mulhn d a b) := by
  have := d.isLt
  have := a.isLt
  have := b.isLt
  refine of_GR rfl rfl (by omega) ?_
  intro hw w h1 h2 h3 h4 h5
  simp [decodeGen, decodeAlu, h1, h2, h3, h4, h5]

theorem div (d a b : Reg) : Statement (.div d a b) := by
  have := d.isLt
  have := a.isLt
  have := b.isLt
  refine of_GR rfl rfl (by omega) ?_
  intro hw w h1 h2 h3 h4 h5
  simp [decodeGen, decodeAlu, h1, h2, h3, h4, h5]

theorem divn (d a b : Reg) : Statement (.divn d a b) := by
  have := d.isLt
  have := a.isLt
  have := b.isLt
  refine of_GR rfl rfl (by omega) ?_
  intro hw w h1 h2 h3 h4 h5
  simp [decodeGen, decodeAlu, h1, h2, h3, h4, h5]

theorem rem (d a b : Reg) : Statement (.rem d a b) := by
  have := d.isLt
  have := a.isLt
  have := b.isLt
  refine of_GR rfl rfl (by omega) ?_
  intro hw w h1 h2 h3 h4 h5
  simp [decodeGen, decodeAlu, h1, h2, h3, h4, h5]

theorem remn (d a b : Reg) : Statement (.remn d a b) := by
  have := d.isLt
  have := a.isLt
  have := b.isLt
  refine of_GR rfl rfl (by omega) ?_
  intro hw w h1 h2 h3 h4 h5
  simp [decodeGen, decodeAlu, h1, h2, h3, h4, h5]

theorem min_ (d a b : Reg) : Statement (.min_ d a b) := by
  have := d.isLt
  have := a.isLt
  have := b.isLt
  refine of_GR rfl rfl (by omega) ?_
  intro hw w h1 h2 h3 h4 h5
  simp [decodeGen, decodeAlu, h1, h2, h3, h4, h5]

theorem max_ (d a b : Reg) : Statement (.max_ d a b) := by
  have := d.isLt
  have := a.isLt
  have := b.isLt
  refine of_GR rfl rfl (by omega) ?_
  intro hw w h1 h2 h3 h4 h5
  simp [decodeGen, decodeAlu, h1, h2, h3, h4, h5]

theorem minn (d a b : Reg) : Statement (.minn d a b) := by
  have := d.isLt
  have := a.isLt
  have := b.isLt
  refine of_GR rfl rfl (by omega) ?_
  intro hw w h1 h2 h3 h4 h5
  simp [decodeGen, decodeAlu, h1, h2, h3, h4, h5]

theorem maxn (d a b : Reg) : Statement (.maxn d a b) := by
  have := d.isLt
  have := a.isLt
  have := b.isLt
  refine of_GR rfl rfl (by omega) ?_
  intro hw w h1 h2 h3 h4 h5
  simp [decodeGen, decodeAlu, h1, h2, h3, h4, h5]

theorem slt (d a b : Reg) : Statement (.slt d a b) := by
  have := d.isLt
  have := a.isLt
  have := b.isLt
  refine of_GR rfl rfl (by omega) ?_
  intro hw w h1 h2 h3 h4 h5
  simp [decodeGen, decodeAlu, h1, h2, h3, h4, h5]

theorem sltn (d a b : Reg) : Statement (.sltn d a b) := by
  have := d.isLt
  have := a.isLt
  have := b.isLt
  refine of_GR rfl rfl (by omega) ?_
  intro hw w h1 h2 h3 h4 h5
  simp [decodeGen, decodeAlu, h1, h2, h3, h4, h5]

theorem seq (d a b : Reg) : Statement (.seq d a b) := by
  have := d.isLt
  have := a.isLt
  have := b.isLt
  refine of_GR rfl rfl (by omega) ?_
  intro hw w h1 h2 h3 h4 h5
  simp [decodeGen, decodeAlu, h1, h2, h3, h4, h5]

theorem clz (d a : Reg) : Statement (.clz d a) := by
  have := d.isLt
  have := a.isLt
  refine of_GR rfl rfl (by omega) ?_
  intro hw w h1 h2 h3 h4 h5
  simp [decodeGen, decodeAlu, accept, h1, h2, h3, h4, h5]

theorem ctz (d a : Reg) : Statement (.ctz d a) := by
  have := d.isLt
  have := a.isLt
  refine of_GR rfl rfl (by omega) ?_
  intro hw w h1 h2 h3 h4 h5
  simp [decodeGen, decodeAlu, accept, h1, h2, h3, h4, h5]

theorem popc (d a : Reg) : Statement (.popc d a) := by
  have := d.isLt
  have := a.isLt
  refine of_GR rfl rfl (by omega) ?_
  intro hw w h1 h2 h3 h4 h5
  simp [decodeGen, decodeAlu, accept, h1, h2, h3, h4, h5]

theorem addw (d a b : Reg) : Statement (.addw d a b) := by
  have := d.isLt
  have := a.isLt
  have := b.isLt
  refine of_GR rfl rfl (by omega) ?_
  intro hw w h1 h2 h3 h4 h5
  simp [decodeGen, decodeAlu, h1, h2, h3, h4, h5]

theorem subw (d a b : Reg) : Statement (.subw d a b) := by
  have := d.isLt
  have := a.isLt
  have := b.isLt
  refine of_GR rfl rfl (by omega) ?_
  intro hw w h1 h2 h3 h4 h5
  simp [decodeGen, decodeAlu, h1, h2, h3, h4, h5]

theorem andn (d a b : Reg) : Statement (.andn d a b) := by
  have := d.isLt
  have := a.isLt
  have := b.isLt
  refine of_GR rfl rfl (by omega) ?_
  intro hw w h1 h2 h3 h4 h5
  simp [decodeGen, decodeAlu, h1, h2, h3, h4, h5]

theorem addi (d a : Reg) (imm : BitVec 12) : Statement (.addi d a imm) := by
  have := d.isLt
  have := a.isLt
  have := imm.isLt
  refine of_GI rfl rfl (by omega) ?_
  intro hw w h1 h2 h3 h4 h5
  simp [decodeGen, decodeGI, accept, h1, h2, h3, h4, h5]

theorem andi (d a : Reg) (imm : BitVec 12) : Statement (.andi d a imm) := by
  have := d.isLt
  have := a.isLt
  have := imm.isLt
  refine of_GI rfl rfl (by omega) ?_
  intro hw w h1 h2 h3 h4 h5
  simp [decodeGen, decodeGI, accept, h1, h2, h3, h4, h5]

theorem ori (d a : Reg) (imm : BitVec 12) : Statement (.ori d a imm) := by
  have := d.isLt
  have := a.isLt
  have := imm.isLt
  refine of_GI rfl rfl (by omega) ?_
  intro hw w h1 h2 h3 h4 h5
  simp [decodeGen, decodeGI, accept, h1, h2, h3, h4, h5]

theorem xori (d a : Reg) (imm : BitVec 12) : Statement (.xori d a imm) := by
  have := d.isLt
  have := a.isLt
  have := imm.isLt
  refine of_GI rfl rfl (by omega) ?_
  intro hw w h1 h2 h3 h4 h5
  simp [decodeGen, decodeGI, accept, h1, h2, h3, h4, h5]

theorem shli (d a : Reg) (n : BitVec 6) : Statement (.shli d a n) := by
  have := d.isLt
  have := a.isLt
  have := n.isLt
  refine of_GI rfl rfl (by omega) ?_
  intro hw w h1 h2 h3 h4 h5
  simp [decodeGen, decodeGI, accept, h1, h2, h3, h4, h5]
  omega

theorem shri (d a : Reg) (n : BitVec 6) : Statement (.shri d a n) := by
  have := d.isLt
  have := a.isLt
  have := n.isLt
  refine of_GI rfl rfl (by omega) ?_
  intro hw w h1 h2 h3 h4 h5
  simp [decodeGen, decodeGI, accept, h1, h2, h3, h4, h5]
  omega

theorem sari (d a : Reg) (n : BitVec 6) : Statement (.sari d a n) := by
  have := d.isLt
  have := a.isLt
  have := n.isLt
  refine of_GI rfl rfl (by omega) ?_
  intro hw w h1 h2 h3 h4 h5
  simp [decodeGen, decodeGI, accept, h1, h2, h3, h4, h5]
  omega

theorem slti (d a : Reg) (imm : BitVec 12) : Statement (.slti d a imm) := by
  have := d.isLt
  have := a.isLt
  have := imm.isLt
  refine of_GI rfl rfl (by omega) ?_
  intro hw w h1 h2 h3 h4 h5
  simp [decodeGen, decodeGI, h1, h2, h3, h4, h5]

theorem sltni (d a : Reg) (imm : BitVec 12) : Statement (.sltni d a imm) := by
  have := d.isLt
  have := a.isLt
  have := imm.isLt
  refine of_GI rfl rfl (by omega) ?_
  intro hw w h1 h2 h3 h4 h5
  simp [decodeGen, decodeGI, h1, h2, h3, h4, h5]

theorem seqi (d a : Reg) (imm : BitVec 12) : Statement (.seqi d a imm) := by
  have := d.isLt
  have := a.isLt
  have := imm.isLt
  refine of_GI rfl rfl (by omega) ?_
  intro hw w h1 h2 h3 h4 h5
  simp [decodeGen, decodeGI, h1, h2, h3, h4, h5]

theorem shi (d : Reg) (imm : BitVec 20) : Statement (.shi d imm) := by
  have := d.isLt
  have := imm.isLt
  refine of_GU rfl rfl (by omega) ?_
  intro w h1 h2 h3
  simp [decodeGen, h1, h2, h3]

theorem pchi (d : Reg) (imm : BitVec 20) : Statement (.pchi d imm) := by
  have := d.isLt
  have := imm.isLt
  refine of_GU rfl rfl (by omega) ?_
  intro w h1 h2 h3
  simp [decodeGen, h1, h2, h3]

theorem ld (sz : LdSize) (d a : Reg) (imm : BitVec 12) : Statement (.ld sz d a imm) := by
  have := ldSize_lt sz
  have := d.isLt
  have := a.isLt
  have := imm.isLt
  refine of_GI rfl rfl (by omega) ?_
  intro hw w h1 h2 h3 h4 h5
  simp [decodeGen, decodeGI, h1, h2, h3, h4, h5]

theorem st (sz : StSize) (d a : Reg) (imm : BitVec 12) : Statement (.st sz d a imm) := by
  have := stSize_lt sz
  have := d.isLt
  have := a.isLt
  have := imm.isLt
  refine of_GI rfl rfl (by omega) ?_
  intro hw w h1 h2 h3 h4 h5
  simp [decodeGen, decodeGI, h1, h2, h3, h4, h5]

theorem amo (wide : Bool) (scope : Scope) (order : Order) (op : AtomOp) (d a b : Reg) :
    Statement (.amo wide scope order op d a b) := by
  have := b2n_lt wide
  have := scope_lt scope
  have := order_lt order
  have := atomOp_lt op
  have := d.isLt
  have := a.isLt
  have := b.isLt
  refine of_GR rfl rfl (by omega) ?_
  intro hw w h1 h2 h3 h4 h5
  have e1 : bits (b2n wide * 512 + scope.code * 64 + order.code * 16 + op.code) 8 6 = scope.code := by
    simp only [bits]; omega
  have e2 : bits (b2n wide * 512 + scope.code * 64 + order.code * 16 + op.code) 3 0 = op.code := by
    simp only [bits]; omega
  have e3 : bits (b2n wide * 512 + scope.code * 64 + order.code * 16 + op.code) 5 4 = order.code := by
    simp only [bits]; omega
  have e4 : bitAt (b2n wide * 512 + scope.code * 64 + order.code * 16 + op.code) 9 = wide := by
    have : (b2n wide * 512 + scope.code * 64 + order.code * 16 + op.code) / 2 ^ 9 % 2 = b2n wide := by omega
    simp only [bitAt, this, b2n_beq]
  have hw' : amoWF order op d b = true := hw
  simp [decodeGen, decodeAmo, accept, h1, h2, h3, h4, h5, e1, e2, e3, e4, hw']

theorem beq (a b : Reg) (off : BitVec 12) : Statement (.beq a b off) := by
  have := a.isLt
  have := b.isLt
  have := off.isLt
  refine of_GI rfl rfl (by omega) ?_
  intro hw w h1 h2 h3 h4 h5
  simp [decodeGen, decodeBranch, h1, h2, h3, h4, h5]

theorem bne (a b : Reg) (off : BitVec 12) : Statement (.bne a b off) := by
  have := a.isLt
  have := b.isLt
  have := off.isLt
  refine of_GI rfl rfl (by omega) ?_
  intro hw w h1 h2 h3 h4 h5
  simp [decodeGen, decodeBranch, h1, h2, h3, h4, h5]

theorem blt (a b : Reg) (off : BitVec 12) : Statement (.blt a b off) := by
  have := a.isLt
  have := b.isLt
  have := off.isLt
  refine of_GI rfl rfl (by omega) ?_
  intro hw w h1 h2 h3 h4 h5
  simp [decodeGen, decodeBranch, h1, h2, h3, h4, h5]

theorem bge (a b : Reg) (off : BitVec 12) : Statement (.bge a b off) := by
  have := a.isLt
  have := b.isLt
  have := off.isLt
  refine of_GI rfl rfl (by omega) ?_
  intro hw w h1 h2 h3 h4 h5
  simp [decodeGen, decodeBranch, h1, h2, h3, h4, h5]

theorem bltn (a b : Reg) (off : BitVec 12) : Statement (.bltn a b off) := by
  have := a.isLt
  have := b.isLt
  have := off.isLt
  refine of_GI rfl rfl (by omega) ?_
  intro hw w h1 h2 h3 h4 h5
  simp [decodeGen, decodeBranch, h1, h2, h3, h4, h5]

theorem bgen (a b : Reg) (off : BitVec 12) : Statement (.bgen a b off) := by
  have := a.isLt
  have := b.isLt
  have := off.isLt
  refine of_GI rfl rfl (by omega) ?_
  intro hw w h1 h2 h3 h4 h5
  simp [decodeGen, decodeBranch, h1, h2, h3, h4, h5]

theorem jal (d : Reg) (off : BitVec 20) : Statement (.jal d off) := by
  have := d.isLt
  have := off.isLt
  refine of_GU rfl rfl (by omega) ?_
  intro w h1 h2 h3
  simp [decodeGen, h1, h2, h3]

theorem jalr (d a : Reg) (imm : BitVec 12) : Statement (.jalr d a imm) := by
  have := d.isLt
  have := a.isLt
  have := imm.isLt
  refine of_GI rfl rfl (by omega) ?_
  intro hw w h1 h2 h3 h4 h5
  simp [decodeGen, decodeGI, accept, h1, h2, h3, h4, h5]

theorem wenter (n : BitVec 5) : Statement (.wenter n) := by
  have := n.isLt
  refine of_GI rfl rfl (by omega) ?_
  intro hw w h1 h2 h3 h4 h5
  simp [decodeGen, decodeStream, accept, h1, h2, h3, h4, h5]
  have hw : n.toNat ≤ 24 := by simpa [Instr.wellFormed] using hw
  omega

theorem wleave : Statement (.wleave) := by
  refine of_GR rfl rfl (by omega) ?_
  intro hw w h1 h2 h3 h4 h5
  simp [decodeGen, accept, h1, h2, h3, h4, h5]

theorem stgt (a b : Reg) : Statement (.stgt a b) := by
  have := a.isLt
  have := b.isLt
  refine of_GR rfl rfl (by omega) ?_
  intro hw w h1 h2 h3 h4 h5
  simp [decodeGen, accept, h1, h2, h3, h4, h5]

theorem capb (id : BitVec 6) : Statement (.capb id) := by
  have := id.isLt
  refine of_GI rfl rfl (by omega) ?_
  intro hw w h1 h2 h3 h4 h5
  simp [decodeGen, decodeStream, accept, h1, h2, h3, h4, h5]
  omega

theorem cape : Statement (.cape) := by
  refine of_GR rfl rfl (by omega) ?_
  intro hw w h1 h2 h3 h4 h5
  simp [decodeGen, accept, h1, h2, h3, h4, h5]

theorem cdrop (id : BitVec 6) : Statement (.cdrop id) := by
  have := id.isLt
  refine of_GI rfl rfl (by omega) ?_
  intro hw w h1 h2 h3 h4 h5
  simp [decodeGen, decodeStream, accept, h1, h2, h3, h4, h5]
  omega

theorem hset (h : BitVec 3) (a : Reg) : Statement (.hset h a) := by
  have := h.isLt
  have := a.isLt
  refine of_GI rfl rfl (by omega) ?_
  intro hw w h1 h2 h3 h4 h5
  simp [decodeGen, decodeStream, accept, h1, h2, h3, h4, h5]
  omega

theorem hstep (h : BitVec 3) (a : Reg) : Statement (.hstep h a) := by
  have := h.isLt
  have := a.isLt
  refine of_GI rfl rfl (by omega) ?_
  intro hw w h1 h2 h3 h4 h5
  simp [decodeGen, decodeStream, accept, h1, h2, h3, h4, h5]
  omega

theorem rply (id : BitVec 6) (a : Reg) : Statement (.rply id a) := by
  have := id.isLt
  have := a.isLt
  refine of_GI rfl rfl (by omega) ?_
  intro hw w h1 h2 h3 h4 h5
  simp [decodeGen, decodeStream, accept, h1, h2, h3, h4, h5]
  omega

theorem vread (d : Reg) : Statement (.vread d) := by
  have := d.isLt
  refine of_GR rfl rfl (by omega) ?_
  intro hw w h1 h2 h3 h4 h5
  simp [decodeGen, accept, h1, h2, h3, h4, h5]

theorem gfence (cp tl scl str sc : Bool) (scope : Scope) : Statement (.gfence cp tl scl str sc scope) := by
  have := b2n_lt cp
  have := b2n_lt tl
  have := b2n_lt scl
  have := b2n_lt str
  have := b2n_lt sc
  have := scope_lt scope
  refine of_GI rfl rfl (by omega) ?_
  intro _ w h1 h2 h3 h4 h5
  generalize hv : b2n cp * 256 + b2n tl * 128 + b2n scl * 64 + b2n str * 32 + b2n str * 16 + b2n sc * 8 + scope.code = v
    at h2
  have hs : b2n str = 0 ∨ b2n str = 1 := by omega
  have e0 : bits v 2 0 = scope.code := by simp only [bits]; omega
  have e1 : v / 2 ^ 8 % 2 = b2n cp := by rcases hs with hs | hs <;> omega
  have e2 : v / 2 ^ 7 % 2 = b2n tl := by rcases hs with hs | hs <;> omega
  have e3 : v / 2 ^ 6 % 2 = b2n scl := by rcases hs with hs | hs <;> omega
  have e4 : v / 2 ^ 5 % 2 = b2n str := by rcases hs with hs | hs <;> omega
  have e5 : v / 2 ^ 4 % 2 = b2n str := by omega
  have e6 : v / 2 ^ 3 % 2 = b2n sc := by omega
  have e7 : v < 512 := by omega
  simp only [decodeGen, decodeGfence, accept, bitAt, h1, h2, h3, h4, h5, e0, e1, e2, e3, e4, e5, e6, b2n_beq, scope_code]
  simp [e7]

theorem bara (lvl : BarLevel) (k : BitVec 4) : Statement (.bara lvl k) := by
  have := barLevel_lt lvl
  have := k.isLt
  refine of_GI rfl rfl (by omega) ?_
  intro _ w h1 h2 h3 h4 h5
  generalize hv : lvl.code * 16 + k.toNat = v at h2
  have e0 : bits v 5 4 = lvl.code := by simp only [bits]; omega
  have e1 : BitVec.ofNat 4 v = k := by
    apply BitVec.eq_of_toNat_eq
    simp only [BitVec.toNat_ofNat]
    omega
  have e3 : v < 64 := by omega
  simp [decodeGen, decodeBarrier, accept, bitAt, h1, h2, h3, h4, h5, e0, e1, e3]

theorem barw (str : Bool) (lvl : BarLevel) (k : BitVec 4) : Statement (.barw str lvl k) := by
  have := b2n_lt str
  have := barLevel_lt lvl
  have := k.isLt
  refine of_GI rfl rfl (by omega) ?_
  intro _ w h1 h2 h3 h4 h5
  generalize hv : b2n str * 64 + lvl.code * 16 + k.toNat = v at h2
  have e0 : bits v 5 4 = lvl.code := by simp only [bits]; omega
  have e1 : BitVec.ofNat 4 v = k := by
    apply BitVec.eq_of_toNat_eq
    simp only [BitVec.toNat_ofNat]
    omega
  have e2 : v / 2 ^ 6 % 2 = b2n str := by omega
  have e3 : v < 128 := by omega
  have e4 : bitAt v 6 = str := by simp only [bitAt, e2, b2n_beq]
  simp [decodeGen, decodeBarrier, accept, h1, h2, h3, h4, h5, e0, e1, e3, e4]

theorem baraw (str : Bool) (lvl : BarLevel) (k : BitVec 4) : Statement (.baraw str lvl k) := by
  have := b2n_lt str
  have := barLevel_lt lvl
  have := k.isLt
  refine of_GI rfl rfl (by omega) ?_
  intro _ w h1 h2 h3 h4 h5
  generalize hv : b2n str * 64 + lvl.code * 16 + k.toNat = v at h2
  have e0 : bits v 5 4 = lvl.code := by simp only [bits]; omega
  have e1 : BitVec.ofNat 4 v = k := by
    apply BitVec.eq_of_toNat_eq
    simp only [BitVec.toNat_ofNat]
    omega
  have e2 : v / 2 ^ 6 % 2 = b2n str := by omega
  have e3 : v < 128 := by omega
  have e4 : bitAt v 6 = str := by simp only [bitAt, e2, b2n_beq]
  simp [decodeGen, decodeBarrier, accept, h1, h2, h3, h4, h5, e0, e1, e3, e4]

theorem wmrd (d : Reg) (wm : BitVec 4) : Statement (.wmrd d wm) := by
  have := d.isLt
  have := wm.isLt
  refine of_GI rfl rfl (by omega) ?_
  intro hw w h1 h2 h3 h4 h5
  simp [decodeGen, decodeWm, accept, h1, h2, h3, h4, h5]
  omega

theorem wmwait (ev : WmEvent) (wm : BitVec 4) (a : Reg) : Statement (.wmwait ev wm a) := by
  have := wmEvent_lt ev
  have := wm.isLt
  have := a.isLt
  refine of_GI rfl rfl (by omega) ?_
  intro hw w h1 h2 h3 h4 h5
  generalize hv : ev.code * 16 + wm.toNat = v at h2
  have e0 : bits v 5 4 = ev.code := by simp only [bits]; omega
  have e1 : BitVec.ofNat 4 v = wm := by
    apply BitVec.eq_of_toNat_eq
    simp only [BitVec.toNat_ofNat]
    omega
  have e3 : v < 64 := by omega
  have hw' : ev = .count ∨ a = 0 := by simpa [Instr.wellFormed] using hw
  have e4 : ev = .count ∨ a.toNat = 0 := by
    rcases hw' with h | h
    · exact .inl h
    · exact .inr (by rw [h]; rfl)
  simp [decodeGen, decodeWm, accept, h1, h2, h3, h4, h5, e0, e1, e3]
  tauto

theorem wmfree (wm : BitVec 4) : Statement (.wmfree wm) := by
  have := wm.isLt
  refine of_GI rfl rfl (by omega) ?_
  intro hw w h1 h2 h3 h4 h5
  simp [decodeGen, decodeWm, accept, h1, h2, h3, h4, h5]
  omega

theorem cpkill (wm : BitVec 4) : Statement (.cpkill wm) := by
  have := wm.isLt
  refine of_GI rfl rfl (by omega) ?_
  intro hw w h1 h2 h3 h4 h5
  simp [decodeGen, decodeWm, accept, h1, h2, h3, h4, h5]
  omega

theorem tcfg (f : BitVec 3) (t : BitVec 4) (a : Reg) : Statement (.tcfg f t a) := by
  have := f.isLt
  have := t.isLt
  have := a.isLt
  refine of_GI rfl rfl (by omega) ?_
  intro hw w h1 h2 h3 h4 h5
  simp [decodeGen, decodeTile, accept, h1, h2, h3, h4, h5]
  omega

theorem trd (f : BitVec 3) (d : Reg) (t : BitVec 4) : Statement (.trd f d t) := by
  have := f.isLt
  have := d.isLt
  have := t.isLt
  refine of_GI rfl rfl (by omega) ?_
  intro hw w h1 h2 h3 h4 h5
  simp [decodeGen, decodeTile, accept, h1, h2, h3, h4, h5]
  omega

theorem mclr (acc : BitVec 3) : Statement (.mclr acc) := by
  have := acc.isLt
  refine of_GI rfl rfl (by omega) ?_
  intro hw w h1 h2 h3 h4 h5
  simp [decodeGen, decodeTile, accept, h1, h2, h3, h4, h5]
  omega

theorem mwait (a : Reg) : Statement (.mwait a) := by
  have := a.isLt
  refine of_GI rfl rfl (by omega) ?_
  intro hw w h1 h2 h3 h4 h5
  simp [decodeGen, decodeTile, accept, h1, h2, h3, h4, h5]

theorem qpush (d a : Reg) (q : BitVec 8) : Statement (.qpush d a q) := by
  have := d.isLt
  have := a.isLt
  have := q.isLt
  refine of_GI rfl rfl (by omega) ?_
  intro hw w h1 h2 h3 h4 h5
  simp [decodeGen, decodeQueue, accept, h1, h2, h3, h4, h5]
  omega

theorem qpop (d a : Reg) (q : BitVec 8) : Statement (.qpop d a q) := by
  have := d.isLt
  have := a.isLt
  have := q.isLt
  refine of_GI rfl rfl (by omega) ?_
  intro hw w h1 h2 h3 h4 h5
  simp [decodeGen, decodeQueue, accept, h1, h2, h3, h4, h5]
  omega

theorem qsig (d a : Reg) (q : BitVec 8) : Statement (.qsig d a q) := by
  have := d.isLt
  have := a.isLt
  have := q.isLt
  refine of_GI rfl rfl (by omega) ?_
  intro hw w h1 h2 h3 h4 h5
  simp [decodeGen, decodeQueue, accept, h1, h2, h3, h4, h5]
  omega

theorem qstat (d a : Reg) (q : BitVec 8) : Statement (.qstat d a q) := by
  have := d.isLt
  have := a.isLt
  have := q.isLt
  refine of_GI rfl rfl (by omega) ?_
  intro hw w h1 h2 h3 h4 h5
  simp [decodeGen, decodeQueue, accept, h1, h2, h3, h4, h5]
  omega

theorem gpref (a : Reg) (imm : BitVec 12) : Statement (.gpref a imm) := by
  have := a.isLt
  have := imm.isLt
  refine of_GI rfl rfl (by omega) ?_
  intro hw w h1 h2 h3 h4 h5
  simp [decodeGen, decodeQueue, accept, h1, h2, h3, h4, h5]

theorem dpref (a : Reg) (imm : BitVec 12) : Statement (.dpref a imm) := by
  have := a.isLt
  have := imm.isLt
  refine of_GI rfl rfl (by omega) ?_
  intro hw w h1 h2 h3 h4 h5
  simp [decodeGen, decodeQueue, accept, h1, h2, h3, h4, h5]

theorem rdsr (d : Reg) (n : BitVec 12) : Statement (.rdsr d n) := by
  have := d.isLt
  have := n.isLt
  refine of_GI rfl rfl (by omega) ?_
  intro hw w h1 h2 h3 h4 h5
  simp [decodeGen, decodeQueue, accept, h1, h2, h3, h4, h5]
  simpa [Instr.wellFormed] using hw

theorem wrsr (n : BitVec 12) (a : Reg) : Statement (.wrsr n a) := by
  have := n.isLt
  have := a.isLt
  refine of_GI rfl rfl (by omega) ?_
  intro hw w h1 h2 h3 h4 h5
  simp [decodeGen, decodeQueue, accept, h1, h2, h3, h4, h5]
  simpa [Instr.wellFormed] using hw

theorem genExtension (n : BitVec 3) (x : BitVec 25) : Statement (.genExtension n x) := by
  have := n.isLt
  have := x.isLt
  refine of_gen rfl rfl fun _ => ⟨by omega, by omega, ?_⟩
  generalize hv : x.toNat * 2 ^ 7 + (56 + n.toNat) * 2 = v
  have e1 : bits v 6 1 = 56 + n.toNat := by simp only [bits]; omega
  have e2 : bits v 31 7 = x.toNat := by simp only [bits]; omega
  have e3 : BitVec.ofNat 3 (56 + n.toNat) = n := by
    apply BitVec.eq_of_toNat_eq
    simp only [BitVec.toNat_ofNat]
    omega
  have n1 : ∀ k, k < 56 → (56 + n.toNat == k) = false := fun k hk => by simp; omega
  have n2 : ∀ k, k < 56 → ¬ 56 + n.toNat ≤ k := fun k hk => by omega
  simp [decodeGen, e1, e2, e3, n1, n2]

theorem li64 (d : Reg) (imm : Word) : Statement (.li64 d imm) := by
  have := d.isLt
  have := imm.isLt
  refine of_long rfl rfl rfl fun _ => ⟨by omega, by omega, ?_⟩
  generalize hv : imm.toNat * 2 ^ 64 + d.toNat * 2 ^ 8 + 3 = v
  have e0 : bits v 7 2 = 0 := by simp only [bits]; omega
  have e1 : bits v 63 13 = 0 := by simp only [bits]; omega
  have e2 : bits v 12 8 = d.toNat := by simp only [bits]; omega
  have e3 : bits v 127 64 = imm.toNat := by simp only [bits]; omega
  simp [decodeLong, accept, e0, e1, e2, e3]

theorem mloop (m : MloopArgs) : Statement (.mloop m) := by
  obtain ⟨incB, incA, steps, scope, release, acquire, clear, tB, tA, acc⟩ := m
  have := incB.isLt
  have := incA.isLt
  have := steps.isLt
  have := scope_lt scope
  have := b2n_lt release
  have := b2n_lt acquire
  have := b2n_lt clear
  have := tB.isLt
  have := tA.isLt
  have := acc.isLt
  refine of_long rfl rfl rfl fun hw => ⟨by simp only; omega, by simp only; omega, ?_⟩
  simp only
  generalize hv : incB.toNat * 2 ^ 80 + incA.toNat * 2 ^ 48 + steps.toNat * 2 ^ 32 + scope.code * 2 ^ 22
      + b2n release * 2 ^ 21 + b2n acquire * 2 ^ 20 + b2n clear * 2 ^ 19 + tB.toNat * 2 ^ 15
      + tA.toNat * 2 ^ 11 + acc.toNat * 2 ^ 8 + 0x07 = v
  have e0 : bits v 7 2 = 1 := by simp only [bits]; omega
  have e1 : bits v 111 80 = incB.toNat := by simp only [bits]; omega
  have e2 : bits v 79 48 = incA.toNat := by simp only [bits]; omega
  have e3 : bits v 47 32 = steps.toNat := by simp only [bits]; omega
  have e4 : bits v 24 22 = scope.code := by simp only [bits]; omega
  have e5 : bitAt v 21 = release := by
    have : v / 2 ^ 21 % 2 = b2n release := by omega
    simp only [bitAt, this, b2n_beq]
  have e6 : bitAt v 20 = acquire := by
    have : v / 2 ^ 20 % 2 = b2n acquire := by omega
    simp only [bitAt, this, b2n_beq]
  have e7 : bitAt v 19 = clear := by
    have : v / 2 ^ 19 % 2 = b2n clear := by omega
    simp only [bitAt, this, b2n_beq]
  have e8 : bits v 18 15 = tB.toNat := by simp only [bits]; omega
  have e9 : bits v 14 11 = tA.toNat := by simp only [bits]; omega
  have e10 : bits v 10 8 = acc.toNat := by simp only [bits]; omega
  have z0 : bits v 127 112 = 0 := by simp only [bits]; omega
  have z1 : bits v 31 25 = 0 := by simp only [bits]; omega
  simp [decodeLong, accept, hw, e0, e1, e2, e3, e4, e5, e6, e7, e8, e9, e10, z0, z1]

theorem mdrain (m : MdrainArgs) : Statement (.mdrain m) := by
  obtain ⟨scale, scope, release, saturate, rounding, addOn, tD, acc⟩ := m
  have := scale.isLt
  have := scope_lt scope
  have := b2n_lt release
  have := b2n_lt saturate
  have := rounding_lt rounding
  have := b2n_lt addOn
  have := tD.isLt
  have := acc.isLt
  refine of_long rfl rfl rfl fun hw => ⟨by simp only; omega, by simp only; omega, ?_⟩
  simp only
  generalize hv : scale.toNat * 2 ^ 23 + scope.code * 2 ^ 20 + b2n release * 2 ^ 19 + b2n saturate * 2 ^ 18
      + rounding.code * 2 ^ 16 + b2n addOn * 2 ^ 15 + tD.toNat * 2 ^ 11 + acc.toNat * 2 ^ 8 + 0x0B = v
  have e0 : bits v 7 2 = 2 := by simp only [bits]; omega
  have e1 : bits v 27 23 = scale.toNat := by simp only [bits]; omega
  have e2 : bits v 22 20 = scope.code := by simp only [bits]; omega
  have e3 : bitAt v 19 = release := by
    have : v / 2 ^ 19 % 2 = b2n release := by omega
    simp only [bitAt, this, b2n_beq]
  have e4 : bitAt v 18 = saturate := by
    have : v / 2 ^ 18 % 2 = b2n saturate := by omega
    simp only [bitAt, this, b2n_beq]
  have e5 : bits v 17 16 = rounding.code := by simp only [bits]; omega
  have e6 : bitAt v 15 = addOn := by
    have : v / 2 ^ 15 % 2 = b2n addOn := by omega
    simp only [bitAt, this, b2n_beq]
  have e7 : bits v 14 11 = tD.toNat := by simp only [bits]; omega
  have e8 : bits v 10 8 = acc.toNat := by simp only [bits]; omega
  have z0 : bits v 127 28 = 0 := by simp only [bits]; omega
  simp [decodeLong, accept, hw, e0, e1, e2, e3, e4, e5, e6, e7, e8, z0]

theorem copy (m : CopyArgs) : Statement (.copy m) := by
  obtain ⟨hint, barrier, arrive, scope, release, acquire, dims, sB, wm⟩ := m
  have := hint_lt hint
  have := barrier.isLt
  have := b2n_lt arrive
  have := scope_lt scope
  have := b2n_lt release
  have := b2n_lt acquire
  have := dims.isLt
  have := sB.isLt
  have := wm.isLt
  refine of_long rfl rfl rfl fun hw => ⟨by simp only; omega, by simp only; omega, ?_⟩
  simp only
  generalize hv : hint.code * 2 ^ 29 + barrier.toNat * 2 ^ 25 + b2n arrive * 2 ^ 24 + scope.code * 2 ^ 21
      + b2n release * 2 ^ 20 + b2n acquire * 2 ^ 19 + dims.toNat * 2 ^ 17 + sB.toNat * 2 ^ 12
      + wm.toNat * 2 ^ 8 + 0x0F = v
  have e0 : bits v 7 2 = 3 := by simp only [bits]; omega
  have e1 : bits v 30 29 = hint.code := by simp only [bits]; omega
  have e2 : bits v 28 25 = barrier.toNat := by simp only [bits]; omega
  have e3 : bitAt v 24 = arrive := by
    have : v / 2 ^ 24 % 2 = b2n arrive := by omega
    simp only [bitAt, this, b2n_beq]
  have e4 : bits v 23 21 = scope.code := by simp only [bits]; omega
  have e5 : bitAt v 20 = release := by
    have : v / 2 ^ 20 % 2 = b2n release := by omega
    simp only [bitAt, this, b2n_beq]
  have e6 : bitAt v 19 = acquire := by
    have : v / 2 ^ 19 % 2 = b2n acquire := by omega
    simp only [bitAt, this, b2n_beq]
  have e7 : bits v 18 17 = dims.toNat := by simp only [bits]; omega
  have e8 : bits v 16 12 = sB.toNat := by simp only [bits]; omega
  have e9 : bits v 11 8 = wm.toNat := by simp only [bits]; omega
  have z0 : bits v 127 31 = 0 := by simp only [bits]; omega
  simp [decodeLong, accept, hw, e0, e1, e2, e3, e4, e5, e6, e7, e8, e9, z0]

theorem nrec (m : NrecArgs) : Statement (.nrec m) := by
  obtain ⟨scope, release, count, sD, sN⟩ := m
  have := scope_lt scope
  have := b2n_lt release
  have := count.isLt
  have := sD.isLt
  have := sN.isLt
  refine of_long rfl rfl rfl fun hw => ⟨by simp only; omega, by simp only; omega, ?_⟩
  simp only
  generalize hv : scope.code * 2 ^ 22 + b2n release * 2 ^ 21 + count.toNat * 2 ^ 18 + sD.toNat * 2 ^ 13
      + sN.toNat * 2 ^ 8 + 0x13 = v
  have e0 : bits v 7 2 = 4 := by simp only [bits]; omega
  have e1 : bits v 24 22 = scope.code := by simp only [bits]; omega
  have e2 : bitAt v 21 = release := by
    have : v / 2 ^ 21 % 2 = b2n release := by omega
    simp only [bitAt, this, b2n_beq]
  have e3 : bits v 20 18 = count.toNat := by simp only [bits]; omega
  have e4 : bits v 17 13 = sD.toNat := by simp only [bits]; omega
  have e5 : bits v 12 8 = sN.toNat := by simp only [bits]; omega
  have z0 : bits v 127 25 = 0 := by simp only [bits]; omega
  simp [decodeLong, accept, hw, e0, e1, e2, e3, e4, e5, z0]

theorem cred (m : CredArgs) : Statement (.cred m) := by
  obtain ⟨scope, release, acquire, red, type, op, wm, sP⟩ := m
  have := scope_lt scope
  have := b2n_lt release
  have := b2n_lt acquire
  have := credRed_lt red
  have := credType_lt type
  have := credOp_lt op
  have := wm.isLt
  have := sP.isLt
  refine of_long rfl rfl rfl fun hw => ⟨by simp only; omega, by simp only; omega, ?_⟩
  simp only
  generalize hv : scope.code * 2 ^ 29 + b2n release * 2 ^ 28 + b2n acquire * 2 ^ 27 + red.code * 2 ^ 25
      + type.code * 2 ^ 21 + op.code * 2 ^ 17 + wm.toNat * 2 ^ 13 + sP.toNat * 2 ^ 8 + 0x17 = v
  have e0 : bits v 7 2 = 5 := by simp only [bits]; omega
  have e1 : bits v 31 29 = scope.code := by simp only [bits]; omega
  have e2 : bitAt v 28 = release := by
    have : v / 2 ^ 28 % 2 = b2n release := by omega
    simp only [bitAt, this, b2n_beq]
  have e3 : bitAt v 27 = acquire := by
    have : v / 2 ^ 27 % 2 = b2n acquire := by omega
    simp only [bitAt, this, b2n_beq]
  have e4 : bits v 26 25 = red.code := by simp only [bits]; omega
  have e5 : bits v 24 21 = type.code := by simp only [bits]; omega
  have e6 : bits v 20 17 = op.code := by simp only [bits]; omega
  have e7 : bits v 16 13 = wm.toNat := by simp only [bits]; omega
  have e8 : bits v 12 8 = sP.toNat := by simp only [bits]; omega
  have z0 : bits v 127 32 = 0 := by simp only [bits]; omega
  simp [decodeLong, accept, hw, e0, e1, e2, e3, e4, e5, e6, e7, e8, z0]

theorem emitLaneWord (w : Word) (next : Option Word) : Statement (.emitLaneWord w next) := by
  intro hw n v hv
  simp only [Instr.wellFormed, Bool.and_eq_true, beq_iff_eq, Bool.or_eq_true] at hw
  obtain ⟨⟨h1, h2⟩, h3⟩ := hw
  have hd : (decodeLane w.toNat).isNone = false := by
    simp only [decodeLane, h1, laneOp8]
    simpa using laneInstr_isSome h2 _
  have hl : (laneParts (.emitLaneWord w next)).isSome = false := rfl
  rw [hl]
  cases next with
  | none =>
    obtain ⟨hn, hv⟩ := encode_lane w n v hv
    rw [hn, hv]
    exact ⟨w.isLt, decode_one h1 hd⟩
  | some x =>
    obtain ⟨hn, hv⟩ := encode_pair w x n v hv
    rw [hn, hv]
    have hp : bitAt w.toNat 2 = true := by simpa using h3
    have h0 := w.isLt
    have hx := x.isLt
    exact ⟨by omega, decode_two h1 hp hd⟩

theorem replayPush (ctx : ReplaySite) : Statement (.replayPush ctx) :=
  of_none rfl

/-! ### Lane words -/

theorem vnop (w : LaneWord) : Statement (.vnop w) :=
  of_lane rfl (by decide) rfl rfl

theorem vadd (w : LaneWord) : Statement (.vadd w) :=
  of_lane rfl (by decide) rfl rfl

theorem vsub (w : LaneWord) : Statement (.vsub w) :=
  of_lane rfl (by decide) rfl rfl

theorem vmul (w : LaneWord) : Statement (.vmul w) :=
  of_lane rfl (by decide) rfl rfl

theorem vmulh (w : LaneWord) : Statement (.vmulh w) :=
  of_lane rfl (by decide) rfl rfl

theorem vmad (w : LaneWord) : Statement (.vmad w) :=
  of_lane rfl (by decide) rfl rfl

theorem vmin (w : LaneWord) : Statement (.vmin w) :=
  of_lane rfl (by decide) rfl rfl

theorem vmax (w : LaneWord) : Statement (.vmax w) :=
  of_lane rfl (by decide) rfl rfl

theorem vabsd (w : LaneWord) : Statement (.vabsd w) :=
  of_lane rfl (by decide) rfl rfl

theorem vand (w : LaneWord) : Statement (.vand w) :=
  of_lane rfl (by decide) rfl rfl

theorem vor (w : LaneWord) : Statement (.vor w) :=
  of_lane rfl (by decide) rfl rfl

theorem vxor (w : LaneWord) : Statement (.vxor w) :=
  of_lane rfl (by decide) rfl rfl

theorem vandn (w : LaneWord) : Statement (.vandn w) :=
  of_lane rfl (by decide) rfl rfl

theorem vshl (w : LaneWord) : Statement (.vshl w) :=
  of_lane rfl (by decide) rfl rfl

theorem vshr (w : LaneWord) : Statement (.vshr w) :=
  of_lane rfl (by decide) rfl rfl

theorem vrot (w : LaneWord) : Statement (.vrot w) :=
  of_lane rfl (by decide) rfl rfl

theorem vbfx (w : LaneWord) : Statement (.vbfx w) :=
  of_lane rfl (by decide) rfl rfl

theorem vbfi (w : LaneWord) : Statement (.vbfi w) :=
  of_lane rfl (by decide) rfl rfl

theorem vpopc (w : LaneWord) : Statement (.vpopc w) :=
  of_lane rfl (by decide) rfl rfl

theorem vclz (w : LaneWord) : Statement (.vclz w) :=
  of_lane rfl (by decide) rfl rfl

theorem vctz (w : LaneWord) : Statement (.vctz w) :=
  of_lane rfl (by decide) rfl rfl

theorem vbrev (w : LaneWord) : Statement (.vbrev w) :=
  of_lane rfl (by decide) rfl rfl

theorem vpermb (w : LaneWord) : Statement (.vpermb w) :=
  of_lane rfl (by decide) rfl rfl

theorem vdiv (w : LaneWord) : Statement (.vdiv w) :=
  of_lane rfl (by decide) rfl rfl

theorem vrem (w : LaneWord) : Statement (.vrem w) :=
  of_lane rfl (by decide) rfl rfl

theorem vaddc (w : LaneWord) : Statement (.vaddc w) :=
  of_lane rfl (by decide) rfl rfl

theorem vcmp (w : LaneWord) : Statement (.vcmp w) :=
  of_lane rfl (by decide) rfl rfl

theorem vmov (w : LaneWord) : Statement (.vmov w) :=
  of_lane rfl (by decide) rfl rfl

theorem vsel (w : LaneWord) : Statement (.vsel w) :=
  of_lane rfl (by decide) rfl rfl

theorem vlea (w : LaneWord) : Statement (.vlea w) :=
  of_lane rfl (by decide) rfl rfl

theorem vfadd (w : LaneWord) : Statement (.vfadd w) :=
  of_lane rfl (by decide) rfl rfl

theorem vfsub (w : LaneWord) : Statement (.vfsub w) :=
  of_lane rfl (by decide) rfl rfl

theorem vfmul (w : LaneWord) : Statement (.vfmul w) :=
  of_lane rfl (by decide) rfl rfl

theorem vfmulz (w : LaneWord) : Statement (.vfmulz w) :=
  of_lane rfl (by decide) rfl rfl

theorem vfma (w : LaneWord) : Statement (.vfma w) :=
  of_lane rfl (by decide) rfl rfl

theorem vfmaz (w : LaneWord) : Statement (.vfmaz w) :=
  of_lane rfl (by decide) rfl rfl

theorem vfmin (w : LaneWord) : Statement (.vfmin w) :=
  of_lane rfl (by decide) rfl rfl

theorem vfmax (w : LaneWord) : Statement (.vfmax w) :=
  of_lane rfl (by decide) rfl rfl

theorem vfsgn (w : LaneWord) : Statement (.vfsgn w) :=
  of_lane rfl (by decide) rfl rfl

theorem vfcmp (w : LaneWord) : Statement (.vfcmp w) :=
  of_lane rfl (by decide) rfl rfl

theorem vfclass (w : LaneWord) : Statement (.vfclass w) :=
  of_lane rfl (by decide) rfl rfl

theorem vfdiv (w : LaneWord) : Statement (.vfdiv w) :=
  of_lane rfl (by decide) rfl rfl

theorem vfsqrt (w : LaneWord) : Statement (.vfsqrt w) :=
  of_lane rfl (by decide) rfl rfl

theorem vfrnd (w : LaneWord) : Statement (.vfrnd w) :=
  of_lane rfl (by decide) rfl rfl

theorem vfscale (w : LaneWord) : Statement (.vfscale w) :=
  of_lane rfl (by decide) rfl rfl

theorem vfxtr (w : LaneWord) : Statement (.vfxtr w) :=
  of_lane rfl (by decide) rfl rfl

theorem vfdot2 (w : LaneWord) : Statement (.vfdot2 w) :=
  of_lane rfl (by decide) rfl rfl

theorem vcvtf (w : LaneWord) : Statement (.vcvtf w) :=
  of_lane rfl (by decide) rfl rfl

theorem vcvtfi (w : LaneWord) : Statement (.vcvtfi w) :=
  of_lane rfl (by decide) rfl rfl

theorem vcvtif (w : LaneWord) : Statement (.vcvtif w) :=
  of_lane rfl (by decide) rfl rfl

theorem vrcp (w : LaneWord) : Statement (.vrcp w) :=
  of_lane rfl (by decide) rfl rfl

theorem vrsq (w : LaneWord) : Statement (.vrsq w) :=
  of_lane rfl (by decide) rfl rfl

theorem vexp2 (w : LaneWord) : Statement (.vexp2 w) :=
  of_lane rfl (by decide) rfl rfl

theorem vlog2 (w : LaneWord) : Statement (.vlog2 w) :=
  of_lane rfl (by decide) rfl rfl

theorem vsin (w : LaneWord) : Statement (.vsin w) :=
  of_lane rfl (by decide) rfl rfl

theorem vcos (w : LaneWord) : Statement (.vcos w) :=
  of_lane rfl (by decide) rfl rfl

theorem vtanh (w : LaneWord) : Statement (.vtanh w) :=
  of_lane rfl (by decide) rfl rfl

theorem vsigm (w : LaneWord) : Statement (.vsigm w) :=
  of_lane rfl (by decide) rfl rfl

theorem vplop (w : LaneWord) : Statement (.vplop w) :=
  of_lane rfl (by decide) rfl rfl

theorem vpmov (w : LaneWord) : Statement (.vpmov w) :=
  of_lane rfl (by decide) rfl rfl

theorem vshuf (w : LaneWord) : Statement (.vshuf w) :=
  of_lane rfl (by decide) rfl rfl

theorem vbcast (w : LaneWord) : Statement (.vbcast w) :=
  of_lane rfl (by decide) rfl rfl

theorem vrotl (w : LaneWord) : Statement (.vrotl w) :=
  of_lane rfl (by decide) rfl rfl

theorem vscan (w : LaneWord) : Statement (.vscan w) :=
  of_lane rfl (by decide) rfl rfl

theorem vred (w : LaneWord) : Statement (.vred w) :=
  of_lane rfl (by decide) rfl rfl

theorem vvote (w : LaneWord) : Statement (.vvote w) :=
  of_lane rfl (by decide) rfl rfl

theorem vbar (w : LaneWord) : Statement (.vbar w) :=
  of_lane rfl (by decide) rfl rfl

theorem vld (w : LaneWord) : Statement (.vld w) :=
  of_lane rfl (by decide) rfl rfl

theorem vst (w : LaneWord) : Statement (.vst w) :=
  of_lane rfl (by decide) rfl rfl

theorem vatom (w : LaneWord) : Statement (.vatom w) :=
  of_lane rfl (by decide) rfl rfl

theorem vcas (w : LaneWord) : Statement (.vcas w) :=
  of_lane rfl (by decide) rfl rfl

theorem vpref (w : LaneWord) : Statement (.vpref w) :=
  of_lane rfl (by decide) rfl rfl

theorem vfence (w : LaneWord) : Statement (.vfence w) :=
  of_lane rfl (by decide) rfl rfl

theorem vidot4 (w : LaneWord) : Statement (.vidot4 w) :=
  of_lane rfl (by decide) rfl rfl

theorem vidot8 (w : LaneWord) : Statement (.vidot8 w) :=
  of_lane rfl (by decide) rfl rfl

theorem vslice (w : LaneWord) : Statement (.vslice w) :=
  of_lane rfl (by decide) rfl rfl

theorem vslacc (w : LaneWord) : Statement (.vslacc w) :=
  of_lane rfl (by decide) rfl rfl

theorem vplane (w : LaneWord) : Statement (.vplane w) :=
  of_lane rfl (by decide) rfl rfl

theorem vext (op : BitVec 4) (w : LaneWord) : Statement (.vext op w) := by
  refine of_lane rfl (by have := op.isLt; omega) ?_ rfl
  have := op.isLt
  generalize hv : 240 + op.toNat = v
  have e1 : BitVec.ofNat 4 v = op := by
    apply BitVec.eq_of_toNat_eq
    simp only [BitVec.toNat_ofNat]
    omega
  unfold laneInstr
  split <;> first | omega | simp [e1]; omega

/-! ### Device steps have no encoding -/

theorem laneWordRetire (wave : Nat) : Statement (.laneWordRetire wave) :=
  of_none rfl

theorem windowSpill (wave : Nat) : Statement (.windowSpill wave) :=
  of_none rfl

theorem windowReload (wave : Nat) : Statement (.windowReload wave) :=
  of_none rfl

theorem boundaryTrapEntry (ctx : Nat) : Statement (.boundaryTrapEntry ctx) :=
  of_none rfl

theorem emulationComplete (a : Agent) : Statement (.emulationComplete a) :=
  of_none rfl

theorem icacheLineFill (cluster i : Nat) : Statement (.icacheLineFill cluster i) :=
  of_none rfl

theorem dcacheLineFill (cluster i : Nat) : Statement (.dcacheLineFill cluster i) :=
  of_none rfl

theorem tlbMissWalk (die i : Nat) : Statement (.tlbMissWalk die i) :=
  of_none rfl

theorem matrixStep (wg : Nat) : Statement (.matrixStep wg) :=
  of_none rfl

theorem mdrainExecute (wg : Nat) : Statement (.mdrainExecute wg) :=
  of_none rfl

theorem mclrExecute (wg : Nat) : Statement (.mclrExecute wg) :=
  of_none rfl

theorem copySegmentSend (wg wm : Nat) : Statement (.copySegmentSend wg wm) :=
  of_none rfl

theorem copyUnitCommit (wg wm : Nat) : Statement (.copyUnitCommit wg wm) :=
  of_none rfl

theorem copyPark (wg wm : Nat) : Statement (.copyPark wg wm) :=
  of_none rfl

theorem chainUnitReduce (comm : Nat) : Statement (.chainUnitReduce comm) :=
  of_none rfl

theorem nodeBatchTimer (ctxid node : Nat) : Statement (.nodeBatchTimer ctxid node) :=
  of_none rfl

theorem dispatchServe : Statement (.dispatchServe) :=
  of_none rfl

theorem workgroupStart (gang : Nat) : Statement (.workgroupStart gang) :=
  of_none rfl

theorem workgroupRetire (gang : Nat) : Statement (.workgroupRetire gang) :=
  of_none rfl

theorem gangSaveComplete (gang : Nat) : Statement (.gangSaveComplete gang) :=
  of_none rfl

theorem gangRestore (gang : Nat) : Statement (.gangRestore gang) :=
  of_none rfl

theorem createContext (h : CmdHead) (desc : Nat) : Statement (.createContext h desc) :=
  of_none rfl

theorem enableContext (h : CmdHead) : Statement (.enableContext h) :=
  of_none rfl

theorem suspendContext (h : CmdHead) : Statement (.suspendContext h) :=
  of_none rfl

theorem resumeContext (h : CmdHead) : Statement (.resumeContext h) :=
  of_none rfl

theorem destroyContext (h : CmdHead) : Statement (.destroyContext h) :=
  of_none rfl

theorem migrateBegin (h : CmdHead) (buf bytes : Nat) : Statement (.migrateBegin h buf bytes) :=
  of_none rfl

theorem migrateCommit (h : CmdHead) (buf bytes : Nat) (target : Bool) (root : Nat) :
    Statement (.migrateCommit h buf bytes target root) :=
  of_none rfl

theorem migrateAbort (h : CmdHead) : Statement (.migrateAbort h) :=
  of_none rfl

theorem createQueue (h : CmdHead) (q : Nat) (data : Bool) (ring entries floor dies : Nat) :
    Statement (.createQueue h q data ring entries floor dies) :=
  of_none rfl

theorem enableQueue (h : CmdHead) (q : Nat) : Statement (.enableQueue h q) :=
  of_none rfl

theorem stopQueue (h : CmdHead) (q : Nat) : Statement (.stopQueue h q) :=
  of_none rfl

theorem startQueue (h : CmdHead) (q : Nat) : Statement (.startQueue h q) :=
  of_none rfl

theorem destroyQueue (h : CmdHead) (q : Nat) : Statement (.destroyQueue h q) :=
  of_none rfl

theorem createNode (h : CmdHead) (node prio header size count timer pool : Nat) :
    Statement (.createNode h node prio header size count timer pool) :=
  of_none rfl

theorem destroyNode (h : CmdHead) (node : Nat) : Statement (.destroyNode h node) :=
  of_none rfl

theorem registerCode (h : CmdHead) (base bytes table : Nat) : Statement (.registerCode h base bytes table) :=
  of_none rfl

theorem deregisterCode (h : CmdHead) (base : Nat) : Statement (.deregisterCode h base) :=
  of_none rfl

theorem invalidate (h : CmdHead) (va bytes : Nat) : Statement (.invalidate h va bytes) :=
  of_none rfl

theorem answerFault (h : CmdHead) (seq : Nat) (fail : Bool) : Statement (.answerFault h seq fail) :=
  of_none rfl

theorem preEmptGang (h : CmdHead) (wgid : Nat) : Statement (.preEmptGang h wgid) :=
  of_none rfl

theorem resumeGang (h : CmdHead) (save : Nat) : Statement (.resumeGang h save) :=
  of_none rfl

theorem discardGang (h : CmdHead) (save : Nat) : Statement (.discardGang h save) :=
  of_none rfl

theorem createCommunicator (h : CmdHead) (ranks n groups sizes : Nat) :
    Statement (.createCommunicator h ranks n groups sizes) :=
  of_none rfl

theorem destroyCommunicator (h : CmdHead) (handle : Nat) : Statement (.destroyCommunicator h handle) :=
  of_none rfl

theorem writeBoundaryEntry (h : CmdHead) (cls num entry : Nat) (lo hi : Word) :
    Statement (.writeBoundaryEntry h cls num entry lo hi) :=
  of_none rfl

theorem readBoundaryEntry (h : CmdHead) (cls num entry : Nat) (dest : Nat) :
    Statement (.readBoundaryEntry h cls num entry dest) :=
  of_none rfl

theorem attest (h : CmdHead) (nonce buf bytes : Nat) : Statement (.attest h nonce buf bytes) :=
  of_none rfl

theorem bindFunction (h : CmdHead) (vf part : Nat) (bind : Bool) : Statement (.bindFunction h vf part bind) :=
  of_none rfl

theorem enableLink (h : CmdHead) (link part : Nat) : Statement (.enableLink h link part) :=
  of_none rfl

theorem setRoute (h : CmdHead) (package mask : Nat) : Statement (.setRoute h package mask) :=
  of_none rfl

theorem setPackageNumber (h : CmdHead) (num : Nat) : Statement (.setPackageNumber h num) :=
  of_none rfl

theorem readCouplingTable (h : CmdHead) (die dest : Nat) : Statement (.readCouplingTable h die dest) :=
  of_none rfl

theorem unknownCommand (h : CmdHead) (status : Nat) : Statement (.unknownCommand h status) :=
  of_none rfl

theorem commandComplete (part : Nat) : Statement (.commandComplete part) :=
  of_none rfl

theorem commandQueueEnable (func : Nat) : Statement (.commandQueueEnable func) :=
  of_none rfl

theorem eventQueueEnable (func : Nat) : Statement (.eventQueueEnable func) :=
  of_none rfl

theorem eventQueueRdidx (func : Nat) (v : W32) : Statement (.eventQueueRdidx func v) :=
  of_none rfl

theorem eventRingWrite (part : Nat) : Statement (.eventRingWrite part) :=
  of_none rfl

theorem doorbell (func : Nat) (v : Word) : Statement (.doorbell func v) :=
  of_none rfl

theorem harnessMapWrite (func : Nat) (v : W32) : Statement (.harnessMapWrite func v) :=
  of_none rfl

theorem packageLimitWrite (func : Nat) (v : Word) : Statement (.packageLimitWrite func v) :=
  of_none rfl

theorem domainControlWrite (func reg : Nat) (v : Word) : Statement (.domainControlWrite func reg v) :=
  of_none rfl

theorem registerWrite (func off bytes : Nat) (v : Word) : Statement (.registerWrite func off bytes v) :=
  of_none rfl

theorem hostBar2Access (func : Nat) (a : HostAcc) : Statement (.hostBar2Access func a) :=
  of_none rfl

theorem hostCompletion (a : Agent) (ok : Bool) : Statement (.hostCompletion a ok) :=
  of_none rfl

theorem linkFlitReceive (link seq : Nat) (good : Bool) : Statement (.linkFlitReceive link seq good) :=
  of_none rfl

theorem remoteRequest (link package : Nat) (a : HostAcc) : Statement (.remoteRequest link package a) :=
  of_none rfl

theorem linkTrained (link : Nat) : Statement (.linkTrained link) :=
  of_none rfl

theorem linkTrainingTimeout (link : Nat) : Statement (.linkTrainingTimeout link) :=
  of_none rfl

theorem linkRetrain (link : Nat) : Statement (.linkRetrain link) :=
  of_none rfl

theorem linkRetrainEnd (link : Nat) (ok : Bool) : Statement (.linkRetrainEnd link ok) :=
  of_none rfl

theorem deviceReset : Statement (.deviceReset) :=
  of_none rfl

theorem correctedError (vault row : Nat) : Statement (.correctedError vault row) :=
  of_none rfl

theorem rowRemapDone (vault row : Nat) : Statement (.rowRemapDone vault row) :=
  of_none rfl

theorem uncorrectableError (t : PoisonTarget) : Statement (.uncorrectableError t) :=
  of_none rfl

theorem spareSubstitution (cluster : Nat) : Statement (.spareSubstitution cluster) :=
  of_none rfl

theorem vaultSensorSample (vault : Nat) (temp : Int) : Statement (.vaultSensorSample vault temp) :=
  of_none rfl

theorem overheatGateCheck (cluster : Nat) : Statement (.overheatGateCheck cluster) :=
  of_none rfl

theorem currentAlarm (reg : Nat) (level : Bool) : Statement (.currentAlarm reg level) :=
  of_none rfl

theorem currentAlarmSample (reg : Nat) : Statement (.currentAlarmSample reg) :=
  of_none rfl

theorem passCountStepDown (reg : Nat) : Statement (.passCountStepDown reg) :=
  of_none rfl

theorem powerWindowEnd (domain cluster : Nat) : Statement (.powerWindowEnd domain cluster) :=
  of_none rfl

theorem weightRefit (shunt : Nat) : Statement (.weightRefit shunt) :=
  of_none rfl

theorem idleGate (cluster : Nat) : Statement (.idleGate cluster) :=
  of_none rfl

theorem clusterWake (cluster : Nat) : Statement (.clusterWake cluster) :=
  of_none rfl

theorem frequencyTransition (reg point : Nat) : Statement (.frequencyTransition reg point) :=
  of_none rfl

theorem frequencyPauseEnd (reg : Nat) : Statement (.frequencyPauseEnd reg) :=
  of_none rfl

theorem dieToDiePortFailure (d1 d2 : Nat) : Statement (.dieToDiePortFailure d1 d2) :=
  of_none rfl

theorem remoteCompletion (a : Agent) (ok : Bool) : Statement (.remoteCompletion a ok) :=
  of_none rfl

theorem loftLineFill (cluster i : Nat) : Statement (.loftLineFill cluster i) :=
  of_none rfl

theorem scalarAccessComplete (ctx : Nat) : Statement (.scalarAccessComplete ctx) :=
  of_none rfl

end Sys2Proof.Laws.RoundTrip
end

