-- ==== Sys2Proof/Safety.lean ====
section
/-! DEFINITION. What the statements call safe: a step that completes, the invariant of the machine's data, and runs. -/
namespace Sys2Proof.Machine

/-- The instruction or the step completes: it answers a next state. -/
def Completes (r : Result) : Prop := ∃ t, r = .next t

/-- The tables have the sizes of the hardware (R6, R7, R12, Table 1.1, Table 1.2, R400, R411, R415). -/
abbrev State.sized (s : State) : Prop :=
  s.ctxs.length = 512 ∧ s.waves.length = 1024 ∧ s.clusters.length = 32 ∧ s.dies.length = 4 ∧ s.vaults.length = 128 ∧
    s.regs.length = 4 ∧ s.parts.length = 16 ∧ s.links.length = 16

/-- Memory, vector registers and accumulators are in their canonical form: keys strictly rising, no entry that reads as an
unlisted one does (log entry 3). -/
abbrev State.canonical (s : State) : Prop :=
  Memory.wf s.mem = true ∧ sparseWf 0 s.vregs = true ∧ sparseWf 0 s.accs = true

/-- The invariant of the machine's data. -/
abbrev State.Inv (s : State) : Prop := s.sized ∧ s.canonical

/-- Runs of n steps that neither fault nor refuse. -/
inductive Runs : Nat → State → State → Prop
  | refl (s : State) : Runs 0 s s
  | step {n : Nat} {s t u : State} : Machine.step s = .next t → Runs n t u → Runs (n + 1) s u

/-- A safe step: it does not end in a fault or a refusal. -/
def SafeAt (s : State) : Prop := Completes (Machine.step s)

/-! ### Frames -/

/-- The parts of a state; `mem` is memory with what the agents may still read of its past. -/
inductive Field
  | agenda | cur | dev | mem | badDram | badSram | badRegs | badAccs | vregs | accs | ctxs | waves | clusters | dies
  | vaults | regs | parts | links | wgs | gangs | launches | devs
  deriving DecidableEq, Repr

/-- Every part of the state that is not in F stays as it was. -/
def SameBut (F : List Field) (s t : State) : Prop :=
  (.agenda ∈ F ∨ t.agenda = s.agenda) ∧
    (.cur ∈ F ∨ (t.curCtx = s.curCtx ∧ t.curWave = s.curWave)) ∧
    (.dev ∈ F ∨ t.dev = s.dev) ∧
    (.mem ∈ F ∨ (t.mem = s.mem ∧ t.vis = s.vis)) ∧
    (.badDram ∈ F ∨ t.badDram = s.badDram) ∧
    (.badSram ∈ F ∨ t.badSram = s.badSram) ∧
    (.badRegs ∈ F ∨ t.badRegs = s.badRegs) ∧
    (.badAccs ∈ F ∨ t.badAccs = s.badAccs) ∧
    (.vregs ∈ F ∨ t.vregs = s.vregs) ∧
    (.accs ∈ F ∨ t.accs = s.accs) ∧
    (.ctxs ∈ F ∨ t.ctxs = s.ctxs) ∧
    (.waves ∈ F ∨ t.waves = s.waves) ∧
    (.clusters ∈ F ∨ t.clusters = s.clusters) ∧
    (.dies ∈ F ∨ t.dies = s.dies) ∧
    (.vaults ∈ F ∨ t.vaults = s.vaults) ∧
    (.regs ∈ F ∨ t.regs = s.regs) ∧
    (.parts ∈ F ∨ t.parts = s.parts) ∧
    (.links ∈ F ∨ t.links = s.links) ∧
    (.wgs ∈ F ∨ t.wgs = s.wgs) ∧
    (.gangs ∈ F ∨ t.gangs = s.gangs) ∧
    (.launches ∈ F ∨ t.launches = s.launches) ∧
    (.devs ∈ F ∨ t.devs = s.devs)

/-- What a program answers, and the state it leaves. -/
def Answer {α : Type} (a : Act α) (s : State) : α := (a s []).1
def Leaves {α : Type} (a : Act α) (s : State) : State := applyAll s (a s []).2.reverse

/-! ### Words of no instruction -/

/-- A generator word that Table 2.3 or 2.4 gives to no instruction: a reserved op6 or function, or a field that must be zero (R32, R36,
R37). -/
def ReservedGen (w : Nat) : Prop :=
  let d := bits w 11 7
  let a := bits w 16 12
  let b := bits w 21 17
  let fn := bits w 31 22
  let fn3 := bits w 19 17
  let imm := bits w 31 20
  match bits w 6 1 with
  | 0x00 => 6 ≤ fn ∨ fn ≠ 2 ∧ b ≠ 0 ∨ fn ≠ 4 ∧ (a ≠ 0 ∨ d ≠ 0) ∨ fn = 4 ∧ 4 ≤ a
  | 0x01 => 28 ≤ fn ∨ 22 ≤ fn ∧ fn ≤ 24 ∧ b ≠ 0
  | 0x02 | 0x03 | 0x04 | 0x05 | 0x0F => fn3 ≠ 0
  | 0x06 => 3 ≤ fn3 ∨ 64 ≤ imm
  | 0x07 => 3 ≤ fn3
  | 0x0A => fn3 = 7
  | 0x0B => 4 ≤ fn3
  | 0x0C => 13 ≤ fn % 16 ∨ 6 ≤ fn / 64 % 8
  | 0x0D => 6 ≤ fn3
  | 0x10 => imm % 32 ≠ 0 ∨ 768 < imm ∨ d ≠ 0 ∨ a ≠ 0 ∨ fn3 ≠ 0
  | 0x11 | 0x14 => d ≠ 0 ∨ a ≠ 0 ∨ b ≠ 0 ∨ fn ≠ 0
  | 0x12 => d ≠ 0 ∨ fn ≠ 0
  | 0x13 | 0x15 => 64 ≤ imm ∨ d ≠ 0 ∨ a ≠ 0 ∨ fn3 ≠ 0
  | 0x16 | 0x17 => 8 ≤ d ∨ imm ≠ 0 ∨ fn3 ≠ 0
  | 0x18 => 64 ≤ imm ∨ d ≠ 0 ∨ fn3 ≠ 0
  | 0x19 => a ≠ 0 ∨ b ≠ 0 ∨ fn ≠ 0
  | 0x1A => fn3 ≠ 0 ∨ a ≠ 0 ∨ d ≠ 0 ∨ 512 ≤ imm ∨ 6 ≤ imm % 8
  | 0x1B => 3 ≤ fn3 ∨ imm / 16 % 4 = 3 ∨ 128 ≤ imm ∨ fn3 = 0 ∧ 64 ≤ imm ∨ a ≠ 0 ∨ d ≠ 0
  | 0x1C => 4 ≤ fn3 ∨ 64 ≤ imm ∨ fn3 ≠ 1 ∧ (16 ≤ imm ∨ a ≠ 0) ∨ fn3 ≠ 0 ∧ d ≠ 0
  | 0x1D => imm ≠ 0 ∨ 16 ≤ d
  | 0x1E => imm ≠ 0 ∨ 16 ≤ a
  | 0x1F => 2 ≤ fn3 ∨ d ≠ 0 ∨ fn3 = 0 ∧ (8 ≤ imm ∨ a ≠ 0) ∨ fn3 = 1 ∧ imm ≠ 0
  | 0x20 => 4 ≤ fn3 ∨ 256 ≤ imm
  | 0x21 => 2 ≤ fn3 ∨ d ≠ 0
  | 0x22 => 2 ≤ fn3 ∨ fn3 = 0 ∧ a ≠ 0 ∨ fn3 = 1 ∧ d ≠ 0 ∨ specialRegs.contains imm = false
  | op => 0x23 ≤ op ∧ op ≤ 0x37

/-- A long word of no instruction: a reserved op6, or a bit that Table 2.13 leaves at zero (R32, R61, R62). -/
def ReservedLong (w : Nat) : Prop :=
  match bits w 7 2 with
  | 0 => bits w 63 13 ≠ 0
  | 1 => bits w 127 112 ≠ 0 ∨ bits w 31 25 ≠ 0
  | 2 => bits w 127 28 ≠ 0
  | 3 => bits w 127 31 ≠ 0
  | 4 => bits w 127 25 ≠ 0
  | 5 => bits w 127 32 ≠ 0
  | _ => True

/-! ### What a read may return -/

/-- The values that R258 and R264 let an access read from these bytes: the newest, or the one before any run of newest writes that its
agent has neither read or written after there nor had made visible to it. -/
def State.mayRead (s : State) (a : Actor) (locs : List Nat) (v : Nat) : Prop :=
  ∃ n, v = leNat (locs.map fun l => undo ((s.vis.past a locs).take n) l (s.byte l))

/-- A byte that an access has written with value b: it holds b, or another agent's write that the access may go under (R258) stands over it. -/
def State.wroteOrUnder (s t : State) (a : Actor) (locs : List Nat) (l : Nat) (b : Byte) : Prop :=
  t.byte l = b ∨ s.vis.picks ≠ [] ∧ t.byte l = s.byte l ∧
    ∃ w ∈ s.vis.writes, w.touches [l] = true ∧ w.binds a locs = false ∧ w.known a.known = false

/-- What a request to host memory or to another package leaves behind on the device and its links (R414, R417). -/
def AsksFar (s t : State) : Prop :=
  t.dev = { s.dev with requester := t.dev.requester } ∧ ∀ l, t.link l = { s.link l with sent := (t.link l).sent }

/-! ### What a generator word does to its context -/

/-- The context whose word runs, and that it exists. -/
def State.cur (s : State) : Context := s.ctx s.curCtx
abbrev Acting (s : State) : Prop := s.curCtx < s.ctxs.length

/-- Only context k changes: every other context, and every other part of the state, memory among them, stays. -/
def OnlyCtx (k : Nat) (s t : State) : Prop :=
  SameBut [.ctxs] s t ∧ (∀ j, j ≠ k → t.ctx j = s.ctx j) ∧ ∀ a, t.byte a = s.byte a

/-- The scalar registers but d are as they were, in the user's registers and in the handler's bank (R141). -/
def KeepsRegs (d : Reg) (c c' : Context) : Prop :=
  (∀ r, r ≠ d → c'.rd r = c.rd r) ∧
    (∀ n, n ≠ d.toNat ∨ c.inBank d.toNat = true → c'.s.getD n 0 = c.s.getD n 0) ∧
    ∀ n, n + 24 ≠ d.toNat ∨ c.inBank d.toNat = false → c'.bank.getD n 0 = c.bank.getD n 0

/-- c' is c after register d has received v and the PC has become pc; s0 stays zero. -/
def WroteReg (d : Reg) (v pc : Word) (c c' : Context) : Prop :=
  c'.rd d = (if d = 0 then 0 else v) ∧ KeepsRegs d c c' ∧
    c' = { c with s := c'.s, bank := c'.bank, pc := pc, status := .running, waits := none }

/-- The word completes: d receives v, the PC becomes pc, and nothing else changes. -/
def WritesTo (s : State) (d : Reg) (v pc : Word) (r : Result) : Prop :=
  ∃ t, r = .next t ∧ OnlyCtx s.curCtx s t ∧ WroteReg d v pc s.cur t.cur

/-- The word completes: the acting context becomes c, and nothing else changes. -/
def Becomes (s : State) (c : Context) (r : Result) : Prop :=
  ∃ t, r = .next t ∧ OnlyCtx s.curCtx s t ∧ t.cur = c

/-- The context has stepped over a word of n bytes. -/
def stepped (n : Nat) (c : Context) : Context := { c with pc := c.pc + BitVec.ofNat 64 n, status := .running, waits := none }

/-- An engine command has left the context (R266, R271): memory is as it was, and the context's accesses and what happens before its latest
one happen before those of the command; with acquire, so does all that happens before its next accesses. -/
def Issues (s t : State) (cmd : MemAgent) (acquire : Bool) : Prop :=
  let me := s.ctxAgent s.curCtx
  t.mem = s.mem ∧ ∀ x ∈ t.vis.writes,
    x.agent = me ∨ (if acquire = true then x.before me = true else x.known (accessCarrier me) = true) → x.before cmd = true

/-! ### Emission -/

/-- Emission refuses the words at the PC: the first check of Table 2.14 that fails is number n or one before it, and the trap names it. -/
def Refused (s : State) (w : Word) (next : Option Word) (n : Nat) : Prop :=
  ∃ m info, 3 ≤ m ∧ m ≤ n ∧ exec (.emitLaneWord w next) s =
    commit (trapNow (.of (if m ≤ 9 then 2 else if m = 10 then 3 else 13) w info (BitVec.ofNat 64 m))) s

/-- The operand slots of a word: each with the kinds and the width its instruction gives it, and the value that its field holds. -/
def Emitted.operands (e : Emitted) : List (Slot × Nat) := ((formOf e.op e.w).slots.zip (laneFields e.w)).filter (·.1.kind ≠ .m)

/-- What travels with the three source fields (R43, R222): the value of a scalar register, or of a hole. -/
def Carries (sval hval : Nat → Word) (e : Emitted) (x : StreamWord) : Prop :=
  let f := formOf e.op e.w
  let carries (sl : Slot) (code : Nat) (pay : Word) : Prop :=
    sl.kind ≠ .m → (∀ n < 32, code = 800 + n → pay = sval n) ∧ ∀ n < 8, code = 788 + n → pay = hval n
  carries f.a e.w.srcA.toNat x.payA ∧ carries f.b e.w.srcB.toNat x.payB ∧ carries f.c e.w.srcC.toNat x.payC

/-- A word that context c emits now, as a wave receives it: its bits, and what it takes along of the emitter. -/
def Received (c : Context) (k : Nat) (e : Emitted) (x : StreamWord) : Prop :=
  x.word = BitVec.ofNat 64 e.raw ∧ x.emitter = k ∧ x.xctl = c.xctl ∧ x.compat = c.compat ∧ x.base = c.win.base ∧
    x.handler = (c.mode == .handler) ∧ Carries (fun n => c.rd (BitVec.ofNat 5 n)) (fun h => (c.em.binds.getD h Binding.zero).base) e x

/-! ### What a lane word does -/

/-- The word w of operation op8 `op` stands at the head of the acting wave and can issue: no source holds poison, it and the first half
that waits for it answer no vote, count or barrier, and it is not the first word of a stream that an ERET has resumed. The second half of a
pair has P = 0. -/
def LaneHead (s : State) (op : Nat) (w : LaneWord) (i : LaneIn) : Prop :=
  s.curWave < s.waves.length ∧ s.canonical ∧ s.laneAt op w = true ∧
    (∃ x, (s.wave s.curWave).head = some x ∧ i = s.laneIn s.curWave x) ∧ i.poisonLanes = 0 ∧ (i.w.half = none ∨ w.p = false) ∧
    (∀ f, i.w.half = some f → f.entry.vote = none ∧ f.entry.counted = none ∧ f.entry.bar = none) ∧
    i.x.vote = none ∧ i.x.counted = none ∧ i.x.bar = none ∧ 4 ≤ i.w.width ∧ i.w.after = none

/-- The same for a word that is no half of a pair, with nothing of its wave in flight. -/
def LaneAlone (s : State) (op : Nat) (w : LaneWord) (i : LaneIn) : Prop :=
  LaneHead s op w i ∧ i.w.flight = [] ∧ i.w.half = none ∧ w.p = false

/-- The acting wave after its head has issued: the word is gone from its buffer. A first half leaves the open chain, and what the wave keeps
for its head, as they were. -/
def Wave.popped (w : Wave) (i : LaneIn) : Wave :=
  { w with
    stream := if i.x.handler then w.stream else w.stream.tail, hbuf := if i.x.handler then w.hbuf.tail else w.hbuf
    chain := if i.lw.p || i.x.handler then w.chain else i.lw.c, hchain := if !i.lw.p && i.x.handler then i.lw.c else w.hchain
    failed := if i.lw.p then w.failed else w.failed.filter (·.1 != i.x.handler)
    reply := if i.lw.p then w.reply else w.reply.filter (·.1 != i.x.handler) }

/-- The wave with what the waiting first half of a pair writes: its latch entry lies before the second half's (R53, R57). -/
def Wave.withHalf (w : Wave) : Wave :=
  match w.half with
  | some f => w.write f.result f.entry.handler
  | none => w

/-- The key of register dst + r of a word in a lane, and whether the word writes it. -/
def LaneIn.dstKey (i : LaneIn) (r l : Nat) : Nat := regKey i.cluster i.w i.x.base (i.lw.dst.toNat + r) l
def LaneIn.writesLane (i : LaneIn) (o : LaneOut) (r l : Nat) : Prop :=
  l < 64 ∧ i.on l = true ∧ r < o.width / 32 ∧ writesVec i.op i.lw = true ∧ i.lw.s = false

/-- Of the workgroups only that of the wave changes, in the mark of its wave that issued last (R173). -/
def MarksIssue (s t : State) (i : LaneIn) : Prop :=
  t.wgs = s.wgs.modify i.w.wg fun x => { x with lastWix := some i.w.wix }

/-- A word that has issued and retired in one step, behind the first half of its pair where one waits: its registers, predicates, flags and
latch entry. -/
def LaneDone (s t : State) (i : LaneIn) (o : LaneOut) : Prop :=
  let w' := t.wave s.curWave
  let b := i.w.withHalf
  let first : List (Nat × W32) := match i.w.half with
    | some f => f.result.regs
    | none => []
  SameBut [.dev, .vregs, .badRegs, .waves, .clusters, .wgs] s t ∧ (∀ u, u ≠ s.curWave → t.wave u = s.wave u) ∧
    MarksIssue s t i ∧
    w' = { i.w.popped i with
      half := none, preds := w'.preds, badPreds := w'.badPreds, wxf := w'.wxf, latch := w'.latch, hlatch := w'.hlatch } ∧
    (∀ r l, i.writesLane o r l → sparseGet t.vregs (i.dstKey r l) = BitVec.ofNat 32 (o.vals l / 2 ^ (32 * r))) ∧
    (∀ p ∈ first, (∀ q ∈ first, q.1 = p.1 → q = p) → (∀ r l, i.writesLane o r l → p.1 ≠ i.dstKey r l) → sparseGet t.vregs p.1 = p.2) ∧
    (∀ key, (∀ r l, i.writesLane o r l → key ≠ i.dstKey r l) → (∀ p ∈ first, p.1 ≠ key) →
      sparseGet t.vregs key = sparseGet s.vregs key) ∧
    (o.preds = [] → w'.preds = b.preds) ∧
    (∀ k f, o.preds = [(k, f)] →
      (∀ l, l < 64 → (w'.preds.getD k 0).getLsbD l = if i.on l then f l else (b.preds.getD k 0).getLsbD l) ∧
        ∀ j, j ≠ k → w'.preds.getD j 0 = b.preds.getD j 0) ∧
    (∀ n, w'.wxf.getLsbD n = (b.wxf.getLsbD n || (List.range 64).any fun l => i.on l && (o.flags l).getLsbD n)) ∧
    ∃ e : Latch, e.kind = latchKindOf i.op i.lw ∧
      (o.width ≠ 0 → ∀ l, l < 64 → e.vals.getD l 0 = if i.on l then BitVec.ofNat 64 (o.vals l) else 0) ∧
      if i.x.handler then w'.latch = b.latch ∧ w'.hlatch = (e :: b.hlatch).take 4
      else w'.latch = (e :: b.latch).take 4 ∧ w'.hlatch = b.hlatch

/-- The trap that a word and the first half of its pair raise together (R108). -/
def LaneIn.trapOf (i : LaneIn) (own : Option TrapRecord) : Option TrapRecord := pairTrap (i.w.half.bind (·.trap)) own

/-- A word that has issued and not retired, with result r and trap `own`. A first half waits for the second, and its results with it (R53,
R57). Else what it will write stands in flight behind the words before it and the first half of its pair, and the trap of the two retires
with it (R108). -/
def LaneFlies (s t : State) (i : LaneIn) (r : WordResult) (own : Option TrapRecord) : Prop :=
  let first : List Flight := match i.w.half with
    | some f => [{ f with trap := none }]
    | none => []
  (∀ u, u ≠ s.curWave → t.wave u = s.wave u) ∧ MarksIssue s t i ∧
    ∃ f : Flight, f.entry = i.x ∧ f.unit = i.unit ∧ f.result = r ∧
      if i.lw.p then t.wave s.curWave = { i.w.popped i with half := some f } ∧ f.trap = own
      else t.wave s.curWave = { i.w.popped i with half := none, flight := joinFlight i.w.flight (first ++ [f]) } ∧ f.trap = i.trapOf own

/-- The stream of wave v stops, and its owner is owed the trap (R108, R134); an owner that has executed END halts at once (R434), but after a
pause (R168). -/
def Stops (s t : State) (v : Nat) (r : TrapRecord) : Prop :=
  let k := (s.wave v).owner
  let c := s.ctx k
  SameBut [.ctxs, .waves, .parts, .gangs, .wgs] s t ∧ (∀ u, u ≠ v → t.wave u = s.wave u) ∧
    t.wave v = { s.wave v with status := .stopped, stopSeq := (t.wave v).stopSeq } ∧ (∀ j, j ≠ k → t.ctx j = s.ctx j) ∧
    (k < s.ctxs.length → c.status ≠ .ended ∨ s.pausing (k / 16) = true →
      t.ctx k = { c with pending := c.pending ++ [{ record := r, seq := c.evSeq, wave := some v }], evSeq := c.evSeq + 1 }) ∧
    (k < s.ctxs.length → c.status = .ended → s.pausing (k / 16) = false →
      (t.ctx k).status = .halted ∧ (t.ctx k).trap.cause = causeWord r.cause true ∧ (t.ctx k).trap.info0 = r.info0 ∧
        (t.ctx k).trap.info1 = r.info1 ∧ (t.ctx k).trap.info2 = r.info2 ∧ (t.ctx k).trap.info3 = r.info3)

/-- The word issues, and does what `o` says. Where it or the first half of its pair raised an enabled event, the stream stops behind the
writes. -/
def LaneActs (s : State) (i : LaneIn) (o : LaneOut) (r : Result) : Prop :=
  let own := i.arith o (i.result o)
  ∃ t, r = .next t ∧
    if i.lw.p = false ∧ i.w.flight = [] ∧ i.unit = .alu ∧ ∀ f ∈ i.w.half, f.unit = .alu then
      match i.trapOf own with
      | none => LaneDone s t i o
      | some rec => ∃ u, LaneDone s u i o ∧ Stops u t s.curWave rec
    else SameBut [.dev, .waves, .clusters, .wgs] s t ∧ LaneFlies s t i (i.result o) own

/-- A word that writes `width` bits in each active lane: the value and the flags that P says. -/
def LaneGives (s : State) (op : Nat) (w : LaneWord) (r : Result) (width : LaneIn → Nat) (P : LaneIn → Nat → Nat → Flags → Prop) :
    Prop :=
  ∀ i, LaneHead s op w i → ∃ o : LaneOut, o.width = width i ∧ o.preds = [] ∧
    (∀ l, l < 64 → i.on l = true → P i l (o.vals l) (o.flags l)) ∧ LaneActs s i o r

/-- A word that writes a predicate, named by dst, in each active lane; none when dst is 798. -/
def LaneTells (s : State) (op : Nat) (w : LaneWord) (r : Result) (P : LaneIn → Nat → Bool → Flags → Prop) : Prop :=
  ∀ i, LaneHead s op w i → ∃ (o : LaneOut) (f : Nat → Bool), o.width = 0 ∧
    o.preds = (if 773 ≤ w.dst.toNat ∧ w.dst.toNat ≤ 787 then [(w.dst.toNat - 772, f)] else []) ∧
    (∀ l, l < 64 → i.on l = true → P i l (f l) (o.flags l)) ∧ LaneActs s i o r

/-- An element as a number: signed, or unsigned. -/
def elemVal {n : Nat} (uns : Bool) (x : BitVec n) : Int := if uns then x.toNat else x.toInt
/-- The range of an element. -/
def elemMin (n : Nat) (uns : Bool) : Int := if uns then 0 else -2 ^ (n - 1)
def elemMax (n : Nat) (uns : Bool) : Int := if uns then 2 ^ n - 1 else 2 ^ (n - 1) - 1
/-- Element j of width n of a value. -/
def elemOf (n x j : Nat) : BitVec n := BitVec.ofNat n (x / 2 ^ (n * j))

/-! ### Scans and reductions -/

/-- Two nodes of R111 combined by F, with the flags of both; a node without an active lane passes the other on. -/
def joined (F : Nat → Nat → FRes) : Option FRes → Option FRes → Option FRes
  | some x, some y => some ((F x.1 y.1).1, x.2 ||| y.2 ||| (F x.1 y.1).2)
  | some x, none => some x
  | none, y => y

/-- The tree of R111: node n lo combines the 2^n lanes from lo, the lower half first. -/
def LaneTree (F : Nat → Nat → FRes) (leaf : Nat → Option FRes) (node : Nat → Nat → Option FRes) : Prop :=
  (∀ lo, node 0 lo = leaf lo) ∧ ∀ n lo, node (n + 1) lo = joined F (node n lo) (node n (lo + 2 ^ n))

/-- The greedy split of lanes p to j (R112): each block (start, level) is the largest that starts at a multiple of its size and ends at or
before j. -/
def ScanBlocks : Nat → Nat → List (Nat × Nat) → Prop
  | p, j, [] => p = j + 1
  | p, j, b :: r => b.1 = p ∧ p % 2 ^ b.2 = 0 ∧ p + 2 ^ b.2 ≤ j + 1 ∧ ¬ (p % 2 ^ (b.2 + 1) = 0 ∧ p + 2 ^ (b.2 + 1) ≤ j + 1) ∧
      ScanBlocks (p + 2 ^ b.2) j r

/-! ### Floating results -/

/-- The exact value of a finite number. -/
def FVal.rat : FVal → ℚ
  | .fin n m e => (if n then -1 else 1) * (m : ℚ) * (2 : ℚ) ^ e
  | _ => 0
def FVal.Finite (v : FVal) : Prop := ∃ n m e, v = .fin n m e
/-- a lies below b, among the finite numbers and the infinities. -/
def FVal.Below : FVal → FVal → Prop
  | .inf n, .inf k => n = true ∧ k = false
  | .inf n, _ => n = true
  | _, .inf k => k = false
  | a, b => a.rat < b.rat

/-- r is the magnitude q with sign neg, formed exactly and rounded once (R93). -/
def Fmt.Rounds (f : Fmt) (mode : Rounding) (neg : Bool) (q : ℚ) (r : FRes) : Prop :=
  ∃ (m : Nat) (e : Int) (st : Bool), (m : ℚ) * 2 ^ e ≤ q ∧ q < (m + 1) * 2 ^ e ∧ st = decide (q ≠ m * 2 ^ e) ∧
    (st = true → 2 ^ (f.mb + 2) ≤ m) ∧ r = f.round mode neg m e st
/-- r is the sum q of terms of signs na and nb: a zero sum keeps their common sign, and else is -0 in rd alone (R97). -/
def Fmt.SumRounds (f : Fmt) (mode : Rounding) (na nb : Bool) (q : ℚ) (r : FRes) : Prop :=
  f.Rounds mode (if q = 0 then if na = nb then na else mode == .rd else decide (q < 0)) |q| r

/-- r is the NaN that these operands give (R98, R99): at level 1 the first of them made quiet, at level 0 the default one (Table 4.8); a
signalling operand raises NV and SNC. -/
def Fmt.NanOf (f : Fmt) (level1 : Bool) (vs : List FVal) (r : FRes) : Prop :=
  ∃ pre neg sg frac post, vs = pre ++ .nan neg sg frac :: post ∧ (∀ v ∈ pre, v.isNan = false) ∧
    r.1 = (if level1 then f.sign neg + f.expOnes * 2 ^ f.mb + (if f.ieee then frac ||| 2 ^ (f.mb - 1) else 2 ^ f.mb - 1) else f.nan) ∧
    r.2 = if vs.any FVal.isSignalling then 0x21 else 0

/-! ### The start, the save and the restore of a gang -/

/-- The global offset table base of a kernel whose header stands at a (R338): that of the first entry of the code table that holds a; 0 where
none does. -/
def TableBase (code : List (Option (Nat × Nat × Nat))) (a v : Nat) : Prop :=
  let holds (x : Option (Nat × Nat × Nat)) : Prop := ∃ b n t, x = some (b, n, t) ∧ b ≤ a ∧ a < b + n
  (∃ before b n after, code = before ++ some (b, n, v) :: after ∧ b ≤ a ∧ a < b + n ∧ ∀ x ∈ before, ¬ holds x) ∨
    ((∀ x ∈ code, ¬ holds x) ∧ v = 0)

/-- Context c is that of role r, with header entry e, of workgroup m at its start (R141, R151, R212, R347). -/
def RoleStarts (d : DevCtx) (w : Workgroup) (m r : Nat) (e : RoleEntry) (c : Context) : Prop :=
  c.status = .running ∧ c.mode = .user ∧ c.ctxid = w.ctxid ∧ c.wg = m ∧ c.role = r ∧ c.rights = e.rights ∧ c.nwaves = e.waves ∧
    c.width = e.width ∧ c.pc = BitVec.ofNat 64 (w.header.addr + e.entry) ∧
    c.rd 2 = (if d.desc.stackBytes = 0 then 0
      else BitVec.ofNat 64 (d.desc.stackBase + (w.stackIx.getD r 0 + 1) * d.desc.stackBytes)) ∧
    (∃ v, TableBase d.code w.header.addr v ∧ c.rd 3 = BitVec.ofNat 64 v) ∧ c.rd 4 = w.arg ∧
    (∀ n, n ≠ 2 → n ≠ 3 → n ≠ 4 → c.rd n = 0) ∧ (∀ n, c.bank.getD n 0 = 0) ∧ c.xctl = w.header.traps ∧ c.compat = w.header.compat ∧
    c.wsel = 0 ∧ c.trap = ⟨0, 0, 0, 0, 0, 0, 0⟩ ∧ c.win.base = 0 ∧ c.win.frame = 0 ∧ c.win.lo = 0 ∧ c.win.stack = [] ∧
    c.em.target.mask = BitVec.ofNat 64 (2 ^ e.waves - 1) ∧ c.em.target.grp = 0 ∧
    (∀ h, (c.em.binds.getD h Binding.zero).base = 0 ∧ (c.em.binds.getD h Binding.zero).step = 0) ∧ c.em.capOpen = false ∧
    c.em.seq.busy = false ∧ c.em.votes = [] ∧ c.issued = 0 ∧ c.counted = [] ∧ c.pending = []

/-- Wave v is wave i of role r, and wave j of workgroup m, at its start in the registers of `old` (R171, R347, R348). -/
def WaveStarts (w : Workgroup) (m r i j : Nat) (old v : Wave) : Prop :=
  v.status = .live ∧ v.wg = m ∧ v.wix = j ∧ v.rix = i ∧ v.owner = w.ctxs.getD r 0 ∧ v.phys = old.phys ∧ v.width = old.width ∧
    v.bw = BitVec.ofNat 64 (w.privAt.getD j 0) ∧ v.preds.getD 0 0 = BitVec.allOnes 64 ∧ (∀ n, n ≠ 0 → v.preds.getD n 0 = 0) ∧
    v.wxf = 0 ∧ v.ssn = 0 ∧ v.latch = [] ∧ v.hlatch = [] ∧ v.stream = [] ∧ v.hbuf = [] ∧ v.flight = [] ∧ v.half = none

/-- The n bytes at offset `off` of an area hold the value v. -/
def AreaHolds (sections : List (Nat × List Byte)) (off n v : Nat) : Prop :=
  ∃ sec ∈ sections, ∃ k, off = sec.1 + k ∧ k + n ≤ sec.2.length ∧ leNat ((sec.2.drop k).take n) = v

/-- What stands in the save area of workgroup m (Tables 15.7, 15.8, 15.10 and 15.11): the header, the contexts, the waves with their
registers, the accumulators and the scratchpad. -/
def AreaImage (s : State) (m : Nat) (sections : List (Nat × List Byte)) : Prop :=
  let w := s.wg m
  let h := w.header
  let holds := AreaHolds sections
  holds 0x10 8 (h.addr % 2 ^ 64) ∧ holds 0x18 4 (w.wgid % 2 ^ 32) ∧ holds 0x28 8 (s.dev.time % 2 ^ 64) ∧ holds 0x30 8 w.mseq.toNat ∧
    (∀ r k, w.ctxs[r]? = some k →
      let c := s.ctx k
      let o := 0x1000 + 4096 * r
      holds o 8 (match c.status with
          | .ended => 3
          | .halted => 4
          | _ => if c.mode = .handler then 2 else 1) ∧
        holds (o + 8) 8 c.pc.toNat ∧ (∀ i < 31, holds (o + 0x10 + 8 * i) 8 (c.s.getD (i + 1) 0).toNat) ∧
        (∀ i < 8, holds (o + 0x108 + 8 * i) 8 (c.bank.getD i 0).toNat) ∧ holds (o + 0x148) 8 c.xctl.toNat ∧
        holds (o + 0x150) 8 (if c.compat = true then 1 else 0) ∧ holds (o + 0x158) 8 c.wsel.toNat ∧
        holds (o + 0x160) 8 c.trap.cause.toNat ∧ holds (o + 0x168) 8 c.trap.pc.toNat ∧ holds (o + 0x170) 8 c.trap.info0.toNat ∧
        holds (o + 0x178) 8 c.trap.info1.toNat ∧ holds (o + 0x180) 8 c.trap.info2.toNat ∧ holds (o + 0x188) 8 c.trap.info3.toNat ∧
        holds (o + 0x190) 8 c.trap.epc.toNat ∧ holds (o + 0x1A0) 4 (c.win.base % 2 ^ 32) ∧ holds (o + 0x230) 8 (c.issued % 2 ^ 64)) ∧
    (∀ j v, w.waves[j]? = some v →
      let x := s.wave v
      let o := h.waveOffset j
      holds (o + 8) 8 x.wxf.toNat ∧ holds (o + 0x10) 8 x.ssn.toNat ∧ holds (o + 0x18) 8 x.bw.toNat ∧
        (∀ n, 0 < n → n < 16 → holds (o + 0x20 + 8 * n) 8 (x.preds.getD n 0).toNat) ∧
        ∀ n < x.width, ∀ l < 64, holds (o + 0x2000 + 256 * n + 4 * l) 4 (sparseGet s.vregs (regKey w.cluster x 0 n l)).toNat) ∧
    (∀ n < h.accs, ∀ e < 16384, holds (h.accOffset + 65536 * n + 4 * e) 4 (sparseGet s.accs (w.accKey n 0 e)).toNat) ∧
    ∀ i < 4096 * h.units, holds (h.spadOffset + i) 1 (s.byte (spadLoc w.cluster (w.spad + i))).toNat

/-- The members of a gang stand on tables that exist, and share no context and no wave. -/
def State.apart (s : State) (g : Nat) : Prop :=
  let ms := (s.gang g).wgs
  ms ≠ [] ∧ ms.Nodup ∧ (ms.flatMap fun m => (s.wg m).ctxs).Nodup ∧ (ms.flatMap fun m => (s.wg m).waves).Nodup ∧
    ∀ m ∈ ms, m < s.wgs.length ∧ (s.wg m).cluster < 32 ∧ (∀ k ∈ (s.wg m).ctxs, k < 512) ∧ ∀ v ∈ (s.wg m).waves, v < 1024

/-- The spill sequencers of the members' clusters are free for the gang, or at it (R361). -/
def State.spillFree (s : State) (g : Nat) : Prop :=
  ∀ m ∈ (s.gang g).wgs, let q := (s.cluster (s.wg m).cluster).spillq; q = [] ∨ q.head? = some (.gang g)

/-- The gang has left its clusters: its contexts and waves are free. -/
def LeftClusters (s t : State) (g : Nat) : Prop :=
  ∀ m ∈ (s.gang g).wgs, (∀ k ∈ (s.wg m).ctxs, t.ctx k = Context.free) ∧ ∀ v ∈ (s.wg m).waves, t.wave v = Wave.free

/-- The gang pauses at an access to a save area that failed (R435): a record of it waits for its answer. -/
def PausedAt (s t : State) (g : Nat) : Prop :=
  (t.gang g).paused = true ∧ t.wgs = s.wgs ∧ t.ctxs = s.ctxs ∧ t.waves = s.waves ∧
    ∃ m ∈ (s.gang g).wgs, ∃ r ∈ (t.dctx (s.wg m).ctxid).faults, r.source = .save g ∧ r.answer = none

/-- Every command of `s` that needs a package to which no link remains is POISONED in t, its region still armed (R416). -/
def PoisonsUnreachable (s t : State) : Prop :=
  ∀ g n b, s.bound g n = some b → b.state ≠ .published → b.state ≠ .poisoned →
    (∃ p ∈ s.packagesOf (s.wg g) b, s.packageWay p = .fails) → ∃ b', t.bound g n = some b' ∧ b'.state = .poisoned ∧ b'.armed = b.armed

/-! ### Commands and device steps -/

/-- A device step that nothing enables does not happen. -/
def Idle (name : String) (r : Result) : Prop := r = .fault (.notEnabled name)

/-- The live context of a CTXID is the only one (R297). -/
abbrev State.oneLive (s : State) (c : Nat) : Prop :=
  ∀ i, i < s.devs.length → (s.devAt i).desc.ctxid = c → (s.devAt i).status ≠ .destroyed → s.devIx c = some i

/-- The completion of a command record (R429): STATUS and RESULT stand in the record, and the event of kind 9 is the last that the core
holds for the partition, unless it holds 4096 and counts the rest. -/
def Completed (t : State) (h : CmdHead) (op status result : Nat) : Prop :=
  t.busRead (h.slot + 0x38) 8 = leBytes 4 status ++ leBytes 4 result ∧
    ((t.part h.part).held.getLast? = some
        { kind := 9, ctxid := h.ctxid, cls := 3, num := 0, time := t.dev.time, d0 := BitVec.ofNat 64 (h.tag.toNat + op * 2 ^ 32),
          d1 := BitVec.ofNat 64 (status + result * 2 ^ 32) } ∨
      4096 ≤ (t.part h.part).held.length)

/-- The command ends with a status other than 0 and nothing else changes. -/
def Refuses (s : State) (h : CmdHead) (op status : Nat) (r : Result) : Prop :=
  ∃ t, r = .next t ∧ Completed t h op status 0 ∧ SameBut [.mem, .badDram, .badSram, .parts] s t

/-- The command ends with status 0 and a result, and leaves what P says. -/
def Succeeds (h : CmdHead) (op result : Nat) (r : Result) (P : State → Prop) : Prop :=
  ∃ t, r = .next t ∧ Completed t h op 0 result ∧ P t

/-- The command waits, and holds its partition (R427). -/
def Waits (h : CmdHead) (i : Instr) (r : Result) (P : State → Prop) : Prop :=
  ∃ t, r = .next t ∧ (t.part h.part).busy = some i ∧ P t

/-- The partition exists, and the command may name its context (R428). -/
abbrev MayName (s : State) (h : CmdHead) : Prop :=
  s.canonical ∧ h.part < s.parts.length ∧ (s.devIx h.ctxid).isSome = true ∧ (h.part = 0 ∨ (s.dctx h.ctxid).desc.part = h.part)

/-- Host memory at a does not meet host memory at b. -/
abbrev Apart (a n b m : Nat) : Prop := (busLocs a n).Nodup ∧ ∀ x ∈ busLocs a n, x ∉ busLocs b m

/-- A device step completes; where nothing enables it, it does not happen. -/
def Happens (r : Result) (P : State → Prop) : Prop := ∃ t, r = .next t ∧ P t

end Sys2Proof.Machine
end

