-- ==== Sys2Proof/Certificates/Slice0/Obligations.lean ====
section
/-! DEFINITION. The statements of the model. Each docstring names the rules it formalises; a value that the model chose where the
manual gives none is named as the model's own, with its log entry. -/
open Sys2Proof Sys2Proof.Machine

/-! ### Steps and words -/

/-- R29, R30, R31, R137, R138. The rotation has come to the context, and the bytes at the PC, in the line that holds them, decode to a
word that is aligned and lies in its code extent: the step is that word's meaning, at the state in which this context acts and the TLB
entries of the fetch are the most recently used ones (R381), and the rotation goes on behind a word that issued. R140, log entry 8. While a
load of the context has not returned, a word that needs it waits. A lane word with P = 1 takes the next eight bytes along when they lie in
the extent. R32, R36, R37, R61. A generator or long word of no instruction, every one that the tables reserve among them, takes the
illegal-instruction trap at the PC. -/
def Obligations.StepRunsTheDecodedWord : Prop :=
  ∀ (s : State) (k : Nat) (rest : List Turn) (line bs : List Byte),
    s.agenda = .ctx k :: rest → s.mayRun k = true → State.turnOf { s with agenda := rest } k = true →
    let u := State.actingCtx { s with agenda := rest } k
    let pc := (u.ctx k).pc.toNat
    let n := wordBytes (bs.headD 0)
    let w := leNat (bs.take 8)
    let illegalHere := commit (fetchTrap k pc (wordRecord 1 (leNat (bs.take n)))) u
    let runs (i : Instr) : Result :=
      if u.interlocked k i then commit (modCtx k (·.stall .interlock)) u else wordDone k (exec i (u.fetchedBy k i))
    u.trapDue k = false → u.codeLine k pc = .bytes line → line.length = 64 → bs = line.drop (pc % 64) →
    pc % 4 = 0 → pc % n = 0 → (u.codeExtent k).1 ≤ pc → pc + n ≤ (u.codeExtent k).2 →
    (∀ i, SameBut [.clusters, .dies] u (u.fetchedBy k i) ∧ ((u.ctx k).loads = [] → u.interlocked k i = false)) ∧
    (∀ i more, decode bs = .ok (i, more) → n ≠ 8 ∨ bitAt w 2 = false → step s = runs i) ∧
    (n = 8 → bitAt w 2 = true → (u.codeExtent k).2 < pc + 16 → step s = runs (.emitLaneWord (BitVec.ofNat 64 w) none)) ∧
    (∀ next, n = 8 → bitAt w 2 = true → pc + 16 ≤ (u.codeExtent k).2 → u.codeLine k (pc + 8) = .bytes next →
      step s = runs (.emitLaneWord (BitVec.ofNat 64 w) (some (BitVec.ofNat 64 (leNat ((next.drop ((pc + 8) % 64)).take 8)))))) ∧
    (∀ e, n ≠ 8 → decode bs = .error e → step s = illegalHere) ∧
    (n = 4 → ReservedGen (leNat (bs.take 4)) → step s = illegalHere) ∧
    (n = 16 → ReservedLong (leNat (bs.take 16)) → step s = illegalHere)

/-- R138, R162, R173, R174, R413, R427 and the agenda (log entry 1, the model's own). A context with a boundary trap due enters it; no
context acts while a ready one of its cluster goes before it in the rotation; the lane engine runs the head word that the selection rules
put first; the record at a partition's read index runs when the rotation over the partitions that have one comes to it; a device step that
the agenda names runs; time passes as far as the next deadline of R25 and R408; the driver's writes stand in host memory, and a function
reads its registers; what cannot act passes its turn. -/
def Obligations.TurnsRunTheirInstructions : Prop :=
  ∀ (s : State) (rest : List Turn), let u : State := { s with agenda := rest }
    (∀ k, s.agenda = .ctx k :: rest → u.mayRun k = true → u.turnOf k = true → (u.actingCtx k).trapDue k = true →
      step s = exec (.boundaryTrapEntry k) (u.actingCtx k)) ∧
    (∀ k, s.agenda = .ctx k :: rest → u.mayRun k = false ∨ u.turnOf k = false → step s = .next u) ∧
    (∀ k n, n < 16 → u.readyCtx (k / 16 * 16 + n) = true → (u.cluster (k / 16)).lastCtx < 16 →
      (n + 15 - (u.cluster (k / 16)).lastCtx) % 16 < (k % 16 + 15 - (u.cluster (k / 16)).lastCtx) % 16 → u.turnOf k = false) ∧
    (∀ v x i, s.agenda = .wave v :: rest → u.laneReady v = true →
      (∀ o, o / 32 = v / 32 → u.laneReady o = true → lexLt (u.laneRank o) (u.laneRank v) = false) → (u.wave v).head = some x →
      decodeLane x.word.toNat = some i → step s = exec i (u.actingWave v)) ∧
    (∀ v, s.agenda = .wave v :: rest →
      u.laneReady v = false ∨ (∃ o, o / 32 = v / 32 ∧ u.laneReady o = true ∧ lexLt (u.laneRank o) (u.laneRank v) = true) →
      step s = .next u) ∧
    (∀ v o x y, (u.wave v).head = some x → (u.wave o).head = some y → (u.wave v).half = none → (u.wave o).half = none →
      (x.handler = true → y.handler = false → lexLt (u.laneRank v) (u.laneRank o) = true) ∧
      (x.handler = false → y.handler = false → (u.wave v).chain = true → (u.wave o).chain = false →
        lexLt (u.laneRank v) (u.laneRank o) = true) ∧
      (x.handler = y.handler → (u.wave v).chain = (u.wave o).chain → x.order < y.order → lexLt (u.laneRank v) (u.laneRank o) = true)) ∧
    (∀ p a, s.agenda = .command p a :: rest → u.servesPart p = false → step s = .next u) ∧
    (∀ p q, p < 16 → q < 16 → u.dev.lastPart < 16 → u.hasRecord q = true →
      (q + 15 - u.dev.lastPart) % 16 < (p + 15 - u.dev.lastPart) % 16 → u.servesPart p = false) ∧
    (∀ p a, s.agenda = .command p a :: rest → u.servesPart p = true →
      let r := (u.part p).cmd
      let slot := r.ring + 64 * (r.rd.toNat % max r.size 1)
      step s = exec (decodeCommand p slot a (u.busRead slot 64)) (u.tookRecord p)) ∧
    (∀ i, s.agenda = .event i :: rest → isEvent i = true → step s = exec i u) ∧
    (∀ ns, s.agenda = .elapse ns :: rest → step s = .next (u.elapse ns) ∧ (u.deadlines = [] → (u.elapse ns).dev.time = u.dev.time + ns) ∧
      (∀ t ∈ u.deadlines, u.dev.time ≤ t → (u.elapse ns).dev.time ≤ t)) ∧
    (∀ f o n, s.agenda = .hostRead f o n :: rest → step s = hostRead f o n u) ∧
    (∀ a bytes, s.agenda = .hostWrite a bytes :: rest → u.canonical → (busLocs a bytes.length).Nodup →
      ∃ t, step s = .next t ∧ t.busRead a bytes.length = bytes ∧ SameBut [.mem, .badDram, .badSram] u t) ∧
    (∀ c q v, s.agenda = .assign c q v :: rest → (u.devIx c).isSome = true → (∀ n, v = some n → 2 ≤ n ∧ n ≤ 63) →
      ∃ t, step s = .next t ∧ SameBut [.devs] u t ∧
        ∀ x, (u.dctx c).queue q = some x → (t.dctx c).queue q = some { x with vector := v })

/-- R32 to R40, R61, R62 with words written out from the tables: a sanity check of the decoder. Every generator word that Table 2.3 or 2.4
reserves, and every long word that Table 2.13 does, decodes to none: a branch of condition 6 (R149) and a SYS word of no instruction
(R158) among them. -/
def Obligations.SampleWordsDecode : Prop :=
  decodeTableWord 32 0x12346290 = some (.shi 5 0x12346) ∧
  decodeTableWord 32 0xFFC05284 = some (.addi 5 5 0xFFC) ∧
  decodeTableWord 32 0xFFD4521A = some (.blt 4 5 0xFFD) ∧
  decodeTableWord 32 0x0000101E = some (.jalr 0 1 0) ∧
  decodeTableWord 32 0x000C5024 = some (.stgt 5 6) ∧
  decodeTableWord 32 0x0030C4C0 = some (.qpush 9 12 3) ∧
  decodeTableWord 128 0x0485110B = some (.mdrain
    { scale := 9, scope := .wave, release := false, saturate := true, rounding := .rz, addOn := false, tD := 2, acc := 1 }) ∧
  decodeLane 0xC7B4502028012019 = some (.vadd
    { srcC := 798, srcB := 837, srcA := 8, dst := 40, mod6 := 0, s := false, pn := true, pg := 2, c := true, p := false }) ∧
  decodeTableWord 32 0xFFFFFFFE = some (.genExtension 7 0x1FFFFFF) ∧
  decodeTableWord 32 0x000C001A = none ∧ decodeTableWord 32 0xFFC00000 = none ∧
  (∀ w, w % 2 = 0 → w < 2 ^ 32 → ReservedGen w → decodeTableWord 32 w = none) ∧
  (∀ w, w % 4 = 3 → w < 2 ^ 128 → ReservedLong w → decodeTableWord 128 w = none)

/-- R29 to R62: every well-formed instruction that has an encoding comes back from it, with no bit dropped. -/
def Obligations.DecodeInvertsEncode : Prop := ∀ i : Instr, Laws.RoundTrip.Statement i

/-! ### The invariant of the machine's data -/

/-- R6, R7, R12 and the canonical form of memory (log entry 3): the invariant holds after reset. -/
def Obligations.ResetHasTheInvariant : Prop := State.reset.Inv

/-- The same: every step keeps it. -/
def Obligations.EveryStepKeepsTheInvariant : Prop :=
  ∀ s t : State, s.Inv → step s = .next t → t.Inv

/-- R19, log entry 3. Memory answers what was last written to a location, and a write touches no other. R258, R264. What an access reads
from the machine's record of writes (log entry 8): the newest bytes, or those before the newest writes that neither bind it nor are visible
to it, as many as the open choice says; a read never goes back behind what the last one returned; after a write of its own there, or an edge
that makes every write visible to it, only the newest is left. R259. Nothing is put directly under an atomic's write. -/
def Obligations.MemoryReadsWhatWasWritten : Prop :=
  (∀ (s : State) (locs : List Nat) (bytes : List Byte), s.canonical → locs.Nodup → bytes.length = locs.length →
    ∃ t, commit (writeLocs locs bytes) s = .next t ∧ t.canonical ∧
      (∀ (i : Nat) (h : i < locs.length), t.byte (locs[i]) = bytes.getD i 0) ∧
      (∀ a, a ∉ locs → t.byte a = s.byte a) ∧
      SameBut [.mem, .badDram, .badSram] s t) ∧
  (∀ (s : State) (a : Actor) (locs : List Nat), a.path < 4 →
    let r := s.readUnits a [locs]
    (∃ b, r.1 = [b] ∧ s.mayRead a locs (leNat b) ∧ (s.vis.picks = [] → b = locs.map s.byte)) ∧
    (∀ w ∈ s.vis.past a locs, w.binds a locs = false) ∧ (r.2.2.past a locs).length ≤ s.vis.picks.headD 0 ∧
    (s.seeAll [a.agent]).past a locs = [] ∧
    (∀ n w, w ∈ s.vis.place a locs n → w.binds a locs = false ∧ w.known a.known = false) ∧
    (∀ n l w, l ∈ locs → ((s.vis.place a locs n).filter (·.touches [l])).getLast? = some w → w.rmw = false) ∧
    ∀ cells : List (Nat × Byte), s.vis.picks = [] →
      (s.writeUnits a [cells]).1 = cells ∧ (s.writeUnits a [cells]).2.past a (cells.map (·.1)) = [])

/-! ### Scalar registers and arithmetic -/

/-- R141. s0 reads zero and discards writes; a write is read back and leaves every other register; in handler mode s24 to s31 are
the bank, which user mode does not see. -/
def Obligations.ScalarRegisterFile : Prop :=
  ∀ (c : Context) (d : Reg) (v : Word),
    c.rd 0 = 0 ∧ c.wr 0 v = c ∧ (d ≠ 0 → (c.wr d v).rd d = v) ∧ KeepsRegs d c (c.wr d v) ∧
    (c.mode = .handler → 24 ≤ d.toNat → ∀ r, ({ c.wr d v with mode := .user } : Context).rd r = ({ c with mode := .user } : Context).rd r)

/-- R143, Table 6.4: every ALU word's result, and its frame. R143, Table 6.4: division, with its corners; leading zeros,
trailing zeros and set bits. -/
def Obligations.AluResults : Prop :=
  (∀ (s : State) (d a b : Reg), Acting s →
     let x := s.rd a
     let y := s.rd b
     let pc := s.pcNow + 4
     WritesTo s d (x + y) pc (exec (.add d a b) s) ∧
     WritesTo s d (x - y) pc (exec (.sub d a b) s) ∧
     WritesTo s d (x &&& y) pc (exec (.and_ d a b) s) ∧
     WritesTo s d (x ||| y) pc (exec (.or_ d a b) s) ∧
     WritesTo s d (x ^^^ y) pc (exec (.xor_ d a b) s) ∧
     WritesTo s d (x &&& ~~~ y) pc (exec (.andn d a b) s) ∧
     WritesTo s d (x <<< (y &&& 63).toNat) pc (exec (.shl d a b) s) ∧
     WritesTo s d (x >>> (y &&& 63).toNat) pc (exec (.shr d a b) s) ∧
     WritesTo s d (x.sshiftRight (y &&& 63).toNat) pc (exec (.sar d a b) s) ∧
     WritesTo s d (x * y) pc (exec (.mul d a b) s) ∧
     WritesTo s d (BitVec.ofInt 64 (x.toInt * y.toInt / 2 ^ 64)) pc (exec (.mulh d a b) s) ∧
     WritesTo s d (BitVec.ofNat 64 (x.toNat * y.toNat / 2 ^ 64)) pc (exec (.mulhn d a b) s) ∧
     WritesTo s d (if x.toInt ≤ y.toInt then x else y) pc (exec (.min_ d a b) s) ∧
     WritesTo s d (if y.toInt ≤ x.toInt then x else y) pc (exec (.max_ d a b) s) ∧
     WritesTo s d (if x ≤ y then x else y) pc (exec (.minn d a b) s) ∧
     WritesTo s d (if y ≤ x then x else y) pc (exec (.maxn d a b) s) ∧
     WritesTo s d (if x.toInt < y.toInt then 1 else 0) pc (exec (.slt d a b) s) ∧
     WritesTo s d (if x < y then 1 else 0) pc (exec (.sltn d a b) s) ∧
     WritesTo s d (if x = y then 1 else 0) pc (exec (.seq d a b) s) ∧
     WritesTo s d (((x + y).extractLsb' 0 32).signExtend 64) pc (exec (.addw d a b) s) ∧
     WritesTo s d (((x - y).extractLsb' 0 32).signExtend 64) pc (exec (.subw d a b) s)) ∧
  (∀ (s : State) (d a b : Reg), Acting s →
     let x := s.rd a
     let y := s.rd b
     let pc := s.pcNow + 4
     let least : Word := BitVec.intMin 64
     WritesTo s d (if y = 0 then BitVec.allOnes 64 else if x = least ∧ y = -1 then least else BitVec.ofInt 64 (x.toInt.tdiv y.toInt)) pc
       (exec (.div d a b) s) ∧
     WritesTo s d (if y = 0 then BitVec.allOnes 64 else BitVec.ofNat 64 (x.toNat / y.toNat)) pc (exec (.divn d a b) s) ∧
     WritesTo s d (if y = 0 then x else if x = least ∧ y = -1 then 0 else BitVec.ofInt 64 (x.toInt.tmod y.toInt)) pc
       (exec (.rem d a b) s) ∧
     WritesTo s d (if y = 0 then x else BitVec.ofNat 64 (x.toNat % y.toNat)) pc (exec (.remn d a b) s) ∧
     (∃ n : Nat, (x = 0 ∧ n = 64 ∨ n < 64 ∧ x.toNat / 2 ^ (63 - n) = 1) ∧
       WritesTo s d (BitVec.ofNat 64 n) pc (exec (.clz d a) s)) ∧
     (∃ n : Nat, (x = 0 ∧ n = 64 ∨ n < 64 ∧ x.toNat % 2 ^ n = 0 ∧ x.getLsbD n = true) ∧
       WritesTo s d (BitVec.ofNat 64 n) pc (exec (.ctz d a) s)) ∧
     WritesTo s d (BitVec.ofNat 64 ((List.range 64).filter fun i => x.getLsbD i).length) pc (exec (.popc d a) s))

/-- R34, R62, R144, R145: the words with an immediate. -/
def Obligations.ImmediateResults : Prop :=
  ∀ (s : State) (d a : Reg) (i : BitVec 12) (n : BitVec 6) (h : BitVec 20) (v : Word), Acting s →
    let x := s.rd a
    let y : Word := i.signExtend 64
    let pc := s.pcNow + 4
    WritesTo s d (x + y) pc (exec (.addi d a i) s) ∧
    WritesTo s d (x &&& y) pc (exec (.andi d a i) s) ∧
    WritesTo s d (x ||| y) pc (exec (.ori d a i) s) ∧
    WritesTo s d (x ^^^ y) pc (exec (.xori d a i) s) ∧
    WritesTo s d (x <<< n.toNat) pc (exec (.shli d a n) s) ∧
    WritesTo s d (x >>> n.toNat) pc (exec (.shri d a n) s) ∧
    WritesTo s d (x.sshiftRight n.toNat) pc (exec (.sari d a n) s) ∧
    WritesTo s d (if x.toInt < y.toInt then 1 else 0) pc (exec (.slti d a i) s) ∧
    WritesTo s d (if x < y then 1 else 0) pc (exec (.sltni d a i) s) ∧
    WritesTo s d (if x = y then 1 else 0) pc (exec (.seqi d a i) s) ∧
    WritesTo s d ((h ++ (0 : BitVec 12)).signExtend 64) pc (exec (.shi d h) s) ∧
    WritesTo s d (s.pcNow + (h ++ (0 : BitVec 12)).signExtend 64) pc (exec (.pchi d h) s) ∧
    WritesTo s d v (s.pcNow + 16) (exec (.li64 d v) s)

/-- R149, R150: branches and jumps; a JALR whose target is not a multiple of 4 takes the misaligned trap at itself, with the target
in TRAPINFO0, and leaves d. -/
def Obligations.BranchesAndJumps : Prop :=
  ∀ (s : State) (d a b : Reg) (off i : BitVec 12) (o : BitVec 20), Acting s →
    let x := s.rd a
    let y := s.rd b
    let goes (taken : Bool) : Context :=
      { s.cur with pc := if taken then s.pcNow + off.signExtend 64 * 4 else s.pcNow + 4, status := .running, waits := none }
    let t := x + i.signExtend 64
    Becomes s (goes (x = y)) (exec (.beq a b off) s) ∧
    Becomes s (goes (x ≠ y)) (exec (.bne a b off) s) ∧
    Becomes s (goes (x.toInt < y.toInt)) (exec (.blt a b off) s) ∧
    Becomes s (goes (y.toInt ≤ x.toInt)) (exec (.bge a b off) s) ∧
    Becomes s (goes (x < y)) (exec (.bltn a b off) s) ∧
    Becomes s (goes (y ≤ x)) (exec (.bgen a b off) s) ∧
    WritesTo s d (s.pcNow + 4) (s.pcNow + o.signExtend 64 * 4) (exec (.jal d o) s) ∧
    (t &&& 3 = 0 → WritesTo s d (s.pcNow + 4) t (exec (.jalr d a i) s)) ∧
    (t &&& 3 ≠ 0 → exec (.jalr d a i) s = commit (trapNow (accessRecord 8 t 4)) s)

/-! ### Loads, stores and atomics -/

/-- R146, R148, R132, R133, R258, R259, R264. An access that passes its checks completes: LD writes the extended value of bytes that the
context may read, now or, where the open choice says so, when it returns later (R140, log entry 8); ST and AMO write the bytes of their
locations and no others; where a newer write that the context has not seen stands, a write may enter the coherence order below it and leave
it. AMO reads and writes as one: it returns the value over which it writes. A page walk that the access took may set the accessed and dirty
bits in its leaf entry (R379); every other byte stays, and so does every register but d. Of the device, only the requester ID of a request
to the host and the last traffic of a link change (R414, R417). Table 6.6: what an atomic operation makes of memory, at both widths. -/
def Obligations.ScalarAccessesComplete : Prop :=
  (∀ (s : State) (d a b : Reg) (i : BitVec 12) (locs : List Nat) (x : Option Xlated), Acting s → s.canonical → locs.Nodup →
     let k := s.curCtx
     let addr := s.rd a + i.signExtend 64
     let leaf : List Nat := match x with
       | some y => if y.walked then locRange y.entry.leafAt 8 else []
       | none => []
     let F : List Field := [.ctxs, .mem, .badDram, .badSram, .clusters, .dies, .dev, .links]
     let me := s.scalarActor k
     (∀ l ∈ locs, l ∉ leaf) →
     (∀ z, s.genAccess k addr (ldBytes z) (ldBytes z) .load true = .ok locs x → s.dcMiss k x addr = none →
       ∃ t, exec (.ld z d a i) s = .next t ∧ t.cur.pc = s.pcNow + 4 ∧ SameBut F s t ∧ AsksFar s t ∧
         (∀ l, l ∉ leaf → t.byte l = s.byte l) ∧
         (s.loadsLater k locs = false → t.cur.loads = s.cur.loads ∧ KeepsRegs d s.cur t.cur ∧
           ∃ v, s.mayRead me locs v ∧ (s.vis.picks = [] ∨ s.vis.past me locs = [] → v = s.readLocs locs) ∧
             t.cur.rd d = if d = 0 then 0 else ldExtend z v) ∧
         (s.loadsLater k locs = true → (∀ r, t.cur.rd r = s.cur.rd r) ∧
           t.cur.loads = s.cur.loads ++ [{ bank := s.cur.inBank d.toNat, dst := d.toNat, size := z, locs := locs }])) ∧
     (∀ z, s.genAccess k addr (stBytes z) (stBytes z) .store false = .ok locs x →
       ∃ t, exec (.st z d a i) s = .next t ∧ t.cur.pc = s.pcNow + 4 ∧ (∀ r, t.cur.rd r = s.cur.rd r) ∧ SameBut F s t ∧ AsksFar s t ∧
         (∀ (n : Nat) (h : n < locs.length), s.wroteOrUnder t me locs (locs[n]) (BitVec.ofNat 8 ((s.rd d).toNat / 256 ^ n))) ∧
         (s.vis.picks = [] → t.vis.past me locs = []) ∧
         (∀ l, l ∉ leaf → l ∉ locs → t.byte l = s.byte l) ∧ t.cur.issued = s.cur.issued + 1) ∧
     (∀ wide sc ord op, let n := if wide then 8 else 4
       s.genAccess k (s.rd a) n n .atomic (op != .store) = .ok locs x →
       let newOf (old : Nat) : Option Nat :=
         atomicNew op (8 * n) s.cur.compat old ((s.rd b).toNat % 2 ^ (8 * n)) ((s.rd d).toNat % 2 ^ (8 * n))
       ∃ t old, exec (.amo wide sc ord op d a b) s = .next t ∧ s.mayRead me locs old ∧
         (s.vis.picks = [] ∨ s.vis.past me locs = [] → old = s.readLocs locs) ∧ t.cur.pc = s.pcNow + 4 ∧ SameBut F s t ∧ AsksFar s t ∧
         (if op = .store then ∀ r, t.cur.rd r = s.cur.rd r
          else t.cur.rd d = (if d = 0 then 0 else atomicOld op wide old) ∧ KeepsRegs d s.cur t.cur) ∧
         t.cur.issued = s.cur.issued + (if newOf old = none then 0 else 1) ∧
         (∀ v, newOf old = some v → ∀ (m : Nat) (h : m < locs.length), s.wroteOrUnder t me locs (locs[m]) (BitVec.ofNat 8 (v / 256 ^ m))) ∧
         (∀ l, l ∉ leaf → (l ∉ locs ∨ newOf old = none) → t.byte l = s.byte l))) ∧
  (∀ (w : Nat) (l1 : Bool) (old b e : Nat), w = 32 ∨ w = 64 → old < 2 ^ w → b < 2 ^ w →
     atomicNew .add w l1 old b e = some ((old + b) % 2 ^ w) ∧
     atomicNew .minn w l1 old b e = some (if old ≤ b then old else b) ∧
     atomicNew .maxn w l1 old b e = some (if b ≤ old then old else b) ∧
     atomicNew .min w l1 old b e = some (if (BitVec.ofNat w old).toInt ≤ (BitVec.ofNat w b).toInt then old else b) ∧
     atomicNew .max w l1 old b e = some (if (BitVec.ofNat w b).toInt ≤ (BitVec.ofNat w old).toInt then old else b) ∧
     atomicNew .and w l1 old b e = some (old &&& b) ∧ atomicNew .or w l1 old b e = some (old ||| b) ∧
     atomicNew .xor w l1 old b e = some (old ^^^ b) ∧ atomicNew .xchg w l1 old b e = some b ∧
     atomicNew .store w l1 old b e = some b ∧ atomicNew .load w l1 old b e = none ∧
     (atomicNew .cas w l1 old b old = some b) ∧ (old ≠ e → atomicNew .cas w l1 old b e = none))

/-- R117, R132, R133. An aligned access inside the own scratchpad aperture that no landing region covers, no pause holds and no poison meets
reaches its bytes; a misaligned one, whatever it names, takes the misaligned trap; an aligned one in the private aperture, or past the
scratchpad's allocation, the data fault of kind 0. -/
def Obligations.ScalarAccessChecks : Prop :=
  ∀ (s : State) (k n : Nat) (addr : Word) (acc : Access) (consumes : Bool), n = 1 ∨ n = 2 ∨ n = 4 ∨ n = 8 →
    let w := s.wg (s.ctx k).wg
    let o := addr.toNat - 0x1_1000_0000_0000
    let locs := locRange (spadLoc w.cluster (w.spad + o)) n
    (addr.toNat % n ≠ 0 → s.genAccess k addr n n acc consumes = .trap (accessRecord 8 addr 4)) ∧
    (addr.toNat % n = 0 → 0x1_0000_0000_0000 ≤ addr.toNat → addr.toNat < 0x1_1000_0000_0000 →
      s.genAccess k addr n n acc consumes = .trap (accessRecord 7 addr 0)) ∧
    (addr.toNat % n = 0 → 0x1_1000_0000_0000 ≤ addr.toNat → addr.toNat < 0x1_2000_0000_0000 → w.header.spad < o + n →
      s.genAccess k addr n n acc consumes = .trap (accessRecord 7 addr 0)) ∧
    (addr.toNat % n = 0 → 0x1_1000_0000_0000 ≤ addr.toNat → addr.toNat < 0x1_2000_0000_0000 → o + n ≤ w.header.spad →
      w.cluster < 32 → w.spad + w.header.spad ≤ 2 ^ 22 → s.landing locs = .clear → s.held locs = false → (consumes = true → s.poisoned locs = false) →
      s.genAccess k addr n n acc consumes = .ok locs none)

/-! ### Traps -/

/-- R164. Taking a trap in user mode with a handler: the trap registers hold the cause, the PC, the return address and the
record; the mode is handler; the PC is TVEC; the target keeps its mask and loses its group; an open capture is suspended, and by the model's
choice (log entry 10) no capture is open while the handler runs; the window, XCTL, COMPAT and every scalar register stay. R164, R308. Without a handler, or in handler mode, a trap halts its
context: TRAPCAUSE, TRAPPC and the record are written, EPC only in user mode, and the context is HALTED. -/
def Obligations.TakingATrap : Prop :=
  (∀ (s : State) (k : Nat) (pc epc : Word) (bnd : Bool) (r : TrapRecord),
     let c := s.ctx k
     let d := (s.dctx c.ctxid).desc
     k < s.ctxs.length → c.mode = .user → d.tvec ≠ 0 → r.cause < 64 →
     ∃ t, commit (takeTrap k pc epc bnd r) s = .next t ∧
       let c' := t.ctx k
       c'.mode = .handler ∧ c'.pc = d.tvec ∧ c'.status = .running ∧
       c'.trap.cause = BitVec.ofNat 64 (r.cause + if bnd then 256 else 0) ∧ c'.trap.pc = pc ∧ c'.trap.epc = epc ∧
       c'.trap.info0 = r.info0 ∧ c'.trap.info1 = r.info1 ∧ c'.trap.info2 = r.info2 ∧ c'.trap.info3 = r.info3 ∧
       c'.em.savedTarget = c.em.target ∧ c'.em.target = { mask := c.em.target.mask, grp := 0 } ∧
       c'.em.capSuspended = c.em.capOpen ∧ c'.em.capOpen = false ∧
       c'.s = c.s ∧ c'.bank = c.bank ∧ c'.win = c.win ∧ c'.xctl = c.xctl ∧ c'.compat = c.compat ∧
       SameBut [.ctxs, .waves] s t ∧ (∀ j, j ≠ k → t.ctx j = s.ctx j) ∧
       (∀ v, (t.wave v).stream = (s.wave v).stream ∧ (t.wave v).latch = (s.wave v).latch ∧ (t.wave v).preds = (s.wave v).preds)) ∧
  (∀ (s : State) (k : Nat) (pc epc : Word) (bnd : Bool) (r : TrapRecord),
     let c := s.ctx k
     k < s.ctxs.length → c.mode = .handler ∨ (s.dctx c.ctxid).desc.tvec = 0 →
     ∃ t, commit (takeTrap k pc epc bnd r) s = .next t ∧
       let c' := t.ctx k
       c'.status = .halted ∧ c'.mode = c.mode ∧ c'.trap.cause = BitVec.ofNat 64 (r.cause + if bnd then 256 else 0) ∧ c'.trap.pc = pc ∧
       c'.trap.info0 = r.info0 ∧ c'.trap.info1 = r.info1 ∧ c'.trap.info2 = r.info2 ∧ c'.trap.info3 = r.info3 ∧
       c'.trap.epc = (if c.mode = .user then epc else c.trap.epc) ∧ c'.s = c.s ∧ c'.bank = c.bank ∧
       SameBut [.ctxs, .parts, .wgs, .gangs] s t ∧ ∀ j, j ≠ k → t.ctx j = s.ctx j)

/-- R158, R165, R135, R167, R274. TRAP takes the explicit trap, whose return address is the next word; an extension word parks its context
for the core; ERET in user mode, or behind an open chain, is illegal; in handler mode it goes back to EPC in user mode with
the user's target and capture, lets the stream resume that the handled trap stopped, and what the handler wrote is visible to that stream's
wave. R162, R164, R168, R434. The oldest pending boundary trap of a context that issues in user mode is entered at
its boundary, with bit 8 of the cause set, and leaves the list; it halts a context that has ended; a context without one, or in a pause of
its clock, cannot enter one, and by the model's choice (log entry 22) neither can one in handler mode. R227, R386. The data fault of a loft
access or of a window transfer halts. -/
def Obligations.TrapAndReturnWords : Prop :=
  (∀ (s : State) (code : BitVec 5) (n : BitVec 3) (x : BitVec 25), Acting s →
     let k := s.curCtx
     let c := s.cur
     exec (.trap code) s = commit (takeTrap k c.pc (c.pc + 4) false (.of 19 (code.zeroExtend 64))) s ∧
     Becomes s { c with status := .parked (.emulation (BitVec.ofNat 64 (x.toNat * 2 ^ 7 + (56 + n.toNat) * 2))) }
       (exec (.genExtension n x) s) ∧
     (c.mode = .user ∨ c.em.handlerChain.lastC = true → exec .eret s = commit (takeTrap k c.pc c.pc false (wordRecord 1 (3 * 2 ^ 22))) s) ∧
     (c.mode = .handler → c.em.handlerChain.lastC = false →
       ∃ t, exec .eret s = .next t ∧ t.cur.mode = .user ∧ t.cur.pc = c.trap.epc ∧ t.cur.em.target = c.em.savedTarget ∧
         t.cur.em.capOpen = c.em.capSuspended ∧ t.cur.trap = c.trap ∧ t.cur.s = c.s ∧ t.cur.bank = c.bank ∧
         SameBut [.ctxs, .waves, .mem] s t ∧ t.mem = s.mem ∧ (∀ j, j ≠ k → t.ctx j = s.ctx j) ∧
         (∀ v, c.resumes = some v → (c.pending.any fun p => p.wave == some v) = false →
           (v < s.waves.length → (s.wave v).status = .stopped → (s.wave v).stopSeq.isSome = true →
             (t.wave v).status = .live ∧ (t.wave v).stopSeq = none ∧ (t.wave v).stream = (s.wave v).stream) ∧
           ∀ w ∈ t.vis.writes, (w.agent = s.ctxAgent k ∧ w.handler = true) ∨ (∃ p ∈ w.seen, p.1 = s.ctxAgent k) →
             w.pathsOf (s.waveAgent v) = allPaths) ∧
         (∀ v, c.resumes = some v → (c.pending.any fun p => p.wave == some v) = true → t.wave v = s.wave v) ∧
         ∀ v, c.resumes ≠ some v → t.wave v = s.wave v)) ∧
  (∀ (s : State) (k : Nat) (p : PendingTrap) (rest : List PendingTrap),
     let c := s.ctx k
     k < s.ctxs.length → c.mode = .user → (c.status = .running ∨ ∃ w, c.status = .stalled w) → c.pending = p :: rest →
     (s.wg c.wg).status = .running → s.pausing (k / 16) = false →
     let fatal := p.record.cause = 7 ∧ p.wave = none
     ∃ t, exec (.boundaryTrapEntry k) s = .next t ∧ (t.ctx k).pending = rest ∧ (t.ctx k).trap.epc = c.pc ∧ (t.ctx k).trap.pc = c.pc ∧
       (t.ctx k).trap.cause = BitVec.ofNat 64 (p.record.cause + 256) ∧ (t.ctx k).trap.info0 = p.record.info0 ∧ t.mem = s.mem ∧
       (¬ fatal → (s.dctx c.ctxid).desc.tvec ≠ 0 → (t.ctx k).mode = .handler ∧ (t.ctx k).pc = (s.dctx c.ctxid).desc.tvec ∧
         (t.ctx k).resumes = p.wave ∧ SameBut [.ctxs, .waves, .mem] s t) ∧
       (fatal → (t.ctx k).status = .halted ∧ SameBut [.ctxs, .mem, .parts, .wgs, .gangs] s t)) ∧
  (∀ (s : State) (k : Nat) (p : PendingTrap) (rest : List PendingTrap),
     let c := s.ctx k
     (k < s.ctxs.length → c.status = .ended → c.pending = p :: rest → s.pausing (k / 16) = false →
       ∃ t, exec (.boundaryTrapEntry k) s = .next t ∧ (t.ctx k).pending = rest ∧ (t.ctx k).status = .halted ∧
         (t.ctx k).trap.cause = BitVec.ofNat 64 (p.record.cause + 256) ∧ (t.ctx k).trap.info0 = p.record.info0 ∧
         (t.ctx k).trap.epc = c.pc ∧ SameBut [.ctxs, .mem, .parts, .wgs, .gangs] s t ∧ t.mem = s.mem) ∧
     (c.pending = [] ∨ c.mode = .handler ∧ c.status ≠ .ended ∨ s.pausing (k / 16) = true →
       Idle "BOUNDARY_TRAP_ENTRY" (exec (.boundaryTrapEntry k) s)))

/-! ### System words -/

/-- R158, R159, R161, R230, R266 to R268, R270, R302, R382. GNOP, a fence without the stream flag, and SDRAIN or a fence once the emitted
words have retired step over; an SDRAIN or a stream fence stalls before. After SDRAIN the stores of emitted words are visible to the
context; a fence that names the scalar and the tile path makes the context's own stores visible on the tile path, one that does not name the
scalar path makes nothing visible to the context's own later accesses, and one that names no path makes nothing visible. FEATQ writes its word; a prefetch that finds room steps over, changes no memory and no register, and else waits; END
ends the role, and its PC stands behind END (the model's choice, log entry 88). R302, Table 12.2: what FEATQ classes 0 and 3 report. -/
def Obligations.SystemWordsComplete : Prop :=
  (∀ (s : State) (d a : Reg) (cls : BitVec 5) (i : BitVec 12) (cp tl scl str sc : Bool) (scope : Scope), Acting s →
     let c := s.cur
     let k := s.curCtx
     Becomes s (stepped 4 c) (exec .gnop s) ∧
     let orders (t : State) : Prop := SameBut [.ctxs, .mem] s t ∧ t.mem = s.mem ∧ (∀ j, j ≠ k → t.ctx j = s.ctx j) ∧ t.cur = stepped 4 c
     let me := s.ctxAgent k
     (s.drained k = true → ∃ t, exec .sdrain s = .next t ∧ orders t ∧
       ∀ w ∈ t.vis.writes, w.family = me → (∃ g j, w.agent = .wave g j) → w.path = pathLs →
         (w.pathsOf me).getLsbD pathScl = true ∧ w.before me = true) ∧
     (s.drained k = false → Becomes s (c.stall .drain) (exec .sdrain s)) ∧
     (str = false ∨ s.drained k = true → ∃ t, exec (.gfence cp tl scl str sc scope) s = .next t ∧ orders t ∧
       (cp = false → tl = false → scl = false → str = false → t.vis = s.vis) ∧
       (scl = false → t.vis.writes.map (·.pathsOf me) = s.vis.writes.map (·.pathsOf me)) ∧
       (scl = true → tl = true → ∀ w ∈ t.vis.writes, w.agent = me → w.path = pathScl → (w.pathsOf me).getLsbD pathTl = true)) ∧
     (str = true → s.drained k = false → Becomes s (c.stall .drain) (exec (.gfence cp tl scl str sc scope) s)) ∧
     (cls.toNat < 4 → WritesTo s d (s.feature k cls.toNat) (s.pcNow + 4) (exec (.featq d cls) s)) ∧
     (let va := (s.rd a + i.signExtend 64).toNat
      let room (kind : MissKind) : Bool := s.prefetchRoom (ctxCluster k) c.ctxid [va] (c.mode == .user) kind
      let inCode := (s.codeExtent k).1 ≤ va ∧ va < (s.codeExtent k).2
      (room .gpref = true ∨ ¬ inCode ∨ 2 ^ 48 ≤ va →
        ∃ t, exec (.gpref a i) s = .next t ∧ t.cur = stepped 4 c ∧ SameBut [.ctxs, .clusters, .dies] s t) ∧
      (room .dpref = true ∨ 2 ^ 48 ≤ va →
        ∃ t, exec (.dpref a i) s = .next t ∧ t.cur = stepped 4 c ∧ SameBut [.ctxs, .clusters, .dies] s t) ∧
      (va < 2 ^ 48 → inCode → room .gpref = false → Becomes s (c.stall .held) (exec (.gpref a i) s)) ∧
      (va < 2 ^ 48 → room .dpref = false → Becomes s (c.stall .held) (exec (.dpref a i) s))) ∧
     (c.mode = .user → c.em.capOpen = false →
       ∃ t, exec .endRole s = .next t ∧ t.cur.status = .ended ∧ t.cur.pc = c.pc + 4 ∧ t.cur.em.votes = [] ∧
         (∀ j, j ≠ k → t.ctx j = s.ctx j) ∧ SameBut [.ctxs, .wgs, .gangs, .launches] s t)) ∧
  (∀ (s : State) (k : Nat), s.sized →
     s.feature k 0 = 2 ∧
     ((s.feature k 3).toNat % 256 = (s.clusters.filter fun c => !c.lost).length ∧ (s.feature k 3).toNat / 256 % 256 = 4 ∧
       (s.feature k 3).toNat / 2 ^ 16 % 2 ^ 16 = (s.links.filter fun l => l.status == .up).length ∧
       (s.feature k 3).toNat / 2 ^ 32 = s.dev.topology.toNat))

/-- R160, Table 6.10: RDSR of every register of the context, its workgroup, its cluster and the device. R105. WXF waits for the words that
its wave still has to run. A role that has no selected wave, as one with no waves, may read neither WXF nor SSN. -/
def Obligations.SpecialRegisterReads : Prop :=
  ∀ (s : State) (d : Reg), Acting s →
    let c := s.cur
    let w := s.wg c.wg
    let de := (s.dctx c.ctxid).desc
    let reads (n : BitVec 12) (v : Word) : Prop := WritesTo s d v (s.pcNow + 4) (exec (.rdsr d n) s)
    reads 0x001 (BitVec.ofNat 64 c.ctxid) ∧ reads 0x002 (BitVec.ofNat 64 w.wgid) ∧ reads 0x003 (BitVec.ofNat 64 w.member) ∧
    reads 0x004 (BitVec.ofNat 64 c.role) ∧ reads 0x005 (BitVec.ofNat 64 c.nwaves) ∧
    reads 0x006 (BitVec.ofNat 64 (s.curCtx / 16)) ∧ reads 0x010 (c.xctl.zeroExtend 64) ∧ reads 0x012 c.wsel ∧
    reads 0x013 c.trap.cause ∧ reads 0x014 c.trap.pc ∧ reads 0x015 c.trap.info0 ∧ reads 0x016 c.trap.info1 ∧
    reads 0x017 c.trap.info2 ∧ reads 0x018 c.trap.info3 ∧ reads 0x019 de.tvec ∧ reads 0x01A c.trap.epc ∧ reads 0x020 w.mseq ∧
    reads 0x030 (BitVec.ofNat 64 (s.cluster (s.curCtx / 16)).pass) ∧ reads 0x031 (BitVec.ofNat 64 s.dev.time) ∧
    reads 0x032 (BitVec.ofNat 64 (c.cycles / 20)) ∧ reads 0x040 (if c.compat then 1 else 0) ∧ reads 0x041 (BitVec.ofNat 64 de.level) ∧
    (c.nwaves = 0 → s.roleWaves s.curCtx = [] → s.selWave s.curCtx = none) ∧
    (s.selWave s.curCtx = none → ∀ n, n = 0x011 ∨ n = 0x021 → exec (.rdsr d n) s = commit (illegal (.rdsr d n)) s) ∧
    (∀ v, s.selWave s.curCtx = some v → reads 0x021 (s.wave v).ssn ∧
      ((s.wave v).flagsBusy s.curCtx (c.mode == .handler) = true → Becomes s (c.stall .drain) (exec (.rdsr d 0x011) s)) ∧
      ((s.wave v).flagsBusy s.curCtx (c.mode == .handler) = false → reads 0x011 ((s.wave v).wxf.zeroExtend 64)))

/-- R160, R299. WRSR completes where the mode and the value allow it, and is the illegal-instruction trap elsewhere: a read-only
register; a trap register in user mode; a trap that the context may not enable; a level it was not created for; a wave that the role
does not have. -/
def Obligations.SpecialRegisterWrites : Prop :=
  ∀ (s : State) (a : Reg) (n : BitVec 12), Acting s → specialRegs.contains n.toNat = true →
    let c := s.cur
    let k := s.curCtx
    let de := (s.dctx c.ctxid).desc
    let v := s.rd a
    let writes (n : BitVec 12) (c' : Context) : Prop := Becomes s (stepped 4 c') (exec (.wrsr n a) s)
    let illegalAt (n : BitVec 12) : Prop := exec (.wrsr n a) s = commit (illegal (.wrsr n a)) s
    (c.mode = .handler →
      writes 0x014 { c with trap := { c.trap with pc := v } } ∧ writes 0x015 { c with trap := { c.trap with info0 := v } } ∧
      writes 0x016 { c with trap := { c.trap with info1 := v } } ∧ writes 0x017 { c with trap := { c.trap with info2 := v } } ∧
      writes 0x018 { c with trap := { c.trap with info3 := v } } ∧ writes 0x01A { c with trap := { c.trap with epc := v } } ∧
      writes 0x013 { c with trap := { c.trap with cause := v &&& 0x13F } }) ∧
    (c.mode = .user → 0x013 ≤ n.toNat → n.toNat ≤ 0x018 ∨ n = 0x01A → illegalAt n) ∧
    (n.toNat < 0x010 ∨ n = 0x019 ∨ 0x020 ≤ n.toNat ∧ n ≠ 0x040 → illegalAt n) ∧
    (v.truncate 4 &&& ~~~ de.traps = 0 → writes 0x010 { c with xctl := v.truncate 4 }) ∧
    (v.truncate 4 &&& ~~~ de.traps ≠ 0 → illegalAt 0x010) ∧
    (de.compats.getLsbD (if v.getLsbD 0 then 1 else 0) = true → writes 0x040 { c with compat := v.getLsbD 0 }) ∧
    (de.compats.getLsbD (if v.getLsbD 0 then 1 else 0) = false → illegalAt 0x040) ∧
    (v.toNat < c.nwaves → writes 0x012 { c with wsel := v }) ∧ (c.nwaves ≤ v.toNat → illegalAt 0x012) ∧
    (s.selWave k = none → illegalAt 0x011) ∧
    (∀ u, s.selWave k = some u → (s.wave u).flagsBusy k (c.mode == .handler) = false → u < s.waves.length →
      ∃ t, exec (.wrsr 0x011 a) s = .next t ∧ t.cur = stepped 4 c ∧ t.wave u = { s.wave u with wxf := v.truncate 7 } ∧
        (∀ j, j ≠ u → t.wave j = s.wave j) ∧ SameBut [.ctxs, .waves] s t)

/-- R28, R152 to R156. WENTER with room opens a frame on top of the old one; where the frame does not fit it puts a spill of the lowest
registers behind the words of each wave of the role, and from the sixteenth saved frame on the first of them writes the stack entry to the
spill region; WLEAVE goes back to the frame it saved, with a reload of registers that have left, waits for an entry that the spill region
holds, and takes the data-poison trap for one that read back poisoned. Either is illegal with an open capture or behind an open chain. -/
def Obligations.RegisterWindow : Prop :=
  ∀ (s : State) (n : BitVec 5), Acting s →
    let c := s.cur
    let win := c.win
    let frame := 32 * n.toNat
    let open_ := c.em.capOpen = true ∨ c.chainOpen = true
    (open_ → exec (.wenter n) s = commit (illegal (.wenter n)) s ∧ exec .wleave s = commit (illegal .wleave) s) ∧
    (¬ open_ → frame ≤ 768 → (c.nwaves = 0 ∨ frame ≤ c.width ∧ win.base + win.frame + frame ≤ win.lo + c.width) →
      win.stack.length < 16 → win.popPending = false →
      Becomes s (stepped 4 { c with win :=
        { win with
          base := win.base + win.frame, frame := frame, stack := (win.base, win.frame) :: win.stack, popPending := false
          popRead := none, popBad := none } }) (exec (.wenter n) s)) ∧
    (let top := win.base + win.frame + frame
     ¬ open_ → frame ≤ 768 → 0 < c.nwaves → frame ≤ c.width → c.width < top - win.lo →
      512 + 4 * (top - c.width) ≤ (s.dctx c.ctxid).desc.spill * 512 → win.stack.length < 16 → win.popPending = false →
      c.em.seq.busy = false → (s.roleWaves s.curCtx).Nodup → (∀ v ∈ s.roleWaves s.curCtx, v < s.waves.length) →
      ∃ t, exec (.wenter n) s = .next t ∧ SameBut [.ctxs, .waves] s t ∧ (∀ j, j ≠ s.curCtx → t.ctx j = s.ctx j) ∧
        t.cur = stepped 4 { c with win :=
          { base := win.base + win.frame, frame := frame, lo := top - c.width, stack := (win.base, win.frame) :: win.stack
            popPending := false, popRead := none, popBad := none } } ∧
        (∀ v ∈ s.roleWaves s.curCtx,
          t.wave v = { s.wave v with stream := (s.wave v).stream ++ [.spill win.lo (top - c.width) none] }) ∧
        ∀ v, v ∉ s.roleWaves s.curCtx → t.wave v = s.wave v) ∧
    (let top := win.base + win.frame + frame
     let lo := if c.width < top - win.lo then top - c.width else win.lo
     ¬ open_ → frame ≤ 768 → 0 < c.nwaves → frame ≤ c.width →
      (c.width < top - win.lo → 512 + 4 * (top - c.width) ≤ (s.dctx c.ctxid).desc.spill * 512) →
      16 ≤ win.stack.length → win.stack.length < 80 → win.popPending = false →
      c.em.seq.busy = false → (s.roleWaves s.curCtx).Nodup → (∀ v ∈ s.roleWaves s.curCtx, v < s.waves.length) →
      ∃ t, exec (.wenter n) s = .next t ∧ SameBut [.ctxs, .waves] s t ∧ (∀ j, j ≠ s.curCtx → t.ctx j = s.ctx j) ∧
        t.cur = stepped 4 { c with win :=
          { base := win.base + win.frame, frame := frame, lo := lo, stack := (win.base, win.frame) :: win.stack
            popPending := false, popRead := none, popBad := none } } ∧
        (∀ (i v : Nat), (s.roleWaves s.curCtx)[i]? = some v →
          t.wave v = { s.wave v with stream := (s.wave v).stream ++
            [.spill win.lo lo (if i = 0 then some (win.stack.length, win.base, win.frame) else none)] }) ∧
        ∀ v, v ∉ s.roleWaves s.curCtx → t.wave v = s.wave v) ∧
    (¬ open_ → frame ≤ 768 → c.nwaves = 0 ∨ frame ≤ c.width → win.stack.length = (if 0 < c.nwaves then 80 else 16) →
      exec (.wenter n) s = commit (trapNow (windowRecord 1 frame)) s) ∧
    (¬ open_ → 0 < c.nwaves → 16 < win.stack.length → win.popBad = none → win.popPending = false → c.em.seq.busy = false →
      ∀ v rest, s.roleWaves s.curCtx = v :: rest → v < s.waves.length →
      ∃ t, exec .wleave s = .next t ∧ SameBut [.ctxs, .waves] s t ∧ (∀ j, j ≠ s.curCtx → t.ctx j = s.ctx j) ∧
        t.cur = Context.stall { c with win := { win with popPending := true } } .window ∧
        t.wave v = { s.wave v with stream := (s.wave v).stream ++ [.reload 0 0 (some (win.stack.length - 1))] } ∧
        ∀ u, u ≠ v → t.wave u = s.wave u) ∧
    (¬ open_ → 0 < c.nwaves → 16 < win.stack.length → win.popBad = none → win.popPending = true → win.popRead = none →
      Becomes s (c.stall .window) (exec .wleave s)) ∧
    (∀ b f, ¬ open_ → win.stack ≠ [] → win.popBad = none →
      (if 0 < c.nwaves ∧ 16 < win.stack.length then win.popPending = true ∧ win.popRead = some (b, f) else win.stack.head? = some (b, f)) →
      c.em.seq.busy = false → (s.roleWaves s.curCtx).Nodup → (∀ v ∈ s.roleWaves s.curCtx, v < s.waves.length) →
      ∃ t, exec .wleave s = .next t ∧ SameBut [.ctxs, .waves] s t ∧ (∀ j, j ≠ s.curCtx → t.ctx j = s.ctx j) ∧
        t.cur = stepped 4 { c with win :=
          { base := b, frame := f, lo := min b win.lo, stack := win.stack.tail, popPending := false, popRead := none, popBad := none } } ∧
        (∀ v ∈ s.roleWaves s.curCtx, t.wave v =
          if 0 < c.nwaves ∧ b < win.lo then { s.wave v with stream := (s.wave v).stream ++ [.reload b win.lo none] } else s.wave v) ∧
        ∀ v, v ∉ s.roleWaves s.curCtx → t.wave v = s.wave v) ∧
    (¬ open_ → win.stack = [] → exec .wleave s = commit (trapNow (windowRecord 3 0)) s) ∧
    (∀ b f rest, ¬ open_ → win.stack = (b, f) :: rest → win.stack.length ≤ 16 → win.lo ≤ b → win.popBad = none →
      Becomes s (stepped 4 { c with win := { win with base := b, frame := f, stack := rest, popPending := false, popRead := none } })
        (exec .wleave s)) ∧
    (∀ va, ¬ open_ → win.stack ≠ [] → win.popBad = some va → c.mode = .user → (s.dctx c.ctxid).desc.tvec ≠ 0 →
      ∃ t, exec .wleave s = .next t ∧ t.cur.mode = .handler ∧ t.cur.trap.cause = 18 ∧ t.cur.trap.info0 = va ∧ t.cur.trap.info1 = 5 ∧
        t.cur.trap.epc = c.pc ∧ t.cur.win = { win with popPending := false, popBad := none }) ∧
    (¬ open_ → frame ≤ 768 → 0 < c.nwaves → c.width < frame → exec (.wenter n) s = commit (trapNow (windowRecord 0 frame)) s)

/-! ### Emission, stretches, votes -/

/-- R41 to R44, R47 to R49, R52 to R59, R63, R64, R203, R213 to R215, Table 2.14. A lane word, or a pair, that passes its checks and finds
room is pushed as one push: the PC steps over it, the chain state follows it, and every target wave's buffer has each word at its end, with
the payloads of its scalar and hole operands in all three source fields; one that must wait stalls and pushes nothing. What emission
refuses: a reserved operation, a modifier or an operand value that the word does not admit, a register outside the frame or not aligned, a
bad control word, a scalar register under a capture, S without a written register, a chain of more than 8 words, a pair that breaks a rule
of R57 or R58, and a latch read that R54 forbids; the trap names the first check that fails. -/
def Obligations.LaneWordEmission : Prop :=
  ∀ (s : State) (w : Word), Acting s →
    let c := s.cur
    let k := s.curCtx
    let e := emitted w.toNat
    let targets := s.targetWaves k c.em.target
    (∀ next words, words = e :: (match next with
        | some x => if e.w.p && x.toNat % 4 = 1 then [emitted x.toNat] else []
        | none => []) →
      (∀ r, s.emitTrap k words = some r → exec (.emitLaneWord w next) s = commit (trapNow r) s) ∧
      (s.emitTrap k words = none → c.mode = .user → c.em.seq.busy = true →
        Becomes s (c.stall .sequencer) (exec (.emitLaneWord w next) s)) ∧
      (∀ why, s.emitTrap k words = none → ¬ (c.mode = .user ∧ c.em.seq.busy = true) →
        s.pushWait k targets words (c.mode == .handler) = some why →
        Becomes s (c.stall why) (exec (.emitLaneWord w next) s))) ∧
    (∀ next words, words = e :: (match next with
        | some x => if e.w.p && x.toNat % 4 = 1 then [emitted x.toNat] else []
        | none => []) →
      s.emitTrap k words = none → ¬ (c.mode = .user ∧ c.em.seq.busy = true) → c.em.capOpen = false →
      s.pushWait k targets words (c.mode == .handler) = none → (∀ v ∈ targets, v < s.waves.length) → targets.Nodup →
      ∃ t, exec (.emitLaneWord w next) s = .next t ∧ t.cur.pc = c.pc + BitVec.ofNat 64 (8 * words.length) ∧
        t.cur.status = .running ∧ t.cur.chain = c.chain.after words ∧ (∀ r, t.cur.rd r = c.rd r) ∧
        t.cur.em.votes.length = c.em.votes.length + (words.filter isVote).length ∧ SameBut [.ctxs, .waves, .dev, .wgs] s t ∧
        (∀ j, j ≠ k → t.ctx j = s.ctx j) ∧ (∀ v, v ∉ targets → t.wave v = s.wave v) ∧
        ∀ v ∈ targets, ∃ xs : List StreamWord, xs.length = words.length ∧
          (∀ (n : Nat) (y : Emitted) (x : StreamWord), words[n]? = some y → xs[n]? = some x → Received c k y x) ∧
          if c.mode = .handler then (t.wave v).hbuf = (s.wave v).hbuf ++ xs ∧ (t.wave v).stream = (s.wave v).stream
          else (t.wave v).stream = (s.wave v).stream ++ xs.map .word ∧ (t.wave v).hbuf = (s.wave v).hbuf) ∧
    (s.emitTrap k [e] = none → ¬ (c.mode = .user ∧ c.em.seq.busy = true) → c.em.capOpen = false → isVote e = false → isCounted e.op = false →
      e.op ≠ 0x98 → s.pushWait k targets [e] (c.mode == .handler) = none → (∀ v ∈ targets, v < s.waves.length) → targets.Nodup →
      ∃ t, exec (.emitLaneWord w none) s = .next t ∧ t.cur = (c.setChain (c.chain.after [e])).adv 8 ∧
        (∀ j, j ≠ k → t.ctx j = s.ctx j) ∧ SameBut [.ctxs, .waves, .dev] s t ∧ (∀ v, v ∉ targets → t.wave v = s.wave v) ∧
        ∀ v ∈ targets, ∃ x : StreamWord, t.wave v = (s.wave v).receive x e.w.c ∧ Received c k e x) ∧
    (∀ next, let second : List Emitted := match next with
        | some x => if e.w.p && x.toNat % 4 = 1 then [emitted x.toNat] else []
        | none => []
      let op := e.op
      let m := e.w.mod6.toNat
      let ch := c.chain
      let pos := if ch.lastC then ch.pos else 0
      let kinds := if ch.lastC then ch.kinds else []
      let both (p : Emitted → Prop) : Prop := p e ∧ ∃ y ∈ second, p y
      let one (p : Emitted → Prop) : Prop := ∃ y ∈ e :: second, p y
      op < 0xF0 → (∀ y ∈ second, y.op < 0xF0) →
      (0x1E ≤ op ∧ op < 0x40 ∨ 0x54 ≤ op ∧ op < 0x80 ∨ 0x88 ≤ op ∧ op < 0x90 ∨ 0x99 ≤ op ∧ op < 0xB0 ∨ 0xB6 ≤ op ∧ op < 0xE0 ∨ 0xE5 ≤ op →
        Refused s w next 3) ∧
      (op ∈ [0x00, 0x16, 0xB5, 0xE2, 0xE4] ∧ m ≠ 0 ∨ op ∈ [0x01, 0x02, 0x03, 0x05, 0x40, 0x41, 0x42, 0x43, 0x44, 0x45, 0x4B, 0x4C, 0x4D] ∧ 16 ≤ m ∨
        op ∈ [0x46, 0x47, 0x48, 0x4A, 0x4F] ∧ m % 4 ≠ 0 ∨ op ∈ [0xB2, 0xB3] ∧ m % 8 ≠ 4 ∧ m % 8 ≠ 5 → Refused s w next 4) ∧
      (∀ p ∈ e.operands, p.2 = 799 ∨ 976 ≤ p.2 ∨ p.1.kind = .none ∧ p.2 ≠ 798 ∨ p.1.kind = .w ∧ 768 ≤ p.2 ∧ p.2 ≠ 798 ∨
        p.1.kind = .q ∧ (p.2 < 773 ∨ 788 ≤ p.2) ∧ p.2 ≠ 798 ∨ p.1.kind = .v ∧ 768 ≤ p.2 ∨ p.1.kind = .p ∧ (p.2 < 772 ∨ 788 ≤ p.2) ∨
        p.1.kind = .x ∧ 772 ≤ p.2 ∧ p.2 < 788 ∨ p.1.kind = .u ∧ p.2 < 788 → Refused s w next 5) ∧
      (∀ p ∈ e.operands, p.1.kind.vector = true → p.2 < 768 → p.2 % (p.1.width / 32) ≠ 0 ∨ c.win.frame < p.2 + p.1.width / 32 →
        Refused s w next 6) ∧
      (let ctl := e.w.srcC.toNat
       op = 0xB2 ∧ (12 ≤ ctl % 16 ∨ 6 ≤ ctl / 64 % 8) ∨ op = 0xB3 ∧ (ctl % 16 ≠ 0 ∨ 6 ≤ ctl / 64 % 8 ∨ ctl < 512) ∨
        op = 0x98 ∧ s.barExists c.wg (ctl / 16) (ctl % 16) = false → Refused s w next 6) ∧
      (c.em.capOpen = true → (∃ p ∈ e.operands, 801 ≤ p.2 ∧ p.2 ≤ 831) → Refused s w next 7) ∧
      (e.w.s = true → 768 ≤ e.w.dst.toNat → Refused s w next 8) ∧
      (second = [] → 7 = pos → e.w.c = true → Refused s w next 9) ∧
      (e.w.p = true → second = [] ∨ (∃ y ∈ second, y.w.p = true) ∨ one (fun y => y.w.c ≠ e.w.c) ∨
        both (fun y => isMemory y.op = true) ∨ both (fun y => 0x80 ≤ y.op ∧ y.op ≤ 0x87) ∨
        one (fun y => 0x92 ≤ y.op ∧ y.op ≤ 0x98) ∨ one (fun y => isF64 y.op y.w = true) ∨
        (∃ b < 4, 2 < ((((e :: second).flatMap fun y => regReads y.op y.w).dedup).filter (· % 4 == b)).length) ∨
        4 < (((e :: second).flatMap fun y => regReads y.op y.w).dedup).length ∨
        (∃ y ∈ second, (∃ r, r ∈ regWrites e.op e.w ∧ r ∈ regWrites y.op y.w) ∨ ∃ r, r ∈ predWrites e.op e.w ∧ r ∈ predWrites y.op y.w) →
        Refused s w next 10) ∧
      (∀ p ∈ e.operands, p.1.kind.vector = true → 768 ≤ p.2 → p.2 < 772 →
        pos < p.2 - 767 ∨ kinds.getD (p.2 - 768) .empty = .empty ∨ p.1.width = 64 ∧ kinds.getD (p.2 - 768) .empty = .w32 →
        Refused s w next 11))

/-- R216, R219, R220, R227. A word emitted while a capture is open is pushed to every target wave, with its payloads, and recorded: its
bits, with s0 operands as zeros, stand in the loft area behind the words before it, and the entry counts it; beyond 256 words the entry
overflows and nothing is recorded; a record that must wait holds the word back, and one that fails halts the context, at once or, where
an earlier trap, a pause or a pre-emption comes first, at a later boundary (R162, R168). A record that meets poison owes the context the
data-poison trap (the model's choice, log entry 11). -/
def Obligations.CaptureRecords : Prop :=
  ∀ (s : State) (w : Word), Acting s → s.canonical →
    let c := s.cur
    let k := s.curCtx
    let e := emitted w.toNat
    let id := c.em.capId
    let d := c.em.entry id
    let targets := s.targetWaves k c.em.target
    s.emitTrap k [e] = none → c.mode = .user → c.em.seq.busy = false → c.em.capOpen = true → c.status ≠ .halted → id < 64 → isVote e = false →
    s.pushWait k targets [e] false = none → (∀ v ∈ targets, v < s.waves.length) → targets.Nodup →
    let va := c.loftAddr id d.len
    let way := s.loftAccess (ctxCluster k) k va .store
    let pushed (t : State) : Prop := (∀ v, v ∉ targets → t.wave v = s.wave v) ∧
      ∀ v ∈ targets, ∃ x : StreamWord, t.wave v = (s.wave v).receive x e.w.c ∧ Received c k e x
    (d.ovf = true ∨ 256 < d.len + 1 →
      ∃ t, exec (.emitLaneWord w none) s = .next t ∧ t.cur.pc = c.pc + 8 ∧ SameBut [.ctxs, .waves, .dev, .wgs] s t ∧ pushed t ∧
        t.cur.em.entry id = { d with ovf := true }) ∧
    (∀ loc x, d.ovf = false → d.len + 1 ≤ 256 → way = .ok loc x → x.walked = false →
      ∃ t, exec (.emitLaneWord w none) s = .next t ∧ t.cur.pc = c.pc + 8 ∧
        SameBut [.ctxs, .waves, .dev, .links, .wgs, .mem, .badDram, .badSram, .clusters, .dies] s t ∧ pushed t ∧
        t.cur.em.entry id = { d with len := d.len + 1, fmin := max d.fmin (regsEnd e.op e.w) } ∧
        t.readN loc 8 = recordedWord e ∧ ∀ l, l ∉ locRange loc 8 → t.byte l = s.byte l) ∧
    (d.ovf = false → d.len + 1 ≤ 256 → way = .wait → Becomes s (c.stall .held) (exec (.emitLaneWord w none) s)) ∧
    (∀ kind, d.ovf = false → d.len + 1 ≤ 256 → way = .fails kind →
      ∃ t, exec (.emitLaneWord w none) s = .next t ∧ pushed t ∧ t.cur.pc = c.pc + 8 ∧
        if c.pending = [] ∧ (s.wg c.wg).status = .running ∧ s.pausing (k / 16) = false then
          t.cur.status = .halted ∧ t.cur.trap.cause = 0x107 ∧ t.cur.trap.info0 = BitVec.ofNat 64 va ∧
            t.cur.trap.info1 = BitVec.ofNat 64 kind
        else t.cur.pending = c.pending ++ [{ record := loftFault va kind, seq := c.evSeq, wave := none }]) ∧
    (d.ovf = false → d.len + 1 ≤ 256 → way = .poison →
      ∃ t, exec (.emitLaneWord w none) s = .next t ∧ pushed t ∧ t.cur.pc = c.pc + 8 ∧ t.cur.em.entry id = d ∧
        t.cur.pending = c.pending ++ [{ record := loftPoison va, seq := c.evSeq, wave := none }]) ∧
    (w.toNat % 4 = 1 → (∀ p ∈ e.operands, p.2 ≠ 800) → recordedWord e = w.toNat)

/-- R212, R218, R221 to R223. The stretch instructions in the states that let them run; CAPE of a capture that has overflowed drops the
stretch, ends the capture and takes the stretch trap. R204, R229. VREAD takes the oldest vote
once every wave has answered, waits until then, and without a vote to come takes the vote trap. -/
def Obligations.StretchWordsComplete : Prop :=
  (∀ (s : State) (a b : Reg) (id : BitVec 6) (h : BitVec 3), Acting s →
     let c := s.cur
     let em := c.em
     let d := em.entry id.toNat
     let w := s.wg c.wg
     let x := s.rd a
     let y := s.rd b
     let bind := em.binds.getD h.toNat Binding.zero
     let quiet := em.capOpen = false ∧ c.chainOpen = false
     (quiet → x.toNat < 2 ^ min c.nwaves 16 →
       (y = 0 ∨ w.header.multicast = true ∧ c.mode = .user ∧ y.toNat < 2 ^ (s.gang w.gang).size ∧ y.toNat < 2 ^ 32) →
       Becomes s (stepped 4 { c with em := { em with target := { mask := x, grp := y } } }) (exec (.stgt a b) s)) ∧
     (quiet → c.mode = .user → em.replays id.toNat = false →
       Becomes s (stepped 4 { c with em := { em with
         dir := putAt DirEntry.zero em.dir id.toNat { DirEntry.zero with recd := true }, capOpen := true, capId := id.toNat } })
         (exec (.capb id) s)) ∧
     (em.capOpen = true → c.chainOpen = false → c.mode = .user → (em.entry em.capId).ovf = false →
       Becomes s (stepped 4 { c with em := { em with
         dir := putAt DirEntry.zero em.dir em.capId { em.entry em.capId with recd := false, defd := true }, capOpen := false } })
         (exec .cape s)) ∧
     (em.capOpen = true → c.chainOpen = false → c.mode = .user → (em.entry em.capId).ovf = true →
       ∃ t, exec .cape s = .next t ∧ t.cur.em.capOpen = false ∧
         t.cur.em.dir = putAt DirEntry.zero em.dir em.capId DirEntry.zero ∧ t.cur.trap.cause = 15 ∧ t.cur.trap.info0 = 2 ∧
         t.cur.trap.info1 = BitVec.ofNat 64 em.capId ∧ t.cur.trap.pc = c.pc ∧ t.cur.trap.epc = c.pc ∧ t.cur.s = c.s ∧
         (∀ j, j ≠ s.curCtx → t.ctx j = s.ctx j) ∧ t.mem = s.mem ∧
         if (s.dctx c.ctxid).desc.tvec = 0 then t.cur.status = .halted
         else t.cur.mode = .handler ∧ t.cur.em.capSuspended = false ∧ t.cur.pc = (s.dctx c.ctxid).desc.tvec) ∧
     (d.recd = false → d.defd = false →
       Becomes s (stepped 4 { c with em := { em with dir := putAt DirEntry.zero em.dir id.toNat DirEntry.zero } }) (exec (.cdrop id) s)) ∧
     (d.recd = false → d.defd = true → em.replays id.toNat = false →
       ∃ t, exec (.cdrop id) s = .next t ∧ SameBut [.ctxs, .clusters] s t ∧
         t.cur = stepped 4 { c with em := { em with dir := putAt DirEntry.zero em.dir id.toNat DirEntry.zero } }) ∧
     Becomes s (stepped 4 { c with em := { em with binds := putAt Binding.zero em.binds h.toNat { bind with base := x } } })
       (exec (.hset h a) s) ∧
     Becomes s (stepped 4 { c with em := { em with binds := putAt Binding.zero em.binds h.toNat { bind with step := x } } })
       (exec (.hstep h a) s) ∧
     (c.mode = .user → quiet → x.toNat < 2 ^ 32 → d.defd = true → d.fmin ≤ c.win.frame →
       ¬ (d.maskv = true ∧ em.target.many = true) → em.seq.busy = false →
       Becomes s (stepped 4 { c with em := { em with
         seq := { busy := x.toNat != 0, base := c.win.base, id := id.toNat, total := x.toNat
                  parts := (s.seqClusters s.curCtx em.target).map fun n => { cluster := n, rep := 0, next := 0 }
                  target := em.target, xctl := c.xctl, compat := c.compat, binds := em.binds, allocs := [], late := [] }
         binds := em.binds.map fun y => { y with base := y.base + x * y.step } } }) (exec (.rply id a) s)) ∧
     (c.mode = .user → quiet → x.toNat < 2 ^ 32 → d.defd = false →
       exec (.rply id a) s = commit (trapNow (stretchRecord 0 id.toNat)) s)) ∧
  (∀ (s : State) (d : Reg), Acting s →
     let c := s.cur
     (∀ v rest, c.em.votes = v :: rest → v.awaited = 0 →
       ∃ t, exec (.vread d) s = .next t ∧ OnlyCtx s.curCtx s t ∧ t.cur.rd d = (if d = 0 then 0 else v.value) ∧
         t.cur.em = { c.em with votes := rest } ∧ t.cur.pc = c.pc + 4 ∧ KeepsRegs d c t.cur) ∧
     (∀ v rest, c.em.votes = v :: rest → v.awaited ≠ 0 → Becomes s (c.stall .vote) (exec (.vread d) s)) ∧
     (c.em.votes = [] → c.em.seq.busy = false → exec (.vread d) s = commit (trapNow (.of 14)) s))

/-- R222 to R227. At each target cluster, a replay of an empty stretch ends at once; one whose next word that cluster's loft holds pushes
it to its target's waves there, with the values that the holes have in that repeat, and at the end of a repeat goes on with the next; a
line that the loft lacks is asked for. The other clusters' parts stay where they are. R168. No word enters a stream while a domain pauses. -/
def Obligations.ReplayPushes : Prop :=
  ∀ (s : State) (k cluster : Nat),
    let c := s.ctx k
    let q := c.em.seq
    let p := q.part cluster
    let len := (c.em.entry q.id).len
    let waves := s.seqWaves k cluster
    let moved (p' : SeqPart) : List SeqPart := q.parts.map fun x => if x.cluster = cluster then p' else x
    k < s.ctxs.length → (s.wg c.wg).ctxs[c.role]? = some k → s.seqMayPush k cluster = true →
    s.pausing (k / 16) = false → s.pausing cluster = false →
    (len = 0 → q.late = [] → c.status ≠ .ended → ∃ t q', exec (.replayPush ⟨k, cluster⟩) s = .next t ∧ OnlyCtx k s t ∧
      t.ctx k = { c with em := { c.em with seq := q' } } ∧ q'.parts = moved { p with rep := q.total, next := 0 } ∧
      q'.busy = q'.parts.any fun x => decide (x.rep < q.total)) ∧
    (∀ va w, len ≠ 0 → s.nextWords k cluster = [(va, .word w)] → q.late = [] → c.status ≠ .ended →
      s.pushWait k waves [emitted w] false = none → isVote (emitted w) = false → isCounted (emitted w).op = false →
      (emitted w).op ≠ 0x98 → (∀ v ∈ waves, v < s.waves.length) → waves.Nodup →
      ∃ t, exec (.replayPush ⟨k, cluster⟩) s = .next t ∧
        (let q' := (t.ctx k).em.seq
         q'.parts = moved (if len ≤ p.next + 1 then { p with rep := p.rep + 1, next := 0 } else { p with next := p.next + 1 }) ∧
           (q'.busy = q'.parts.any fun x => decide (x.rep < q.total)) ∧ q'.id = q.id ∧ q'.total = q.total ∧ q'.target = q.target ∧
           q'.binds = q.binds) ∧
        (∀ j, j ≠ k → t.ctx j = s.ctx j) ∧ SameBut [.ctxs, .waves, .dev, .clusters] s t ∧
        (∀ v, v ∉ waves → t.wave v = s.wave v) ∧
        ∀ v ∈ waves, ∃ x : StreamWord, t.wave v = (s.wave v).receive x (emitted w).w.c ∧ x.word = BitVec.ofNat 64 w ∧ x.emitter = k ∧
          x.xctl = q.xctl ∧ x.compat = q.compat ∧ x.base = q.base ∧ x.handler = false ∧ x.replay = some (q.id, p.rep) ∧
          Carries (fun _ => 0) (fun h => let b := q.binds.getD h Binding.zero
            b.base + BitVec.ofNat 64 p.rep * b.step) (emitted w) x) ∧
    (∀ va loc x, len ≠ 0 → s.nextWords k cluster = [(va, .miss)] → s.loftFilling cluster k va = false →
      s.loftAccess cluster k va .load = .ok loc x → x.walked = false → cluster < s.clusters.length →
      ∃ t f, exec (.replayPush ⟨k, cluster⟩) s = .next t ∧ SameBut [.clusters, .dies, .dev, .links] s t ∧
        (t.cluster cluster).loftFills = (s.cluster cluster).loftFills ++ [f] ∧ f.ctxid = c.ctxid ∧ f.line = va / 64 * 64 ∧
        f.waiter = some k ∧ f.pa = x.pa - va % 64) ∧
    (s.replayReady k cluster = false → Idle "REPLAY_PUSH" (exec (.replayPush ⟨k, cluster⟩) s))

/-! ### Barriers -/

/-- R366 to R368, R371, Table 16.2, at every level. An arrival that is not the last raises ARR and UNW and the count; the last one completes
the phase: the count returns to 0 and ARR clears in every role. BARW waits while the role's arrival is due or not yet complete, and
clears UNW and AW once it is, and what the arrivals of the completed phases have released is then visible to the context. A second arrival in one
phase takes the barrier trap, and so does an arrival at a barrier that does not
exist; BARW there is illegal. -/
def Obligations.BarrierWords : Prop :=
  ∀ (s : State) (lvl : BarLevel) (n : BitVec 4) (str : Bool), Acting s → s.cur.wg < s.wgs.length →
    let c := s.cur
    let w := s.wg c.wg
    let k := n.toNat
    let b := s.bar c.wg lvl.code k
    let bit : BitVec 4 := BitVec.ofNat 4 (2 ^ c.role)
    let bits := w.barBits lvl.code k
    let trap := commit (trapNow (barrierRecord lvl.code k)) s
    let exists_ := s.barExists c.wg lvl.code k = true
    let arrived := bits.arr.getLsbD c.role = true
    let F (s t : State) : Prop := SameBut [.ctxs, .wgs, .gangs, .launches, .mem] s t ∧ t.mem = s.mem
    w.gang < s.gangs.length → (∀ l, s.grid w = some l → l < s.launches.length) → c.wg ∈ s.barMembers c.wg lvl.code → c.role < 4 →
    (exists_ → ¬ arrived → b.arrived + 1 < b.perPhase →
      ∃ t, exec (.bara lvl n) s = .next t ∧ t.cur = stepped 4 c ∧ F s t ∧ (∀ g, g ≠ c.wg → t.wg g = s.wg g) ∧
        t.bar c.wg lvl.code k = { b with arrived := b.arrived + 1 } ∧
        (t.wg c.wg).barBits lvl.code k = { bits with arr := bits.arr ||| bit, unw := bits.unw ||| bit }) ∧
    (exists_ → ¬ arrived → b.arrived + 1 = b.perPhase →
      ∃ t, exec (.bara lvl n) s = .next t ∧ t.cur = stepped 4 c ∧ F s t ∧
        t.bar c.wg lvl.code k = { b with phases := b.phases + 1, arrived := 0 } ∧
        (t.wg c.wg).barBits lvl.code k = { bits with arr := 0, unw := bits.unw ||| bit } ∧
        ∀ g ∈ s.barMembers c.wg lvl.code, g < s.wgs.length → ((t.wg g).barBits lvl.code k).arr = 0) ∧
    (¬ exists_ ∨ arrived → exec (.bara lvl n) s = trap) ∧
    (exists_ → s.arrivalDue c.wg c.role lvl.code k = false → ¬ arrived →
      ∃ t, exec (.barw str lvl n) s = .next t ∧ t.cur = stepped 4 c ∧ F s t ∧ (∀ g, g ≠ c.wg → t.wg g = s.wg g) ∧
        (t.wg c.wg).barBits lvl.code k = { bits with unw := bits.unw &&& ~~~ bit, aw := bits.aw &&& ~~~ bit } ∧
        (bits.unw.getLsbD c.role = true → ∀ x ∈ t.vis.writes, (∃ r ∈ s.vis.phases, r.lvl = lvl.code ∧
          r.owner = s.barOwner c.wg lvl.code ∧ r.num = k ∧ r.phase < b.phases ∧ x.id ∈ r.ids) → x.pathsOf (s.ctxAgent s.curCtx) = allPaths)) ∧
    (exists_ → s.arrivalDue c.wg c.role lvl.code k = true ∨ arrived → Becomes s (c.stall .barrier) (exec (.barw str lvl n) s)) ∧
    (¬ exists_ → exec (.barw str lvl n) s = commit (illegal (.barw str lvl n)) s ∧ exec (.baraw str lvl n) s = trap) ∧
    (exists_ → ¬ arrived → bits.aw.getLsbD c.role = false → s.arrivalDue c.wg c.role lvl.code k = false → b.arrived + 1 = b.perPhase →
      ∃ t, exec (.baraw str lvl n) s = .next t ∧ t.cur = stepped 4 c ∧ F s t ∧
        t.bar c.wg lvl.code k = { b with phases := b.phases + 1, arrived := 0 } ∧
        (t.wg c.wg).barBits lvl.code k = { bits with arr := 0, unw := bits.unw &&& ~~~ bit, aw := bits.aw &&& ~~~ bit }) ∧
    (exists_ → ¬ arrived → bits.aw.getLsbD c.role = false → b.arrived + 1 < b.perPhase →
      ∃ t, exec (.baraw str lvl n) s = .next t ∧ t.cur = c.stall .barrier ∧ F s t ∧
        t.bar c.wg lvl.code k = { b with arrived := b.arrived + 1 } ∧
        (t.wg c.wg).barBits lvl.code k = { arr := bits.arr ||| bit, unw := bits.unw ||| bit, aw := bits.aw ||| bit })

/-! ### Tiles and the matrix queue -/

/-- R234. TCFG writes one field of one tile register when its value is legal, TRD reads it back; a tile the kernel does not have
is illegal. R234, Table 9.1: a field that TCFG may write reads back what was written, and no other field of the register
changes. -/
def Obligations.TileRegisters : Prop :=
  (∀ (s : State) (f : BitVec 3) (n : BitVec 4) (a d : Reg), Acting s → s.cur.wg < s.wgs.length →
     let c := s.cur
     let w := s.wg c.wg
     let k := n.toNat
     let x := s.rd a
     (k < w.header.tiles → tileValueOk f.toNat x = true →
       ∃ t, exec (.tcfg f n a) s = .next t ∧ t.cur = stepped 4 c ∧ SameBut [.ctxs, .wgs] s t ∧ (∀ g, g ≠ c.wg → t.wg g = s.wg g) ∧
         (t.wg c.wg).tiles.getD k Tile.start = (w.tiles.getD k Tile.start).setField f.toNat x ∧
         (∀ j, j ≠ k → (t.wg c.wg).tiles.getD j Tile.start = w.tiles.getD j Tile.start)) ∧
     (k < w.header.tiles → WritesTo s d ((w.tiles.getD k Tile.start).field f.toNat) (s.pcNow + 4) (exec (.trd f d n) s)) ∧
     (w.header.tiles ≤ k ∨ tileValueOk f.toNat x = false → exec (.tcfg f n a) s = commit (illegal (.tcfg f n a)) s) ∧
     (w.header.tiles ≤ k → exec (.trd f d n) s = commit (illegal (.trd f d n)) s)) ∧
  (∀ (t : Tile) (f g : Nat) (x : Word), f < 8 → g < 8 → tileValueOk f x = true →
     (t.setField f x).field f = x ∧ (f ≠ g → (t.setField f x).field g = t.field g))

/-- R238 to R241, R245, R266, R271, R358. A matrix command that passes its checks and finds room in its workgroup's queue of four is queued
with the next sequence number, behind the accesses of its context; it waits while the queue is full, while the gang is being saved (log
entry 102, the model's choice), and with acquire until the emitted words have retired. MWAIT passes once that many commands are done, and
their writes then happen before the context's accesses. -/
def Obligations.MatrixCommandsQueue : Prop :=
  ∀ (s : State) (a : Reg) (acc : BitVec 3) (ml : MloopArgs) (md : MdrainArgs), Acting s → s.cur.wg < s.wgs.length →
    let c := s.cur
    let w := s.wg c.wg
    let queued (op : MatrixOp) (n : Nat) (acquire : Bool) (r : Result) : Prop :=
      ∃ t q, r = .next t ∧ t.cur = stepped n c ∧ SameBut [.ctxs, .wgs, .mem] s t ∧ Issues s t (.matrix c.wg (w.mseq + 1).toNat) acquire ∧
        (∀ g, g ≠ c.wg → t.wg g = s.wg g) ∧ (t.wg c.wg).mqueue = w.mqueue ++ [q] ∧ q.op = op ∧ q.num = w.mseq + 1 ∧ (t.wg c.wg).mseq = w.mseq + 1 ∧
        q.role = c.role ∧ q.compat = c.compat ∧ (t.wg c.wg).mdone = w.mdone
    let right := c.rights.getLsbD 1 = true
    let room := w.status ≠ .saving ∧ w.mqueue.length < 4
    (right → acc.toNat < w.header.accs → room → queued (.mclr acc.toNat) 4 false (exec (.mclr acc) s)) ∧
    (right → acc.toNat < w.header.accs → w.status ≠ .saving → 4 ≤ w.mqueue.length → Becomes s (c.stall .matrix) (exec (.mclr acc) s)) ∧
    (right → acc.toNat < w.header.accs → w.status = .saving → Becomes s (c.stall .queueFull) (exec (.mclr acc) s)) ∧
    (let tA := w.tile ml.tA.toNat
     let tB := w.tile ml.tB.toNat
     right → mloopLegal w ml = true → mloopMisaligned tA tB ml = none →
      (∀ j < ml.steps.toNat,
        s.lowestRefused w ⟨true, false⟩ (stepAddrs tA tB (stepBase tA ml.incA j) (stepBase tB ml.incB j) j) = none) →
      (room → ml.acquire = false ∨ s.drained s.curCtx = true → queued (.mloop ml) 16 ml.acquire (exec (.mloop ml) s)) ∧
      (w.status ≠ .saving → ml.acquire = true → s.drained s.curCtx = false → Becomes s (c.stall .drain) (exec (.mloop ml) s))) ∧
    (let t := w.tile md.tD.toNat
     right → mdrainLegal w md = true → t.misaligned t.base = none →
      s.lowestRefused w (drainNeed md) (t.dataAddrs t.base true t.rows t.cols) = none →
      room → queued (.mdrain md) 16 false (exec (.mdrain md) s)) ∧
    ((s.rd a).toInt ≤ w.mdone.toNat → ∃ t, exec (.mwait a) s = .next t ∧ t.cur = stepped 4 c ∧ (∀ j, j ≠ s.curCtx → t.ctx j = s.ctx j) ∧
      SameBut [.ctxs, .mem] s t ∧ t.mem = s.mem ∧
      ∀ x ∈ t.vis.writes, ∀ m, x.agent = .matrix c.wg m → (m : Int) ≤ (s.rd a).toInt → x.before (s.ctxAgent s.curCtx) = true) ∧
    (w.mdone.toNat < (s.rd a).toInt → Becomes s (c.stall .matrix) (exec (.mwait a) s))

/-- Table 6.11, R240, R241, R245, R278, R290, R321, R327. Without its right, every word of the copy, matrix and queue groups takes the rights trap, naming the bit. -/
def Obligations.RightsTraps : Prop :=
  ∀ (s : State) (d a : Reg) (wm : BitVec 4) (ev : WmEvent) (q : BitVec 8) (acc : BitVec 3) (cp : CopyArgs) (ml : MloopArgs) (md : MdrainArgs)
    (nr : NrecArgs),
    let traps (bit : Nat) (i : Instr) : Prop :=
      s.cur.rights.getLsbD bit = false → exec i s = commit (trapNow (.of 10 (BitVec.ofNat 64 (2 ^ bit)))) s
    traps 0 (.copy cp) ∧ traps 0 (.wmrd d wm) ∧ traps 0 (.wmwait ev wm a) ∧ traps 0 (.wmfree wm) ∧ traps 0 (.cpkill wm) ∧
    traps 1 (.mloop ml) ∧ traps 1 (.mdrain md) ∧ traps 1 (.mclr acc) ∧
    traps 2 (.qpush d a q) ∧ traps 2 (.qpop d a q) ∧ traps 2 (.qsig d a q) ∧ traps 2 (.qstat d a q) ∧ traps 2 (.nrec nr)

/-! ### Watermarks, copies, collectives -/

/-- R266, R280, R290, R291, R294. WMRD reads a register's status word; WMWAIT passes when its event has happened, and the writes of the copy
whose completion it has so observed, up to the index it waited for, then happen before the context's accesses; it waits when the event has
not happened, and remembers its copy; it passes once another copy has replaced that one, or a kill has freed the register, which shows it no
completion, and traps on a poisoned copy; WMFREE and CPKILL free the register, and its binding count stays.
Table 11.3: the fields of a status word, and R290: what each event waits for. -/
def Obligations.WatermarkWords : Prop :=
  (∀ (s : State) (d a : Reg) (wm : BitVec 4) (ev : WmEvent), Acting s → s.cur.wg < s.wgs.length → s.cur.rights.getLsbD 0 = true →
     let c := s.cur
     let w := s.wg c.wg
     let m := w.marks.getD wm.toNat Watermark.start
     let freed (i : Instr) : Prop :=
       ∃ t, exec i s = .next t ∧ t.cur.pc = c.pc + 4 ∧ SameBut [.ctxs, .wgs, .gangs, .launches] s t ∧
         (t.wg c.wg).marks.getD wm.toNat Watermark.start = { m with bound := none }
     let waits := m.wait ev (s.rd a) c.waits
     let seen := s.observed s.curCtx c.wg wm.toNat ev (s.rd a)
     WritesTo s d m.status (s.pcNow + 4) (exec (.wmrd d wm) s) ∧
     (waits = .done → ∃ t, exec (.wmwait ev wm a) s = .next t ∧ t.cur = stepped 4 c ∧ (∀ j, j ≠ s.curCtx → t.ctx j = s.ctx j) ∧
       SameBut [.ctxs, .mem] s t ∧ t.mem = s.mem ∧ (seen = none → t.vis = s.vis) ∧
       ∀ e, seen = some e → let lim := if ev = .count then min ((s.rd a).toNat % 2 ^ 40) e.len else e.len
         ∀ x ∈ t.vis.writes, x.agent = .copy c.wg e.stamp → 0 < lim → x.num ≤ lim → x.before (s.ctxAgent s.curCtx) = true) ∧
     (∀ b, ev ≠ .count → m.bound = some b → c.waits = none ∨ c.waits = some b.stamp →
       ∃ e, seen = some e ∧ e.stamp = b.stamp.toNat ∧ e.len = b.len) ∧
     (∀ st, ev ≠ .count → c.waits = some st → (∀ b, m.bound = some b → b.stamp ≠ st) →
       (seen.isSome = true ↔ ∃ e ∈ s.vis.ended, e.wg = c.wg ∧ e.reg = wm.toNat ∧ e.stamp = st.toNat)) ∧
     (waits = .wait →
       Becomes s { c.stall .watermark with waits := if ev = .count then none else c.waits <|> m.bound.map (·.stamp) }
         (exec (.wmwait ev wm a) s)) ∧
     (∀ r, waits = .trap r → exec (.wmwait ev wm a) s = commit (trapNow r) s) ∧
     (m.bindWait = .free → freed (.wmfree wm)) ∧ freed (.cpkill wm) ∧
     (m.bindWait = .wait → Becomes s (c.stall .watermark) (exec (.wmfree wm) s))) ∧
  (∀ (m : Watermark) (b : Bound) (v : Word),
     (m.bound = none → m.status.toNat = m.bc.toNat * 2 ^ 48 ∧ (∀ ev st, ev ≠ .count → m.wait ev v st = .done)) ∧
     (m.bound = some b → b.count < 2 ^ 40 →
       m.status.toNat = m.bc.toNat * 2 ^ 48 + b.state.code * 2 ^ 44 + (if b.srcf then 2 ^ 40 else 0) + b.count ∧
       (∀ ev st, ev ≠ .count → st ≠ b.stamp → m.wait ev v (some st) = .done) ∧
       (∀ st, st = none ∨ st = some b.stamp →
         (b.srcf = true → m.wait .srcFree v st = .done) ∧
         (b.state = .published → m.wait .published v st = .done ∧ m.wait .landed v st = .done) ∧
         (b.state = .landed → m.wait .landed v st = .done ∧ m.wait .published v st = .wait) ∧
         (b.state = .issued ∨ b.state = .landing → m.wait .landed v st = .wait) ∧
         (b.state = .poisoned → m.wait .landed v st = .trap b.poisonRecord) ∧
         let far := (m.bc - BitVec.ofNat 16 (v.toNat / 2 ^ 48)).toNat
         (0x8000 ≤ far → m.wait .count v st = .wait) ∧ (0 < far → far < 0x8000 → m.wait .count v st = .done) ∧
         (far = 0 → min (v.toNat % 2 ^ 40) b.len ≤ b.count → m.wait .count v st = .done) ∧
         (far = 0 → b.count < min (v.toNat % 2 ^ 40) b.len →
           m.wait .count v st = if b.state = .poisoned then .trap b.poisonRecord else .wait))))

/-- R266, R271, R278, R279, R281, R286, R358. A COPY whose geometry, spans and register allow it binds its watermark register:
state ISSUED, COUNT 0, the next stamp, the binding count one higher; the instruction completes before the copy does, and the copy's accesses
stand behind those of its context. One of no byte is LANDED at its issue, and with nothing left to release PUBLISHED in the same step. It
waits while the gang is being saved (log entry 102, the model's choice), and with acquire until the
emitted words have retired. -/
def Obligations.CopyBinds : Prop :=
  ∀ (s : State) (m : CopyArgs), Acting s → s.cur.wg < s.wgs.length → s.cur.rights.getLsbD 0 = true →
    let c := s.cur
    let w := s.wg c.wg
    let n := m.wm.toNat
    let b := copyBound m c
    let old := w.marks.getD n Watermark.start
    (m.arrive = true → m.barrier.toNat < w.header.bars) → b.geometryOk m.dims.toNat = true →
    (0 < b.len → s.spanFault w false b.src (b.srcAt (b.len - 1) - b.src + 1) = none ∧
      s.spanFault w true b.dst (b.dstAt (b.len - 1) - b.dst + 1) = none ∧ b.overlaps w = false ∧
      ∀ l, s.spanLoc w b.dst = some l → s.comparatorsFull l = false) → old.bindWait = .free →
    (w.status = .saving → Becomes s (c.stall .queueFull) (exec (.copy m) s)) ∧
    (w.status ≠ .saving → m.acquire = true → s.drained s.curCtx = false → Becomes s (c.stall .drain) (exec (.copy m) s)) ∧
    (b.len = 0 → w.status ≠ .saving → m.acquire = false ∨ s.drained s.curCtx = true →
     ∃ t nb, exec (.copy m) s = .next t ∧ (t.wg c.wg).marks.getD n Watermark.start = { bc := old.bc + 1, bound := some nb } ∧
      nb.state = .published ∧ nb.srcf = true ∧ nb.count = 0 ∧ nb.len = 0 ∧ nb.armed = false ∧ nb.stamp = s.dev.stamp ∧ t.mem = s.mem ∧
      t.dev.stamp = s.dev.stamp + 1 ∧
      (m.arrive = false → t.cur = stepped 16 c ∧ SameBut [.ctxs, .wgs, .dev, .mem] s t ∧ ∀ g, g ≠ c.wg → t.wg g = s.wg g)) ∧
    (0 < b.len → w.status ≠ .saving → m.acquire = false ∨ s.drained s.curCtx = true →
     ∃ t nb, exec (.copy m) s = .next t ∧ t.cur = stepped 16 c ∧ SameBut [.ctxs, .wgs, .dev, .mem] s t ∧
      Issues s t (.copy c.wg s.dev.stamp.toNat) m.acquire ∧ (t.wg c.wg).marks.getD n Watermark.start = { bc := old.bc + 1, bound := some nb } ∧ nb.state = .issued ∧ nb.count = 0 ∧
      nb.stamp = s.dev.stamp ∧ nb.src = b.src ∧ nb.dst = b.dst ∧ nb.len = b.len ∧ nb.armed = (s.spanLoc w b.dst).isSome ∧
      t.dev = { s.dev with stamp := s.dev.stamp + 1 } ∧ ∀ g, g ≠ c.wg → t.wg g = s.wg g)

/-- R266, R271, R358, R416, R420, R421. A CRED that passes its checks binds its watermark register and takes its rank's next call number;
it waits as a COPY does. Its state is ISSUED, but POISONED where no link leads to a package that it needs. By the model's choice one
without destination bytes is ISSUED too, and takes part in the match (log entry 55), and none enters an engine while its gang is being saved
(log entry 102). -/
def Obligations.CredBinds : Prop :=
  ∀ (s : State) (m : CredArgs) (b : Bound), Acting s → s.cur.wg < s.wgs.length →
    let c := s.cur
    let w := s.wg c.wg
    let n := m.wm.toNat
    let old := w.marks.getD n Watermark.start
    s.credBound m c = some b → s.credTrap w (credBytes m.type) b = none → old.bindWait = .free →
    (∀ l, b.len ≠ 0 → s.spanLoc w b.dst = some l → s.comparatorsFull l = false) →
    (w.status = .saving → Becomes s (c.stall .queueFull) (exec (.cred m) s)) ∧
    (w.status ≠ .saving → m.acquire = true → s.drained s.curCtx = false → Becomes s (c.stall .drain) (exec (.cred m) s)) ∧
    (w.status ≠ .saving → m.acquire = false ∨ s.drained s.curCtx = true →
     ∃ t nb, exec (.cred m) s = .next t ∧ t.cur = stepped 16 c ∧ SameBut [.ctxs, .wgs, .dev, .mem] s t ∧
      Issues s t (.copy c.wg s.dev.stamp.toNat) m.acquire ∧ (t.wg c.wg).marks.getD n Watermark.start = { bc := old.bc + 1, bound := some nb } ∧ nb.stamp = s.dev.stamp ∧
      nb.kind = b.kind ∧ nb.len = b.len ∧
      nb.state = (if (s.packagesOf w b).any (fun p => s.packageWay p == .fails) then .poisoned else .issued) ∧
      ∀ h r root call cnt cm, b.kind = .cred m h r root call cnt → s.comm h = some cm →
        t.comm h = some { cm with calls := cm.calls.set r (call + 1) } ∧ ∀ x, x ≠ h → t.comm x = s.comm x)

/-! ### Lane words: the datapath -/

/-- R84 to R86, R180. VADD, VSUB, VMUL and VMAD on each element: the exact result wrapped, or clamped to the type with SAT raised when the
clamp changed it. -/
def Obligations.IntegerArithmeticWords : Prop :=
  ∀ (s : State) (w : LaneWord),
    let gives (op : Nat) (i : Instr) (F : Int → Int → Int → Int) : Prop :=
      LaneGives s op w (exec i s) (fun i => (intTy i.mod).width) fun i l v f =>
        let n := (intElem i.mod).1
        let u := bitAt i.mod 2
        let sat := bitAt i.mod 3
        let val (x j : Nat) : Int := elemVal u (elemOf n x j)
        let exact (j : Nat) : Int := F (val (i.a (intTy i.mod) l) j) (val (i.b (intTy i.mod) l) j) (val (i.c (intTy i.mod) l) j)
        (∀ j < (intElem i.mod).2, elemOf n v j =
          BitVec.ofInt n (if sat then max (elemMin n u) (min (elemMax n u) (exact j)) else exact j)) ∧
        (f = if sat = true ∧ ∃ j < (intElem i.mod).2, exact j < elemMin n u ∨ elemMax n u < exact j then 0x40 else 0)
    gives 0x01 (.vadd w) (fun a b _ => a + b) ∧ gives 0x02 (.vsub w) (fun a b _ => a - b) ∧
    gives 0x03 (.vmul w) (fun a b _ => a * b) ∧ gives 0x05 (.vmad w) (fun a b c => a * b + c)

/-- R84, R180, R87. The integer words without saturation, element by element; VDIV and VREM go through the divide unit. -/
def Obligations.IntegerLogicWords : Prop :=
  ∀ (s : State) (w : LaneWord),
    let gives (op : Nat) (i : Instr) (F : (n : Nat) → Bool → BitVec n → BitVec n → BitVec n) : Prop :=
      LaneGives s op w (exec i s) (fun i => (intTy i.mod).width) fun i l v f =>
        let n := (intElem i.mod).1
        f = 0 ∧ ∀ j < (intElem i.mod).2,
          elemOf n v j = F n (bitAt i.mod 2) (elemOf n (i.a (intTy i.mod) l) j) (elemOf n (i.b (intTy i.mod) l) j)
    gives 0x04 (.vmulh w) (fun n u x y => BitVec.ofInt n (elemVal u x * elemVal u y / 2 ^ n)) ∧
    gives 0x06 (.vmin w) (fun _ u x y => if elemVal u x ≤ elemVal u y then x else y) ∧
    gives 0x07 (.vmax w) (fun _ u x y => if elemVal u x ≤ elemVal u y then y else x) ∧
    gives 0x08 (.vabsd w) (fun n u x y => BitVec.ofNat n (elemVal u x - elemVal u y).natAbs) ∧
    gives 0x09 (.vand w) (fun _ _ x y => x &&& y) ∧ gives 0x0A (.vor w) (fun _ _ x y => x ||| y) ∧
    gives 0x0B (.vxor w) (fun _ _ x y => x ^^^ y) ∧ gives 0x0C (.vandn w) (fun _ _ x y => x &&& ~~~ y) ∧
    gives 0x0D (.vshl w) (fun n _ x y => x <<< (y.toNat % n)) ∧
    gives 0x0E (.vshr w) (fun n u x y => if u then x >>> (y.toNat % n) else x.sshiftRight (y.toNat % n)) ∧
    gives 0x0F (.vrot w) (fun n _ x y => x.rotateLeft (y.toNat % n)) ∧
    gives 0x12 (.vpopc w) (fun n _ x _ => BitVec.ofNat n ((List.range n).filter fun i => x.getLsbD i).length) ∧
    gives 0x13 (.vclz w) (fun n _ x _ => BitVec.ofNat n (((List.range n).find? fun i => x.getMsbD i).getD n)) ∧
    gives 0x14 (.vctz w) (fun n _ x _ => BitVec.ofNat n (((List.range n).find? fun i => x.getLsbD i).getD n)) ∧
    gives 0x15 (.vbrev w) (fun _ _ x _ => x.reverse) ∧ gives 0x1B (.vmov w) (fun _ _ x _ => x) ∧
    gives 0x17 (.vdiv w) (fun n u x y => if y = 0 then BitVec.allOnes n else BitVec.ofInt n ((elemVal u x).tdiv (elemVal u y))) ∧
    gives 0x18 (.vrem w) (fun n u x y => if y = 0 then x else BitVec.ofInt n ((elemVal u x).tmod (elemVal u y)))

/-- R181, R182, R185, R210, R244. Bit fields, byte permutation, addresses, packed dot products and bit planes. -/
def Obligations.FieldAndDotWords : Prop :=
  ∀ (s : State) (w : LaneWord),
    let field (n ctl : Nat) : Nat × Nat := (ctl % 256 % n, min (ctl / 256 % 256) (n - ctl % 256 % n))
    let dot (n cnt : Nat) (op : Nat) (i : Instr) : Prop :=
      LaneGives s op w (exec i s) (fun _ => 32) fun i l v f =>
        let au := bitAt i.mod 1
        let bu := bitAt i.mod 0
        let uu := au && bu
        let exact := elemVal uu (BitVec.ofNat 32 (i.c .i32 l)) +
          ((List.range cnt).map fun j => elemVal au (elemOf n (i.a .i32 l) j) * elemVal bu (elemOf n (i.b .i32 l) j)).sum
        (v < 2 ^ 32 ∧ BitVec.ofNat 32 v = BitVec.ofInt 32
          (if bitAt i.mod 3 then max (elemMin 32 uu) (min (elemMax 32 uu) exact) else exact)) ∧
        (f = if bitAt i.mod 3 = true ∧ (exact < elemMin 32 uu ∨ elemMax 32 uu < exact) then 0x40 else 0)
    (LaneGives s 0x10 w (exec (.vbfx w) s) (fun i => (intTy i.mod).width) fun i l v f =>
      let n := (intTy i.mod).width
      let p := field n (i.b .i32 l)
      let x := i.a (intTy i.mod) l / 2 ^ p.1 % 2 ^ p.2
      f = 0 ∧ v < 2 ^ n ∧ (v : Int) % 2 ^ n =
        (if bitAt i.mod 2 = false ∧ 0 < p.2 ∧ 2 ^ (p.2 - 1) ≤ x then (x : Int) - 2 ^ p.2 else x) % 2 ^ n) ∧
    (LaneGives s 0x11 w (exec (.vbfi w) s) (fun i => (intTy i.mod).width) fun i l v f =>
      let n := (intTy i.mod).width
      let p := field n (i.c .i32 l)
      f = 0 ∧ ∀ k < n, v.testBit k = if p.1 ≤ k ∧ k < p.1 + p.2 then (i.a (intTy i.mod) l).testBit (k - p.1)
        else (i.b (intTy i.mod) l).testBit k) ∧
    (LaneGives s 0x16 w (exec (.vpermb w) s) (fun _ => 32) fun i l v f =>
      f = 0 ∧ ∀ j < 4, elemOf 8 v j = if (i.b .i32 l).testBit (4 * j + 3) then 0
        else elemOf 8 (i.a .i32 l % 2 ^ 32 + 2 ^ 32 * i.c .i32 l) (i.b .i32 l / 2 ^ (4 * j) % 8)) ∧
    (LaneGives s 0x1D w (exec (.vlea w) s) (fun _ => 64) fun i l v f =>
      f = 0 ∧ v < 2 ^ 64 ∧ BitVec.ofNat 64 v = BitVec.ofNat 64 (i.a .i64 l) +
        (if bitAt i.mod 5 then (BitVec.ofNat 32 (i.b .i32 l)).signExtend 64 else (BitVec.ofNat 32 (i.b .i32 l)).zeroExtend 64) *
          BitVec.ofNat 64 (2 ^ (i.mod % 8))) ∧
    (LaneGives s 0xE4 w (exec (.vplane w) s) (fun _ => 32) fun i l v f =>
      f = 0 ∧ ∀ k < 32, v.testBit k = (decide (k < 8) && (i.a .i64 l).testBit (8 * k + 7 - i.b .i32 l % 8))) ∧
    dot 8 4 0xE0 (.vidot4 w) ∧ dot 4 8 0xE1 (.vidot8 w)

/-- R180, R183, R184, R197, R198, R209. VNOP writes nothing; comparisons and predicate logic write the predicate dst; VADDC adds a carry and
writes the carry out; VSEL selects; VPMOV copies between predicates and registers; VFENCE writes nothing. -/
def Obligations.PredicateWords : Prop :=
  ∀ (s : State) (w : LaneWord),
    let nothing (op : Nat) (i : Instr) : Prop := LaneGives s op w (exec i s) (fun _ => 0) fun _ _ _ f => f = 0
    nothing 0x00 (.vnop w) ∧ nothing 0xB5 (.vfence w) ∧
    (LaneTells s 0x1A w (exec (.vcmp w) s) fun i l p f =>
      let n := if bitAt i.mod 0 then 64 else 32
      let ty : SlotTy := if bitAt i.mod 0 then .i64 else .i32
      let u := bitAt i.mod 2
      let x := elemVal u (BitVec.ofNat n (i.a ty l))
      let y := elemVal u (BitVec.ofNat n (i.b ty l))
      f = 0 ∧ (i.mod / 8 = 0 → p = decide (x = y)) ∧ (i.mod / 8 = 1 → p = decide (x ≠ y)) ∧ (i.mod / 8 = 2 → p = decide (x < y)) ∧
        (i.mod / 8 = 3 → p = decide (x ≤ y)) ∧ (i.mod / 8 = 4 → p = decide (y < x)) ∧ (i.mod / 8 = 5 → p = decide (y ≤ x)) ∧
        (i.mod / 8 = 6 → p = decide (i.a ty l &&& i.b ty l ≠ 0))) ∧
    (LaneTells s 0x90 w (exec (.vplop w) s) fun i l p f => f = 0 ∧ p = i.mod.testBit (2 * i.a .i32 l + i.b .i32 l)) ∧
    (w.mod6.getLsbD 0 = true → LaneTells s 0x91 w (exec (.vpmov w) s) fun i l p f => f = 0 ∧ p = decide (i.a .i32 l ≠ 0)) ∧
    (w.mod6.getLsbD 0 = false → LaneGives s 0x91 w (exec (.vpmov w) s) (fun _ => 32) fun i l v f => f = 0 ∧ v = i.a .i32 l) ∧
    (LaneGives s 0x1C w (exec (.vsel w) s) (fun i => (intTy i.mod).width) fun i l v f =>
      f = 0 ∧ v = if i.c .i32 l = 1 then i.a (intTy i.mod) l else i.b (intTy i.mod) l) ∧
    (∀ i, LaneHead s 0x19 w i → ∃ o : LaneOut, LaneActs s i o (exec (.vaddc w) s) ∧
      let n := if bitAt i.mod 0 then 64 else 32
      let ty : SlotTy := if bitAt i.mod 0 then .i64 else .i32
      let sum (l : Nat) : Nat := i.a ty l + i.b ty l + i.c .i32 l
      o.width = n ∧ (∀ l, o.flags l = 0) ∧ (∀ l, o.vals l = sum l % 2 ^ n) ∧
      o.preds = if i.mod / 4 = 0 then [] else [(i.mod / 4, fun l => decide (2 ^ n ≤ sum l))])

/-- R111, R112, R187, R199, R200. The words that move values between the lanes of a segment, and those that combine them: add, minimum and
maximum of every type, VRED by the tree over the segment, VSCAN block by block from the segment's first lane, or with .seg from the last lane
up to this one whose head is set. -/
def Obligations.CrossLaneWords : Prop :=
  ∀ (s : State) (w : LaneWord),
    let ty (i : LaneIn) : SlotTy := if bitAt i.mod 0 then .i64 else .i32
    let sw (i : LaneIn) : Nat := max (s.wg i.w.wg).header.sw 1
    let first (i : LaneIn) (l : Nat) : Nat := l / sw i * sw i
    let F (i : LaneIn) (x y : Nat) : FRes :=
      let t := i.mod % 8
      let n := (scanTy t).width
      let least := elemVal (t % 2 == 1) (BitVec.ofNat n x) ≤ elemVal (t % 2 == 1) (BitVec.ofNat n y)
      let f := if t = 4 then f32 else f64
      let env := fenv .rne i.x.compat false
      if t < 4 then (if i.mod / 16 = 0 then (x + y) % 2 ^ n else if i.mod / 16 = 1 then (if least then x else y) else if least then y else x, 0)
      else if i.mod / 16 = 0 then f.add env x y else f.minmax env (decide (i.mod / 16 ≠ 1)) x y
    let leaf (i : LaneIn) (l : Nat) : Option FRes := if i.on l then some (i.a (scanTy (i.mod % 8)) l, 0) else none
    (LaneGives s 0x92 w (exec (.vshuf w) s) (fun i => (ty i).width) fun i l v f =>
      f = 0 ∧ v = i.a (ty i) (first i l + i.b .i32 l % sw i)) ∧
    (LaneGives s 0x93 w (exec (.vbcast w) s) (fun i => (ty i).width) fun i l v f =>
      f = 0 ∧ v = i.a (ty i) (first i l + i.b .i32 l % sw i)) ∧
    (LaneGives s 0x94 w (exec (.vrotl w) s) (fun i => (ty i).width) fun i l v f =>
      let x := l % sw i
      let k := i.b .i32 l % sw i
      f = 0 ∧ v = if bitAt i.mod 1 = true ∧ x < k then 0
        else i.a (ty i) (first i l + if k ≤ x then x - k else x + sw i - k)) ∧
    (LaneGives s 0x96 w (exec (.vred w) s) (fun i => (scanTy (i.mod % 8)).width) fun i l v f =>
      let t := i.mod % 8
      let lanes := (List.range (2 ^ (sw i).log2)).filterMap fun k =>
        if i.on (first i l + k) then some (i.a (scanTy t) (first i l + k)) else none
      let val (x : Nat) : Int := elemVal (t % 2 == 1) (BitVec.ofNat (scanTy t).width x)
      (t < 4 → f = 0 ∧ (i.mod / 16 = 0 → v = lanes.sum % 2 ^ (scanTy t).width) ∧
        (i.mod / 16 = 1 → ∀ x ∈ lanes, val v ≤ val x) ∧ (2 ≤ i.mod / 16 → ∀ x ∈ lanes, val x ≤ val v)) ∧
      ∃ node, LaneTree (F i) (leaf i) node ∧ (v, f) = (node (sw i).log2 (first i l)).getD (0, 0)) ∧
    (LaneGives s 0x95 w (exec (.vscan w) s) (fun i => (scanTy (i.mod % 8)).width) fun i l v f =>
      let t := i.mod % 8
      let lanes := (List.range (l + 1)).filterMap fun k =>
        if first i l ≤ k ∧ i.on k = true then some (i.a (scanTy t) k) else none
      (t < 4 → bitAt i.mod 3 = false → f = 0 ∧ (i.mod / 16 = 0 → v = lanes.sum % 2 ^ (scanTy t).width)) ∧
      ∃ p node blocks, first i l ≤ p ∧ p ≤ l ∧ (bitAt i.mod 3 = false → p = first i l) ∧
        (bitAt i.mod 3 = true → (p = first i l ∨ i.b .i32 p = 1) ∧ ∀ q, p < q → q ≤ l → i.b .i32 q ≠ 1) ∧
        LaneTree (F i) (leaf i) node ∧ ScanBlocks p l blocks ∧
        (v, f) = (blocks.foldl (fun acc b => joined (F i) acc (node b.2 b.1)) none).getD (0, 0))

/-! ### Lane words: floating point -/

/-- R186 to R195. The floating words issue and give, element by element, the operation of their type in the word's rounding mode and
level; VFCMP writes a predicate; VFDIV and VFSQRT go through the divide unit. R106 to R108, Table 4.7. A word of any kind raises the
arithmetic trap, with the record of its lanes and events, exactly where an active lane raises an event that it carries enabled. -/
def Obligations.FloatWords : Prop :=
  (∀ (i : LaneIn) (o : LaneOut), i.op < 256 →
    let raises (l : Nat) : Prop := l < 64 ∧ i.on l = true ∧
      ∃ p ∈ [(0, 5), (1, 0), (2, 1), (3, 2)], i.x.xctl.getLsbD p.1 = true ∧ (o.flags l).getLsbD p.2 = true
    ((∀ l, ¬ raises l) → i.arith o (i.result o) = none) ∧
    ((∃ l, raises l) → ∃ r, i.arith o (i.result o) = some r ∧ r.cause = 9 ∧ r.info0 = i.x.ssn ∧ r.info3 = 0 ∧
      (∀ l, r.info1.getLsbD l = true ↔ raises l) ∧ r.info2.toNat % 256 = i.op ∧
      (∀ n < 7, r.info2.getLsbD (8 + n) = (List.range 64).any fun l => i.on l && (o.flags l).getLsbD n) ∧
      (∀ id rep, i.x.replay = some (id, rep) → id < 64 → rep < 2 ^ 32 → i.w.wix < 16 →
        r.info2.toNat / 2 ^ 16 = i.w.wix + id * 2 ^ 4 + 2 ^ 10 + rep * 2 ^ 16))) ∧
  ∀ (s : State) (w : LaneWord),
    let gives (op : Nat) (i : Instr) (F : Fmt → FEnv → Nat → Nat → Nat → FRes) : Prop :=
      LaneGives s op w (exec i s) (fun i => (floatTy (i.mod / 4)).width) fun i l v f =>
        let t := i.mod / 4
        let n := (floatElem t).1
        let x (ix : Nat) : FRes := F (floatFmt t) i.env (elem n (i.a (floatTy t) l) ix) (elem n (i.b (floatTy t) l) ix) (elem n (i.c (floatTy t) l) ix)
        (∀ j < (floatElem t).2, elem n v j = (x j).1 % 2 ^ n) ∧
        ∀ b, f.getLsbD b = (List.range (floatElem t).2).any fun j => (x j).2.getLsbD b
    gives 0x40 (.vfadd w) (fun f e a b _ => f.add e a b) ∧ gives 0x41 (.vfsub w) (fun f e a b _ => f.sub e a b) ∧
    gives 0x42 (.vfmul w) (fun f e a b _ => f.mul e a b) ∧ gives 0x43 (.vfmulz w) (fun f e a b _ => f.mulz e a b) ∧
    gives 0x44 (.vfma w) (fun f e a b c => f.fma e a b c) ∧ gives 0x45 (.vfmaz w) (fun f e a b c => f.fmaz e a b c) ∧
    gives 0x46 (.vfmin w) (fun f e a b _ => f.minmax e false a b) ∧ gives 0x47 (.vfmax w) (fun f e a b _ => f.minmax e true a b) ∧
    gives 0x48 (.vfsgn w) (fun f _ a b c => (f.sgn a b c, 0)) ∧ gives 0x4B (.vfdiv w) (fun f e a b _ => f.div e a b) ∧
    gives 0x4C (.vfsqrt w) (fun f e a _ _ => f.sqrt e a) ∧ gives 0x4D (.vfrnd w) (fun f e a _ _ => f.rnd e a) ∧
    (LaneTells s 0x49 w (exec (.vfcmp w) s) fun i l p f =>
      let ty := floatTy (i.mod % 4)
      (p, f) = (floatFmt (i.mod % 4)).cmp (i.mod / 8) (bitAt i.mod 2) (i.a ty l) (i.b ty l)) ∧
    (LaneGives s 0x4A w (exec (.vfclass w) s) (fun _ => 32) fun i l v f =>
      let t := i.mod / 4
      f = 0 ∧ if (floatElem t).2 = 1 then v = (floatFmt t).classMask i.env (i.a (floatTy t) l)
        else ∀ j < 2, elem 16 v j = (floatFmt t).classMask i.env (elem 16 (i.a (floatTy t) l) j)) ∧
    (LaneGives s 0x4E w (exec (.vfscale w) s) (fun i => (floatTy (i.mod / 4)).width) fun i l v f =>
      let t := i.mod / 4
      let half (j : Nat) : FRes := (floatFmt t).scale i.env (elem 16 (i.a (floatTy t) l) j) (BitVec.ofNat 16 (elem 16 (i.b .i16x2 l) j)).toInt
      ((floatElem t).2 = 1 → (v, f) = (floatFmt t).scale i.env (i.a (floatTy t) l) (BitVec.ofNat 32 (i.b .i32 l)).toInt) ∧
      ((floatElem t).2 = 2 → f = (half 0).2 ||| (half 1).2 ∧ ∀ j < 2, elem 16 v j = (half j).1 % 2 ^ 16)) ∧
    (LaneGives s 0x4F w (exec (.vfxtr w) s)
        (fun i => if w.srcB.toNat ≠ 832 then (floatTy (i.mod / 4)).width else 32) fun i l v f =>
      let t := i.mod / 4
      let half (j : Nat) : FRes := (if w.srcB.toNat ≠ 832 then (floatFmt t).significand i.env (elem 16 (i.a (floatTy t) l) j)
        else (floatFmt t).exponent i.env 16 (elem 16 (i.a (floatTy t) l) j))
      ((floatElem t).2 = 2 → f = (half 0).2 ||| (half 1).2 ∧ ∀ j < 2, elem 16 v j = (half j).1 % 2 ^ 16) ∧
      ((floatElem t).2 = 1 → if w.srcB.toNat ≠ 832 then v = ((floatFmt t).significand i.env (i.a (floatTy t) l % 2 ^ (floatElem t).1)).1 % 2 ^ (floatElem t).1
        else (v, f) = (floatFmt t).exponent i.env 32 (i.a (floatTy t) l))) ∧
    (LaneGives s 0x53 w (exec (.vfdot2 w) s) (fun _ => 32) fun i l v f =>
      let t := i.mod / 4
      let x (n j : Nat) : FVal := widenNan (floatFmt t) ((floatFmt t).read i.env (elem 16 n j))
      let a := i.a (floatTy t) l
      let b := i.b (floatTy t) l
      let c := f32.decode (i.c .f32 l)
      (v, f) = f32.dot i.env [x a 0, x a 1, x b 0, x b 1, c] [(x a 0, x b 0), (x a 1, x b 1)] [c]) ∧
    (LaneGives s 0x50 w (exec (.vcvtf w) s) (fun i => (convertForm 0x50 i.mod).dst.width) fun i l v f => (v, f) = i.cvtf l) ∧
    (LaneGives s 0x51 w (exec (.vcvtfi w) s) (fun i => if 2 ≤ i.mod / 4 % 4 then 64 else 32) fun i l v f =>
      let t := i.mod / 16
      (v, f) = Fmt.toInteger (Rounding.ofCode (i.mod % 4)) (if 2 ≤ i.mod / 4 % 4 then 64 else 32) (i.mod / 4 % 2 = 1)
        ((floatFmt t).decode (i.a (floatTy t) l % 2 ^ (floatElem t).1))) ∧
    (LaneGives s 0x52 w (exec (.vcvtif w) s) (fun i => if i.mod / 16 = 1 then 64 else 32) fun i l v f =>
      let wide := 2 ≤ i.mod / 4 % 4
      let x := i.a (if wide then .i64 else .i32) l
      (v, f) = (floatFmt (i.mod / 16)).ofInteger
        (if 2 ≤ i.mod / 16 ∧ i.x.compat = false then .rz else Rounding.ofCode (i.mod % 4))
        (if wide then elemVal (i.mod / 4 % 2 = 1) (BitVec.ofNat 64 x) else elemVal (i.mod / 4 % 2 = 1) (BitVec.ofNat 32 x)))

/-- R93 to R103, R186 to R190, R192 and Table 4.6 on the value level. Rounding an exactly representable value gives it back, with no
flag; a result that is not exact lies next to the exact value on the side that the mode says, ties go to the even significand in rne, and
overflow, underflow and inexact are raised as R95 and R96 say. Sums, differences, products, fused products, quotients, square roots and
scalings of finite operands are the exact rational result, rounded once; the rules of NaNs, infinities and signed zeros; VFMIN and VFMAX,
comparison and classes; VFDOT2's sum; conversions between formats and to and from integers. -/
def Obligations.RoundingIsExact : Prop :=
  ∀ (f : Fmt) (mode : Rounding) (x : Nat), f ∈ [f64, f32, f16, bf16, e5m2, e4m3] → x < 2 ^ f.width →
    (∀ neg m e, f.decode x = .fin neg m e → f.round mode neg m e = (x, 0)) ∧
    (∀ neg m e k j, f.decode x = .fin neg k j → 0 < m → (f.round mode neg m e).1 = x → (f.round mode neg m e).2.getLsbD 2 = false →
      let r := f.round mode neg m e
      let unit := j
      -- the distance to the exact value, in units of the least of the two exponents
      let g := min e unit
      let exact := m * 2 ^ (e - g).toNat
      let got := k * 2 ^ (unit - g).toNat
      let ulp := 2 ^ (unit - g).toNat
      (mode = .rne → 2 * (exact - got) ≤ ulp ∧ 2 * (got - exact) ≤ ulp) ∧ (mode = .rz → got ≤ exact ∧ exact < got + ulp) ∧
      (mode = .ru → if neg then got ≤ exact else exact ≤ got) ∧ (mode = .rd → if neg then exact ≤ got else got ≤ exact) ∧
      (r.2.getLsbD 4 = decide (got ≠ exact))) ∧
    (∀ neg (q : ℚ) r, 0 < q → f.Rounds mode neg q r →
      (r.2.getLsbD 2 = false → ∃ k j, f.decode r.1 = .fin neg k j ∧
        let v : ℚ := k * 2 ^ j
        let ulp : ℚ := 2 ^ j
        (mode = .rne → |v - q| ≤ ulp / 2 ∧ (|v - q| = ulp / 2 → k % 2 = 0)) ∧ (mode = .rz → v ≤ q ∧ q < v + ulp) ∧
        (mode = .ru → if neg then v ≤ q ∧ q < v + ulp else q ≤ v ∧ v < q + ulp) ∧
        (mode = .rd → if neg then q ≤ v ∧ v < q + ulp else v ≤ q ∧ q < v + ulp) ∧ (r.2.getLsbD 4 = true ↔ v ≠ q) ∧
        (r.2.getLsbD 3 = true → v ≠ q ∧ q < 2 ^ (1 - (f.bias : Int))) ∧ (v ≠ q → v < 2 ^ (1 - (f.bias : Int)) → r.2.getLsbD 3 = true)) ∧
      (r.2.getLsbD 2 = true →
        r = (f.sign neg + (if mode = .rne ∨ mode = .ru ∧ neg = false ∨ mode = .rd ∧ neg = true then f.infinity else f.maxFinite), 0x14)) ∧
      ∀ k j, f.decode f.maxFinite = .fin false k j →
        (r.2.getLsbD 2 = true → (k : ℚ) * 2 ^ j < q) ∧ ((k + 1 : ℚ) * 2 ^ j ≤ q → r.2.getLsbD 2 = true)) ∧
    (∀ (flush level1 : Bool) (y z : Nat), y < 2 ^ f.width → z < 2 ^ f.width →
      let env : FEnv := { mode := mode, level1 := level1, flush := flush }
      let a := f.read env x
      let b := f.read env y
      let c := f.read env z
      let out (P : FRes → Prop) (r : FRes) : Prop := ∃ r0, P r0 ∧ r = f.flushOut env r0
      let differ := a.neg != b.neg
      let zeroBy := (a.isInf = true ∧ b.isZero = true) ∨ (a.isZero = true ∧ b.isInf = true)
      (a.Finite → b.Finite →
        out (f.SumRounds mode a.neg b.neg (a.rat + b.rat)) (f.add env x y) ∧
        out (f.SumRounds mode a.neg (!b.neg) (a.rat - b.rat)) (f.sub env x y) ∧
        out (f.Rounds mode differ |a.rat * b.rat|) (f.mul env x y) ∧
        (b.rat ≠ 0 → out (f.Rounds mode differ |a.rat / b.rat|) (f.div env x y)) ∧
        (b.rat = 0 → a.rat ≠ 0 → f.div env x y = (f.sign differ + f.infinity, 0x02)) ∧
        (b.rat = 0 → a.rat = 0 → f.div env x y = (f.nan, 0x01)) ∧
        (c.Finite → out (f.SumRounds mode differ c.neg (a.rat * b.rat + c.rat)) (f.fma env x y z))) ∧
      (a.isZero = false → b.isZero = false → f.mulz env x y = f.mul env x y ∧ f.fmaz env x y z = f.fma env x y z) ∧
      (a.isZero = true ∨ b.isZero = true → f.mulz env x y = (0, 0) ∧
        (c.Finite → out (f.SumRounds mode false c.neg c.rat) (f.fmaz env x y z)) ∧
        (∀ n, c = .inf n → f.fmaz env x y z = (f.sign n + f.infinity, 0)) ∧ (c.isNan = true → f.NanOf level1 [c] (f.fmaz env x y z))) ∧
      (a.Finite →
        (a.rat = 0 → f.sqrt env x = (f.sign a.neg, 0)) ∧ (a.rat < 0 → f.sqrt env x = (f.nan, 0x01)) ∧
        (0 < a.rat → ∃ (m : Nat) (e : Int) (st : Bool), ((m : ℚ) * 2 ^ e) ^ 2 ≤ a.rat ∧ a.rat < ((m + 1 : ℚ) * 2 ^ e) ^ 2 ∧
          st = decide (a.rat ≠ ((m : ℚ) * 2 ^ e) ^ 2) ∧ (st = true → 2 ^ (f.mb + 2) ≤ m) ∧
          f.sqrt env x = f.flushOut env (f.round mode false m e st)) ∧
        ∀ n : Int, out (f.Rounds mode a.neg (|a.rat| * 2 ^ n)) (f.scale env x n)) ∧
      (a.isNan = true ∨ b.isNan = true →
        f.NanOf level1 [a, b] (f.add env x y) ∧ f.NanOf level1 [a, b.negate] (f.sub env x y) ∧ f.NanOf level1 [a, b] (f.mul env x y) ∧
        f.NanOf level1 [a, b] (f.div env x y)) ∧
      (a.isNan = true → f.NanOf level1 [a] (f.sqrt env x) ∧ ∀ n, f.NanOf level1 [a] (f.scale env x n)) ∧
      (a.isNan = true ∨ b.isNan = true ∨ c.isNan = true → ∃ r, f.NanOf level1 [a, b, c] r ∧
        f.fma env x y z = (r.1, r.2 ||| if (a.isInf && b.isZero) || (a.isZero && b.isInf) then 0x01 else 0)) ∧
      (∀ n, a = .inf n →
        (∀ k, b = .inf k → f.add env x y = (if n = k then (f.sign n + f.infinity, 0) else (f.nan, 0x01)) ∧
          f.sub env x y = (if n = k then (f.nan, 0x01) else (f.sign n + f.infinity, 0)) ∧ f.div env x y = (f.nan, 0x01)) ∧
        (b.Finite → f.add env x y = (f.sign n + f.infinity, 0) ∧ f.sub env x y = (f.sign n + f.infinity, 0) ∧
          f.div env x y = (f.sign differ + f.infinity, 0)) ∧
        f.sqrt env x = (if n then (f.nan, 0x01) else (f.infinity, 0)) ∧ ∀ k, f.scale env x k = (f.sign n + f.infinity, 0)) ∧
      (∀ k, a.Finite → b = .inf k → f.add env x y = (f.sign k + f.infinity, 0) ∧ f.sub env x y = (f.sign (!k) + f.infinity, 0) ∧
        f.div env x y = (f.sign differ, 0)) ∧
      (a.isNan = false → b.isNan = false → a.isInf = true ∨ b.isInf = true →
        f.mul env x y = (if (a.isZero || b.isZero) = true then (f.nan, 0x01) else (f.sign differ + f.infinity, 0)) ∧
        (c.isNan = false → zeroBy → f.fma env x y z = (f.nan, 0x01)) ∧
        (c.Finite → ¬ zeroBy → f.fma env x y z = (f.sign differ + f.infinity, 0)) ∧
        (∀ n, c = .inf n → ¬ zeroBy →
          f.fma env x y z = if n = differ then (f.sign n + f.infinity, 0) else (f.nan, 0x01))) ∧
      (∀ n, a.Finite → b.Finite → c = .inf n → f.fma env x y z = (f.sign n + f.infinity, 0)) ∧
      (let lo := f.minmax env false x y
       let hi := f.minmax env true x y
       let xi := f.flushIn env x
       let yi := f.flushIn env y
       lo.2 = hi.2 ∧ (lo.2 = if a.isSignalling || b.isSignalling then 0x21 else 0) ∧
       (a.isNan = false → b.isNan = false → (a.Below b → lo.1 = xi ∧ hi.1 = yi) ∧ (b.Below a → lo.1 = yi ∧ hi.1 = xi) ∧
         (a.isZero = true → b.isZero = true → a.neg = true → b.neg = false → lo.1 = xi ∧ hi.1 = yi) ∧
         (a.isZero = true → b.isZero = true → a.neg = false → b.neg = true → lo.1 = yi ∧ hi.1 = xi)) ∧
       (a.isNan = true → b.isNan = false → lo.1 = yi ∧ hi.1 = yi) ∧ (a.isNan = false → b.isNan = true → lo.1 = xi ∧ hi.1 = xi) ∧
       (a.isNan = true → b.isNan = true → hi.1 = lo.1 ∧ f.NanOf level1 [a] (lo.1, if a.isSignalling then 0x21 else 0))) ∧
      (let u := f.decode x
       let v := f.decode y
       let less := u.Below v
       let more := v.Below u
       let un := u.isNan = true ∨ v.isNan = true
       ∀ sig, (∀ cond, (f.cmp cond sig x y).2 = (if u.isSignalling || v.isSignalling then 0x21 else if sig && (u.isNan || v.isNan) then 0x01 else 0)) ∧
         ((f.cmp 0 sig x y).1 = true ↔ ¬ un ∧ ¬ less ∧ ¬ more) ∧ ((f.cmp 1 sig x y).1 = true ↔ un ∨ less ∨ more) ∧
         ((f.cmp 2 sig x y).1 = true ↔ ¬ un ∧ less) ∧ ((f.cmp 3 sig x y).1 = true ↔ ¬ un ∧ ¬ more) ∧
         ((f.cmp 4 sig x y).1 = true ↔ ¬ un ∧ more) ∧ ((f.cmp 5 sig x y).1 = true ↔ ¬ un ∧ ¬ less) ∧
         ((f.cmp 6 sig x y).1 = true ↔ un) ∧ ((f.cmp 7 sig x y).1 = true ↔ ¬ un)) ∧
      (f.classMask env x = match a with
        | .nan _ sg _ => if sg then 1 else 2
        | .inf n => if n then 4 else 0x200
        | .fin n m _ => if m = 0 then (if n then 0x20 else 0x40) else if 2 ^ f.mb ≤ m then (if n then 8 else 0x100) else if n then 0x10 else 0x80) ∧
      (flush = false → a = f.decode x ∧ ∀ r, f.flushOut env r = r) ∧
      (flush = true → x / 2 ^ f.mb % 2 ^ f.eb = 0 → a = .fin (x.testBit (f.eb + f.mb)) 0 f.qmin ∧
        ∀ fl, x % 2 ^ f.mb ≠ 0 → f.flushOut env (x, fl) = (f.sign (x.testBit (f.eb + f.mb)), fl ||| 0x18))) ∧
    (∀ (level1 flush : Bool) (a b c d r : FVal), let env : FEnv := { mode := mode, level1 := level1, flush := flush }
      let res := f.dot env [a, b, c, d, r] [(a, c), (b, d)] [r]
      (a.Finite → b.Finite → c.Finite → d.Finite → r.Finite →
        let q := a.rat * c.rat + b.rat * d.rat + r.rat
        f.Rounds mode (if q = 0 then if (a.neg != c.neg) = (b.neg != d.neg) ∧ (b.neg != d.neg) = r.neg then r.neg else mode == .rd
          else decide (q < 0)) |q| res) ∧
      ((∃ v ∈ [a, b, c, d, r], v.isNan = true) → ∃ r0, f.NanOf level1 [a, b, c, d, r] r0 ∧ res.1 = r0.1 ∧
        (res.2 = r0.2 ∨ res.2 = r0.2 ||| 0x01))) ∧
    (∀ (dst : Fmt) (level1 sat : Bool), dst ∈ [f64, f32, f16, bf16, e5m2, e4m3] →
      let a := f.decode x
      let r := dst.convert f mode level1 sat a
      (a.Finite → ∃ r0, dst.Rounds mode a.neg |a.rat| r0 ∧
        r = if sat = true ∧ r0.2.getLsbD 2 = true then (dst.sign a.neg + dst.maxFinite, 0x10) else r0) ∧
      (∀ n, a = .inf n → r = if sat then (dst.sign n + dst.maxFinite, 0) else if dst.ieee then (dst.sign n + dst.infinity, 0)
        else (if level1 then dst.sign n + dst.nan else dst.nan, 0x01)) ∧
      (∀ n sg fr, a = .nan n sg fr → r.2 = (if sg then 0x21 else 0) ∧ (level1 = false → r.1 = dst.nan) ∧
        (level1 = true → ∃ q, dst.decode r.1 = .nan n false q ∧ (f.ieee = true → dst.ieee = true →
          if f.mb ≤ dst.mb then q = (fr ||| 2 ^ (f.mb - 1)) * 2 ^ (dst.mb - f.mb)
          else q = (fr / 2 ^ (f.mb - dst.mb)) ||| 2 ^ (dst.mb - 1))))) ∧
    (∀ (w : Nat) (uns : Bool), w = 8 ∨ w = 32 ∨ w = 64 →
      let a := f.decode x
      let r := Fmt.toInteger mode w uns a
      (a.Finite → ∃ k : Int,
        (mode = .rne → |k - a.rat| ≤ 1 / 2 ∧ (|k - a.rat| = 1 / 2 → k % 2 = 0)) ∧
        (mode = .rz → |(k : ℚ)| ≤ |a.rat| ∧ |a.rat| < |(k : ℚ)| + 1 ∧ 0 ≤ k * a.rat) ∧ (mode = .ru → a.rat ≤ k ∧ (k : ℚ) < a.rat + 1) ∧
        (mode = .rd → (k : ℚ) ≤ a.rat ∧ a.rat < k + 1) ∧
        let y := max (elemMin w uns) (min (elemMax w uns) k)
        r.1 < 2 ^ w ∧ BitVec.ofNat w r.1 = BitVec.ofInt w y ∧ r.2 = if y ≠ k then 0x01 else if (k : ℚ) ≠ a.rat then 0x10 else 0) ∧
      (∀ n, a = .inf n → r.2 = 0x01 ∧ r.1 < 2 ^ w ∧ BitVec.ofNat w r.1 = BitVec.ofInt w (if n then elemMin w uns else elemMax w uns)) ∧
      (∀ n sg fr, a = .nan n sg fr → r = (0, if sg then 0x21 else 0x01))) ∧
    (∀ k : Int, f.Rounds mode (decide (k < 0)) |(k : ℚ)| (f.ofInteger mode k)) ∧
    (f64.nan = 0x7FF8000000000000 ∧ f32.nan = 0x7FC00000 ∧ f16.nan = 0x7E00 ∧ bf16.nan = 0x7FC0 ∧ e5m2.nan = 0x7E ∧ e4m3.nan = 0x7F)

/-- R196. The special functions issue to their unit, and give each element the function's result; at the manual's exact points (Table 7.8)
the result is exact. -/
def Obligations.SpecialFunctionWords : Prop :=
  (∀ (s : State) (w : LaneWord),
    let gives (op : Nat) (i : Instr) (g : SfuOp) : Prop :=
      LaneGives s op w (exec i s) (fun _ => 32) fun i l v f =>
        let t := i.mod / 4
        let n := (floatElem t).1
        let x (j : Nat) : FRes := (floatFmt t).special (fenv .rne i.x.compat (t = 2)) g (elem n (i.a (floatTy t) l) j)
        (∀ j < (floatElem t).2, elem n v j = (x j).1 % 2 ^ n) ∧
        ∀ b, f.getLsbD b = (List.range (floatElem t).2).any fun j => (x j).2.getLsbD b
    gives 0x80 (.vrcp w) .rcp ∧ gives 0x81 (.vrsq w) .rsq ∧ gives 0x82 (.vexp2 w) .exp2 ∧ gives 0x83 (.vlog2 w) .log2 ∧
    gives 0x84 (.vsin w) .sin ∧ gives 0x85 (.vcos w) .cos ∧ gives 0x86 (.vtanh w) .tanh ∧ gives 0x87 (.vsigm w) .sigm) ∧
  (∀ (lv : Bool), let env := fenv .rne lv false
    f32.special env .rcp 0 = (0x7F800000, flagDZ) ∧ f32.special env .rcp 0x40000000 = (0x3F000000, 0) ∧
    f32.special env .rsq 0x80000000 = (0xFF800000, flagDZ) ∧ f32.special env .rsq 0x40800000 = (0x3F000000, 0) ∧
    f32.special env .exp2 0 = (0x3F800000, 0) ∧ f32.special env .exp2 0xFF800000 = (0, 0) ∧
    f32.special env .log2 0 = (0xFF800000, flagDZ) ∧ f32.special env .log2 0x3F800000 = (0, 0) ∧
    f32.special env .sin 0x80000000 = (0x80000000, 0) ∧ f32.special env .cos 0 = (0x3F800000, 0) ∧
    f32.special env .tanh 0x7F800000 = (0x3F800000, 0) ∧ f32.special env .sigm 0 = (0x3F000000, 0))

/-- R248, R250. VSLICE gives digit t of a scaled by 2^-e: with y the scaled value times 128, each digit is the integer nearest to y, ties to
even, and the next y is 128 times what is left; NV where there is no digit. VSLACC adds p times 2^(e + w) to a sum in two parts: hi is the
exact sum rounded to nearest, and lo what is left, rounded. -/
def Obligations.SliceWords : Prop :=
  ∀ (s : State) (w : LaneWord),
    (LaneGives s 0xE2 w (exec (.vslice w) s) (fun _ => 32) fun i l v f =>
      let e := (BitVec.ofNat 32 (i.b .i32 l)).toInt
      let t := (BitVec.ofNat 32 (i.c .i32 l)).toInt
      let a := f64.decode (i.a .f64 l)
      let q := a.rat * 2 ^ (-e)
      (v, f) = sliceRes (i.a .f64 l) e t ∧
      (∀ n sg fr, a = .nan n sg fr → v = 0 ∧ f = if sg then 0x21 else 0x01) ∧ (∀ n, a = .inf n → v = 0 ∧ f = 0x01) ∧
      (a.Finite → 1 / 2 ≤ |q| ∨ t < 1 ∨ 9 < t → v = 0 ∧ f = 0x01) ∧
      (a.Finite → |q| < 1 / 2 → 1 ≤ t → t ≤ 9 → f = 0 ∧ v < 2 ^ 32 ∧ ∃ (y : Nat → ℚ) (dig : Nat → Int), y 0 = 128 * q ∧
        (∀ n, |y n - dig n| ≤ 1 / 2 ∧ (|y n - dig n| = 1 / 2 → dig n % 2 = 0) ∧ y (n + 1) = 128 * (y n - dig n)) ∧
        BitVec.ofNat 32 v = BitVec.ofInt 32 (dig (t.toNat - 1)))) ∧
    (LaneGives s 0xE3 w (exec (.vslacc w) s) (fun _ => 128) fun i l v f =>
      (v, f) = slaccRes i.x.compat (bitAt i.mod 0) (if bitAt i.mod 0 then 0 else i.dstRegs 4 l) (BitVec.ofNat 32 (i.a .i32 l)).toInt
        (BitVec.ofNat 32 (i.b .i32 l)).toInt (BitVec.ofNat 32 (i.c .i32 l)).toInt ∧
      let p := (BitVec.ofNat 32 (i.a .i32 l)).toInt
      let k := (BitVec.ofNat 32 (i.b .i32 l)).toInt + (BitVec.ofNat 32 (i.c .i32 l)).toInt
      let h := f64.decode (i.dstRegs 4 l % 2 ^ 64)
      let o := f64.decode (i.dstRegs 4 l / 2 ^ 64)
      let old := bitAt i.mod 0 = false
      let q := (if old then h.rat + o.rat else 0) + p * (2 : ℚ) ^ k
      (old → h.isNan = true ∨ o.isNan = true → f64.NanOf i.x.compat [h, o] (v, f)) ∧
      (∀ n, old → h = .inf n → o = .inf (!n) → v = f64.nan ∧ f = 0x01) ∧
      (∀ n, old → (h = .inf n ∧ (o.Finite ∨ o = .inf n)) ∨ (h.Finite ∧ o = .inf n) → v = f64.sign n + f64.infinity ∧ f = 0) ∧
      (¬ old ∨ h.Finite ∧ o.Finite → ∃ hi lo : FRes, f64.Rounds .rne (decide (q < 0)) |q| hi ∧
        let d := q - (f64.decode hi.1).rat
        (hi.2.getLsbD 2 = true → v = hi.1 ∧ f = 0x14) ∧
        (hi.2.getLsbD 2 = false → f64.Rounds .rne (decide (d < 0)) |d| lo ∧ v = hi.1 + 2 ^ 64 * lo.1 ∧ f = lo.2))) ∧
    (∀ (a : Nat) (e t : Int), (t < 1 ∨ 9 < t) → (∃ neg m x, f64.decode a = .fin neg m x) → sliceRes a e t = (0, flagNV)) ∧
    ∀ (lv : Bool) (p : Int) (old : Nat), p.natAbs < 2 ^ 31 → (slaccRes lv true old p 0 0) = (f64.roundInt .rne p 0)

/-! ### Lane words: memory, votes, barriers, retirement -/

/-- R113, R131, R134, R205 to R209, R253, R258, R259, R264, R385. Memory words whose accesses pass every check and whose translations are at
hand, alone or as a half of a pair. VLD reads bytes that each lane may read, extended; VST writes each lane's bytes, the highest lane's where
lanes overlap; the lanes of a VATOM or a VCAS that name one location act in lane order, and each receives what the lane before it left; a
fadd group adds the lanes' sum in one request, and its old values are rebuilt; what they write stands over the other agents' writes, or under
a newer one that the wave has not seen; VPREF changes no memory. A word that fails a check performs nothing and carries its trap; one whose
translation fails performs nothing, and its wave is FAULTED with a record, with a first half that has issued before its stream again. -/
def Obligations.LaneMemoryWords : Prop :=
  (∀ (s : State) (w : LaneWord) (i : LaneIn) (locs : List (Nat × List Nat)) (xs : List PageUse),
    (∀ x ∈ xs, x.page.walked = false) →
    let F : List Field := [.mem, .dev, .links, .waves, .clusters, .dies, .wgs]
    let G : List Field := [.mem, .badDram, .badSram, .dev, .links, .waves, .clusters, .dies, .wgs]
    let wd := if i.mod % 8 = 5 then 64 else 32
    let me := i.actor
    let quiet := s.vis.picks = []
    let plan := i.memPlan = some (.ok locs xs)
    let apart := (∀ p ∈ locs, p.2.Nodup) ∧ ∀ p ∈ locs, ∀ q ∈ locs, p.2 = q.2 ∨ ∀ a ∈ p.2, a ∉ q.2
    let flies (t : State) (o : LaneOut) : Prop := LaneFlies s t i (i.result o) (i.arith o (i.result o))
    let frame (t : State) : Prop := (∀ a, (∀ p ∈ locs, a ∉ p.2) → t.byte a = s.byte a) ∧ ∀ l, t.link l = { s.link l with sent := (t.link l).sent }
    let holds (t : State) (ls : List Nat) (v : Nat) : Prop :=
      ∀ (m : Nat) (h : m < ls.length), s.wroteOrUnder t me ls (ls[m]) (BitVec.ofNat 8 (v / 256 ^ m))
    let finds (ls : List Nat) (v : Nat) : Prop := s.mayRead me ls v ∧ (quiet ∨ s.vis.past me ls = [] → v = s.readLocs ls)
    -- the lanes of one location act in turn: M k is what the k-th finds
    let inTurn (t : State) (o : LaneOut) (p : Nat × List Nat) (f : Nat → Nat → Option Nat) : Prop :=
      let lanes := (locs.filter fun q => q.2 = p.2).map (·.1)
      ∃ M : Nat → Nat, let wrote := ∃ k l, lanes[k]? = some l ∧ f l (M k) ≠ none
        finds p.2 (M 0) ∧ (∀ k l, lanes[k]? = some l → M (k + 1) = (f l (M k)).getD (M k) ∧ o.vals l = M k) ∧
          (wrote → holds t p.2 (M lanes.length)) ∧ (¬ wrote → ∀ a ∈ p.2, t.byte a = s.byte a)
    (LaneHead s 0xB0 w i → plan →
      ∃ t o, exec (.vld w) s = .next t ∧ SameBut F s t ∧ t.mem = s.mem ∧ flies t o ∧ o.width = sizeWidth (i.mod % 8) ∧
        (∀ p ∈ locs, (i.mod % 8 ≠ 6 → ∃ v, s.mayRead me p.2 v ∧ o.vals p.1 = vldExtend (i.mod % 8) v) ∧
          (i.mod % 8 = 6 → ∃ v u, s.mayRead me (p.2.take 8) v ∧ s.mayRead me (p.2.drop 8) u ∧ o.vals p.1 = v + 2 ^ 64 * u) ∧
          (quiet → o.vals p.1 = vldExtend (i.mod % 8) (s.readLocs p.2))) ∧
        ∀ l, o.flags l = 0) ∧
    (LaneHead s 0xB1 w i → plan → (∀ p ∈ locs, p.2.Nodup) →
      ∃ t o, exec (.vst w) s = .next t ∧ SameBut G s t ∧ flies t o ∧ o.width = 0 ∧ frame t ∧
        ∀ p ∈ locs, ∀ (m : Nat) (h : m < p.2.length), (∀ q ∈ locs, p.1 < q.1 → p.2[m] ∉ q.2) →
          ∃ u ∈ unitsOf p.2, p.2[m] ∈ u ∧
            s.wroteOrUnder t me u (p.2[m]) (BitVec.ofNat 8 (i.dstRegs (sizeWidth (i.mod % 8) / 32) p.1 / 256 ^ m))) ∧
    (∀ op, LaneHead s 0xB2 w i → plan → apart → AtomOp.ofCode (i.lw.srcC.toNat % 16) = some op → op ≠ .fadd →
      ∃ t o, exec (.vatom w) s = .next t ∧ SameBut G s t ∧ flies t o ∧ o.width = (if bitAt i.lw.srcC.toNat 9 then wd else 0) ∧ frame t ∧
        (∀ l, o.flags l = 0) ∧ ∀ p ∈ locs, inTurn t o p fun l old => atomicNew op wd i.x.compat old (i.dstRegs (wd / 32) l) 0) ∧
    (LaneHead s 0xB2 w i → plan → apart → AtomOp.ofCode (i.lw.srcC.toNat % 16) = some .fadd →
      ∃ t o, exec (.vatom w) s = .next t ∧ SameBut G s t ∧ flies t o ∧ o.width = (if bitAt i.lw.srcC.toNat 9 then wd else 0) ∧ frame t ∧
        ∀ p ∈ locs, let lanes := (locs.filter fun q => q.2 = p.2).map (·.1)
          let add (x y : Nat) : FRes := (if wd = 64 then f64 else f32).add (fenv .rne i.x.compat false) x y
          let opnd (l : Nat) : Nat := i.dstRegs (wd / 32) l
          ∃ (P : Nat → FRes) (M : Nat → Nat), (∀ l, lanes.head? = some l → P 0 = (opnd l, 0)) ∧
            (∀ k l, lanes[k + 1]? = some l → P (k + 1) = ((add (P k).1 (opnd l)).1, (P k).2 ||| (add (P k).1 (opnd l)).2)) ∧
            finds p.2 (M 0) ∧ (∀ k l, lanes[k]? = some l → M (k + 1) = (add (M k) (opnd l)).1 ∧ o.vals l = M k) ∧
            let sum := add (M 0) (P (lanes.length - 1)).1
            holds t p.2 sum.1 ∧ ∀ l ∈ lanes, o.flags l = (P (lanes.length - 1)).2 ||| sum.2) ∧
    (LaneHead s 0xB3 w i → plan → apart →
      ∃ t o, exec (.vcas w) s = .next t ∧ SameBut G s t ∧ flies t o ∧ o.width = wd ∧ frame t ∧ (∀ l, o.flags l = 0) ∧
        ∀ p ∈ locs, inTurn t o p fun l old => let both := i.dstRegs (2 * wd / 32) l
          if old = both % 2 ^ wd then some (both / 2 ^ wd) else none) ∧
    (LaneHead s 0xB4 w i →
      ∃ t, exec (.vpref w) s = .next t ∧ SameBut [.dev, .waves, .clusters, .dies, .wgs] s t ∧ LaneFlies s t i emptyResult none)) ∧
  (∀ (s : State) (w : LaneWord) (i : LaneIn) (op : Nat) (ins : Instr),
    (op, ins) ∈ [(0xB0, Instr.vld w), (0xB1, .vst w), (0xB2, .vatom w), (0xB3, .vcas w)] → LaneHead s op w i →
    (∀ cause lanes addr, i.memPlan = some (.stop cause lanes addr) →
      ∃ t, exec ins s = .next t ∧ SameBut [.dev, .waves, .clusters, .wgs] s t ∧
        LaneFlies s t i emptyResult (some (i.record cause lanes 0 addr))) ∧
    (∀ lanes addr va e, i.memPlan = some (.fault lanes addr va e) → (s.devIx (s.wg i.w.wg).ctxid).isSome = true →
      ∃ t, exec ins s = .next t ∧ (t.wave s.curWave).status = .faulted ∧ (t.wave s.curWave).half = none ∧ t.vregs = s.vregs ∧
        (i.w.half = none → (t.wave s.curWave).head = (s.wave s.curWave).head) ∧
        (∀ f, i.w.half = some f → if f.entry.handler then (t.wave s.curWave).hbuf = f.entry :: i.w.hbuf
          else (t.wave s.curWave).stream = .word f.entry :: i.w.stream) ∧
        ∃ r ∈ (t.dctx (s.wg i.w.wg).ctxid).faults, r.source = .lane i.w.wg i.w.wix ∧ r.answer = none)) ∧
  (∀ v, (v < 2 ^ 8 → vldExtend 1 v = ((BitVec.ofNat 8 v).signExtend 32).toNat) ∧
    (v < 2 ^ 16 → vldExtend 3 v = ((BitVec.ofNat 16 v).signExtend 32).toNat ∧ vldExtend 7 v = v + 2 ^ 16 * v) ∧
    vldExtend 0 v = v ∧ vldExtend 2 v = v ∧ vldExtend 4 v = v ∧ vldExtend 5 v = v ∧ vldExtend 6 v = v)

/-- R60, R177, R201 to R204, R304, R305, R369, R371. VVOTE answers its emitter's vote with the wave's summary, and one that poison stops adds
nothing to an entry that no longer awaits it (log entry 105, the model's choice); VBAR that waits stays in flight once its part of the
arrival is made, and the arrival releases what came before it in the wave; an extension word parks its stream, and the core completes it; a
parked generator word takes the emulation trap, since no word is in the emulated set; a word that reads poison performs nothing and stops
its stream with the data-poison trap owed to the owner, and a fence under a poisoned guard orders nothing and carries that trap. -/
def Obligations.VoteBarrierAndExtensionWords : Prop :=
  ∀ (s : State) (w : LaneWord) (i : LaneIn), s.curWave < s.waves.length →
    (LaneHead s 0x97 w i → ∃ o, LaneActs s i o (exec (.vvote w) s) ∧ o.width = 0 ∧ o.preds = [] ∧ ∀ l, o.flags l = 0) ∧
    (∀ x e rest id, (s.wave s.curWave).head = some x → i = s.laneIn s.curWave x → s.laneAt 0x97 w = true → i.poisonLanes = 0 →
      i.w.flight = [] → i.w.half = none → w.p = false → x.counted = none → x.bar = none → x.vote = some id →
      x.emitter < s.ctxs.length → (s.ctx x.emitter).em.votes = e :: rest → e.id = id → (∀ y ∈ rest, y.id ≠ id) →
      ∃ t y, exec (.vvote w) s = .next t ∧ (t.ctx x.emitter).em.votes = y :: rest ∧ y.id = id ∧ y.awaited = e.awaited - 1 ∧
        (w.mod6.toNat % 8 = 0 → e.kind = 0 →
          y.value = e.value ||| (if (List.range 64).any fun l => i.on l && i.a .i32 l == 1 then 1 else 0)) ∧
        (w.mod6.toNat % 8 = 2 → e.kind = 2 → y.value = e.value +
          BitVec.ofNat 64 ((List.range 64).filter fun l => i.on l && i.a .i32 l == 1).length)) ∧
    (∀ x e rest id, (s.wave s.curWave).head = some x → i = s.laneIn s.curWave x → s.laneAt 0x97 w = true → i.poisonLanes ≠ 0 →
      i.w.flight = [] → i.w.half = none → w.p = false → x.counted = none → x.bar = none → x.vote = some id → x.emitter < s.ctxs.length →
      i.w.owner < s.ctxs.length → (s.ctx i.w.owner).status ≠ .ended → (s.ctx x.emitter).em.votes = e :: rest → e.id = id →
      (∀ y ∈ rest, y.id ≠ id) →
      ∃ t, exec (.vvote w) s = .next t ∧ (t.ctx x.emitter).em.votes = { e with awaited := e.awaited - 1 } :: rest ∧
        (t.wave s.curWave).status = .stopped) ∧
    (∀ x b, (s.wave s.curWave).head = some x → i = s.laneIn s.curWave x → s.laneAt 0x98 w = true → i.w.half = none → w.p = false →
      bitAt i.mod 0 = true → i.w.flight = [] → x.waiting = false → x.counted = none → x.vote = none → i.w.after = none →
      (s.ctx x.emitter).wg < s.wgs.length → (s.wg (s.ctx x.emitter).wg).vbars = [b] → x.bar = some b.id → 1 < b.left →
      ∃ t f, exec (.vbar w) s = .next t ∧ t.wave s.curWave = { i.w.popped i with flight := [f] } ∧ f.entry = x ∧ f.unit = .barrier ∧
        (t.wg (s.ctx x.emitter).wg).vbars = [{ b with
          left := b.left - 1
          ids := (b.ids ++ s.vis.ids (s.waveAgent s.curWave :: emitCarrier (s.ctxAgent x.emitter))).dedup }] ∧ SameBut [.waves, .wgs, .dev, .clusters] s t) ∧
    (∀ op : BitVec 4, s.laneAt (0xF0 + op.toNat) w = true →
      ∃ t, exec (.vext op w) s = .next t ∧ t.wave s.curWave = { s.wave s.curWave with status := .parked } ∧
        (∀ u, u ≠ s.curWave → t.wave u = s.wave u) ∧ SameBut [.waves] s t) ∧
    (∀ k word, k < s.ctxs.length → (s.ctx k).status = .parked (.emulation word) →
      (s.pausing (k / 16) = false → (s.ctx k).mode = .user → (s.dctx (s.ctx k).ctxid).desc.tvec ≠ 0 →
        ∃ t, exec (.emulationComplete (.context k)) s = .next t ∧ (t.ctx k).mode = .handler ∧ (t.ctx k).status = .running ∧
          (t.ctx k).pc = (s.dctx (s.ctx k).ctxid).desc.tvec ∧ (t.ctx k).trap.pc = (s.ctx k).pc ∧ (t.ctx k).trap.epc = (s.ctx k).pc ∧
          (t.ctx k).trap.cause = 4 ∧ (t.ctx k).trap.info0 = BitVec.ofNat 64 word.toNat ∧ (t.ctx k).s = (s.ctx k).s) ∧
      (s.pausing (k / 16) = true → Idle "EMULATION_COMPLETE" (exec (.emulationComplete (.context k)) s))) ∧
    (∀ x, (s.wave s.curWave).status = .parked → (s.wave s.curWave).head = some x → (s.wave s.curWave).half = none →
      (LaneWord.ofNat x.word.toNat).p = false → x.vote = none → x.counted = none → x.bar = none → 0xF0 ≤ laneOp8 x.word.toNat →
      (s.wave s.curWave).flight = [] → ∃ t, exec (.emulationComplete (.wave s.curWave)) s = .next t ∧
        (t.wave s.curWave).status = (if (s.wave s.curWave).stopSeq.isSome then .stopped else .live) ∧ (t.wave s.curWave).head = ((s.wave s.curWave).popHead x.handler).head ∧
        (∀ u, u ≠ s.curWave → t.wave u = s.wave u) ∧ SameBut [.waves, .vregs, .badRegs, .dev, .clusters, .wgs] s t) ∧
    (∀ x, (s.wave s.curWave).head = some x → i = s.laneIn s.curWave x → i.poisonLanes ≠ 0 → i.w.after = none →
      x.vote = none → x.counted = none → x.bar = none → let r := i.record 18 i.poisonLanes 0 0
      (s.laneAt 0x01 w = true → i.w.flight = [] → i.w.half = none → w.p = false → i.w.owner < s.ctxs.length →
        (s.ctx i.w.owner).status ≠ .ended → ∃ t, exec (.vadd w) s = .next t ∧ (t.wave s.curWave).status = .stopped ∧ t.vregs = s.vregs ∧
          t.mem = s.mem ∧ t.vis = s.vis ∧ (t.wave s.curWave).preds = i.w.preds ∧ (t.ctx i.w.owner).pending =
            (s.ctx i.w.owner).pending ++ [{ record := r, seq := (s.ctx i.w.owner).evSeq, wave := some s.curWave }]) ∧
      (s.laneAt 0xB5 w = true → i.w.half = none ∨ w.p = false → ∃ t, exec (.vfence w) s = .next t ∧
        SameBut [.dev, .waves, .clusters, .wgs] s t ∧ LaneFlies s t i emptyResult (some r)))

/-- R53, R108, R172, R204, R319, R369. The one word in flight of a wave retires: its register elements, predicates and flags are written, a
predicate in the active lanes alone; its unit is free; a counted write is performed, a vote gets its answer, a VBAR whose phase has completed
frees its place; and a trap that it raised stops the stream and is owed to the wave's owner. -/
def Obligations.LaneWordsRetire : Prop :=
  ∀ (s : State) (v : Nat) (f : Flight), v < s.waves.length → s.canonical → (s.wave v).flight = [f] →
    let plain := f.entry.vote = none ∧ f.entry.counted = none ∧ f.entry.bar = none
    (f.unit ≠ .barrier → plain → f.trap = none → ∃ t, exec (.laneWordRetire v) s = .next t ∧ SameBut [.vregs, .badRegs, .waves, .clusters] s t ∧
      (∀ p ∈ f.result.regs, (∀ q ∈ f.result.regs, q.1 = p.1 → q = p) → sparseGet t.vregs p.1 = p.2) ∧
      (∀ key, (∀ p ∈ f.result.regs, p.1 ≠ key) → sparseGet t.vregs key = sparseGet s.vregs key) ∧
      t.wave v = { ({ (s.wave v) with flight := [] } : Wave) with
        preds := (t.wave v).preds, badPreds := (t.wave v).badPreds, wxf := (s.wave v).wxf ||| f.result.flags, latch := (t.wave v).latch,
        hlatch := (t.wave v).hlatch } ∧
      (f.result.preds = [] → (t.wave v).preds = (s.wave v).preds) ∧
      (∀ p ∈ f.result.preds, (∀ q ∈ f.result.preds, q.1 = p.1 → q = p) → ∀ l < 64,
        ((t.wave v).preds.getD p.1 0).getLsbD l =
          if p.2.1.getLsbD l then p.2.2.getLsbD l else ((s.wave v).preds.getD p.1 0).getLsbD l) ∧
      (∀ k, (∀ p ∈ f.result.preds, p.1 ≠ k) → (t.wave v).preds.getD k 0 = (s.wave v).preds.getD k 0) ∧
      (if f.entry.handler then (t.wave v).latch = (s.wave v).latch ∧ (t.wave v).hlatch = (f.result.latch :: (s.wave v).hlatch).take 4
       else (t.wave v).latch = (f.result.latch :: (s.wave v).latch).take 4 ∧ (t.wave v).hlatch = (s.wave v).hlatch) ∧
      (waveCluster v < s.clusters.length → f.unit = .sfu → (t.cluster (waveCluster v)).sfu = none) ∧
      (waveCluster v < s.clusters.length → f.unit = .divide → (t.cluster (waveCluster v)).divide = none) ∧
      (waveCluster v < s.clusters.length → f.unit = .memory →
        (t.cluster (waveCluster v)).slotsUsed = (s.cluster (waveCluster v)).slotsUsed - f.slots)) ∧
    (∀ n, f.unit ≠ .barrier → f.trap = none → f.entry.vote = none → f.entry.bar = none → f.entry.counted = some n →
      f.entry.emitter < s.ctxs.length → ∃ t, exec (.laneWordRetire v) s = .next t ∧
        t.ctx f.entry.emitter = (s.ctx f.entry.emitter).performed n ∧ ∀ j, j ≠ f.entry.emitter → t.ctx j = s.ctx j) ∧
    (∀ id e rest, f.unit ≠ .barrier → f.trap = none → f.entry.counted = none → f.entry.bar = none → f.entry.vote = some id →
      f.entry.emitter < s.ctxs.length → (s.ctx f.entry.emitter).em.votes = e :: rest → e.id = id → (∀ y ∈ rest, y.id ≠ id) →
      ∃ t y, exec (.laneWordRetire v) s = .next t ∧ (t.ctx f.entry.emitter).em.votes = y :: rest ∧ y.id = id ∧ y.awaited = e.awaited - 1 ∧
        (f.result.vote = none → y.value = e.value) ∧
        ∀ x found, f.result.vote = some (x, found) →
          (e.kind = 0 → y.value = e.value ||| x) ∧ (e.kind = 1 → y.value = e.value &&& x) ∧ (e.kind = 2 → y.value = e.value + x) ∧
            (e.kind = 3 → y.value = x)) ∧
    (∀ b id, f.unit = .barrier → f.trap = none → f.entry.vote = none → f.entry.counted = none → f.entry.bar = some id →
      (s.ctx f.entry.emitter).wg < s.wgs.length → (s.wg (s.ctx f.entry.emitter).wg).vbars = [b] → b.id = id → b.retiring ≤ 1 →
      (s.barDone f.entry = true → ∃ t, exec (.laneWordRetire v) s = .next t ∧ (t.wave v).flight = [] ∧
        (t.wg (s.ctx f.entry.emitter).wg).vbars = []) ∧
      (s.barDone f.entry = false → Idle "LANE_WORD_RETIRE" (exec (.laneWordRetire v) s))) ∧
    (∀ r, f.unit ≠ .barrier → plain → f.trap = some r → (s.wave v).owner < s.ctxs.length → (s.ctx (s.wave v).owner).status ≠ .ended →
      ∃ t, exec (.laneWordRetire v) s = .next t ∧ (t.wave v).status = .stopped ∧
        (t.ctx (s.wave v).owner).pending = (s.ctx (s.wave v).owner).pending ++
          [{ record := r, seq := (s.ctx (s.wave v).owner).evSeq, wave := some v }])

/-- R25, R28, R154, R155, R361. A spill at the head of a quiet stream writes its registers, row by row, and its stack entry to the spill
region, and a reload writes the registers back from there; one whose rows or tables stand in a row that is being copied waits. They go in their turn at the cluster's spill sequencer; a stack entry that a WLEAVE waits for comes with a reload; a transfer
whose rows do not translate leaves them and the wave waits for the driver's answer. -/
def Obligations.WindowTransfers : Prop :=
  ∀ (s : State) (v lo hi : Nat) (rest : List StreamItem), v < s.waves.length → s.canonical →
    let w := s.wave v
    let c := waveCluster v
    let q := (s.cluster c).spillq
    let turn := q = [] ∨ q.head? = some (.window v)
    let spill (e : Option (Nat × Nat × Nat)) := w.stream = .spill lo hi e :: rest
    let reload (e : Option Nat) := w.stream = .reload lo hi e :: rest
    let ready (a : Access) (e : Option Nat) : Prop := s.rowsReady v a (s.transferRows v lo hi e) = true
    let entryOf (rows : List (Nat × List Nat)) : List Nat := (rows.filter fun r => decide (2 ^ 63 ≤ r.1)).flatMap (·.2)
    w.status = .live → w.flight = [] → w.half = none → s.mayIssue v = true →
    (s.calm = true → ∀ a e, ready a e) ∧
    (∀ e rows, turn → spill e → s.rowLocs v .spill (s.transferRows v lo hi (e.map (·.1))) = .ok rows → ready .spill (e.map (·.1)) →
      s.badRegs = [] → hi ≤ 2 ^ 63 → (rows.flatMap (·.2)).Nodup →
      ∃ t, exec (.windowSpill v) s = .next t ∧ t.wave v = { w with stream := rest } ∧ t.vregs = s.vregs ∧
        SameBut [.mem, .badDram, .badSram, .waves, .clusters, .dies, .dev, .links] s t ∧
        (∀ r ∈ rows, r.1 < 2 ^ 63 → r.2.length = 256 → ∀ l < 64, t.readLocs ((r.2.drop (4 * l)).take 4) =
          (sparseGet s.vregs (regKey c w r.1 0 l)).toNat) ∧
        ∀ k base frame, e = some (k, base, frame) → (entryOf rows).length = 8 →
          t.readLocs (entryOf rows) = base % 2 ^ 32 + frame % 2 ^ 16 * 2 ^ 32) ∧
    (∀ rows, turn → reload none → s.rowLocs v .reload (s.transferRows v lo hi none) = .ok rows → ready .reload none → hi - lo ≤ w.width →
      ∃ t, exec (.windowReload v) s = .next t ∧ t.wave v = { w with stream := rest } ∧
        ∀ r ∈ rows, r.1 < 2 ^ 63 → ∀ l < 64, sparseGet t.vregs (regKey c w r.1 0 l) =
          BitVec.ofNat 32 (s.readLocs ((r.2.drop (4 * l)).take 4))) ∧
    (∀ k rows, turn → reload (some k) → s.rowLocs v .reload (s.transferRows v lo hi (some k)) = .ok rows → ready .reload (some k) →
      w.owner < s.ctxs.length → (s.ctx w.owner).win.popPending = true →
      let entry := entryOf rows
      let win := (s.ctx w.owner).win
      ∃ t, exec (.windowReload v) s = .next t ∧ t.wave v = { w with stream := rest } ∧
        (s.poisoned entry = false → (t.ctx w.owner).win =
          { win with popRead := some (s.readLocs entry % 2 ^ 32, s.readLocs entry / 2 ^ 32 % 2 ^ 16) }) ∧
        (s.poisoned entry = true → (t.ctx w.owner).win = { win with popBad := some (BitVec.ofNat 64 (s.rowVa v (8 * (k - 16)))) })) ∧
    (∀ e, turn → spill none → s.rowLocs v .spill (s.transferRows v lo hi none) = .error e → ready .spill none →
      ∃ t, exec (.windowSpill v) s = .next t ∧ (t.wave v).status = .faulted ∧ (t.wave v).stream = w.stream ∧ t.vregs = s.vregs) ∧
    (∀ e, turn → reload none → s.rowLocs v .reload (s.transferRows v lo hi none) = .error e → ready .reload none →
      ∃ t, exec (.windowReload v) s = .next t ∧ (t.wave v).status = .faulted ∧ (t.wave v).stream = w.stream ∧ t.vregs = s.vregs) ∧
    (∀ rows, c < s.clusters.length → q ≠ [] → .window v ∉ q → spill none →
      s.rowLocs v .spill (s.transferRows v lo hi none) = .ok rows → ready .spill none →
      ∃ t, exec (.windowSpill v) s = .next t ∧ SameBut [.clusters] s t ∧ (t.cluster c).spillq = q ++ [.window v]) ∧
    (∀ e, spill e → ¬ ready .spill (e.map (·.1)) → Idle "WINDOW_SPILL" (exec (.windowSpill v) s)) ∧
    (∀ e, reload e → ¬ ready .reload e → Idle "WINDOW_RELOAD" (exec (.windowReload v) s)) ∧
    (s.transfer v = none ∨ q.head? ≠ some (.window v) ∧ .window v ∈ q → exec (.windowSpill v) s = .fault (.notEnabled "WINDOW_SPILL") ∧
      exec (.windowReload v) s = .fault (.notEnabled "WINDOW_RELOAD"))

/-! ### Queues and nodes -/

/-- R25, R28, R258, R317, R319 to R327. Without the queue right the words trap; a queue or node that the context does not have is illegal. QPUSH
writes the 64 bytes that it may read into the ring and takes a stamp, and publishes a task record at its counter, which takes it out of the
ring; it answers 1, 0 when the ring is full, 2 when the counter has a record. QPOP takes the oldest record of a data queue, and the
producer's counted writes are then visible to the context; a poisoned slot is the data-poison trap (log entry 100, the model's choice). QSIG
counts down with a release, QSTAT reads, NREC fills the open batch, behind the seal of one whose timer has run out; the words wait for a slot
in a row that is being copied. R325. A counter at zero
releases its record. R326. A batch whose timer has run out is sealed and waits for its turn; before, the timer does nothing. -/
def Obligations.QueueWords : Prop :=
  (∀ (s : State) (d a : Reg) (qn : BitVec 8) (m : NrecArgs), Acting s → s.canonical →
     let c := s.cur
     let k := s.curCtx
     let me := s.ctxAgent k
     let D := s.dctx c.ctxid
     let x := s.rd a
     let pc := s.pcNow + 4
     let quiet := s.vis.picks = []
     let settled (y : Option Xlated) : Prop := ∀ z, y = some z → z.walked = false
     let stamp : Option Stamp := some { wg := c.wg, role := c.role, count := c.issued }
     let F : List Field := [.ctxs, .mem, .badDram, .badSram, .devs, .dev, .links, .clusters, .dies]
     let free (va n : Nat) : Prop := s.superHeld 0 c.ctxid va n .store = false
     let gives (v : Word) (r : Result) (P : State → Prop) : Prop :=
       ∃ t, r = .next t ∧ SameBut F s t ∧ (∀ j, j ≠ k → t.ctx j = s.ctx j) ∧ t.cur.rd d = (if d = 0 then 0 else v) ∧ KeepsRegs d c t.cur ∧
         t.cur.pc = pc ∧ P t
     let n := m.count.toNat + 1
     let data := (List.range n).flatMap fun i => leBytes 8 (c.rd (m.sD + BitVec.ofNat 5 i)).toNat
     (c.hasRight 2 = false → ∀ i ∈ [Instr.qpush d a qn, .qpop d a qn, .qsig d a qn, .qstat d a qn, .nrec m],
       exec i s = commit (trapNow (rightsRecord 2)) s) ∧
     (c.hasRight 2 = true → D.queue qn.toNat = none → ∀ i ∈ [Instr.qpush d a qn, .qpop d a qn, .qsig d a qn, .qstat d a qn],
       exec i s = commit (illegal i) s) ∧
     (c.hasRight 2 = true → D.node (c.rd m.sN).toNat = none → exec (.nrec m) s = commit (illegal (.nrec m)) s) ∧
     (∀ q, c.hasRight 2 = true → D.queue qn.toNat = some q →
       (∀ locs y, s.genAccess k x 64 64 .load true = .ok locs y → settled y →
         ∃ rec_ : List Byte, rec_.length = 64 ∧ (quiet → rec_ = locs.map s.byte) ∧
          (∀ i < 64, s.mayRead (s.scalarActor k) [locs.getD i 0] (rec_.getD i 0).toNat) ∧
          (q.full = false → ¬ free (q.slotVa q.tail) 64 → Becomes s (c.stall .held) (exec (.qpush d a qn) s)) ∧
          let pending := ∃ j, q.taskCounter rec_ = some j ∧ (q.counter j).task.isSome = true
          let inSlot (t : State) : Prop := y = none → ∀ ls, s.superLocs 0 c.ctxid (q.slotVa q.tail) 64 .store false = .ok ls → ls.Nodup →
            ∀ i < 64, t.byte (ls.getD i 0) = rec_.getD i 0
          (pending → q.full = true ∨ free (q.slotVa q.tail) 64 → gives 2 (exec (.qpush d a qn) s) fun t => t.devs = s.devs) ∧
          (¬ pending → q.full = true → gives 0 (exec (.qpush d a qn) s) fun t => t.devs = s.devs) ∧
          (q.taskCounter rec_ = none → q.full = false → free (q.slotVa q.tail) 64 → gives 1 (exec (.qpush d a qn) s) fun t =>
            (t.dctx c.ctxid).queue qn.toNat = some (q.append stamp s.dev.time) ∧ inSlot t) ∧
          (∀ j, q.taskCounter rec_ = some j → (q.counter j).task = none → q.full = false → free (q.slotVa q.tail) 64 →
            gives 1 (exec (.qpush d a qn) s) fun t =>
            (t.dctx c.ctxid).queue qn.toNat = some (({ q with tail := q.tail + 1 } : Queue).publish j rec_ stamp s.dev.time) ∧ inSlot t)) ∧
       (q.data = false → exec (.qpop d a qn) s = commit (illegal (.qpop d a qn)) s) ∧
       (q.data = true → q.held = [] ∨ q.status ≠ .enabled → gives 0 (exec (.qpop d a qn) s) fun t => t.devs = s.devs) ∧
       (∀ i st rest, q.data = true → q.held = (i, st) :: rest → q.status = .enabled →
         (s.stampMet st = false → Becomes s (c.stall .queue) (exec (.qpop d a qn) s)) ∧
         (∀ locs y, s.stampMet st = true → s.genAccess k x 64 64 .store false = .ok locs y → settled y → locs.Nodup →
           (s.superHeld 0 c.ctxid (q.slotVa i) 64 .load = true → Becomes s (c.stall .held) (exec (.qpop d a qn) s)) ∧
           (s.superHeld 0 c.ctxid (q.slotVa i) 64 .load = false → s.slotPoisoned c.ctxid q i = true →
             exec (.qpop d a qn) s = commit (trapNow (accessRecord 18 (BitVec.ofNat 64 (q.slotVa i)) 5)) s) ∧
           (s.superHeld 0 c.ctxid (q.slotVa i) 64 .load = false → s.slotPoisoned c.ctxid q i = false → gives 1 (exec (.qpop d a qn) s) fun t =>
             (t.dctx c.ctxid).queue qn.toNat = some (q.popHead s.dev.time).served ∧
               (∀ j < 64, t.byte (locs.getD j 0) = (s.coreRead c.ctxid (q.slotVa i) 64).getD j 0 ∨
                 ¬ quiet ∧ t.byte (locs.getD j 0) = s.byte (locs.getD j 0)) ∧
               (∀ l, l ∉ locs → t.byte l = s.byte l) ∧
               ∀ p, st = some p → ∀ w ∈ t.vis.writes, w.family = .role p.wg p.role → 0 < w.num → w.num ≤ p.count → w.path ≤ 1 →
                 w.before me = true ∧ (w.pathsOf me).getLsbD pathLs = true ∧ (w.pathsOf me).getLsbD pathScl = true))) ∧
       (1024 ≤ x.toNat → exec (.qsig d a qn) s = commit (illegal (.qsig d a qn)) s) ∧
       (x.toNat < 1024 →
         let C := q.counter x.toNat
         let v := C.value - 1
         let rel : Release := { agent := me, scope := .device, paths := allPaths, ids := s.vis.ids [me] }
         gives (v.signExtend 64) (exec (.qsig d a qn) s) fun t =>
           (t.dctx c.ctxid).queue qn.toNat = some (q.settle { C with value := v, rels := C.rels ++ [rel] } s.dev.time)) ∧
       WritesTo s d (s.queueWord c.ctxid q x.toNat) pc (exec (.qstat d a qn) s) ∧
       (q.held.length < 2 ^ 17 → (s.queueWord c.ctxid q 0).toNat % 2 ^ 17 = q.held.length ∧
         (s.queueWord c.ctxid q 0).toNat / 2 ^ 17 % 8 = q.status.code ∧ (s.queueWord c.ctxid q 0).toNat / 2 ^ 24 = q.disp % 2 ^ 40)) ∧
     (∀ nd, c.hasRight 2 = true → D.node (c.rd m.sN).toNat = some nd → nd.dying = false → 8 * n = nd.size →
       let rels : List Release := if m.release then [{ agent := me, scope := m.scope, paths := allPaths, ids := s.vis.ids [me] }] else []
       let st : Stamp := { wg := c.wg, role := c.role, count := c.issued }
       (∀ b, s.timerDue c.ctxid nd.handle = false →
         (nd.opened = some b ∨
           ∃ i, nd.opened = none ∧ nd.freeSlot = some i ∧ b = { slot := i, count := 0, since := s.dev.time, stamps := [], rels := [] }) →
         (∀ o, nd.opened = some o → s.sealHeld c.ctxid nd o = false) → b.count < nd.count →
         (¬ free (nd.slotVa b.slot) (64 + (b.count + 1) * nd.size) → Becomes s (c.stall .held) (exec (.nrec m) s)) ∧
         (free (nd.slotVa b.slot) (64 + (b.count + 1) * nd.size) →
         let full := { b with count := b.count + 1, stamps := b.stamps ++ [st], rels := b.rels ++ rels }
         let used := nd.slots.set b.slot true
         ∃ t, exec (.nrec m) s = .next t ∧ SameBut F s t ∧ t.cur = stepped 16 c ∧
           (b.count + 1 < nd.count → (t.dctx c.ctxid).node nd.handle = some { nd with opened := some full, slots := used } ∧
             ∀ ls, s.superLocs 0 c.ctxid (nd.slotVa b.slot + 64 + b.count * nd.size) (8 * n) .store false = .ok ls → ls.Nodup →
               ∀ i < 8 * n, t.byte (ls.getD i 0) = data.getD i 0) ∧
           (b.count + 1 = nd.count → s.calm = true → ({ nd with opened := some full, slots := used } : Node).maySeal = true →
             ∃ y, (t.dctx c.ctxid).node nd.handle = some y ∧ y.opened = none ∧ y.sealed = nd.sealed ++ [full] ∧ y.slots = used))) ∧
       (∀ b, nd.opened = some b → s.sealHeld c.ctxid nd b = true → Becomes s (c.stall .held) (exec (.nrec m) s)) ∧
       (∀ b i, s.timerDue c.ctxid nd.handle = true → nd.opened = some b → nd.freeSlot = some i → 1 < nd.count →
         free (nd.slotVa i) (64 + nd.size) →
         ∃ t y nb, exec (.nrec m) s = .next t ∧ SameBut F s t ∧ t.cur = stepped 16 c ∧ (t.dctx c.ctxid).node nd.handle = some y ∧
           y.sealed = nd.sealed ++ [b] ∧ y.opened = some nb ∧ nb.slot = i ∧ nb.count = 1 ∧ nb.since = s.dev.time ∧ nb.stamps = [st]) ∧
       (∀ b, s.timerDue c.ctxid nd.handle = false → nd.opened = some b → s.sealHeld c.ctxid nd b = false → nd.count ≤ b.count →
         Becomes s (c.stall .node) (exec (.nrec m) s)))) ∧
  (∀ (q : Queue) (n time : Nat) (rec_ : List Byte) (st : Option Stamp), let C := q.counter n
     let value := C.value + BitVec.ofNat 32 (field rec_ 0x2C 4)
     let p := q.publish n rec_ st time
     (C.task = none → C.next = [] → value ≠ 0 → p.tasks = q.tasks ∧ (p.counter n).value = value ∧ (p.counter n).task = some (rec_, st)) ∧
     (C.task = none → C.next = [] → value = 0 → (p.counter n).value = 0 ∧ (p.counter n).task = none ∧
       p.tasks = q.tasks ++ [{ bytes := rec_, stamp := st, rels := C.rels, since := time, launch := none }]) ∧
     ∀ C' : Counter, C'.next = [] → let r := q.settle C' time
       (C'.value = 0 → ∀ b u, C'.task = some (b, u) →
         r.tasks = q.tasks ++ [{ bytes := b, stamp := u, rels := C'.rels, since := time, launch := none }]) ∧
       (C'.task = none ∨ C'.value ≠ 0 → r.tasks = q.tasks ∧ (r.counter C'.num).value = C'.value)) ∧
  (∀ (s : State) (c h : Nat),
     (∀ n b, s.timerDue c h = true → (s.dctx c).node h = some n → n.opened = some b → Happens (exec (.nodeBatchTimer c h) s) fun t =>
       (t.dctx c).node h = some { n with
         opened := none, sealed := n.sealed ++ [b], headSince := if n.sealed.isEmpty then s.dev.time else n.headSince } ∧
         SameBut [.mem, .badDram, .badSram, .clusters, .dies, .devs, .dev, .links] s t) ∧
     (s.timerDue c h = false → Idle "NODE_BATCH_TIMER" (exec (.nodeBatchTimer c h) s)))

/-! ### Fills and walks -/

/-- R25, R28, R137, R140, R147, R227, R264, R319, R374, R379, R381, R382, R414. A fill that ends puts its line into its cache; a line of code
that holds poison is not kept, and the context that waits takes it as its fetch; a line of code from host memory comes with its completion
instead; a loft line that holds poison stops the replay and owes its context the trap (the model's choice, log entry 11); a walk of a prefetch ends, serves the requests that joined it, and its leaf stands in the die's TLB where its accessed bit is set;
the oldest scalar write is performed, and where none is left a load that has not returned returns what it may read by now. None changes memory; none happens that is not under way or whose row is being copied. -/
def Obligations.CacheFillsAndWalks : Prop :=
  ∀ (s : State) (c i k d : Nat), s.sized →
    (∀ f loc, c < 32 → (s.cluster c).icFills[i]? = some f → physLoc f.pa = some loc → s.held [loc] = true ∨ isHost f.pa = true →
      Idle "ICACHE_LINE_FILL" (exec (.icacheLineFill c i) s)) ∧
    (∀ f loc, c < 32 → (s.cluster c).icFills[i]? = some f → physLoc f.pa = some loc → s.held [loc] = false → isHost f.pa = false →
      (s.poisoned (locRange loc 64) = false → Happens (exec (.icacheLineFill c i) s) fun t =>
        (t.cluster c).icFills = (s.cluster c).icFills.eraseIdx i ∧
          (t.cluster c).icache.head? = some { ctxid := f.ctxid, line := f.line, bytes := (locRange loc 64).map s.byte } ∧
          SameBut [.clusters, .dies] s t ∧ ∀ j, j ≠ c → t.cluster j = s.cluster j) ∧
      (∀ w, s.poisoned (locRange loc 64) = true → f.waiter = some w → w < 512 → Happens (exec (.icacheLineFill c i) s) fun t =>
        t.ctx w = { s.ctx w with fetched := (f.line, .poison) :: (s.ctx w).fetched } ∧ (t.cluster c).icache = (s.cluster c).icache ∧
          (t.cluster c).icFills = (s.cluster c).icFills.eraseIdx i ∧ SameBut [.clusters, .ctxs] s t)) ∧
    ((s.cluster c).icFills.length ≤ i → Idle "ICACHE_LINE_FILL" (exec (.icacheLineFill c i) s)) ∧
    (∀ f, c < 32 → (s.cluster c).dcFills[i]? = some f → (∀ loc, physLoc f.pa = some loc → s.held [loc] = false) → Happens (exec (.dcacheLineFill c i) s) fun t =>
      (t.cluster c).dcFills = (s.cluster c).dcFills.eraseIdx i ∧ (t.cluster c).dcache.head? = some (f.ctxid, f.line) ∧
        SameBut [.clusters, .dies] s t ∧ ∀ j, j ≠ c → t.cluster j = s.cluster j) ∧
    ((s.cluster c).dcFills.length ≤ i → Idle "DCACHE_LINE_FILL" (exec (.dcacheLineFill c i) s)) ∧
    (∀ f loc w, c < 32 → (s.cluster c).loftFills[i]? = some f → physLoc f.pa = some loc → s.held [loc] = false → f.waiter = some w → w < 512 →
      (s.poisoned (locRange loc 64) = false → Happens (exec (.loftLineFill c i) s) fun t =>
        (t.cluster c).loftFills = (s.cluster c).loftFills.eraseIdx i ∧
          (t.cluster c).loft.head? = some { ctx := w, line := f.line, loc := loc, bad := [] } ∧ SameBut [.clusters, .dies] s t) ∧
      (s.poisoned (locRange loc 64) = true → (s.ctx w).status ≠ .ended → Happens (exec (.loftLineFill c i) s) fun t =>
        (t.ctx w).em.seq.busy = false ∧
          (t.ctx w).pending = (s.ctx w).pending ++
            [{ record := accessRecord 18 (BitVec.ofNat 64 f.line) 5, seq := (s.ctx w).evSeq, wave := none }] ∧
          SameBut [.clusters, .ctxs, .waves, .wgs] s t)) ∧
    ((s.cluster c).loftFills.length ≤ i → Idle "LOFT_LINE_FILL" (exec (.loftLineFill c i) s)) ∧
    (∀ w, d < 4 → (s.die d).walks[i]? = some w → (s.die d).misses = [] → w.cluster < 32 → dieOf w.cluster = d →
      let r := s.missResult w
      let leaf := match r with
        | .ok x => some x.entry
        | .error _ => none
      (∀ e, r = .error e → e.kind = 0 → Idle "TLB_MISS_WALK" (exec (.tlbMissWalk d i) s)) ∧
      ((∀ e, r = .error e → e.kind ≠ 0) → Happens (exec (.tlbMissWalk d i) s) fun t =>
        (t.die d).walks = (s.die d).walks.eraseIdx i ∧ SameBut [.clusters, .dies] s t ∧
          (t.die d).joined = (s.die d).joined.filter (fun m => ! m.joins w leaf) ∧
          ∀ x, r = .ok x →
            (bitAt (s.readN x.entry.leafAt 8) 5 = true →
              ∃ e ∈ (t.die d).l2tlb, e.ctxid = x.entry.ctxid ∧ e.va = x.entry.va ∧ e.size = x.entry.size ∧ e.frame = x.entry.frame) ∧
            (bitAt (s.readN x.entry.leafAt 8) 5 = false → (t.die d).l2tlb = (s.die d).l2tlb))) ∧
    ((s.die d).walks.length ≤ i → Idle "TLB_MISS_WALK" (exec (.tlbMissWalk d i) s)) ∧
    (∀ w, k < 512 → (s.ctx k).counted.find? (·.scalar) = some w → Happens (exec (.scalarAccessComplete k) s) fun t =>
      OnlyCtx k s t ∧ t.ctx k = (s.ctx k).performed w.num) ∧
    (∀ l rest, k < 512 → (s.ctx k).counted.find? (·.scalar) = none → (s.ctx k).loads = l :: rest →
      Happens (exec (.scalarAccessComplete k) s) fun t => SameBut [.ctxs, .mem, .clusters] s t ∧ t.mem = s.mem ∧
        (∀ j, j ≠ k → t.ctx j = s.ctx j) ∧ ∃ v, s.mayRead (s.scalarActor k) l.locs v ∧
          let c := { s.ctx k with loads := rest }
          t.ctx k = if l.dst = 0 then c
            else if l.bank = true then { c with bank := putAt 0 c.bank (l.dst - 24) (ldExtend l.size v) }
            else { c with s := putAt 0 c.s l.dst (ldExtend l.size v) }) ∧
    (((s.ctx k).counted.any fun w => w.scalar) = false → (s.ctx k).loads = [] →
      Idle "SCALAR_ACCESS_COMPLETE" (exec (.scalarAccessComplete k) s))

/-! ### Engines -/

/-- R28, R238, R239, R240, R242, R243, R246, R249. The head command of the granted workgroup runs: one step of an MLOOP adds the products
to each element of the accumulator, MDRAIN writes the tile, MCLR clears. A step or a drain that meets poison changes no element and no
byte, ends its command and owes its role the trap. Where nothing of memory's past is picked, the bytes read are the newest. -/
def Obligations.MatrixEngine : Prop :=
  ∀ (s : State) (g : Nat) (q : MatrixCmd), s.canonical → g < s.wgs.length → s.matrixHead g = some q →
    let w := s.wg g
    let lo := w.accKey q.op.acc 0 0
    let ended (t : State) : Prop := (t.wg g).mqueue = w.mqueue.tail ∧ (t.wg g).mdone = q.num
    let owed (t : State) (k op6 cause : Nat) (a : Word) : Prop := (t.ctx k).pending = (s.ctx k).pending ++
      [{ record := .of cause a (BitVec.ofNat 64 (op6 + q.op.acc * 256)) q.pc, seq := (s.ctx k).evSeq, wave := none }]
    (∀ m, q.op = .mloop m → q.tA.rows ≤ 128 → q.tB.cols ≤ 128 →
      let u : State := if m.clear = true ∧ q.started = false then
          { s with accs := sparseClear s.accs lo (lo + 2 ^ 14), badAccs := s.badAccs.filter fun k => k < lo || lo + 2 ^ 14 ≤ k }
        else s
      let keys := (List.range q.tA.rows).flatMap fun i => (List.range q.tB.cols).map fun c => w.accKey q.op.acc i c
      (u.matrixPoison w q.addrs true keys = none → s.vis.picks = [] → Happens (exec (.matrixStep g) s) fun t =>
        (if q.left ≤ 1 then ended t else (t.wg g).mqueue = q.stepped m :: w.mqueue.tail ∧ (t.wg g).mdone = w.mdone) ∧
          SameBut [.clusters, .wgs, .accs, .badAccs, .mem] s t ∧ t.mem = s.mem ∧
          (∀ p ∈ u.stepElems w q, sparseGet t.accs p.1 = p.2) ∧
          (∀ key, key ∉ keys → sparseGet t.accs key = sparseGet u.accs key) ∧
          (∀ key, key ∈ t.badAccs ↔ key ∈ u.badAccs ∧ key ∉ keys) ∧
          (q.kind = .i32 → ∀ i < q.tA.rows, ∀ c < q.tB.cols,
            let old := (sparseGet u.accs (w.accKey q.op.acc i c)).toInt
            let new := old + ((List.range q.tA.cols).map fun n => (s.operandVal w q.tA true i n).dy.m * (s.operandVal w q.tB false c n).dy.m).sum
            sparseGet t.accs (w.accKey q.op.acc i c)
              = BitVec.ofInt 32 (if q.tA.sat = true ∨ q.tA.fmt = 7 then max (-2 ^ 31) (min (2 ^ 31 - 1) new) else new))) ∧
      (∀ cause a k, u.matrixPoison w q.addrs true keys = some (cause, a) → w.ctxs[q.role]? = some k → k < s.ctxs.length →
        (s.ctx k).status ≠ .ended → Happens (exec (.matrixStep g) s) fun t =>
          ended t ∧ owed t k 1 cause a ∧ SameBut [.clusters, .wgs, .accs, .badAccs, .ctxs, .mem] s t ∧ t.mem = s.mem ∧
            t.accs = u.accs ∧ t.badAccs = u.badAccs)) ∧
    (∀ m, q.op = .mdrain m →
      let keys := (List.range q.tA.rows).flatMap fun i => (List.range q.tA.cols).map fun c => w.accKey q.op.acc i c
      let out := s.drainBytes w q m
      (s.matrixPoison w q.addrs m.addOn keys = none → (out.map (·.1)).Nodup → m.addOn = true ∨ s.vis.picks = [] →
        Happens (exec (.mdrainExecute g) s) fun t =>
          ended t ∧ SameBut [.clusters, .wgs, .mem, .badDram, .badSram] s t ∧ (∀ p ∈ out, t.byte p.1 = p.2) ∧
            ∀ l, l ∉ out.map (·.1) → t.byte l = s.byte l) ∧
      (∀ cause a k, s.matrixPoison w q.addrs m.addOn keys = some (cause, a) → w.ctxs[q.role]? = some k → k < s.ctxs.length →
        (s.ctx k).status ≠ .ended → Happens (exec (.mdrainExecute g) s) fun t =>
          ended t ∧ owed t k 2 cause a ∧ SameBut [.clusters, .wgs, .ctxs, .mem] s t ∧ t.mem = s.mem)) ∧
    (∀ n, q.op = .mclr n → Happens (exec (.mclrExecute g) s) fun t =>
      ended t ∧ SameBut [.clusters, .wgs, .accs, .badAccs, .mem] s t ∧ t.mem = s.mem ∧
        ∀ key, sparseGet t.accs key = if lo ≤ key ∧ key < lo + 2 ^ 14 then 0 else sparseGet s.accs key) ∧
    ((∀ m, q.op ≠ .mloop m) → Idle "MATRIX_STEP" (exec (.matrixStep g) s)) ∧
    ((∀ m, q.op ≠ .mdrain m) → Idle "MDRAIN_EXECUTE" (exec (.mdrainExecute g) s)) ∧
    ((∀ n, q.op ≠ .mclr n) → Idle "MCLR_EXECUTE" (exec (.mclrExecute g) s))

/-- R279, R281, R282, R286 to R289, R292, R293, R295, R370, R420. The engine reads the next units of a command's source into its landing
buffer while a slot of the buffer is free, waits for a far source, and freezes on a page that does not translate; the unit at COUNT lands,
of a copy from its buffer and of a matched CRED from the combined data, and COUNT passes it; the last one publishes the command, and then
an arrive-flagged copy arrives at its barrier, or owes the barrier trap where its role has arrived before; bytes read with poison land
poisoned; where the spans meet, a byte that an earlier index of its unit writes is read as that one leaves it; a command whose way crosses
a failed port is poisoned, and its slots are free; a copy of a workgroup being saved parks, and drops what it read ahead unless its source
is free (log entry 101). Where nothing of memory's past is picked, the bytes read are the newest. -/
def Obligations.CopyEngine : Prop :=
  ∀ (s : State) (g n : Nat) (b : Bound), s.canonical → g < s.wgs.length → n < 16 → s.bound g n = some b →
    let w := s.wg g
    let units := s.nextUnits w b
    let unit := s.copyUnit w b true b.count (min 64 (b.len - b.count))
    let dead : Bound :=
      { b with state := .poisoned, asks := none, buffer := [], badBytes := [], sent := if b.isCopy = true then b.count else b.sent }
    let mates := s.bounds.filter fun y =>
      y.2.2.isCopy && y.2.2.state != .parked && 0 < y.2.2.slots && y.2.2.site (s.wg y.1).cluster == b.site w.cluster
    let used := (mates.map fun y => y.2.2.slots).sum
    let froze (t : State) : Prop :=
      t.bound g n = some { b with state := .frozen, record := some (s.dctx w.ctxid).faultSeq } ∧
        ∃ r ∈ (t.dctx w.ctxid).faults, r.seq = (s.dctx w.ctxid).faultSeq ∧ r.source = .copy g n ∧ r.answer = none
    let F : List Field := [.dev, .links, .wgs, .dies, .clusters, .mem, .badDram, .badSram]
    (s.sendReady g n = true → s.crossesFailed w b = false →
      (∀ l, (∀ u ∈ units, ∃ i k ls xs, u = (i, k, .ok ls xs) ∧ farRead ls = false ∧ ∀ x ∈ xs, x.1.walked = false) → s.vis.picks = [] →
        l = (units.flatMap fun u => match u.2.2 with
          | .ok ls _ => ls
          | _ => []) →
        Happens (exec (.copySegmentSend g n) s) fun t => ∃ b', t.bound g n = some b' ∧
          SameBut [.dev, .links, .wgs, .dies, .clusters, .mem] s t ∧ t.mem = s.mem ∧
          b' = { b with
            sent := b.sent + b.nextRead w, srcf := b.srcf || (b.sent + b.nextRead w == b.srcLen && !b.overlaps w)
            buffer := b'.buffer, badBytes := b'.badBytes } ∧
          (s.poisoned l = false → b'.badBytes = b.badBytes) ∧
          (b.overlaps w = false → b'.buffer = b.buffer ++ l.map s.byte ∧
            ∀ j < l.length, s.poisoned [l.getD j 0] = true → b.sent + j ∈ b'.badBytes) ∧
          (b.overlaps w = true → ∀ j < l.length, b'.buffer.getD (b.buffer.length + j) 0 =
            match (List.range j).find? fun m => ownWindow w (b.dstAt (b.sent + m)) == ownWindow w (b.srcAt (b.sent + j)) with
            | some m => b'.buffer.getD (b.buffer.length + m) 0
            | none => s.byte (l.getD j 0))) ∧
      (∀ i k ls xs, units.head? = some (i, k, .ok ls xs) → farRead ls = true → Happens (exec (.copySegmentSend g n) s) fun t =>
        t.bound g n = some { b with asks := some false } ∧ SameBut [.wgs] s t) ∧
      (∀ i k, units.head? = some (i, k, .poison) → Happens (exec (.copySegmentSend g n) s) fun t =>
        t.bound g n = some dead ∧ SameBut [.wgs] s t) ∧
      (∀ i k va f, units.head? = some (i, k, .freeze va f) → (s.devIx w.ctxid).isSome = true →
        Happens (exec (.copySegmentSend g n) s) froze)) ∧
    (b.isCopy = true → b.sent ≤ b.count ∨ b.sent % 2048 = 0 → 128 ≤ used ∨ 127 ≤ used ∧ (∃ y ∈ mates, y.2.2.stamp < b.stamp) →
      Idle "COPY_SEGMENT_SEND" (exec (.copySegmentSend g n) s)) ∧
    (s.sendReady g n = false → Idle "COPY_SEGMENT_SEND" (exec (.copySegmentSend g n) s)) ∧
    (s.crossesFailed w b = true →
      (s.sendReady g n = true → Happens (exec (.copySegmentSend g n) s) fun t => t.bound g n = some dead ∧ SameBut [.wgs] s t) ∧
      (s.commitReady g n = true → Happens (exec (.copyUnitCommit g n) s) fun t => t.bound g n = some dead ∧ SameBut [.wgs] s t)) ∧
    (s.commitReady g n = true → s.crossesFailed w b = false →
      (∀ ls xs, unit = .ok ls xs → s.vis.picks = [] → (∀ x ∈ xs, x.1.walked = false) → ls.Nodup → ls.any isRemote = false →
        let bytes := if b.isCopy = true then b.buffer else b.data.drop b.count
        let last := b.count + ls.length = b.len
        ls.length ≤ bytes.length → Happens (exec (.copyUnitCommit g n) s) fun t =>
          (∀ i < ls.length, t.byte (ls.getD i 0) = bytes.getD i 0) ∧ (∀ l, l ∉ ls → t.byte l = s.byte l) ∧
          (∀ i < ls.length, b.count + i ∈ b.badBytes → isDram (ls.getD i 0) = true ∨ 2 ^ 56 ≤ ls.getD i 0 →
            t.poisoned [ls.getD i 0] = true) ∧
          (¬ last → SameBut F s t ∧ t.bound g n = some { b with
            count := b.count + ls.length, state := .landing, buffer := if b.isCopy = true then b.buffer.drop ls.length else b.buffer
            badBytes := b.badBytes.filter (b.count + ls.length ≤ ·) }) ∧
          (last → t.bound g n = some { b with
              count := b.count + ls.length, state := .published, srcf := true, armed := false, buffer := [], badBytes := [], data := [] } ∧
            (b.arrive = none → SameBut F s t) ∧
            ∀ m k, b.arrive = some m → w.ctxs[b.role]? = some k → k < s.ctxs.length → (s.ctx k).status ≠ .ended →
              let bar := s.bar g 0 m
              (s.hasArrived g b.role 0 m = false → SameBut F s t ∧ t.bar g 0 m =
                if bar.arrived + 1 = bar.perPhase then { bar with phases := bar.phases + 1, arrived := 0 }
                else { bar with arrived := bar.arrived + 1 }) ∧
              (s.hasArrived g b.role 0 m = true → SameBut (.ctxs :: F) s t ∧ (t.ctx k).pending = (s.ctx k).pending ++
                [{ record := .of 17 0 (BitVec.ofNat 64 (b.op6 + n * 256)) b.pc, seq := (s.ctx k).evSeq, wave := none }]))) ∧
      (∀ ls xs, unit = .ok ls xs → ls.any isRemote = true → Happens (exec (.copyUnitCommit g n) s) fun t =>
        t.bound g n = some { b with asks := some true } ∧ SameBut [.wgs] s t) ∧
      (unit = .poison → Happens (exec (.copyUnitCommit g n) s) fun t => t.bound g n = some dead ∧ SameBut [.wgs] s t) ∧
      (∀ va f, unit = .freeze va f → (s.devIx w.ctxid).isSome = true → Happens (exec (.copyUnitCommit g n) s) froze)) ∧
    (s.commitReady g n = false → Idle "COPY_UNIT_COMMIT" (exec (.copyUnitCommit g n) s)) ∧
    (s.parkReady g n = true → Happens (exec (.copyPark g n) s) fun t => SameBut [.wgs] s t ∧
      t.bound g n = some (if b.srcf = true then { b with state := .parked, before := b.state }
        else { b with state := .parked, before := b.state, sent := b.count, buffer := [], badBytes := [] })) ∧
    (s.parkReady g n = false → Idle "COPY_PARK" (exec (.copyPark g n) s))

/-- R416, R422 to R425. The matched calls of all ranks get their combined data, each group in rank order and the groups by the pairwise
tree; with acquire at system scope on all of them, what happens before one of them happens before the destination writes of each; calls
that disagree, or meet a destroyed rank or a package that no link reaches, are poisoned and no data is combined. That a call with no
destination byte is published at the reduction is the model's choice (log entry 55). -/
def Obligations.ChainUnitsReduce : Prop :=
  ∀ (s : State) (h : Nat) (c : Comm), s.comm h = some c → s.reduceReady h = true →
    let l := s.matchedCalls h
    let inRange := ∀ x ∈ l, x.wg < s.wgs.length ∧ x.wm < 16
    let agents := l.map fun x => x.bound.agent x.wg
    let good := inRange ∧ c.dead = [] ∧ callsAgree l = true ∧ (∀ r < c.ranks.length, ∃ x ∈ l, x.rank = r) ∧ .fails ∉ s.farWays c
    (good → (∀ x ∈ l, x.bound.len ≠ 0) → Happens (exec (.chainUnitReduce h) s) fun t =>
      SameBut [.dev, .wgs, .mem] s t ∧ t.mem = s.mem ∧
        (∀ x ∈ l, let r := credResult c l s.dev.freeCount x
          t.bound x.wg x.wm = some { x.bound with matched := true, buffer := [], data := r.1, badBytes := r.2 }) ∧
        ((∀ x ∈ l, x.bound.acquire = true ∧ x.bound.scope = .system) → ∀ u ∈ t.vis.writes, u.known agents = true →
          ∀ y ∈ agents, u.before y = true ∧ u.pathsOf y = allPaths)) ∧
    (good → (∀ x ∈ l, x.bound.arrive = none) →
      Happens (exec (.chainUnitReduce h) s) fun t => t.mem = s.mem ∧ ∀ x ∈ l, x.bound.len = 0 →
        ∃ b, t.bound x.wg x.wm = some b ∧ b.state = .published ∧ b.armed = false) ∧
    (inRange → c.dead ≠ [] ∨ callsAgree l = false ∨ .fails ∈ s.farWays c → Happens (exec (.chainUnitReduce h) s) fun t => SameBut [.dev, .wgs] s t ∧
      ∀ x ∈ l, ∃ b, t.bound x.wg x.wm = some b ∧ b.state = .poisoned ∧ b.matched = false ∧ b.buffer = [] ∧ b.armed = x.bound.armed) ∧
    (∀ (f : Nat → Nat → Nat) (x : Nat) (xs : List Nat), combineRanks f [xs.length + 1] (x :: xs) = xs.foldl f x) ∧
    (∀ (f : Nat → Nat → Nat) (p q r u : Nat), combineRanks f [1, 1, 1, 1] [p, q, r, u] = f (f p q) (f r u)) ∧
    (∀ x y, x < 2 ^ 32 → y < 2 ^ 32 → ∀ e, credCombine .n32 .sum e x y = (x + y) % 2 ^ 32 ∧
      credCombine .n32 .min e x y = (if x ≤ y then x else y) ∧ credCombine .n32 .max e x y = if x ≤ y then y else x)

/-! ### The life of a gang -/

/-- R317, R318, R320, R324, R345, R354, R407. DISPATCH_SERVE with one head: the next gang of its record gets its clusters, with every
member STARTING on the seat it was given, and the record counts it; where a chosen cluster is gated it wakes and the gang waits; a record
that does not fit stays, and its queue counts the refusal: 3 where a pool is short, 2 with the vault where the heat rule refuses a
cluster, 1 otherwise. That reason 2 counts the test of 105 degrees with the floor's, and which clusters are offered, is the model's choice
(log entries 49, 50). -/
def Obligations.DispatchPlacesGangs : Prop :=
  ∀ (s : State) (c qn l : Nat) (q : Queue),
    let D := s.dctx c
    let r := s.launch l
    let gs := s.gangs.length
    let trial := placeGangs (s.judge ((r.floor, r.floorDies) :: s.residentFloors)) r.header r.size (s.offered D.desc.part) [gs] s.seats
    let pools := takeAllPools D.desc r.header r.size D.pools
    (s.servable = [.ring c qn] → D.queue qn = some q → q.current = some l → l < s.launches.length → r.ctxid = c → r.queue = qn →
      r.coresident = false →
      (∀ seats shares p, trial.seats = some seats → pools = some (shares, p) → seats.length = r.size → shares.length = r.size →
        ((∀ x ∈ seats, (s.cluster x.cluster).gated = false) →
          Happens (exec .dispatchServe s) fun t => t.gangs.length = gs + 1 ∧ (t.gang gs).size = r.size ∧ (t.gang gs).origin = .launch l ∧
            (t.gang gs).wgs = (List.range r.size).map (s.wgs.length + ·) ∧
            (t.gang gs).stamps = (q.held.head?.bind (·.2)).toList ∧
            (∀ i < r.size, let w := t.wg (s.wgs.length + i)
              w.status = .starting ∧ w.ctxid = c ∧ w.member = i ∧ w.wgid = r.nextGang * r.size + i ∧ w.header = r.header ∧
                w.gang = gs ∧ ∀ x, seats[i]? = some x → w.cluster = x.cluster ∧ w.accs = x.accs ∧ w.spad = 4096 * x.spad) ∧
            (t.launch l).nextGang = r.nextGang + 1 ∧ (t.dctx c).pools = p ∧ (∀ i < s.wgs.length, t.wg i = s.wg i)) ∧
        (∀ x ∈ seats, (s.cluster x.cluster).gated = true → x.cluster < s.clusters.length → Happens (exec .dispatchServe s) fun t =>
          t.gangs = s.gangs ∧ t.wgs = s.wgs ∧ t.launches = s.launches ∧ (t.cluster x.cluster).gated = true ∧
            (t.cluster x.cluster).wakeAt = some ((s.cluster x.cluster).wakeAt.getD (s.dev.time + 20000)))) ∧
      (trial.refused = [] → pools = none ∨ trial.seats = none → Happens (exec .dispatchServe s) fun t =>
        (t.dctx c).queue qn = some { q with
            reason := if pools = none then 3 else 1, reasonVault := 0, reasonAvail := 0, refusals := q.refusals + 1 } ∧
          t.gangs = s.gangs ∧ t.wgs = s.wgs ∧ t.launches = s.launches) ∧
      (∀ before k v a after, trial.refused = before ++ (k, v, a) :: after → (∀ x ∈ before, k < x.1) → (∀ x ∈ after, k ≤ x.1) →
        pools = none ∨ trial.seats = none → Happens (exec .dispatchServe s) fun t =>
          (t.dctx c).queue qn = some { q with
              reason := 2, reasonVault := v, reasonAvail := a, refusals := q.refusals + trial.refused.length } ∧
            t.gangs = s.gangs ∧ t.wgs = s.wgs ∧ t.launches = s.launches)) ∧
    (s.servable = [] → Idle "DISPATCH_SERVE" (exec .dispatchServe s))

/-- R141, R151, R171, R316, R345 to R348, R358 to R361, R435. A gang that can start starts whole: every role at its entry with s2, s3 and
s4 as given and zero elsewhere, every wave live, its accumulators zero, its barriers in phase 0. A gang whose members have all ended
retires and frees what it held. A gang whose agents all stand at their boundaries is saved in its turn at the spill sequencers, leaves
its clusters and waits; its areas hold what Tables 15.7 to 15.11 lay out, and the device keeps the rest (log entries 17, 66). A restored
gang runs again from its areas; one with a field out of range stays saved. An access to an area that fails pauses the gang, and what a
restore has read by then stays read. -/
def Obligations.GangLife : Prop :=
  ∀ (s : State) (g : Nat), s.sized → s.canonical → g < s.gangs.length → s.apart g →
    let G := s.gang g
    let known := ∀ m ∈ G.wgs, (s.devIx (s.wg m).ctxid).isSome = true
    (s.startReady g = true → G.trigger = none → Happens (exec (.workgroupStart g) s) fun t =>
      (Answer (goOnWriting g (s.startPieces g)) s = true → ∀ m ∈ G.wgs,
        let w := s.wg m
        (t.wg m).status = .running ∧
          (∀ r k e, w.ctxs[r]? = some k → w.header.roles[r]? = some e → RoleStarts (s.dctx w.ctxid) w m r e (t.ctx k)) ∧
          (∀ r e i v, w.header.roles[r]? = some e → i < e.waves →
            let j := ((w.header.roles.take r).map (·.waves)).sum + i
            w.waves[j]? = some v → WaveStarts w m r i j (s.wave v) (t.wave v)) ∧
          (∀ n < w.accs.length, ∀ e < 2 ^ 14, sparseGet t.accs (w.accKey n 0 e) = 0) ∧
          (∀ k < 16, (t.wg m).bars[k]? = some { phases := 0, arrived := 0, perPhase := w.header.roles.length }) ∧
          SameBut [.gangs, .wgs, .ctxs, .waves, .accs, .badAccs, .clusters, .dies, .mem, .badDram, .badSram, .dev, .links] s t) ∧
      (Answer (goOnWriting g (s.startPieces g)) s = false → known → PausedAt s t g)) ∧
    (∀ p loc, s.startReady g = true → G.trigger = none → (s.startPieces g).drop G.progress = [p] →
      s.areaLoc (s.wg p.wg) p.va p.bytes.length .spill = .ok loc → Happens (exec (.workgroupStart g) s) fun t =>
        (∀ m ∈ G.wgs, (t.wg m).status = .running) ∧ (locRange loc p.bytes.length).map t.byte = p.bytes) ∧
    (s.startReady g = false → Idle "WORKGROUP_START" (exec (.workgroupStart g) s)) ∧
    (G.wgs.all s.wgEnded = true → s.signalWaits g = false → Happens (exec (.workgroupRetire g) s) fun t =>
      (t.gang g).discarded = true ∧ (∀ m ∈ G.wgs, (t.wg m).status = .retired) ∧ LeftClusters s t g ∧
        (∀ m ∈ G.wgs, ∀ u ∈ (t.dctx (s.wg m).ctxid).saveUsed, u.1 ≠ (s.wg m).saveAt) ∧
        (∀ l, G.origin = .launch l → l < s.launches.length → (t.launch l).retired = (s.launch l).retired + G.size) ∧
        ∀ c h i nd, G.origin = .batch c h i → (t.dctx c).node h = some nd → nd.slots.getD i false = false) ∧
    (G.wgs.all s.wgEnded = false ∨ s.signalWaits g = true → Idle "WORKGROUP_RETIRE" (exec (.workgroupRetire g) s)) ∧
    (s.savable g = true → s.spillFree g → s.writesReady g (s.savePieces g) = true →
      (∀ m ∈ G.wgs, AreaImage s m (s.image m (s.keptOf m))) ∧
      Happens (exec (.gangSaveComplete g) s) fun t =>
        (Answer (goOnWriting g (s.savePieces g)) s = true →
          (t.gang g).waits = true ∧ LeftClusters s t g ∧ t.mem = (Leaves (goOnWriting g (s.savePieces g)) s).mem ∧
          (∀ m ∈ G.wgs, (t.wg m).status = .saved ∧ (t.wg m).saveTime = s.dev.time ∧ ∃ K : Kept, (t.wg m).kept = some K ∧
            (∀ r k : Nat, (s.wg m).ctxs[r]? = some k → K.ctxs[r]? = some { s.ctx k with status := .saved }) ∧
            ∀ j v : Nat, (s.wg m).waves[j]? = some v → ∃ x : Wave, K.waves[j]? = some x ∧ x.status = .saved ∧ x.left = (s.wave v).status ∧
              x.flight = [] ∧ x.latch = (s.wave v).latch ∧
              ((s.wave v).flight = [] → x.stream = (s.wave v).stream ∧ x.hbuf = (s.wave v).hbuf)) ∧
          SameBut [.gangs, .wgs, .ctxs, .waves, .clusters, .dies, .mem, .badDram, .badSram, .dev, .links] s t) ∧
        (Answer (goOnWriting g (s.savePieces g)) s = false → known → PausedAt s t g)) ∧
    (s.savable g = false ∨ s.gangTurn g = false → Idle "GANG_SAVE_COMPLETE" (exec (.gangSaveComplete g) s)) ∧
    (s.restoreGoesOn g = true → s.spillFree g → G.trigger = none → (∀ m ∈ G.wgs, (s.dctx (s.wg m).ctxid).faults = []) →
      let u := Leaves (readAreas g) s
      (Answer (readAreas g) s = true → u.badFields g = [] → Happens (exec (.gangRestore g) s) fun t => (t.gang g).waits = false ∧
        (∀ m ∈ G.wgs, let w := s.wg m
          let rd := u.areaRead w
          (t.wg m).status = .running ∧ (t.wg m).kept = none ∧ (t.wg m).mseq = BitVec.ofNat 64 (rd 0x30 8) ∧
          ∀ r k, w.ctxs[r]? = some k → let o := 0x1000 + 4096 * r
            let code := rd o 8 % 16
            (t.ctx k).status = (if code = 3 then .ended else if code = 4 then .halted else .running) ∧
              (code ≠ 4 → (t.ctx k).mode = if code = 2 then .handler else .user) ∧
              (t.ctx k).pc = BitVec.ofNat 64 (rd (o + 8) 8) ∧ (t.ctx k).s.getD 0 0 = 0 ∧
              (∀ i < 31, (t.ctx k).s.getD (i + 1) 0 = BitVec.ofNat 64 (rd (o + 0x10 + 8 * i) 8)) ∧
              (∀ i < 8, (t.ctx k).bank.getD i 0 = BitVec.ofNat 64 (rd (o + 0x108 + 8 * i) 8)) ∧
              (t.ctx k).trap.cause = BitVec.ofNat 64 (rd (o + 0x160) 8) &&& 0x13F ∧
              (t.ctx k).trap.epc = BitVec.ofNat 64 (rd (o + 0x190) 8)) ∧
        ∀ m, G.wgs = [m] → let w := s.wg m
          let rd := u.areaRead w
          (w.accs.Nodup → w.header.accs ≤ w.accs.length → ∀ n < w.header.accs, ∀ e < 16384,
            sparseGet t.accs (w.accKey n 0 e) = BitVec.ofNat 32 (rd (w.header.accOffset + 65536 * n + 4 * e) 4)) ∧
          (∀ v, w.waves = [v] → ∀ n < (s.wave v).width, ∀ l < 64, sparseGet t.vregs (regKey w.cluster (s.wave v) 0 n l)
            = BitVec.ofNat 32 (rd (w.header.waveOffset 0 + 0x2000 + 256 * n + 4 * l) 4)) ∧
          ∀ i < 2 * w.header.units, let va := w.saveAt + w.header.spadOffset + 2048 * i
            let early := (u.gang w.gang).read.find? (·.1 == va)
            ∀ j < 2048, let x := t.byte (spadLoc w.cluster (w.spad + 2048 * i + j))
              (∀ p, early = some p → p.2.length = 2048 → x = p.2.getD j 0) ∧
                ∀ loc, early = none → u.areaLoc w va 2048 .reload = .ok loc → x = u.byte (loc + j)) ∧
      (Answer (readAreas g) s = true → u.badFields g ≠ [] → Happens (exec (.gangRestore g) s) fun t =>
        (t.gang g).waits = true ∧ (t.gang g).trigger = some .halt ∧ ∀ m ∈ G.wgs, (t.wg m).status = .saved) ∧
      (Answer (readAreas g) s = false → known → Happens (exec (.gangRestore g) s) fun t => PausedAt s t g ∧
        ∃ n, (t.gang g).progress = G.progress + n ∧
          ∀ p ∈ ((s.restorePieces g).drop G.progress).take n, (p.2, s.areaPiece (s.wg p.1) p.2) ∈ (t.gang g).read)) ∧
    (s.mayRestore g = false → s.restoreGoesOn g = false → Idle "GANG_RESTORE" (exec (.gangRestore g) s))

/-! ### Commands -/

/-- R297, R306, R307, R428, R429, R431. The life of a device context: CREATED, RUNNABLE, SUSPENDING with every gang pre-empted, RUNNABLE
again, gone; and its migration. Each of these commands ends with 4 when it names no context, with 9 when it names one that is gone, with 2
when another partition owns it and with 5 when the context is in another state, and changes nothing; creation ends with 3, 2 or 6. Where
two checks fail, their order is that of log entry 70. -/
def Obligations.ContextCommands : Prop :=
  ∀ (s : State) (h : CmdHead) (desc buf bytes root : Nat), s.canonical → h.part < s.parts.length →
    let d := s.dctx h.ctxid
    let F : List Field := [.mem, .badDram, .badSram, .parts, .devs]
    let others (t : State) : Prop := ∀ c, c ≠ h.ctxid → t.dctx c = s.dctx c
    (let b := s.busRead desc 128
     let x := parseDescriptor b
     h.answers = true → descriptorOk b = true → x.ctxid = h.ctxid → h.part = 0 ∨ x.part = h.part → s.devIx x.ctxid = none →
      Succeeds h 1 0 (exec (.createContext h desc) s) fun t =>
        t.devs = s.devs ++ [{ DevCtx.blank with desc := x, status := .created }] ∧ SameBut F s t) ∧
    (h.answers = false → Refuses s h 1 7 (exec (.createContext h desc) s)) ∧
    (let b := s.busRead desc 128
     let x := parseDescriptor b
     h.answers = true →
      (descriptorOk b = false ∨ x.ctxid ≠ h.ctxid → Refuses s h 1 3 (exec (.createContext h desc) s)) ∧
      (descriptorOk b = true → x.ctxid = h.ctxid → h.part ≠ 0 → x.part ≠ h.part → Refuses s h 1 2 (exec (.createContext h desc) s)) ∧
      (descriptorOk b = true → x.ctxid = h.ctxid → h.part = 0 ∨ x.part = h.part → s.devIx x.ctxid ≠ none →
        Refuses s h 1 6 (exec (.createContext h desc) s))) ∧
    (let all (st : Nat) : Prop :=
      Refuses s h 2 st (exec (.enableContext h) s) ∧ Refuses s h 3 st (exec (.suspendContext h) s) ∧
        Refuses s h 4 st (exec (.resumeContext h) s) ∧ Refuses s h 5 st (exec (.destroyContext h) s) ∧
        Refuses s h 6 st (exec (.migrateBegin h buf bytes) s) ∧ Refuses s h 7 st (exec (.migrateCommit h buf bytes false root) s) ∧
        Refuses s h 8 st (exec (.migrateAbort h) s)
     ((∀ x ∈ s.devs, x.desc.ctxid ≠ h.ctxid) → all 4) ∧
      (s.devIx h.ctxid = none → (∃ x ∈ s.devs, x.desc.ctxid = h.ctxid) → all 9) ∧
      (s.devIx h.ctxid ≠ none → h.part ≠ 0 → d.desc.part ≠ h.part → all 2)) ∧
    (MayName s h →
      (d.status ≠ .created → Refuses s h 2 5 (exec (.enableContext h) s)) ∧
      (d.status ≠ .runnable → Refuses s h 3 5 (exec (.suspendContext h) s)) ∧
      (d.status ≠ .suspended ∨ s.heldByTables h.ctxid = true → Refuses s h 4 5 (exec (.resumeContext h) s) ∧
        Refuses s h 6 5 (exec (.migrateBegin h buf bytes) s)) ∧
      (d.status ≠ .migrating → Refuses s h 7 5 (exec (.migrateCommit h buf bytes false root) s) ∧
        Refuses s h 8 5 (exec (.migrateAbort h) s))) ∧
    (MayName s h → d.status = .created → Succeeds h 2 0 (exec (.enableContext h) s) fun t =>
      t.dctx h.ctxid = { d with status := .runnable } ∧ others t ∧ SameBut F s t) ∧
    (MayName s h → d.status = .runnable → Waits h (.suspendContext h) (exec (.suspendContext h) s) fun t =>
      (t.dctx h.ctxid).status = .suspending ∧ (∀ q ∈ (t.dctx h.ctxid).queues, q.status ≠ .enabled) ∧
        (∀ g ∈ s.gangsOf h.ctxid, (t.gang g).trigger.isSome = true ∧
          ∀ w ∈ (s.gang g).wgs, w < s.wgs.length → (s.wg w).status = .running → (t.wg w).status = .saving) ∧
        SameBut [.parts, .devs, .gangs, .wgs] s t) ∧
    (MayName s h → d.status = .suspended → s.heldByTables h.ctxid = false → d.faults = [] →
      Succeeds h 4 0 (exec (.resumeContext h) s) fun t => SameBut F s t ∧ others t ∧
        t.dctx h.ctxid = { d with
          status := .runnable, queues := d.queues.map fun q => if q.status == .stopped then { q with status := .enabled } else q }) ∧
    (MayName s h → s.oneLive h.ctxid → Succeeds h 5 0 (exec (.destroyContext h) s) fun t =>
      t.devIx h.ctxid = none ∧ ∀ g ∈ s.gangsOf h.ctxid, (t.gang g).discarded = true) ∧
    (let image := s.migrationImage h.ctxid
     MayName s h → d.status = .suspended → s.heldByTables h.ctxid = false → image.length ≤ bytes → image.length < 2 ^ 64 → h.answers = true →
      Apart buf image.length (h.slot + 0x38) 8 → Succeeds h 6 image.length (exec (.migrateBegin h buf bytes) s) fun t =>
        (t.dctx h.ctxid).status = .migrating ∧ t.busRead buf image.length = image ∧ SameBut F s t ∧
          field image 0 2 = 1 ∧ field image 2 1 = 2 ∧ field image 8 8 = image.length) ∧
    (let b := s.busRead buf bytes
     let x := parseDescriptor ((b.drop 0x10).take 128)
     h.answers = true → 0x90 ≤ bytes → field b 8 8 ≤ bytes → field b 0 2 ≤ 1 → field b 2 1 = 2 → s.descStatus h ((b.drop 0x10).take 128) = 0 →
      root % 4096 = 0 → (dramLoc root).isSome = true → Succeeds h 7 0 (exec (.migrateCommit h buf bytes true root) s) fun t =>
        (t.dctx h.ctxid).status = .runnable ∧ (t.dctx h.ctxid).desc = { x with root := root }) ∧
    (MayName s h → d.status = .migrating → s.oneLive h.ctxid →
      Succeeds h 7 0 (exec (.migrateCommit h buf bytes false root) s) fun t => t.devIx h.ctxid = none) ∧
    (MayName s h → d.status = .migrating → Succeeds h 8 0 (exec (.migrateAbort h) s) fun t =>
      t.dctx h.ctxid = { d with status := .suspended } ∧ others t ∧ SameBut F s t)

/-- R313, R314, R326, R338, R383, R428. Queues, nodes, code registrations and invalidation: what each command leaves of its context, and
what it refuses: a context that it may not name, a number out of range, a name taken or unknown, a state it does not apply from. -/
def Obligations.QueueNodeCodeCommands : Prop :=
  ∀ (s : State) (h : CmdHead) (q ring entries floor dies node prio header size count timer pool base bytes table va : Nat) (data : Bool),
    s.canonical → h.part < s.parts.length →
    let d := s.dctx h.ctxid
    let F : List Field := [.mem, .badDram, .badSram, .parts, .devs]
    let D (t : State) : DevCtx := t.dctx h.ctxid
    let queueFits : Prop := q < 256 ∧ ring % 64 = 0 ∧ isPow2 entries = true ∧ 16 ≤ entries ∧ entries ≤ 65536 ∧
      ring + 64 * entries ≤ 2 ^ 48 ∧ floor ≤ 400 ∧ dies < 16
    let nodeFits : Prop := node < 4096 ∧ prio < 4 ∧ size % 8 = 0 ∧ 8 ≤ size ∧ size ≤ 64 ∧ 1 ≤ count ∧ count ≤ 256 ∧ timer < 65536 ∧
      pool % 64 = 0
    (let all (st : Nat) : Prop :=
      Refuses s h 0x10 st (exec (.createQueue h q data ring entries floor dies) s) ∧ Refuses s h 0x11 st (exec (.enableQueue h q) s) ∧
        Refuses s h 0x12 st (exec (.stopQueue h q) s) ∧ Refuses s h 0x13 st (exec (.startQueue h q) s) ∧
        Refuses s h 0x14 st (exec (.destroyQueue h q) s) ∧
        Refuses s h 0x18 st (exec (.createNode h node prio header size count timer pool) s) ∧
        Refuses s h 0x19 st (exec (.destroyNode h node) s) ∧ Refuses s h 0x20 st (exec (.registerCode h base bytes table) s) ∧
        Refuses s h 0x21 st (exec (.deregisterCode h base) s) ∧ Refuses s h 0x28 st (exec (.invalidate h va bytes) s)
     ((∀ x ∈ s.devs, x.desc.ctxid ≠ h.ctxid) → all 4) ∧
      (s.devIx h.ctxid = none → (∃ x ∈ s.devs, x.desc.ctxid = h.ctxid) → all 9) ∧
      (s.devIx h.ctxid ≠ none → h.part ≠ 0 → d.desc.part ≠ h.part → all 2)) ∧
    (MayName s h →
    (queueFits → d.queue q = none → Succeeds h 0x10 0 (exec (.createQueue h q data ring entries floor dies) s) fun t =>
        (D t).queue q = some (newQueue q data ring entries floor dies) ∧ SameBut F s t) ∧
    (¬ queueFits → Refuses s h 0x10 3 (exec (.createQueue h q data ring entries floor dies) s)) ∧
    (queueFits → d.queue q ≠ none → Refuses s h 0x10 6 (exec (.createQueue h q data ring entries floor dies) s)) ∧
    (d.queue q = none → Refuses s h 0x11 4 (exec (.enableQueue h q) s) ∧ Refuses s h 0x12 4 (exec (.stopQueue h q) s) ∧
      Refuses s h 0x13 4 (exec (.startQueue h q) s) ∧ Refuses s h 0x14 4 (exec (.destroyQueue h q) s)) ∧
    (∀ x, d.queue q = some x →
      (x.status = .disabled → Succeeds h 0x11 0 (exec (.enableQueue h q) s) fun t =>
        (D t).queue q = some { x with status := .enabled } ∧ SameBut F s t) ∧
      (x.status ≠ .disabled → Refuses s h 0x11 5 (exec (.enableQueue h q) s)) ∧
      (x.status = .enabled → Succeeds h 0x12 0 (exec (.stopQueue h q) s) fun t =>
        (D t).queue q = some { x with status := .stopped } ∧ SameBut F s t) ∧
      (x.status = .stopped → Succeeds h 0x13 0 (exec (.startQueue h q) s) fun t =>
        (D t).queue q = some { x with status := .enabled } ∧ SameBut F s t) ∧
      Succeeds h 0x14 0 (exec (.destroyQueue h q) s) fun t => (D t).queue q = none ∧ SameBut (.launches :: F) s t) ∧
    (¬ nodeFits → Refuses s h 0x18 3 (exec (.createNode h node prio header size count timer pool) s)) ∧
    (nodeFits → d.node node ≠ none → Refuses s h 0x18 6 (exec (.createNode h node prio header size count timer pool) s)) ∧
    (d.node node = none → Refuses s h 0x19 4 (exec (.destroyNode h node) s)) ∧
    (nodeFits → d.node node = none → Succeeds h 0x18 0 (exec (.createNode h node prio header size count timer pool) s) fun t => SameBut F s t ∧
        (D t).node node = some
          { handle := node, header := header, prio := prio, size := size, count := count, timer := timer, pool := pool, opened := none
            sealed := [], slots := List.replicate 17 false, dying := false, headSince := 0 }) ∧
    (∀ x, d.node node = some x → Waits h (.destroyNode h node) (exec (.destroyNode h node) s) fun t =>
      ∃ y, (D t).node node = some y ∧ y.dying = true ∧ y.opened = none ∧ y.sealed = x.sealed ∧ SameBut [.parts, .devs] s t) ∧
    (∀ i, (∀ e ∈ d.code, ∀ b n t, e = some (b, n, t) → b + n ≤ base ∨ base + bytes ≤ b) → d.code.findIdx? (fun e => e.isNone) = some i →
      Succeeds h 0x20 i (exec (.registerCode h base bytes table) s) fun t =>
        (D t).code = d.code.set i (some (base, bytes, table)) ∧ SameBut F s t) ∧
    ((∃ e ∈ d.code, ∃ b n t, e = some (b, n, t) ∧ b < base + bytes ∧ base < b + n) →
      Refuses s h 0x20 8 (exec (.registerCode h base bytes table) s)) ∧
    ((∀ e ∈ d.code, ∃ b n t, e = some (b, n, t) ∧ (b + n ≤ base ∨ base + bytes ≤ b)) →
      Refuses s h 0x20 6 (exec (.registerCode h base bytes table) s)) ∧
    ((∀ e ∈ d.code, ∀ n t, e ≠ some (base, n, t)) → Refuses s h 0x21 4 (exec (.deregisterCode h base) s)) ∧
    (∀ i n t, d.code[i]? = some (some (base, n, t)) → (∀ j < i, ∀ n' t', d.code[j]? ≠ some (some (base, n', t'))) →
      Succeeds h 0x21 0 (exec (.deregisterCode h base) s) fun u => (D u).code = d.code.set i none ∧ SameBut F s u) ∧
    (va % 4096 = 0 → bytes % 4096 = 0 → Succeeds h 0x28 0 (exec (.invalidate h va bytes) s) fun t =>
      (∀ k < 32, (t.cluster k).tlb = (s.cluster k).tlb.filter fun e => !e.inRange h.ctxid va bytes) ∧
        (∀ k < 4, (t.die k).l2tlb = (s.die k).l2tlb.filter fun e => !e.inRange h.ctxid va bytes) ∧
        (∀ k < 32, ∀ f ∈ (t.cluster k).icFills ++ (t.cluster k).dcFills ++ (t.cluster k).loftFills, f.ctxid = h.ctxid →
          bytes ≠ 0 ∧ (va + bytes ≤ f.line ∨ f.line + 64 ≤ va)) ∧
        SameBut [.mem, .badDram, .badSram, .parts, .clusters, .dies] s t) ∧
    (va % 4096 ≠ 0 ∨ bytes % 4096 ≠ 0 → Refuses s h 0x28 3 (exec (.invalidate h va bytes) s)))

/-- R308, R357, R386, R419, R427, R428. Answers to fault records, the commands on gangs, communicators, records that the core does not
know, what each of these refuses, and the end of a command that waited. That PRE_EMPT of a saved gang, and RESUME and DISCARD of one not
saved for a halt, end with status 5 (log entry 73), and how a communicator gets its handle and who on this package may name it (log entry
72), is the model's choice. -/
def Obligations.GangFaultAndCommunicatorCommands : Prop :=
  ∀ (s : State) (h : CmdHead) (seq wgid save ranks n groups sizes handle status : Nat) (fail : Bool),
    s.canonical → h.part < s.parts.length →
    let d := s.dctx h.ctxid
    (∀ r, MayName s h → d.faults.find? (fun x => x.seq == seq && x.posted && x.answer.isNone) = some r →
      d.status ≠ .suspended → d.status ≠ .migrating → s.holdsAnswer r = false →
      (∀ w i v, r.source = .lane w i → (s.wg w).waves[i]? = some v → v < s.waves.length → (s.wave v).status = .faulted →
        Succeeds h 0x29 0 (exec (.answerFault h seq fail) s) fun t => (∀ x ∈ (t.dctx h.ctxid).faults, x.seq ≠ seq) ∧
          (t.wave v).status = (if (s.wave v).stopSeq.isSome = true then .stopped else .live) ∧ (fail = false → (t.wave v).failed = none) ∧ (fail = true → (t.wave v).failed.isSome = true)) ∧
      (∀ w i b, r.source = .copy w i → w < s.wgs.length → i < 16 → s.bound w i = some b → b.state = .frozen → b.record = some r.seq →
        Succeeds h 0x29 0 (exec (.answerFault h seq fail) s) fun t => ∃ b', t.bound w i = some b' ∧ b'.record = none ∧
          b'.state = if fail then .poisoned else b.moving)) ∧
    (MayName s h → d.faults.find? (fun x => x.seq == seq && x.posted && x.answer.isNone) = none →
      Refuses s h 0x29 4 (exec (.answerFault h seq fail) s)) ∧
    (let all (st : Nat) : Prop :=
      Refuses s h 0x29 st (exec (.answerFault h seq fail) s) ∧ Refuses s h 0x30 st (exec (.preEmptGang h wgid) s) ∧
        Refuses s h 0x31 st (exec (.resumeGang h save) s) ∧ Refuses s h 0x32 st (exec (.discardGang h save) s)
     ((∀ x ∈ s.devs, x.desc.ctxid ≠ h.ctxid) → all 4) ∧
      (s.devIx h.ctxid = none → (∃ x ∈ s.devs, x.desc.ctxid = h.ctxid) → all 9) ∧
      (s.devIx h.ctxid ≠ none → h.part ≠ 0 → d.desc.part ≠ h.part → all 2)) ∧
    (MayName s h → (∀ g ∈ s.gangsOf h.ctxid, ∀ w ∈ (s.gang g).wgs, (s.wg w).wgid ≠ wgid) →
      Refuses s h 0x30 4 (exec (.preEmptGang h wgid) s)) ∧
    (∀ g, MayName s h → (s.gangsOf h.ctxid).find? (fun g => (s.gang g).wgs.any fun w => (s.wg w).wgid == wgid) = some g →
      (s.gang g).waits = true → Refuses s h 0x30 5 (exec (.preEmptGang h wgid) s)) ∧
    (∀ g, MayName s h → (s.gangsOf h.ctxid).find? (fun g => (s.gang g).wgs.any fun w => (s.wg w).wgid == wgid) = some g →
      (s.gang g).waits = false → Waits h (.preEmptGang h wgid) (exec (.preEmptGang h wgid) s) fun t =>
        (t.gang g).trigger.isSome = true ∧ SameBut [.parts, .gangs, .wgs] s t ∧
          ∀ w ∈ (s.gang g).wgs, w < s.wgs.length → (s.wg w).status = .running → (t.wg w).status = .saving) ∧
    (∀ g, MayName s h → s.gangAt h.ctxid save = some g → (s.gang g).waits = true → (s.gang g).trigger = some .halt →
      Succeeds h 0x31 0 (exec (.resumeGang h save) s) fun t => t.gang g = { s.gang g with trigger := some .driver } ∧
        (∀ j, j ≠ g → t.gang j = s.gang j) ∧ SameBut [.mem, .badDram, .badSram, .parts, .gangs] s t) ∧
    (∀ g, MayName s h → s.gangAt h.ctxid save = some g →
      ((s.gang g).trigger = some .halt → Succeeds h 0x32 0 (exec (.discardGang h save) s) fun t =>
        (t.gang g).discarded = true ∧ ∀ m ∈ (s.gang g).wgs, m < s.wgs.length → (t.wg m).status = .retired) ∧
      ((s.gang g).trigger ≠ some .halt → Refuses s h 0x31 5 (exec (.resumeGang h save) s) ∧
        Refuses s h 0x32 5 (exec (.discardGang h save) s))) ∧
    (MayName s h → s.gangAt h.ctxid save = none → Refuses s h 0x31 4 (exec (.resumeGang h save) s) ∧
      Refuses s h 0x32 4 (exec (.discardGang h save) s)) ∧
    (let b := s.busRead ranks (16 * n)
     let list := parseRanks n b
     let gs := (List.range groups).map fun i => leNat (s.busRead (sizes + 2 * i) 2)
     ∀ k, h.answers = true → h.ctxid = 0 → 1 ≤ n → n ≤ 4096 → 1 ≤ groups → ranksOk n b = true → (∀ x ∈ gs, 1 ≤ x) → gs.sum = n →
      (∀ c ∈ s.localContexts list, (s.devIx c).isSome = true ∧ (h.part = 0 ∨ (s.dctx c).desc.part = h.part)) → s.freeHandle = some k →
      groupsOnDevices gs list = true → (∀ x ∈ list, x.1 = s.dev.package) →
      Succeeds h 0x38 k (exec (.createCommunicator h ranks n groups sizes) s) fun t =>
        let new : Comm :=
          { handle := k, ranks := list, groups := gs, identity := identityOf n gs, calls := List.replicate n 0, dead := [] }
        t.dev.comms = s.dev.comms ++ [new] ∧
          (∀ c ∈ s.localContexts list, k ∈ (t.dctx c).comms) ∧ SameBut [.mem, .badDram, .badSram, .parts, .dev, .devs] s t) ∧
    (∀ c, h.ctxid = 0 → s.comm handle = some c → Waits h (.destroyCommunicator h handle) (exec (.destroyCommunicator h handle) s) fun t =>
      (∀ x ∈ s.devs, handle ∉ (t.dctx x.desc.ctxid).comms) ∧ SameBut [.parts, .devs] s t) ∧
    (h.ctxid = 0 → s.comm handle = none → Refuses s h 0x39 4 (exec (.destroyCommunicator h handle) s)) ∧
    Refuses s h (leNat (s.busRead h.slot 2)) status (exec (.unknownCommand h status) s) ∧
    ((s.part h.part).busy = some (.suspendContext h) → MayName s h → s.suspendDone h.ctxid = true →
      Succeeds h 3 0 (exec (.commandComplete h.part) s) fun t =>
        t.dctx h.ctxid = { d with status := .suspended } ∧ (t.part h.part).busy = none ∧
          SameBut [.mem, .badDram, .badSram, .parts, .devs] s t) ∧
    ((s.part h.part).busy = some (.destroyCommunicator h handle) → s.credInFlight handle = false →
      Succeeds h 0x39 0 (exec (.commandComplete h.part) s) fun t => t.comm handle = none ∧ (t.part h.part).busy = none) ∧
    ((s.part h.part).busy = some (.suspendContext h) → s.devIx h.ctxid = none → Happens (exec (.commandComplete h.part) s) fun t =>
      Completed t h 3 9 0 ∧ (t.part h.part).busy = none ∧ SameBut [.mem, .badDram, .badSram, .parts] s t) ∧
    (∀ p, s.waitOver (s.part p) = none → s.newHolders (s.part p) = [] → Idle "COMMAND_COMPLETE" (exec (.commandComplete p) s))

/-- R312, R390, R392, R399, R411, R415 to R417, R428. The commands on the device: what each does, and what it refuses; the hypervisor's are
refused to every other partition. A route that leaves a package without a link poisons the commands that need it. -/
def Obligations.DeviceCommands : Prop :=
  ∀ (s : State) (h : CmdHead) (cls num entry dest nonce buf bytes vf part link package mask die : Nat) (lo hi : Word) (bind : Bool),
    s.canonical → h.part < s.parts.length →
    let F : List Field := [.mem, .badDram, .badSram, .parts, .dev]
    let e := entryOf cls num entry lo hi
    (h.part ≠ 0 → Refuses s h 0x40 2 (exec (.writeBoundaryEntry h cls num entry lo hi) s) ∧
      Refuses s h 0x41 2 (exec (.readBoundaryEntry h cls num entry dest) s) ∧ Refuses s h 0x50 2 (exec (.bindFunction h vf part bind) s) ∧
      Refuses s h 0x51 2 (exec (.enableLink h link part) s) ∧ Refuses s h 0x52 2 (exec (.setRoute h package mask) s) ∧
      Refuses s h 0x53 2 (exec (.setPackageNumber h num) s)) ∧
    (h.part = 0 → 4 ≤ cls ∨ tableCount cls ≤ num ∨ 64 ≤ entry →
      Refuses s h 0x40 3 (exec (.writeBoundaryEntry h cls num entry lo hi) s) ∧
        Refuses s h 0x41 3 (exec (.readBoundaryEntry h cls num entry dest) s)) ∧
    (h.part = 0 → cls < 4 → num < tableCount cls → entry < 64 →
      (e.keeps (s.tableEntry cls num entry) = true ∨ s.holders (s.tableEntry cls num entry) = [] →
        Succeeds h 0x40 0 (exec (.writeBoundaryEntry h cls num entry lo hi) s) fun t =>
          t.tableEntry cls num entry = e ∧ SameBut F s t ∧
            ∀ c n i, ¬ (c = cls ∧ n = num ∧ i = entry) → t.tableEntry c n i = s.tableEntry c n i) ∧
      (e.keeps (s.tableEntry cls num entry) = false → s.holders (s.tableEntry cls num entry) ≠ [] →
        (∀ c ∈ s.holders (s.tableEntry cls num entry), s.oneLive c) →
        Waits h (.writeBoundaryEntry h cls num entry lo hi) (exec (.writeBoundaryEntry h cls num entry lo hi) s) fun t =>
          t.tableEntry cls num entry = s.tableEntry cls num entry ∧ SameBut [.parts, .devs, .gangs, .wgs] s t ∧
            ∀ c ∈ s.holders (s.tableEntry cls num entry), (t.dctx c).status = .suspending) ∧
      (h.answers = true → Apart dest 16 (h.slot + 0x38) 8 →
        Succeeds h 0x41 0 (exec (.readBoundaryEntry h cls num entry dest) s) fun t =>
          let old := s.tableEntry cls num entry
          t.busRead dest 16 = leBytes 8 old.lo.toNat ++ leBytes 8 old.hi.toNat ∧ SameBut [.mem, .badDram, .badSram, .parts] s t)) ∧
    (let d := (s.dctx h.ctxid).desc
     let run := s.dev.images.filter (·.runs)
     let own (v : Nat) : Nat := if h.ctxid = 0 then 0 else v
     let body := s.busRead nonce 32 ++ leBytes 8 2 ++ leBytes 2 (own d.ctxid) ++ leBytes 1 (own d.part) ++ leBytes 1 (own d.level)
       ++ leBytes 4 run.length ++ run.flatMap (·.digest) ++ (List.range 64).map Config.identityKey
     let r := body ++ (List.range 64).map fun i => Config.signature (Sm3.digest body) (64 * s.dev.freeCount + i)
     h.ctxid = 0 ∨ MayName s h →
      (h.answers = true → r.length ≤ bytes → Apart buf r.length (h.slot + 0x38) 8 →
        Succeeds h 0x48 r.length (exec (.attest h nonce buf bytes) s) fun t => t.busRead buf r.length = r ∧ SameBut F s t) ∧
      (h.answers = true → bytes < r.length → Refuses s h 0x48 3 (exec (.attest h nonce buf bytes) s)) ∧
      (h.answers = false → Refuses s h 0x48 7 (exec (.attest h nonce buf bytes) s))) ∧
    (h.part = 0 → (vf < 1 ∨ 16 < vf ∨ 16 ≤ part → Refuses s h 0x50 3 (exec (.bindFunction h vf part bind) s)) ∧
      (16 ≤ link ∨ 16 ≤ part → Refuses s h 0x51 3 (exec (.enableLink h link part) s)) ∧
      (256 ≤ package ∨ 65536 ≤ mask → Refuses s h 0x52 3 (exec (.setRoute h package mask) s)) ∧
      (256 ≤ num → Refuses s h 0x53 3 (exec (.setPackageNumber h num) s))) ∧
    (h.part = 0 → 1 ≤ vf → vf ≤ 16 → part < 16 → s.dev.functions.length = 16 →
      Succeeds h 0x50 0 (exec (.bindFunction h vf part bind) s) fun t => SameBut F s t ∧
        t.dev = { s.dev with functions := s.dev.functions.set (vf - 1) (if bind then some part else none) }) ∧
    (h.part = 0 → link < 16 → part < 16 → s.links.length = 16 →
      ((s.link link).status = .down ∨ (s.link link).status = .failed → Succeeds h 0x51 0 (exec (.enableLink h link part) s) fun t =>
        (t.link link).status = .training ∧ (t.link link).part = part ∧ (t.link link).since = s.dev.time ∧
          (∀ j, j ≠ link → t.link j = s.link j) ∧ SameBut [.mem, .badDram, .badSram, .parts, .links] s t) ∧
      ((s.link link).status ≠ .down → (s.link link).status ≠ .failed → Refuses s h 0x51 5 (exec (.enableLink h link part) s))) ∧
    (h.part = 0 → package < 256 → mask < 65536 → Succeeds h 0x52 0 (exec (.setRoute h package mask) s) fun t => SameBut (.wgs :: F) s t ∧
      PoisonsUnreachable { s with dev := { s.dev with routes := t.dev.routes } } t ∧ t.dev.routes.find? (fun r => r.1 == package) = some (package, BitVec.ofNat 16 mask) ∧
        ∀ p, p ≠ package → t.dev.routes.find? (fun r => r.1 == p) = s.dev.routes.find? fun r => r.1 == p) ∧
    (h.part = 0 → num < 256 →
      ((∀ l ∈ s.links, l.status ≠ .up) → Succeeds h 0x53 0 (exec (.setPackageNumber h num) s) fun t =>
        t.dev = { s.dev with package := num } ∧ SameBut F s t) ∧
      ((∃ l ∈ s.links, l.status = .up) → Refuses s h 0x53 8 (exec (.setPackageNumber h num) s))) ∧
    (let table := (s.die die).coupling.flatMap fun v => leBytes 4 v.toNat
     (die < 4 → h.answers = true → h.ctxid = 0 ∨ MayName s h → Apart dest table.length (h.slot + 0x38) 8 →
      Succeeds h 0x58 0 (exec (.readCouplingTable h die dest) s) fun t =>
        t.busRead dest table.length = table ∧ SameBut [.mem, .badDram, .badSram, .parts] s t)) ∧
    (4 ≤ die → h.ctxid = 0 ∨ MayName s h → Refuses s h 0x58 3 (exec (.readCouplingTable h die dest) s)) ∧
    (h.ctxid ≠ 0 →
      let all (st : Nat) : Prop := Refuses s h 0x48 st (exec (.attest h nonce buf bytes) s) ∧
        Refuses s h 0x58 st (exec (.readCouplingTable h die dest) s)
      ((∀ x ∈ s.devs, x.desc.ctxid ≠ h.ctxid) → all 4) ∧
        (s.devIx h.ctxid = none → (∃ x ∈ s.devs, x.desc.ctxid = h.ctxid) → all 9) ∧
        (s.devIx h.ctxid ≠ none → h.part ≠ 0 → (s.dctx h.ctxid).desc.part ≠ h.part → all 2))

/-! ### The host's side -/

/-- R311, R317, R325, R401, R402, R411, R412, R413, R426, R430. The registers of a partition's block, through a function that is bound to it:
the rings enable only with a good address and size, and the command ring starts empty; the hypervisor's registers take only values in
range, and from PF0 alone; a read returns the registers' bytes; an event goes to the ring at its write index, behind the record of those
that were discarded, with vector 0 of every function of the partition when the ring was empty; the doorbell publishes the entries below its
index, in order, each task record at its counter, and waits for a row of the ring that is being copied (R25). A function bound to no
partition gets Unsupported Request, and nothing else changes. That a good enable clears ERR and that a write over two register slots
reaches both (log entry 75), and that completions carry the report of R311 (log entry 121), is the model's choice. -/
def Obligations.HostRegisters : Prop :=
  ∀ (s : State) (f p r off bytes ix c qn : Nat) (v : Word) (x : W32), s.sized → s.canonical → p < 16 →
    let P := s.part p
    let only (t : State) : Prop := SameBut [.parts] s t ∧ ∀ j, j ≠ p → t.part j = s.part j
    let good (q : RingRegs) (align lo hi : Nat) : Prop := q.ring % align = 0 ∧ isPow2 q.size = true ∧ lo ≤ q.size ∧ q.size ≤ hi
    (s.dev.partOf f = some p →
      (Happens (exec (.commandQueueEnable f) s) fun t => only t ∧ (t.part p).cmd =
        if P.cmd.enable then P.cmd else if good P.cmd 64 16 4096 then { P.cmd with enable := true, err := false, rd := P.cmd.wr }
        else { P.cmd with err := true }) ∧
      (Happens (exec (.eventQueueEnable f) s) fun t => only t ∧ (t.part p).ev =
        if P.ev.enable then P.ev else if good P.ev 32 64 65536 then { P.ev with enable := true, err := false } else { P.ev with err := true }) ∧
      (Happens (exec (.eventQueueRdidx f x) s) fun t => only t ∧ t.part p = { P with ev := { P.ev with rd := x } }) ∧
      (Happens (exec (.harnessMapWrite f x) s) fun t => t = if f = 0 then { s with dev := { s.dev with harness := x } } else s) ∧
      (Happens (exec (.packageLimitWrite f v) s) fun t =>
        let n := v.toNat % 4096
        t = if f = 0 ∧ 900 ≤ n ∧ n ≤ 2300 then { s with dev := { s.dev with limit := n } } else s) ∧
      (r < 4 → Happens (exec (.domainControlWrite f r v) s) fun t =>
        let lo := v.toNat / 2 ^ 16 % 256
        let hi := v.toNat / 2 ^ 8 % 256
        if f = 0 ∧ 13 ≤ lo ∧ lo ≤ hi ∧ hi ≤ 26 then
          (t.reg r).fmin = lo ∧ (t.reg r).fmax = hi ∧ (t.reg r).fcur = (s.reg r).fcur ∧ SameBut [.regs] s t ∧
            (t.reg r).pendingF = (if (s.reg r).fcur < lo then some lo else if hi < (s.reg r).fcur then some hi else none)
        else t = s) ∧
      (off = 0x4000 ∨ off = 0x1000 → Happens (exec (.registerWrite f off 8 v) s) fun t => only t ∧
        (off = 0x4000 → (t.part p).cmd = if P.cmd.enable then P.cmd else { P.cmd with ring := v.toNat }) ∧
        (off = 0x1000 → (t.part p).ev = if P.ev.enable then P.ev else { P.ev with ring := v.toNat })) ∧
      (let low := 8 - off % 8
       low < bytes → bytes ≤ 8 → ∃ u, exec (.registerWrite f off low v) s = .next u ∧
        exec (.registerWrite f off bytes v) s = exec (.registerWrite f (off + low) (bytes - low) (v >>> (8 * low))) u) ∧
      (8 < bytes → Idle "REGISTER_WRITE" (exec (.registerWrite f off bytes v) s)) ∧
      (Happens (hostRead f off bytes s) fun t => SameBut [.dev] s t ∧ ∃ l : List Byte, l.length = bytes ∧
        t.dev = { s.dev with reply := some { func := f, status := .done, bytes := l, failures := s.dev.failures } } ∧
        ∀ i < bytes, let slot := (off + i) / 8 * 8
          let holds (w : Nat) : Prop := l.getD i 0 = BitVec.ofNat 8 (w / 256 ^ ((off + i) % 8))
          (slot = 0 → holds s.dev.harness.toNat) ∧ (slot = 8 → holds s.dev.limit) ∧ (slot = 0x1000 → holds (P.ev.ring % 2 ^ 64)) ∧
          (slot = 0x4000 → holds (P.cmd.ring % 2 ^ 64)) ∧ (∀ n < 128, slot = 0x2000 + 8 * n → holds (s.vault n).status.toNat) ∧
          (0x4020 ≤ slot ∨ (0x30 ≤ slot ∧ slot < 0x1000) → l.getD i 0 = 0)) ∧
      (s.devIx (v.toNat % 4096) = none ∨ (s.dctx (v.toNat % 4096)).desc.part ≠ p → s.bellHeld f v = false →
        Happens (exec (.doorbell f v) s) fun t => t = s) ∧
      (s.bellHeld f v = true → Idle "DOORBELL" (exec (.doorbell f v) s)) ∧
      (s.bellHeld f v = false → exec (.registerWrite f 0x3000 8 v) s = exec (.doorbell f v) s) ∧
      (∀ q, c = v.toNat % 4096 → qn = v.toNat / 2 ^ 12 % 256 → ix = v.toNat / 2 ^ 20 % 2 ^ 32 → s.bellHeld f v = false →
        (s.dctx c).queue qn = some q → (s.dctx c).desc.part = p →
        let n := (ix + 2 ^ 32 - q.tail % 2 ^ 32) % 2 ^ 32
        (n ≤ q.entries - (q.tail - q.headIx) → Happens (exec (.doorbell f v) s) fun t =>
          SameBut [.devs] s t ∧ (∀ o, o ≠ c → t.dctx o = s.dctx o) ∧
          ∃ Q : Nat → Queue, Q 0 = q ∧ (t.dctx c).queue qn = some (Q n) ∧ ∀ k < n,
            let rec_ := s.coreRead c (q.slotVa (q.tail + k)) 64
            (∀ m, q.taskCounter rec_ = some m → Q (k + 1) = (Q k).pass.publish m rec_ none s.dev.time) ∧
              (q.taskCounter rec_ = none → Q (k + 1) = (Q k).append none s.dev.time)) ∧
        (q.entries - (q.tail - q.headIx) < n → Happens (exec (.doorbell f v) s) fun t => t = s))) ∧
    (s.dev.partOf f = none →
      let unsupported (i : Instr) : Prop := Happens (exec i s) fun t =>
        t = { s with dev := { s.dev with reply := some { func := f, status := .unsupported, bytes := [], failures := s.dev.failures } } }
      unsupported (.commandQueueEnable f) ∧ unsupported (.eventQueueEnable f) ∧ unsupported (.eventQueueRdidx f x) ∧
        unsupported (.harnessMapWrite f x) ∧ unsupported (.packageLimitWrite f v) ∧ unsupported (.domainControlWrite f r v) ∧
        (bytes ≤ 8 → unsupported (.registerWrite f off bytes v)) ∧ unsupported (.doorbell f v) ∧
        Happens (hostRead f off bytes s) fun t => t =
          { s with dev := { s.dev with reply := some { func := f, status := .unsupported, bytes := [], failures := s.dev.failures } } }) ∧
    (let slot := P.ev.ring + 32 * (P.ev.wr.toNat % P.ev.size)
     P.ev.enable = true → (P.ev.wr - P.ev.rd).toNat < P.ev.size → (busLocs slot 32).Nodup →
      let written (t : State) : Prop :=
        (t.part p).ev = { P.ev with wr := P.ev.wr + 1 } ∧ SameBut [.dev, .mem, .badDram, .badSram, .parts] s t ∧
          t.dev = { s.dev with msix := t.dev.msix } ∧
          (P.ev.wr = P.ev.rd → ∀ g, g < s.dev.msix.length → s.dev.msix.getD g [] ≠ [] → (t.dev.msix.getD g []).getD 0 0
            = (s.dev.msix.getD g []).getD 0 0 + if s.dev.partOf g = some p then 1 else 0) ∧
          (P.ev.wr ≠ P.ev.rd → t.dev = s.dev)
      (∀ e rest, P.held = e :: rest → P.discarded = 0 → Happens (exec (.eventRingWrite p) s) fun t => written t ∧
        t.busRead slot 32 = layBytes [(e.kind, 2), (e.ctxid, 2), (e.cls * 2 ^ 24 + e.num, 4), (e.time, 8), (e.d0.toNat, 8), (e.d1.toNat, 8)] ∧
          (t.part p).held = rest) ∧
      (P.discarded ≠ 0 → Happens (exec (.eventRingWrite p) s) fun t => written t ∧
        t.busRead slot 32 = layBytes [(10, 2), (0, 2), (3 * 2 ^ 24, 4), (s.dev.time, 8), (P.discarded, 8), (P.discardMask, 8)] ∧
          (t.part p).held = P.held ∧ (t.part p).discarded = 0)) ∧
    (P.mayWriteEvent = false → Idle "EVENT_RING_WRITE" (exec (.eventRingWrite p) s))

/-- R25, R391, R410 to R412, R414, R417. A request of the host, through a function and for its partition, or of another package over a link
that is UP, that the boundary tables admit is performed: a write puts its bytes, an atomic its result, and the completion carries the
bytes read or the old value; one that they refuse is aborted, one above the window is unsupported, and neither changes memory. A request
for a third package goes on by the link that its 4 KiB unit chooses, waits for one that retrains, or fails where none is left. The
completion of a request reaches the agent that waits for it, a wave, a context or a copy; a line of code goes into no cache, and an error
refuses it. That an AtomicOp of another size or alignment is an Unsupported Request (log entry 44), that either completion settles any far
request (log entry 84), and the report of R311 in a completion (log entry 121), is the model's choice. -/
def Obligations.RequestsAndCompletions : Prop :=
  ∀ (s : State) (f p link package : Nat) (a : HostAcc) (ok : Bool), s.sized → s.canonical →
    let span := accSpan a
    let places (part : Nat) : Option (List Nat) := s.requestLocs part (accNeed a) span.1 span.2
    let performed (part : Nat) (t : State) : Prop :=
      (places part = none ∨ accLegal a = false → SameBut [.dev, .links] s t) ∧
      ∀ locs, places part = some locs → locs.Nodup → accLegal a = true →
        SameBut [.mem, .badDram, .badSram, .dies, .dev, .links] s t ∧ (∀ l, l ∉ locs → t.byte l = s.byte l) ∧
          match a with
          | .read _ _ => t.mem = s.mem
          | .write _ bs => ∀ i < bs.length, t.byte (locs.getD i 0) = bs.getD i 0
          | .fetchAdd _ n v => t.readLocs locs = (s.readLocs locs + v.toNat) % 2 ^ (8 * n)
          | .swap _ n v => t.readLocs locs = v.toNat % 2 ^ (8 * n)
          | .cas _ n e v => t.readLocs locs = if s.readLocs locs = e.toNat % 2 ^ (8 * n) then v.toNat % 2 ^ (8 * n) else s.readLocs locs
    let answer (part : Nat) : ReplyStatus × List Byte := match places part with
      | none => (.aborted, [])
      | some locs => if accLegal a = true then (.done, match a with
          | .write _ _ => []
          | _ => locs.map s.byte) else (.unsupported, [])
    let fits : Prop := match a with
      | .read _ n => n ≤ 4096
      | .write _ bs => bs.length ≤ 512
      | _ => True
    (fits → s.dev.partOf f = some p → s.requestHeld p a = false →
      (span.1 + span.2 ≤ 0x30_0000_0000 → Happens (exec (.hostBar2Access f a) s) fun t => performed p t ∧ t.links = s.links ∧
        t.dev = match a with
          | .write _ _ => s.dev
          | _ => { s.dev with
              reply := some { func := f, status := (answer p).1, bytes := (answer p).2, failures := s.dev.failures } }) ∧
      (0x30_0000_0000 < span.1 + span.2 → Happens (exec (.hostBar2Access f a) s) fun t =>
        t = { s with dev := { s.dev with reply := some { func := f, status := .unsupported, failures := s.dev.failures, bytes := match a with
          | .write _ _ => []
          | _ => List.replicate span.2 0xFF } } })) ∧
    (fits → s.dev.partOf f = none → Happens (exec (.hostBar2Access f a) s) fun t =>
      t = { s with dev := { s.dev with reply := some { func := f, status := .unsupported, bytes := [], failures := s.dev.failures } } }) ∧
    (¬ fits ∨ s.dev.partOf f = some p ∧ s.requestHeld p a = true → Idle "HOST_BAR2_ACCESS" (exec (.hostBar2Access f a) s)) ∧
    (link < 16 → (s.link link).status = .up →
      (package = s.dev.package → s.requestHeld (s.link link).part a = false → Happens (exec (.remoteRequest link package a) s) fun t =>
        performed (s.link link).part t ∧ t.dev = s.dev ∧ (∀ j, j ≠ link → t.link j = s.link j) ∧ t.link link = { s.link link with
          answer := some ((answer (s.link link).part).1 == .done, (answer (s.link link).part).2) }) ∧
      (package ≠ s.dev.package → s.packageWay package = .leaves → Happens (exec (.remoteRequest link package a) s) fun t =>
        SameBut [.links] s t ∧ (0 < span.2 → span.1 % 4096 + span.2 ≤ 4096 → ∃ l, s.routeLink package (span.1 / 4096) = some l ∧
          t.link l = { s.link l with sent := some (package, span.1 / 4096), passed := some a } ∧ ∀ j, j ≠ l → t.link j = s.link j)) ∧
      (package ≠ s.dev.package → s.packageWay package = .fails → Happens (exec (.remoteRequest link package a) s) fun t =>
        SameBut [.links] s t ∧ t.link link = { s.link link with answer := some (false, []) } ∧ ∀ j, j ≠ link → t.link j = s.link j)) ∧
    (∀ u l, s.routeLink package u = some l →
      (s.link l).status = .up ∧ l < 16 ∧ ∃ m, (package, m) ∈ s.dev.routes ∧ m.getLsbD l = true) ∧
    ((s.link link).status ≠ .up ∨ package = s.dev.package ∧ s.requestHeld (s.link link).part a = true ∨
        package ≠ s.dev.package ∧ s.packageWay package = .waits →
      Idle "REMOTE_REQUEST" (exec (.remoteRequest link package a) s)) ∧
    (∀ k, k < 512 → (s.ctx k).status = .stalled .host → (s.ctx k).reply = none → s.hostFetch k = none →
      let told (t : State) : Prop := (∀ j, j ≠ k → t.ctx j = s.ctx j) ∧ t.ctx k = { s.ctx k with reply := some ok }
      (Happens (exec (.hostCompletion (.context k) ok) s) fun t => SameBut [.ctxs, .dev] s t ∧ told t ∧
        t.dev = { s.dev with requester := s.dev.functionOf (s.dctx (s.ctx k).ctxid).desc.part }) ∧
      (Happens (exec (.remoteCompletion (.context k) ok) s) fun t => SameBut [.ctxs] s t ∧ told t)) ∧
    (∀ k fl, k < 512 → s.hostFetch k = some fl →
      let told (t : State) : Prop := SameBut [.ctxs, .clusters, .dev] s t ∧ (∀ j, j ≠ k → t.ctx j = s.ctx j) ∧
        (∀ j < 32, t.cluster j = if j = k / 16 then { s.cluster j with icFills := (s.cluster j).icFills.filter (· != fl) } else s.cluster j) ∧
        t.ctx k = { s.ctx k with
          fetched := (fl.line, if ok = true then .bytes ((locRange fl.pa 64).map s.byte) else .refused) :: (s.ctx k).fetched }
      (Happens (exec (.hostCompletion (.context k) ok) s) told) ∧ Happens (exec (.remoteCompletion (.context k) ok) s) told) ∧
    (∀ v x, v < 1024 → s.awaitsFar (.wave v) = true → (s.wave v).head = some x →
      let told (t : State) : Prop := (∀ u, u ≠ v → t.wave u = s.wave u) ∧ t.wave v = { s.wave v with reply := some (x.handler, ok) }
      (Happens (exec (.hostCompletion (.wave v) ok) s) fun t => SameBut [.waves, .dev] s t ∧ told t ∧
        t.dev = { s.dev with requester := s.dev.functionOf (s.dctx (s.wg (s.wave v).wg).ctxid).desc.part }) ∧
      (Happens (exec (.remoteCompletion (.wave v) ok) s) fun t => SameBut [.waves] s t ∧ told t)) ∧
    (∀ g n b, g < s.wgs.length → n < 16 → s.bound g n = some b → b.asks.isSome = true →
      (Happens (exec (.hostCompletion (.copy g n) false) s) fun t => ∃ b', t.bound g n = some b' ∧ b'.state = .poisoned ∧ b'.asks = none) ∧
      (Happens (exec (.remoteCompletion (.copy g n) false) s) fun t => ∃ b', t.bound g n = some b' ∧ b'.state = .poisoned ∧ b'.asks = none) ∧
      (∀ i k ls xs, b.asks = some false → s.vis.picks = [] → b.overlaps (s.wg g) = false → (s.nextUnits (s.wg g) b).head? = some (i, k, .ok ls xs) →
        let read (t : State) : Prop := ∃ b', t.bound g n = some b' ∧ b'.asks = none ∧ b'.buffer = b.buffer ++ ls.map s.byte ∧ b'.sent = b.sent + k
        Happens (exec (.hostCompletion (.copy g n) true) s) read ∧ Happens (exec (.remoteCompletion (.copy g n) true) s) read)) ∧
    (∀ w, s.awaitsFar w = false → Idle "HOST_COMPLETION" (exec (.hostCompletion w ok) s) ∧
      Idle "REMOTE_COMPLETION" (exec (.remoteCompletion w ok) s))

/-! ### Links, errors, heat and power -/

/-- R415, R416, Table 19.2. The states of a traverse link: trained within 10 ms, else DOWN; RETRAINING with its event; UP again, or FAILED at the
third failure in a row, which poisons the commands that need a package to which no link is left; a good flit that is expected is
delivered, a bad one is resent, the eighth time by way of RETRAINING. That the topology generation counts a link that comes UP is the
model's choice (log entry 76). -/
def Obligations.LinkStates : Prop :=
  ∀ (s : State) (l seq : Nat) (good : Bool), s.sized → l < 16 →
    let L := s.link l
    let event (t : State) : Prop := ((t.part 0).held.getLast?.map (·.kind) = some 8 ∨ 4096 ≤ (t.part 0).held.length)
    (L.status = .training → s.dev.time ≤ L.since + 10000000 → Happens (exec (.linkTrained l) s) fun t =>
      (t.link l).status = .up ∧ t.dev.topology = s.dev.topology + 1 ∧ SameBut [.links, .dev] s t) ∧
    (L.status = .training → L.since + 10000000 ≤ s.dev.time → Happens (exec (.linkTrainingTimeout l) s) fun t =>
      (t.link l).status = .down ∧ SameBut [.links] s t) ∧
    (L.status ≠ .training → Idle "LINK_TRAINED" (exec (.linkTrained l) s) ∧ Idle "LINK_TRAINING_TIMEOUT" (exec (.linkTrainingTimeout l) s)) ∧
    (L.status = .up → Happens (exec (.linkRetrain l) s) fun t =>
      (t.link l).status = .retraining ∧ (t.link l).since = s.dev.time ∧ event t ∧ SameBut [.links, .dev, .parts] s t) ∧
    (L.status ≠ .up → Idle "LINK_RETRAIN" (exec (.linkRetrain l) s) ∧ Idle "LINK_FLIT_RECEIVE" (exec (.linkFlitReceive l seq good) s)) ∧
    (L.status = .retraining →
      (s.dev.time ≤ L.since + 100000 → Happens (exec (.linkRetrainEnd l true) s) fun t =>
        (t.link l).status = .up ∧ (t.link l).retrains = 0 ∧ SameBut [.links, .dev] s t) ∧
      (L.retrains < 2 → Happens (exec (.linkRetrainEnd l false) s) fun t =>
        (t.link l).status = .retraining ∧ (t.link l).retrains = L.retrains + 1 ∧ SameBut [.links] s t) ∧
      (2 ≤ L.retrains → Happens (exec (.linkRetrainEnd l false) s) fun t =>
        (t.link l).status = .failed ∧ event t ∧ SameBut [.links, .parts, .wgs] s t ∧ PoisonsUnreachable { s with links := t.links } t)) ∧
    (L.status ≠ .retraining → Idle "LINK_RETRAIN_END" (exec (.linkRetrainEnd l good) s)) ∧
    (L.status = .up →
      (seq % 4096 = L.rxSeq → Happens (exec (.linkFlitReceive l seq true) s) fun t => SameBut [.links] s t ∧
        t.link l = { L with rxSeq := (L.rxSeq + 1) % 4096, resends := 0, discarding := false }) ∧
      (seq % 4096 = L.rxSeq → L.resends < 7 → Happens (exec (.linkFlitReceive l seq false) s) fun t => SameBut [.links] s t ∧
        t.link l = { L with resends := L.resends + 1, discarding := true }) ∧
      (seq % 4096 = L.rxSeq → 7 ≤ L.resends → Happens (exec (.linkFlitReceive l seq false) s) fun t =>
        (t.link l).status = .retraining ∧ event t ∧ SameBut [.links, .dev, .parts] s t) ∧
      (seq % 4096 ≠ L.rxSeq → Happens (exec (.linkFlitReceive l seq good) s) fun t => t = s))

/-- R25, R26, R28, R293, R310, R311, Table 11.4. A reset leaves every register at its reset value and keeps memory (log entry 20, the
model's own); the fourth error of a row in a day sends it to a spare row of its layer, within 2 µs; an uncorrectable error poisons its unit
and tells the driver; a failing cluster's work is pre-empted, and the gated cluster gets the spare with firmware's couplings, or is lost; a
failed port poisons the copies that cross it. That a reset forgets substitutions and losses (log entry 96), that a lost cluster counts in
the topology generation (log entry 76), and which rows make a layer (log entry 21), is the model's choice. -/
def Obligations.ErrorsAndReset : Prop :=
  ∀ (s : State) (v row c pa loc d1 d2 reg lane el w p line unit g n seg : Nat), s.sized →
    let V := s.vault v
    let event (t : State) (kind : Nat) : Prop := ((t.part 0).held.getLast?.map (·.kind) = some kind ∨ 4096 ≤ (t.part 0).held.length)
    (Happens (exec .deviceReset s) fun t => t.ctxs = State.reset.ctxs ∧ t.waves = State.reset.waves ∧ t.clusters = State.reset.clusters ∧
      t.dies = State.reset.dies ∧ t.vregs = [] ∧ t.accs = [] ∧ t.badRegs = [] ∧ t.badAccs = [] ∧ t.wgs = [] ∧ t.gangs = [] ∧
      t.launches = [] ∧ t.devs = [] ∧ t.parts = State.reset.parts ∧ t.mem = s.mem ∧ t.vis = State.reset.vis ∧ t.badDram = s.badDram ∧
      t.badSram = s.badSram ∧ t.agenda = s.agenda ∧ t.dev.time = 0 ∧ t.dev.boundary = [] ∧ t.dev.comms = []) ∧
    (v < 128 → Happens (exec (.correctedError v row) s) fun t => SameBut [.vaults, .parts] s t ∧
      (t.vault v).ce = min (V.ce + 1) 65535 ∧ (∀ j, j ≠ v → t.vault j = s.vault j) ∧
      let n := (V.errors.filter fun e => e.1 == row && s.dev.time < e.2 + 86400000000000).length + 1
      (n < 4 → (t.vault v).remapping = V.remapping ∧ t.parts = s.parts) ∧
      (4 ≤ n → (∀ x ∈ V.remapping, x.1 ≠ row) →
        let used := V.spares.getD (layerOf row) 0 + (V.remapping.filter fun x => layerOf x.1 == layerOf row).length
        (used < 64 → (t.vault v).remapping = V.remapping ++ [(row, s.dev.time)] ∧ t.parts = s.parts) ∧
        (64 ≤ used → (t.vault v).remapping = V.remapping ∧ event t 5))) ∧
    (v < 128 → (∃ x ∈ V.remapping, x.1 = row ∧ s.dev.time ≤ x.2 + 2000) → Happens (exec (.rowRemapDone v row) s) fun t =>
      (∀ x ∈ (t.vault v).remapping, x.1 ≠ row) ∧ ((∃ e ∈ (t.part 0).held, e.kind = 4) ∨ 4096 ≤ (t.part 0).held.length) ∧
        (∀ j, j ≠ v → t.vault j = s.vault j) ∧
        (V.spares.length = 8 → (t.vault v).spares.getD (layerOf row) 0 = V.spares.getD (layerOf row) 0 + 1) ∧
        SameBut [.vaults, .parts, .devs, .dev, .links, .mem, .badDram, .badSram, .clusters, .dies] s t ∧
        ((∀ d ∈ s.devs, (∀ r ∈ d.faults, r.posted = true) ∧ ∀ n ∈ d.nodes, n.opened = none) → SameBut [.vaults, .parts] s t)) ∧
    ((∀ x ∈ V.remapping, x.1 = row → x.2 + 2000 < s.dev.time) → Idle "ROW_REMAP_DONE" (exec (.rowRemapDone v row) s)) ∧
    (dramLoc pa = some loc → Happens (exec (.uncorrectableError (.dram pa)) s) fun t =>
      (∀ u, u ∈ t.badDram ↔ u = loc / 64 ∨ u ∈ s.badDram) ∧ event t 2 ∧ SameBut [.badDram, .parts] s t) ∧
    (2 ^ 56 ≤ loc → Happens (exec (.uncorrectableError (.sram loc)) s) fun t =>
      (∀ u, u ∈ t.badSram ↔ u = loc / 8 ∨ u ∈ s.badSram) ∧ event t 2 ∧ SameBut [.badSram, .parts] s t) ∧
    (Happens (exec (.uncorrectableError (.vreg c reg lane)) s) fun t =>
      (∀ u, u ∈ t.badRegs ↔ u = c * 2 ^ 19 + reg * 64 + lane ∨ u ∈ s.badRegs) ∧ event t 2 ∧ SameBut [.badRegs, .parts] s t) ∧
    (Happens (exec (.uncorrectableError (.acc c reg el)) s) fun t =>
      (∀ u, u ∈ t.badAccs ↔ u = c * 2 ^ 19 + reg * 2 ^ 14 + el ∨ u ∈ s.badAccs) ∧ event t 2 ∧ SameBut [.badAccs, .parts] s t) ∧
    (w < 1024 → Happens (exec (.uncorrectableError (.pred w p)) s) fun t =>
      (∀ u, u ∈ (t.wave w).badPreds ↔ u = p ∨ u ∈ (s.wave w).badPreds) ∧ event t 2 ∧ SameBut [.waves, .parts] s t) ∧
    (∀ x, c < 32 → (s.cluster c).loft[line]? = some x → unit < 8 → Happens (exec (.uncorrectableError (.loft c line unit)) s) fun t =>
      (∃ y, (t.cluster c).loft[line]? = some y ∧ y.ctx = x.ctx ∧ y.line = x.line ∧ ∀ u, u ∈ y.bad ↔ u = unit ∨ u ∈ x.bad) ∧
        event t 2 ∧ SameBut [.clusters, .parts] s t) ∧
    (∀ b, g < s.wgs.length → n < 16 → s.bound g n = some b → b.isCopy = true → (∃ i, b.count ≤ i ∧ i < b.sent ∧ i / 2048 = seg) →
      Happens (exec (.uncorrectableError (.landing g n seg)) s) fun t => ∃ b', t.bound g n = some b' ∧ b'.buffer = b.buffer ∧
        (∀ i, i ∈ b'.badBytes ↔ i ∈ b.badBytes ∨ (b.count ≤ i ∧ i < b.sent ∧ i / 2048 = seg)) ∧ event t 2 ∧
        SameBut [.wgs, .parts] s t) ∧
    (c < 32 → (s.cluster c).lost = false →
      ((s.cluster c).gated = false → s.dev.time ≠ 0 → Happens (exec (.spareSubstitution c) s) fun t => (t.cluster c).failing = true ∧
        SameBut [.clusters, .gangs, .wgs] s t ∧
        ∀ g ∈ s.gangsOn c, g < s.gangs.length → (s.gang g).discarded = false → (t.gang g).trigger.isSome = true) ∧
      ((s.cluster c).gated = true ∨ s.dev.time = 0 → (s.seats.any fun x => x.cluster == c) = false →
        ((s.die (c / 8)).spareFor = none → Happens (exec (.spareSubstitution c) s) fun t =>
          (t.die (c / 8)).spareFor = some c ∧ (t.cluster c).lost = false ∧ (t.cluster c).failing = false ∧ event t 3 ∧
            (∀ i, i < (s.die (c / 8)).coupling.length → (t.die (c / 8)).coupling.getD i 0 =
              if i / 32 = c % 8 then Config.spareCoupling s.dev.freeCount (i % 32) else (s.die (c / 8)).coupling.getD i 0) ∧
            SameBut [.dies, .clusters, .parts, .dev] s t) ∧
        ((s.die (c / 8)).spareFor ≠ none → Happens (exec (.spareSubstitution c) s) fun t =>
          (t.cluster c).lost = true ∧ t.dev.topology = s.dev.topology + 1 ∧ event t 6 ∧
            SameBut [.clusters, .dev, .parts, .gangs] s t))) ∧
    ((s.cluster c).lost = true → Idle "SPARE_SUBSTITUTION" (exec (.spareSubstitution c) s)) ∧
    (d1 < 4 → d2 < 4 → d1 ≠ d2 → (∀ d < 4, (s.die d).ports.length = 4) → Happens (exec (.dieToDiePortFailure d1 d2) s) fun t =>
      (t.die d1).ports.getD d2 true = false ∧ (t.die d2).ports.getD d1 true = false ∧ SameBut [.dies, .wgs] s t ∧
        ∀ b, g < s.wgs.length → n < 16 → s.bound g n = some b → b.state = .issued ∨ b.state = .landing ∨ b.state = .frozen →
          State.crossesFailed { s with dies := t.dies } (s.wg g) b = true →
            ∃ b', t.bound g n = some b' ∧ b'.state = .poisoned ∧ b'.armed = b.armed) ∧
    (d1 = d2 → Idle "DIE_TO_DIE_PORT_FAILURE" (exec (.dieToDiePortFailure d1 d2) s))

/-- R394 to R397, R400, R403. Sensors and current alarms: the band follows the reading with its dwell of 2 ms, HOT stands above 105 degrees
and sets pass count 4 for its cluster; the check 1 ms later has the cluster emptied; an alarm raises the domain's pass counts, again
each 1 µs while it stands; 50 µs without one lower them by a step, but not below what the package limit has raised (R404). -/
def Obligations.HeatAndCurrent : Prop :=
  ∀ (s : State) (v c r : Nat) (temp : Int) (level : Bool), s.sized → c < 32 → r < 4 →
    let V := s.vault v
    let R := s.reg r
    let within (n j : Nat) : Prop := j < 32 ∧ (s.cluster j).reg = n ∧ (s.cluster j).lost = false
    let up (p : Nat) : Nat := if p ≤ 1 then 2 else 4
    let slow := ∀ j, within r j → (s.cluster j).pass = 4
    (v < 128 → (∀ n, V.sampled = some n → n + 100000 ≤ s.dev.time) → Happens (exec (.vaultSensorSample v temp) s) fun t =>
      let want := wantBand V.band temp
      SameBut [.vaults, .clusters, .regs] s t ∧ (t.vault v).temp = temp ∧ (t.vault v).hot = decide (420 < temp) ∧
        (want = V.band → (t.vault v).band = V.band ∧ (t.vault v).pend = false) ∧
        (want ≠ V.band → V.entered + 2000000 ≤ s.dev.time →
          (t.vault v).band = want ∧ (t.vault v).entered = s.dev.time ∧ (t.vault v).pend = false) ∧
        (want ≠ V.band → s.dev.time < V.entered + 2000000 → (t.vault v).band = V.band ∧ (t.vault v).pend = true) ∧
        (420 < temp → (t.cluster (v / 4)).pass = 4 ∧ (t.cluster (v / 4)).heatHold = true)) ∧
    (∀ n, V.sampled = some n → s.dev.time < n + 100000 → Idle "VAULT_SENSOR_SAMPLE" (exec (.vaultSensorSample v temp) s)) ∧
    (∀ b x, b ≤ 3 →
      (wantBand 0 x = if 400 ≤ x then 3 else if 360 ≤ x then 2 else if 320 ≤ x then 1 else 0) ∧
      (x < 308 → wantBand b x = 0) ∧ (400 ≤ x → wantBand b x = 3) ∧ (b = 3 → 388 ≤ x → wantBand b x = 3)) ∧
    (∀ n, (s.cluster c).heatSince = some n →
      (n + 1000000 ≤ s.dev.time →
        (s.hotUnder c = true → Happens (exec (.overheatGateCheck c) s) fun t => (t.cluster c).noPlace = true ∧
          SameBut [.clusters, .gangs, .wgs] s t ∧
          ∀ g ∈ s.gangsOn c, g < s.gangs.length → (s.gang g).discarded = false → (t.gang g).trigger.isSome = true) ∧
        (s.hotUnder c = false → Happens (exec (.overheatGateCheck c) s) fun t => SameBut [.clusters] s t ∧
          t.cluster c = { s.cluster c with heatSince := none })) ∧
      (s.dev.time < n + 1000000 → Idle "OVERHEAT_GATE_CHECK" (exec (.overheatGateCheck c) s))) ∧
    ((s.cluster c).heatSince = none → Idle "OVERHEAT_GATE_CHECK" (exec (.overheatGateCheck c) s)) ∧
    (R.alarm ≠ level → Happens (exec (.currentAlarm r level) s) fun t => SameBut [.clusters, .regs] s t ∧
      (t.reg r).alarm = level ∧ (t.reg r).alarmAt = s.dev.time ∧
      (level = true → R.raisedAt = none → ¬ slow →
        (t.reg r).raisedAt = some s.dev.time ∧ ∀ j, within r j → (t.cluster j).pass = up (s.cluster j).pass) ∧
      (level = false ∨ R.raisedAt ≠ none → t.clusters = s.clusters)) ∧
    (R.alarm = level → Idle "CURRENT_ALARM" (exec (.currentAlarm r level) s)) ∧
    (∀ n, R.raisedAt = some n →
      (n + 1000 ≤ s.dev.time →
        (R.alarm = true → ¬ slow → Happens (exec (.currentAlarmSample r) s) fun t => SameBut [.clusters, .regs] s t ∧
          (t.reg r).raisedAt = some s.dev.time ∧ ∀ j, within r j → (t.cluster j).pass = up (s.cluster j).pass) ∧
        (R.alarm = false ∨ slow → Happens (exec (.currentAlarmSample r) s) fun t => SameBut [.regs] s t ∧ (t.reg r).raisedAt = none)) ∧
      (s.dev.time < n + 1000 → Idle "CURRENT_ALARM_SAMPLE" (exec (.currentAlarmSample r) s))) ∧
    (R.raisedAt = none → Idle "CURRENT_ALARM_SAMPLE" (exec (.currentAlarmSample r) s)) ∧
    (let least := if R.pkgRaised = 0 then 1 else if R.pkgRaised = 1 then 2 else 4
     let due := ∃ j, within r j ∧ least < (s.cluster j).pass ∧ (s.cluster j).heatHold = false
     (R.alarm = false → R.alarmAt + 50000 ≤ s.dev.time → R.steppedAt + 50000 ≤ s.dev.time → s.dev.pkgEst ≤ 1000 * s.dev.limit → due →
      Happens (exec (.passCountStepDown r) s) fun t => SameBut [.clusters, .regs] s t ∧ (t.reg r).steppedAt = s.dev.time ∧
        ∀ j, within r j → (t.cluster j).pass =
          if (s.cluster j).heatHold = true ∨ (s.cluster j).pass ≤ least then (s.cluster j).pass
          else max (if 4 ≤ (s.cluster j).pass then 2 else 1) least) ∧
     (¬ due → Idle "PASS_COUNT_STEP_DOWN" (exec (.passCountStepDown r) s))) ∧
    (R.alarm = true ∨ s.dev.time < R.alarmAt + 50000 ∨ s.dev.time < R.steppedAt + 50000 →
      Idle "PASS_COUNT_STEP_DOWN" (exec (.passCountStepDown r) s))

/-- R151, R402, R404 to R408. Each microsecond a cluster's estimate is w0 and its weighted event counts; the package estimate is held
against the limit once a window: an excess raises the domain with the highest estimate that is not yet at pass count 4, 5 % to spare
takes the newest action back; the weights are refitted once a second between half and twice their factory values; a cluster idle for
100 µs is gated and loses its caches; a woken one has zero in its registers and accumulators; a frequency transition pauses its domain for
at most 1.5 µs, and its running contexts are PARKED and go on at the new point. The rounding down and the average over the window (log
entry 103), the regressors of the refit (log entry 7), and that it is the newest action that is taken back (log entry 78), are the model's
choice. -/
def Obligations.PowerAndGating : Prop :=
  ∀ (s : State) (c r point shunt T domain cluster : Nat), s.sized → c < 32 → r < 4 →
    let R := s.reg r
    let C := s.cluster c
    let ix := s.dev.freeCount
    let within (n j : Nat) : Prop := j < 32 ∧ (s.cluster j).reg = n ∧ (s.cluster j).lost = false
    let estimated (j : Nat) : Nat := ((s.dev.weights.headD 0 +
      (List.zipWith (fun w n => w * (n : Rat)) (s.dev.weights.drop 1) (s.cluster j).counts).sum).floor).toNat
    (T / 1000 = s.dev.time / 1000 + 1 → ∀ j < 32, let x := (s.estimated T).cluster j
      x.pest = estimated j ∧ x.psum = (s.cluster j).psum + estimated j ∧ ∀ k, x.counts.getD k 0 = 0) ∧
    (s.dev.windowAt + 1000000 ≤ s.dev.time →
      let package := (s.clusters.map (·.psum)).sum / (s.dev.time / 1000 - s.dev.windowAt / 1000) + Config.dramPower ix + Config.fixedPower
      (Happens (exec (.powerWindowEnd domain cluster) s) fun t => t.dev.pkgEst = package ∧ t.dev.windowAt = s.dev.time ∧
        (∀ j < 32, (t.cluster j).psum = 0) ∧ SameBut [.dev, .clusters, .regs, .gangs, .wgs] s t ∧
        (package ≤ 1000 * s.dev.limit → 950 * s.dev.limit < package →
          t.regs = s.regs ∧ t.dev.actions = s.dev.actions ∧ ∀ j < 32, t.cluster j = { s.cluster j with psum := 0 }) ∧
        (1000 * s.dev.limit < package →
          let est (n : Nat) : Nat := ((s.domain n).map fun j => (s.cluster j).psum).sum
          ∀ n < 4, s.allSlow n = false → (∀ m < 4, m ≠ n → s.allSlow m = false → est m < est n) →
            (∀ j, within n j → (t.cluster j).pass = if (s.cluster j).pass ≤ 1 then 2 else 4) ∧
              (t.reg n).pkgRaised = (s.reg n).pkgRaised + 1 ∧ t.dev.actions = .pass n :: s.dev.actions) ∧
        (package ≤ 950 * s.dev.limit →
          (∀ k rest, s.dev.actions = .gate k :: rest → k < 32 → t.dev.actions = rest ∧ (t.cluster k).powerGate = false) ∧
          (∀ n rest, s.dev.actions = .clock n :: rest → n < 4 → (s.reg n).pendingF = none → t.dev.actions = rest ∧
            (t.reg n).pendingF = if (s.reg n).fcur < (s.reg n).fmax then some ((s.reg n).fcur + 1) else none) ∧
          ∀ n rest, s.dev.actions = .pass n :: rest → n < 4 →
            (s.quiet n = true → t.dev.actions = rest ∧ (t.reg n).pkgRaised = (s.reg n).pkgRaised - 1) ∧
              (s.quiet n = false → t.dev.actions = s.dev.actions ∧ t.regs = s.regs)))) ∧
    (s.dev.time < s.dev.windowAt + 1000000 → Idle "POWER_WINDOW_END" (exec (.powerWindowEnd domain cluster) s)) ∧
    (s.dev.refitAt + 1000000000 ≤ s.dev.time → s.dev.cov.length = s.dev.weights.length →
      let x : List Rat := (32 : Rat) :: s.dev.secCounts.map fun n => (n : Rat) / (((s.dev.time - s.dev.refitAt) / 1000 : Nat) : Rat)
      let y : Rat := (shunt : Rat) - (Config.dramPower ix + Config.fixedPower : Nat)
      let scale := 98 / 100 + dot x (s.dev.cov.map (dot · x))
      Happens (exec (.weightRefit shunt) s) fun t => SameBut [.dev] s t ∧ t.dev.refitAt = s.dev.time ∧
        t.dev.weights.length = s.dev.weights.length ∧
        ∀ k w row, s.dev.weights[k]? = some w → s.dev.cov[k]? = some row → ∃ w', t.dev.weights[k]? = some w' ∧
          w' = max (Config.factoryWeight k / 2) (min (2 * Config.factoryWeight k) (w + dot row x / scale * (y - dot s.dev.weights x)))) ∧
    (s.dev.time < s.dev.refitAt + 1000000000 → Idle "WEIGHT_REFIT" (exec (.weightRefit shunt) s)) ∧
    (C.gated = false → C.lost = false → C.wakeAt = none → (s.seats.any fun x => x.cluster == c) = false →
      C.idleSince + 100000 ≤ s.dev.time ∨ C.noPlace = true ∨ C.powerGate = true ∨ C.failing = true →
      Happens (exec (.idleGate c) s) fun t => SameBut [.clusters, .dies] s t ∧ (t.cluster c).gated = true ∧ (t.cluster c).icache = [] ∧
        (t.cluster c).dcache = [] ∧ (t.cluster c).loft = [] ∧ (t.cluster c).tlb = [] ∧ (t.cluster c).reg = C.reg ∧
        ∀ j, j ≠ c → t.cluster j = s.cluster j) ∧
    ((s.seats.any fun x => x.cluster == c) = true ∨ C.gated = true → Idle "IDLE_GATE" (exec (.idleGate c) s)) ∧
    (∀ n, C.gated = true → C.wakeAt = some n → n ≤ s.dev.time → Happens (exec (.clusterWake c) s) fun t =>
      SameBut [.vregs, .accs, .badRegs, .badAccs, .clusters] s t ∧ (t.cluster c).gated = false ∧ (t.cluster c).wakeAt = none ∧
        (∀ key, sparseGet t.vregs key = if c * 2 ^ 19 ≤ key ∧ key < (c + 1) * 2 ^ 19 then 0 else sparseGet s.vregs key) ∧
        ∀ key, sparseGet t.accs key = if c * 2 ^ 19 ≤ key ∧ key < (c + 1) * 2 ^ 19 then 0 else sparseGet s.accs key) ∧
    (C.wakeAt = none → Idle "CLUSTER_WAKE" (exec (.clusterWake c) s)) ∧
    (R.pendingF = some point → R.paused = none → (∀ n, R.changedAt = some n → n + 100000 ≤ s.dev.time) →
      Happens (exec (.frequencyTransition r point) s) fun t => SameBut [.regs, .ctxs] s t ∧ t.reg r = { R with paused := some s.dev.time } ∧
        (∀ j, j ≠ r → t.reg j = s.reg j) ∧
        ∀ k, k < 512 → t.ctx k = if within r (k / 16) ∧ (s.ctx k).status = .running then { s.ctx k with status := .parked .pause } else s.ctx k) ∧
    (R.pendingF ≠ some point ∨ (∃ n, R.changedAt = some n ∧ s.dev.time < n + 100000) →
      Idle "FREQUENCY_TRANSITION" (exec (.frequencyTransition r point) s)) ∧
    (∀ n, R.paused = some n → s.dev.time ≤ n + 1500 → Happens (exec (.frequencyPauseEnd r) s) fun t => SameBut [.regs, .ctxs] s t ∧
      (t.reg r).fcur = R.pendingF.getD R.fcur ∧ (t.reg r).paused = none ∧ (t.reg r).pendingF = none ∧
      (t.reg r).changedAt = some s.dev.time ∧
      ∀ k, k < 512 → t.ctx k = if within r (k / 16) ∧ (s.ctx k).status = .parked .pause then { s.ctx k with status := .running } else s.ctx k) ∧
    (R.paused = none ∨ (∃ n, R.paused = some n ∧ n + 1500 < s.dev.time) → Idle "FREQUENCY_PAUSE_END" (exec (.frequencyPauseEnd r) s))
end

