-- ==== Sys2Proof/Laws/Exec.lean ====
section
/-! SUPPORT. What exec does with each instruction: its meaning. -/
namespace Sys2Proof.Machine

@[simp] theorem exec_gnop (s : State) : exec .gnop s = execGnop s := rfl
@[simp] theorem exec_endRole (s : State) : exec .endRole s = execEnd s := rfl
@[simp] theorem exec_trap (s : State) (code) : exec (.trap code) s = execTrap code s := rfl
@[simp] theorem exec_eret (s : State) : exec .eret s = execEret s := rfl
@[simp] theorem exec_featq (s : State) (d cls) : exec (.featq d cls) s = execFeatq d cls s := rfl
@[simp] theorem exec_sdrain (s : State) : exec .sdrain s = execSdrain s := rfl
@[simp] theorem exec_add (s : State) (d a b) : exec (.add d a b) s = execAdd d a b s := rfl
@[simp] theorem exec_sub (s : State) (d a b) : exec (.sub d a b) s = execSub d a b s := rfl
@[simp] theorem exec_and_ (s : State) (d a b) : exec (.and_ d a b) s = execAnd d a b s := rfl
@[simp] theorem exec_or_ (s : State) (d a b) : exec (.or_ d a b) s = execOr d a b s := rfl
@[simp] theorem exec_xor_ (s : State) (d a b) : exec (.xor_ d a b) s = execXor d a b s := rfl
@[simp] theorem exec_shl (s : State) (d a b) : exec (.shl d a b) s = execShl d a b s := rfl
@[simp] theorem exec_shr (s : State) (d a b) : exec (.shr d a b) s = execShr d a b s := rfl
@[simp] theorem exec_sar (s : State) (d a b) : exec (.sar d a b) s = execSar d a b s := rfl
@[simp] theorem exec_mul (s : State) (d a b) : exec (.mul d a b) s = execMul d a b s := rfl
@[simp] theorem exec_mulh (s : State) (d a b) : exec (.mulh d a b) s = execMulh d a b s := rfl
@[simp] theorem exec_mulhn (s : State) (d a b) : exec (.mulhn d a b) s = execMulhn d a b s := rfl
@[simp] theorem exec_div (s : State) (d a b) : exec (.div d a b) s = execDiv d a b s := rfl
@[simp] theorem exec_divn (s : State) (d a b) : exec (.divn d a b) s = execDivn d a b s := rfl
@[simp] theorem exec_rem (s : State) (d a b) : exec (.rem d a b) s = execRem d a b s := rfl
@[simp] theorem exec_remn (s : State) (d a b) : exec (.remn d a b) s = execRemn d a b s := rfl
@[simp] theorem exec_min_ (s : State) (d a b) : exec (.min_ d a b) s = execMin d a b s := rfl
@[simp] theorem exec_max_ (s : State) (d a b) : exec (.max_ d a b) s = execMax d a b s := rfl
@[simp] theorem exec_minn (s : State) (d a b) : exec (.minn d a b) s = execMinn d a b s := rfl
@[simp] theorem exec_maxn (s : State) (d a b) : exec (.maxn d a b) s = execMaxn d a b s := rfl
@[simp] theorem exec_slt (s : State) (d a b) : exec (.slt d a b) s = execSlt d a b s := rfl
@[simp] theorem exec_sltn (s : State) (d a b) : exec (.sltn d a b) s = execSltn d a b s := rfl
@[simp] theorem exec_seq (s : State) (d a b) : exec (.seq d a b) s = execSeq d a b s := rfl
@[simp] theorem exec_clz (s : State) (d a) : exec (.clz d a) s = execClz d a s := rfl
@[simp] theorem exec_ctz (s : State) (d a) : exec (.ctz d a) s = execCtz d a s := rfl
@[simp] theorem exec_popc (s : State) (d a) : exec (.popc d a) s = execPopc d a s := rfl
@[simp] theorem exec_addw (s : State) (d a b) : exec (.addw d a b) s = execAddw d a b s := rfl
@[simp] theorem exec_subw (s : State) (d a b) : exec (.subw d a b) s = execSubw d a b s := rfl
@[simp] theorem exec_andn (s : State) (d a b) : exec (.andn d a b) s = execAndn d a b s := rfl
@[simp] theorem exec_addi (s : State) (d a imm) : exec (.addi d a imm) s = execAddi d a imm s := rfl
@[simp] theorem exec_andi (s : State) (d a imm) : exec (.andi d a imm) s = execAndi d a imm s := rfl
@[simp] theorem exec_ori (s : State) (d a imm) : exec (.ori d a imm) s = execOri d a imm s := rfl
@[simp] theorem exec_xori (s : State) (d a imm) : exec (.xori d a imm) s = execXori d a imm s := rfl
@[simp] theorem exec_shli (s : State) (d a n) : exec (.shli d a n) s = execShli d a n s := rfl
@[simp] theorem exec_shri (s : State) (d a n) : exec (.shri d a n) s = execShri d a n s := rfl
@[simp] theorem exec_sari (s : State) (d a n) : exec (.sari d a n) s = execSari d a n s := rfl
@[simp] theorem exec_slti (s : State) (d a imm) : exec (.slti d a imm) s = execSlti d a imm s := rfl
@[simp] theorem exec_sltni (s : State) (d a imm) : exec (.sltni d a imm) s = execSltni d a imm s := rfl
@[simp] theorem exec_seqi (s : State) (d a imm) : exec (.seqi d a imm) s = execSeqi d a imm s := rfl
@[simp] theorem exec_shi (s : State) (d imm) : exec (.shi d imm) s = execShi d imm s := rfl
@[simp] theorem exec_pchi (s : State) (d imm) : exec (.pchi d imm) s = execPchi d imm s := rfl
@[simp] theorem exec_ld (s : State) (sz d a imm) : exec (.ld sz d a imm) s = execLd sz d a imm s := rfl
@[simp] theorem exec_st (s : State) (sz d a imm) : exec (.st sz d a imm) s = execSt sz d a imm s := rfl
@[simp] theorem exec_amo (s : State) (wide scope order op d a b) : exec (.amo wide scope order op d a b) s = execAmo wide scope order op d a b s := rfl
@[simp] theorem exec_beq (s : State) (a b off) : exec (.beq a b off) s = execBeq a b off s := rfl
@[simp] theorem exec_bne (s : State) (a b off) : exec (.bne a b off) s = execBne a b off s := rfl
@[simp] theorem exec_blt (s : State) (a b off) : exec (.blt a b off) s = execBlt a b off s := rfl
@[simp] theorem exec_bge (s : State) (a b off) : exec (.bge a b off) s = execBge a b off s := rfl
@[simp] theorem exec_bltn (s : State) (a b off) : exec (.bltn a b off) s = execBltn a b off s := rfl
@[simp] theorem exec_bgen (s : State) (a b off) : exec (.bgen a b off) s = execBgen a b off s := rfl
@[simp] theorem exec_jal (s : State) (d off) : exec (.jal d off) s = execJal d off s := rfl
@[simp] theorem exec_jalr (s : State) (d a imm) : exec (.jalr d a imm) s = execJalr d a imm s := rfl
@[simp] theorem exec_wenter (s : State) (n) : exec (.wenter n) s = execWenter n s := rfl
@[simp] theorem exec_wleave (s : State) : exec .wleave s = execWleave s := rfl
@[simp] theorem exec_stgt (s : State) (a b) : exec (.stgt a b) s = execStgt a b s := rfl
@[simp] theorem exec_capb (s : State) (id) : exec (.capb id) s = execCapb id s := rfl
@[simp] theorem exec_cape (s : State) : exec .cape s = execCape s := rfl
@[simp] theorem exec_cdrop (s : State) (id) : exec (.cdrop id) s = execCdrop id s := rfl
@[simp] theorem exec_hset (s : State) (h a) : exec (.hset h a) s = execHset h a s := rfl
@[simp] theorem exec_hstep (s : State) (h a) : exec (.hstep h a) s = execHstep h a s := rfl
@[simp] theorem exec_rply (s : State) (id a) : exec (.rply id a) s = execRply id a s := rfl
@[simp] theorem exec_vread (s : State) (d) : exec (.vread d) s = execVread d s := rfl
@[simp] theorem exec_gfence (s : State) (cp tl scl str sc scope) : exec (.gfence cp tl scl str sc scope) s = execGfence cp tl scl str sc scope s := rfl
@[simp] theorem exec_bara (s : State) (lvl k) : exec (.bara lvl k) s = execBara lvl k s := rfl
@[simp] theorem exec_barw (s : State) (str lvl k) : exec (.barw str lvl k) s = execBarw str lvl k s := rfl
@[simp] theorem exec_baraw (s : State) (str lvl k) : exec (.baraw str lvl k) s = execBaraw str lvl k s := rfl
@[simp] theorem exec_wmrd (s : State) (d wm) : exec (.wmrd d wm) s = execWmrd d wm s := rfl
@[simp] theorem exec_wmwait (s : State) (ev wm a) : exec (.wmwait ev wm a) s = execWmwait ev wm a s := rfl
@[simp] theorem exec_wmfree (s : State) (wm) : exec (.wmfree wm) s = execWmfree wm s := rfl
@[simp] theorem exec_cpkill (s : State) (wm) : exec (.cpkill wm) s = execCpkill wm s := rfl
@[simp] theorem exec_tcfg (s : State) (f t a) : exec (.tcfg f t a) s = execTcfg f t a s := rfl
@[simp] theorem exec_trd (s : State) (f d t) : exec (.trd f d t) s = execTrd f d t s := rfl
@[simp] theorem exec_mclr (s : State) (acc) : exec (.mclr acc) s = execMclr acc s := rfl
@[simp] theorem exec_mwait (s : State) (a) : exec (.mwait a) s = execMwait a s := rfl
@[simp] theorem exec_qpush (s : State) (d a q) : exec (.qpush d a q) s = execQpush d a q s := rfl
@[simp] theorem exec_qpop (s : State) (d a q) : exec (.qpop d a q) s = execQpop d a q s := rfl
@[simp] theorem exec_qsig (s : State) (d a q) : exec (.qsig d a q) s = execQsig d a q s := rfl
@[simp] theorem exec_qstat (s : State) (d a q) : exec (.qstat d a q) s = execQstat d a q s := rfl
@[simp] theorem exec_gpref (s : State) (a imm) : exec (.gpref a imm) s = execGpref a imm s := rfl
@[simp] theorem exec_dpref (s : State) (a imm) : exec (.dpref a imm) s = execDpref a imm s := rfl
@[simp] theorem exec_rdsr (s : State) (d n) : exec (.rdsr d n) s = execRdsr d n s := rfl
@[simp] theorem exec_wrsr (s : State) (n a) : exec (.wrsr n a) s = execWrsr n a s := rfl
@[simp] theorem exec_genExtension (s : State) (n x) : exec (.genExtension n x) s = execGenExtension n x s := rfl
@[simp] theorem exec_li64 (s : State) (d imm) : exec (.li64 d imm) s = execLi64 d imm s := rfl
@[simp] theorem exec_mloop (s : State) (m) : exec (.mloop m) s = execMloop m s := rfl
@[simp] theorem exec_mdrain (s : State) (m) : exec (.mdrain m) s = execMdrain m s := rfl
@[simp] theorem exec_copy (s : State) (m) : exec (.copy m) s = execCopy m s := rfl
@[simp] theorem exec_nrec (s : State) (m) : exec (.nrec m) s = execNrec m s := rfl
@[simp] theorem exec_cred (s : State) (m) : exec (.cred m) s = execCred m s := rfl
@[simp] theorem exec_emitLaneWord (s : State) (w next) : exec (.emitLaneWord w next) s = execEmitLaneWord w next s := rfl
@[simp] theorem exec_replayPush (s : State) (ctx) : exec (.replayPush ctx) s = execReplayPush ctx s := rfl
@[simp] theorem exec_vnop (s : State) (w) : exec (.vnop w) s = execVnop w s := rfl
@[simp] theorem exec_vadd (s : State) (w) : exec (.vadd w) s = execVadd w s := rfl
@[simp] theorem exec_vsub (s : State) (w) : exec (.vsub w) s = execVsub w s := rfl
@[simp] theorem exec_vmul (s : State) (w) : exec (.vmul w) s = execVmul w s := rfl
@[simp] theorem exec_vmulh (s : State) (w) : exec (.vmulh w) s = execVmulh w s := rfl
@[simp] theorem exec_vmad (s : State) (w) : exec (.vmad w) s = execVmad w s := rfl
@[simp] theorem exec_vmin (s : State) (w) : exec (.vmin w) s = execVmin w s := rfl
@[simp] theorem exec_vmax (s : State) (w) : exec (.vmax w) s = execVmax w s := rfl
@[simp] theorem exec_vabsd (s : State) (w) : exec (.vabsd w) s = execVabsd w s := rfl
@[simp] theorem exec_vand (s : State) (w) : exec (.vand w) s = execVand w s := rfl
@[simp] theorem exec_vor (s : State) (w) : exec (.vor w) s = execVor w s := rfl
@[simp] theorem exec_vxor (s : State) (w) : exec (.vxor w) s = execVxor w s := rfl
@[simp] theorem exec_vandn (s : State) (w) : exec (.vandn w) s = execVandn w s := rfl
@[simp] theorem exec_vshl (s : State) (w) : exec (.vshl w) s = execVshl w s := rfl
@[simp] theorem exec_vshr (s : State) (w) : exec (.vshr w) s = execVshr w s := rfl
@[simp] theorem exec_vrot (s : State) (w) : exec (.vrot w) s = execVrot w s := rfl
@[simp] theorem exec_vbfx (s : State) (w) : exec (.vbfx w) s = execVbfx w s := rfl
@[simp] theorem exec_vbfi (s : State) (w) : exec (.vbfi w) s = execVbfi w s := rfl
@[simp] theorem exec_vpopc (s : State) (w) : exec (.vpopc w) s = execVpopc w s := rfl
@[simp] theorem exec_vclz (s : State) (w) : exec (.vclz w) s = execVclz w s := rfl
@[simp] theorem exec_vctz (s : State) (w) : exec (.vctz w) s = execVctz w s := rfl
@[simp] theorem exec_vbrev (s : State) (w) : exec (.vbrev w) s = execVbrev w s := rfl
@[simp] theorem exec_vpermb (s : State) (w) : exec (.vpermb w) s = execVpermb w s := rfl
@[simp] theorem exec_vdiv (s : State) (w) : exec (.vdiv w) s = execVdiv w s := rfl
@[simp] theorem exec_vrem (s : State) (w) : exec (.vrem w) s = execVrem w s := rfl
@[simp] theorem exec_vaddc (s : State) (w) : exec (.vaddc w) s = execVaddc w s := rfl
@[simp] theorem exec_vcmp (s : State) (w) : exec (.vcmp w) s = execVcmp w s := rfl
@[simp] theorem exec_vmov (s : State) (w) : exec (.vmov w) s = execVmov w s := rfl
@[simp] theorem exec_vsel (s : State) (w) : exec (.vsel w) s = execVsel w s := rfl
@[simp] theorem exec_vlea (s : State) (w) : exec (.vlea w) s = execVlea w s := rfl
@[simp] theorem exec_vfadd (s : State) (w) : exec (.vfadd w) s = execVfadd w s := rfl
@[simp] theorem exec_vfsub (s : State) (w) : exec (.vfsub w) s = execVfsub w s := rfl
@[simp] theorem exec_vfmul (s : State) (w) : exec (.vfmul w) s = execVfmul w s := rfl
@[simp] theorem exec_vfmulz (s : State) (w) : exec (.vfmulz w) s = execVfmulz w s := rfl
@[simp] theorem exec_vfma (s : State) (w) : exec (.vfma w) s = execVfma w s := rfl
@[simp] theorem exec_vfmaz (s : State) (w) : exec (.vfmaz w) s = execVfmaz w s := rfl
@[simp] theorem exec_vfmin (s : State) (w) : exec (.vfmin w) s = execVfmin w s := rfl
@[simp] theorem exec_vfmax (s : State) (w) : exec (.vfmax w) s = execVfmax w s := rfl
@[simp] theorem exec_vfsgn (s : State) (w) : exec (.vfsgn w) s = execVfsgn w s := rfl
@[simp] theorem exec_vfcmp (s : State) (w) : exec (.vfcmp w) s = execVfcmp w s := rfl
@[simp] theorem exec_vfclass (s : State) (w) : exec (.vfclass w) s = execVfclass w s := rfl
@[simp] theorem exec_vfdiv (s : State) (w) : exec (.vfdiv w) s = execVfdiv w s := rfl
@[simp] theorem exec_vfsqrt (s : State) (w) : exec (.vfsqrt w) s = execVfsqrt w s := rfl
@[simp] theorem exec_vfrnd (s : State) (w) : exec (.vfrnd w) s = execVfrnd w s := rfl
@[simp] theorem exec_vfscale (s : State) (w) : exec (.vfscale w) s = execVfscale w s := rfl
@[simp] theorem exec_vfxtr (s : State) (w) : exec (.vfxtr w) s = execVfxtr w s := rfl
@[simp] theorem exec_vfdot2 (s : State) (w) : exec (.vfdot2 w) s = execVfdot2 w s := rfl
@[simp] theorem exec_vcvtf (s : State) (w) : exec (.vcvtf w) s = execVcvtf w s := rfl
@[simp] theorem exec_vcvtfi (s : State) (w) : exec (.vcvtfi w) s = execVcvtfi w s := rfl
@[simp] theorem exec_vcvtif (s : State) (w) : exec (.vcvtif w) s = execVcvtif w s := rfl
@[simp] theorem exec_vrcp (s : State) (w) : exec (.vrcp w) s = execVrcp w s := rfl
@[simp] theorem exec_vrsq (s : State) (w) : exec (.vrsq w) s = execVrsq w s := rfl
@[simp] theorem exec_vexp2 (s : State) (w) : exec (.vexp2 w) s = execVexp2 w s := rfl
@[simp] theorem exec_vlog2 (s : State) (w) : exec (.vlog2 w) s = execVlog2 w s := rfl
@[simp] theorem exec_vsin (s : State) (w) : exec (.vsin w) s = execVsin w s := rfl
@[simp] theorem exec_vcos (s : State) (w) : exec (.vcos w) s = execVcos w s := rfl
@[simp] theorem exec_vtanh (s : State) (w) : exec (.vtanh w) s = execVtanh w s := rfl
@[simp] theorem exec_vsigm (s : State) (w) : exec (.vsigm w) s = execVsigm w s := rfl
@[simp] theorem exec_vplop (s : State) (w) : exec (.vplop w) s = execVplop w s := rfl
@[simp] theorem exec_vpmov (s : State) (w) : exec (.vpmov w) s = execVpmov w s := rfl
@[simp] theorem exec_vshuf (s : State) (w) : exec (.vshuf w) s = execVshuf w s := rfl
@[simp] theorem exec_vbcast (s : State) (w) : exec (.vbcast w) s = execVbcast w s := rfl
@[simp] theorem exec_vrotl (s : State) (w) : exec (.vrotl w) s = execVrotl w s := rfl
@[simp] theorem exec_vscan (s : State) (w) : exec (.vscan w) s = execVscan w s := rfl
@[simp] theorem exec_vred (s : State) (w) : exec (.vred w) s = execVred w s := rfl
@[simp] theorem exec_vvote (s : State) (w) : exec (.vvote w) s = execVvote w s := rfl
@[simp] theorem exec_vbar (s : State) (w) : exec (.vbar w) s = execVbar w s := rfl
@[simp] theorem exec_vld (s : State) (w) : exec (.vld w) s = execVld w s := rfl
@[simp] theorem exec_vst (s : State) (w) : exec (.vst w) s = execVst w s := rfl
@[simp] theorem exec_vatom (s : State) (w) : exec (.vatom w) s = execVatom w s := rfl
@[simp] theorem exec_vcas (s : State) (w) : exec (.vcas w) s = execVcas w s := rfl
@[simp] theorem exec_vpref (s : State) (w) : exec (.vpref w) s = execVpref w s := rfl
@[simp] theorem exec_vfence (s : State) (w) : exec (.vfence w) s = execVfence w s := rfl
@[simp] theorem exec_vidot4 (s : State) (w) : exec (.vidot4 w) s = execVidot4 w s := rfl
@[simp] theorem exec_vidot8 (s : State) (w) : exec (.vidot8 w) s = execVidot8 w s := rfl
@[simp] theorem exec_vslice (s : State) (w) : exec (.vslice w) s = execVslice w s := rfl
@[simp] theorem exec_vslacc (s : State) (w) : exec (.vslacc w) s = execVslacc w s := rfl
@[simp] theorem exec_vplane (s : State) (w) : exec (.vplane w) s = execVplane w s := rfl
@[simp] theorem exec_vext (s : State) (op w) : exec (.vext op w) s = execVext op w s := rfl
@[simp] theorem exec_laneWordRetire (s : State) (wave) : exec (.laneWordRetire wave) s = execLaneWordRetire wave s := rfl
@[simp] theorem exec_windowSpill (s : State) (wave) : exec (.windowSpill wave) s = execWindowSpill wave s := rfl
@[simp] theorem exec_windowReload (s : State) (wave) : exec (.windowReload wave) s = execWindowReload wave s := rfl
@[simp] theorem exec_boundaryTrapEntry (s : State) (ctx) : exec (.boundaryTrapEntry ctx) s = execBoundaryTrapEntry ctx s := rfl
@[simp] theorem exec_emulationComplete (s : State) (a) : exec (.emulationComplete a) s = execEmulationComplete a s := rfl
@[simp] theorem exec_icacheLineFill (s : State) (cluster ix) : exec (.icacheLineFill cluster ix) s = execIcacheLineFill cluster ix s := rfl
@[simp] theorem exec_dcacheLineFill (s : State) (cluster ix) : exec (.dcacheLineFill cluster ix) s = execDcacheLineFill cluster ix s := rfl
@[simp] theorem exec_tlbMissWalk (s : State) (die ix) : exec (.tlbMissWalk die ix) s = execTlbMissWalk die ix s := rfl
@[simp] theorem exec_matrixStep (s : State) (wg) : exec (.matrixStep wg) s = execMatrixStep wg s := rfl
@[simp] theorem exec_mdrainExecute (s : State) (wg) : exec (.mdrainExecute wg) s = execMdrainExecute wg s := rfl
@[simp] theorem exec_mclrExecute (s : State) (wg) : exec (.mclrExecute wg) s = execMclrExecute wg s := rfl
@[simp] theorem exec_copySegmentSend (s : State) (wg wm) : exec (.copySegmentSend wg wm) s = execCopySegmentSend wg wm s := rfl
@[simp] theorem exec_copyUnitCommit (s : State) (wg wm) : exec (.copyUnitCommit wg wm) s = execCopyUnitCommit wg wm s := rfl
@[simp] theorem exec_copyPark (s : State) (wg wm) : exec (.copyPark wg wm) s = execCopyPark wg wm s := rfl
@[simp] theorem exec_chainUnitReduce (s : State) (comm) : exec (.chainUnitReduce comm) s = execChainUnitReduce comm s := rfl
@[simp] theorem exec_nodeBatchTimer (s : State) (ctxid node) : exec (.nodeBatchTimer ctxid node) s = execNodeBatchTimer ctxid node s := rfl
@[simp] theorem exec_dispatchServe (s : State) : exec .dispatchServe s = execDispatchServe s := rfl
@[simp] theorem exec_workgroupStart (s : State) (gang) : exec (.workgroupStart gang) s = execWorkgroupStart gang s := rfl
@[simp] theorem exec_workgroupRetire (s : State) (gang) : exec (.workgroupRetire gang) s = execWorkgroupRetire gang s := rfl
@[simp] theorem exec_gangSaveComplete (s : State) (gang) : exec (.gangSaveComplete gang) s = execGangSaveComplete gang s := rfl
@[simp] theorem exec_gangRestore (s : State) (gang) : exec (.gangRestore gang) s = execGangRestore gang s := rfl
@[simp] theorem exec_createContext (s : State) (h desc) : exec (.createContext h desc) s = execCreateContext h desc s := rfl
@[simp] theorem exec_enableContext (s : State) (h) : exec (.enableContext h) s = execEnableContext h s := rfl
@[simp] theorem exec_suspendContext (s : State) (h) : exec (.suspendContext h) s = execSuspendContext h s := rfl
@[simp] theorem exec_resumeContext (s : State) (h) : exec (.resumeContext h) s = execResumeContext h s := rfl
@[simp] theorem exec_destroyContext (s : State) (h) : exec (.destroyContext h) s = execDestroyContext h s := rfl
@[simp] theorem exec_migrateBegin (s : State) (h buf bytes) : exec (.migrateBegin h buf bytes) s = execMigrateBegin h buf bytes s := rfl
@[simp] theorem exec_migrateCommit (s : State) (h buf bytes target root) : exec (.migrateCommit h buf bytes target root) s = execMigrateCommit h buf bytes target root s := rfl
@[simp] theorem exec_migrateAbort (s : State) (h) : exec (.migrateAbort h) s = execMigrateAbort h s := rfl
@[simp] theorem exec_createQueue (s : State) (h q data ring entries floor dies) : exec (.createQueue h q data ring entries floor dies) s = execCreateQueue h q data ring entries floor dies s := rfl
@[simp] theorem exec_enableQueue (s : State) (h q) : exec (.enableQueue h q) s = execEnableQueue h q s := rfl
@[simp] theorem exec_stopQueue (s : State) (h q) : exec (.stopQueue h q) s = execStopQueue h q s := rfl
@[simp] theorem exec_startQueue (s : State) (h q) : exec (.startQueue h q) s = execStartQueue h q s := rfl
@[simp] theorem exec_destroyQueue (s : State) (h q) : exec (.destroyQueue h q) s = execDestroyQueue h q s := rfl
@[simp] theorem exec_createNode (s : State) (h node prio header size count timer pool) : exec (.createNode h node prio header size count timer pool) s = execCreateNode h node prio header size count timer pool s := rfl
@[simp] theorem exec_destroyNode (s : State) (h node) : exec (.destroyNode h node) s = execDestroyNode h node s := rfl
@[simp] theorem exec_registerCode (s : State) (h base bytes table) : exec (.registerCode h base bytes table) s = execRegisterCode h base bytes table s := rfl
@[simp] theorem exec_deregisterCode (s : State) (h base) : exec (.deregisterCode h base) s = execDeregisterCode h base s := rfl
@[simp] theorem exec_invalidate (s : State) (h va bytes) : exec (.invalidate h va bytes) s = execInvalidate h va bytes s := rfl
@[simp] theorem exec_answerFault (s : State) (h seq fail) : exec (.answerFault h seq fail) s = execAnswerFault h seq fail s := rfl
@[simp] theorem exec_preEmptGang (s : State) (h wgid) : exec (.preEmptGang h wgid) s = execPreEmptGang h wgid s := rfl
@[simp] theorem exec_resumeGang (s : State) (h save) : exec (.resumeGang h save) s = execResumeGang h save s := rfl
@[simp] theorem exec_discardGang (s : State) (h save) : exec (.discardGang h save) s = execDiscardGang h save s := rfl
@[simp] theorem exec_createCommunicator (s : State) (h ranks n groups sizes) : exec (.createCommunicator h ranks n groups sizes) s = execCreateCommunicator h ranks n groups sizes s := rfl
@[simp] theorem exec_destroyCommunicator (s : State) (h handle) : exec (.destroyCommunicator h handle) s = execDestroyCommunicator h handle s := rfl
@[simp] theorem exec_writeBoundaryEntry (s : State) (h cls num entry lo hi) : exec (.writeBoundaryEntry h cls num entry lo hi) s = execWriteBoundaryEntry h cls num entry lo hi s := rfl
@[simp] theorem exec_readBoundaryEntry (s : State) (h cls num entry dest) : exec (.readBoundaryEntry h cls num entry dest) s = execReadBoundaryEntry h cls num entry dest s := rfl
@[simp] theorem exec_attest (s : State) (h nonce buf bytes) : exec (.attest h nonce buf bytes) s = execAttest h nonce buf bytes s := rfl
@[simp] theorem exec_bindFunction (s : State) (h vf part bind) : exec (.bindFunction h vf part bind) s = execBindFunction h vf part bind s := rfl
@[simp] theorem exec_enableLink (s : State) (h link part) : exec (.enableLink h link part) s = execEnableLink h link part s := rfl
@[simp] theorem exec_setRoute (s : State) (h package mask) : exec (.setRoute h package mask) s = execSetRoute h package mask s := rfl
@[simp] theorem exec_setPackageNumber (s : State) (h num) : exec (.setPackageNumber h num) s = execSetPackageNumber h num s := rfl
@[simp] theorem exec_readCouplingTable (s : State) (h die dest) : exec (.readCouplingTable h die dest) s = execReadCouplingTable h die dest s := rfl
@[simp] theorem exec_unknownCommand (s : State) (h status) : exec (.unknownCommand h status) s = execUnknownCommand h status s := rfl
@[simp] theorem exec_commandComplete (s : State) (part) : exec (.commandComplete part) s = execCommandComplete part s := rfl
@[simp] theorem exec_commandQueueEnable (s : State) (func) : exec (.commandQueueEnable func) s = execCommandQueueEnable func s := rfl
@[simp] theorem exec_eventQueueEnable (s : State) (func) : exec (.eventQueueEnable func) s = execEventQueueEnable func s := rfl
@[simp] theorem exec_eventQueueRdidx (s : State) (func v) : exec (.eventQueueRdidx func v) s = execEventQueueRdidx func v s := rfl
@[simp] theorem exec_eventRingWrite (s : State) (part) : exec (.eventRingWrite part) s = execEventRingWrite part s := rfl
@[simp] theorem exec_doorbell (s : State) (func v) : exec (.doorbell func v) s = execDoorbell func v s := rfl
@[simp] theorem exec_harnessMapWrite (s : State) (func v) : exec (.harnessMapWrite func v) s = execHarnessMapWrite func v s := rfl
@[simp] theorem exec_packageLimitWrite (s : State) (func v) : exec (.packageLimitWrite func v) s = execPackageLimitWrite func v s := rfl
@[simp] theorem exec_domainControlWrite (s : State) (func reg v) : exec (.domainControlWrite func reg v) s = execDomainControlWrite func reg v s := rfl
@[simp] theorem exec_registerWrite (s : State) (func off bytes v) : exec (.registerWrite func off bytes v) s = execRegisterWrite func off bytes v s := rfl
@[simp] theorem exec_hostBar2Access (s : State) (func a) : exec (.hostBar2Access func a) s = execHostBar2Access func a s := rfl
@[simp] theorem exec_hostCompletion (s : State) (a ok) : exec (.hostCompletion a ok) s = execHostCompletion a ok s := rfl
@[simp] theorem exec_linkFlitReceive (s : State) (link seq good) : exec (.linkFlitReceive link seq good) s = execLinkFlitReceive link seq good s := rfl
@[simp] theorem exec_remoteRequest (s : State) (link package a) : exec (.remoteRequest link package a) s = execRemoteRequest link package a s := rfl
@[simp] theorem exec_linkTrained (s : State) (link) : exec (.linkTrained link) s = execLinkTrained link s := rfl
@[simp] theorem exec_linkTrainingTimeout (s : State) (link) : exec (.linkTrainingTimeout link) s = execLinkTrainingTimeout link s := rfl
@[simp] theorem exec_linkRetrain (s : State) (link) : exec (.linkRetrain link) s = execLinkRetrain link s := rfl
@[simp] theorem exec_linkRetrainEnd (s : State) (link ok) : exec (.linkRetrainEnd link ok) s = execLinkRetrainEnd link ok s := rfl
@[simp] theorem exec_deviceReset (s : State) : exec .deviceReset s = execDeviceReset s := rfl
@[simp] theorem exec_correctedError (s : State) (vault row) : exec (.correctedError vault row) s = execCorrectedError vault row s := rfl
@[simp] theorem exec_rowRemapDone (s : State) (vault row) : exec (.rowRemapDone vault row) s = execRowRemapDone vault row s := rfl
@[simp] theorem exec_uncorrectableError (s : State) (t) : exec (.uncorrectableError t) s = execUncorrectableError t s := rfl
@[simp] theorem exec_spareSubstitution (s : State) (cluster) : exec (.spareSubstitution cluster) s = execSpareSubstitution cluster s := rfl
@[simp] theorem exec_vaultSensorSample (s : State) (vault temp) : exec (.vaultSensorSample vault temp) s = execVaultSensorSample vault temp s := rfl
@[simp] theorem exec_overheatGateCheck (s : State) (cluster) : exec (.overheatGateCheck cluster) s = execOverheatGateCheck cluster s := rfl
@[simp] theorem exec_currentAlarm (s : State) (reg level) : exec (.currentAlarm reg level) s = execCurrentAlarm reg level s := rfl
@[simp] theorem exec_currentAlarmSample (s : State) (reg) : exec (.currentAlarmSample reg) s = execCurrentAlarmSample reg s := rfl
@[simp] theorem exec_passCountStepDown (s : State) (reg) : exec (.passCountStepDown reg) s = execPassCountStepDown reg s := rfl
@[simp] theorem exec_powerWindowEnd (s : State) (domain cluster) : exec (.powerWindowEnd domain cluster) s = execPowerWindowEnd domain cluster s := rfl
@[simp] theorem exec_weightRefit (s : State) (shunt) : exec (.weightRefit shunt) s = execWeightRefit shunt s := rfl
@[simp] theorem exec_idleGate (s : State) (cluster) : exec (.idleGate cluster) s = execIdleGate cluster s := rfl
@[simp] theorem exec_clusterWake (s : State) (cluster) : exec (.clusterWake cluster) s = execClusterWake cluster s := rfl
@[simp] theorem exec_frequencyTransition (s : State) (reg point) : exec (.frequencyTransition reg point) s = execFrequencyTransition reg point s := rfl
@[simp] theorem exec_frequencyPauseEnd (s : State) (reg) : exec (.frequencyPauseEnd reg) s = execFrequencyPauseEnd reg s := rfl
@[simp] theorem exec_dieToDiePortFailure (s : State) (d1 d2) : exec (.dieToDiePortFailure d1 d2) s = execDieToDiePortFailure d1 d2 s := rfl
@[simp] theorem exec_remoteCompletion (s : State) (a ok) : exec (.remoteCompletion a ok) s = execRemoteCompletion a ok s := rfl
@[simp] theorem exec_loftLineFill (s : State) (cluster ix) : exec (.loftLineFill cluster ix) s = execLoftLineFill cluster ix s := rfl
@[simp] theorem exec_scalarAccessComplete (s : State) (ctx) : exec (.scalarAccessComplete ctx) s = execScalarAccessComplete ctx s := rfl

end Sys2Proof.Machine
end

