-- ==== Sys2Proof/Laws/Tables.lean ====
section
/-! SUPPORT. Laws of the containers a state is made of: sparse maps in canonical form, lists replaced at an index, and tables. -/
namespace Sys2Proof.Machine

/-! ### Sparse maps -/

theorem sparseWf_mono {w : Nat} {m : List (Nat × BitVec w)} {a b : Nat} (h : a ≤ b) (hm : sparseWf b m = true) :
    sparseWf a m = true := by
  cases m with
  | nil => rfl
  | cons p m =>
    simp only [sparseWf, Bool.and_eq_true, decide_eq_true_eq] at hm ⊢
    exact ⟨⟨by omega, hm.1.2⟩, hm.2⟩

/-- Below the lowest key a canonical map reads the default. -/
theorem sparseGet_below {w : Nat} {m : List (Nat × BitVec w)} {lo a : Nat} (hm : sparseWf lo m = true) (h : a < lo) :
    sparseGet m a = 0 := by
  induction m generalizing lo with
  | nil => rfl
  | cons p m ih =>
    obtain ⟨k, v⟩ := p
    simp only [sparseWf, Bool.and_eq_true, decide_eq_true_eq] at hm
    have hk : k ≠ a := by omega
    simp only [sparseGet, hk, if_false]
    exact ih hm.2 (by omega)

/-- A write is read back, and every other key reads as before. -/
theorem sparseGet_set {w : Nat} {m : List (Nat × BitVec w)} {lo : Nat} (hm : sparseWf lo m = true) (a b : Nat)
    (v : BitVec w) : sparseGet (sparseSet m a v) b = if b = a then v else sparseGet m b := by
  induction m generalizing lo with
  | nil =>
    by_cases hb : b = a
    · subst hb
      by_cases hv : v = 0#w <;> simp [sparseSet, sparseGet, hv]
    · have ha : a ≠ b := fun h => hb h.symm
      by_cases hv : v = 0#w <;> simp [sparseSet, sparseGet, hv, hb, ha]
  | cons p m ih =>
    obtain ⟨k, u⟩ := p
    simp only [sparseWf, Bool.and_eq_true, decide_eq_true_eq] at hm
    by_cases h1 : a < k
    · by_cases hv : v = 0#w
      · subst hv
        by_cases hb : b = a
        · subst hb
          have hk : k ≠ b := by omega
          have h0 := sparseGet_below (a := b) hm.2 (by omega)
          simpa [sparseSet, h1, sparseGet, hk] using h0
        · simp [sparseSet, h1, hb]
      · by_cases hb : b = a
        · subst hb; simp [sparseSet, h1, hv, sparseGet]
        · have ha : a ≠ b := fun h => hb h.symm
          simp [sparseSet, h1, hv, sparseGet, hb, ha]
    · by_cases h2 : a = k
      · subst h2
        by_cases hv : v = 0#w
        · subst hv
          by_cases hb : b = a
          · subst hb
            have h0 := sparseGet_below (a := b) hm.2 (by omega)
            simpa [sparseSet] using h0
          · have ha : a ≠ b := fun h => hb h.symm
            simp [sparseSet, sparseGet, hb, ha]
        · by_cases hb : b = a
          · subst hb; simp [sparseSet, hv, sparseGet]
          · have ha : a ≠ b := fun h => hb h.symm
            simp [sparseSet, hv, sparseGet, hb, ha]
      · have hi := ih hm.2
        by_cases hb : k = b
        · subst hb
          have hk : ¬ k = a := fun h => h2 h.symm
          simp [sparseSet, h1, h2, sparseGet, hk]
        · simp [sparseSet, h1, h2, sparseGet, hb, hi]

/-- A write keeps the canonical form. -/
theorem sparseWf_set {w : Nat} {m : List (Nat × BitVec w)} {lo a : Nat} (hm : sparseWf lo m = true) (h : lo ≤ a)
    (v : BitVec w) : sparseWf lo (sparseSet m a v) = true := by
  induction m generalizing lo with
  | nil => by_cases hv : v = 0#w <;> simp [sparseSet, sparseWf, hv, h]
  | cons p m ih =>
    obtain ⟨k, u⟩ := p
    have hm' := hm
    simp only [sparseWf, Bool.and_eq_true, decide_eq_true_eq] at hm
    by_cases h1 : a < k
    · by_cases hv : v = 0#w
      · simpa [sparseSet, h1, hv] using hm'
      · have : sparseWf (a + 1) m = true := sparseWf_mono (by omega) hm.2
        simp only [sparseSet, if_pos h1, if_neg (show ¬ v = 0 from hv), sparseWf, Bool.and_eq_true, decide_eq_true_eq]
        refine ⟨⟨h, by simpa using hv⟩, ⟨by omega, hm.1.2⟩, hm.2⟩
    · by_cases h2 : a = k
      · subst h2
        by_cases hv : v = 0#w
        · simpa [sparseSet, hv] using sparseWf_mono (by omega) hm.2
        · simp only [sparseSet, if_neg h1, if_true, if_neg (show ¬ v = 0 from hv), sparseWf, Bool.and_eq_true, decide_eq_true_eq]
          exact ⟨⟨h, by simpa using hv⟩, hm.2⟩
      · simp only [sparseSet, h1, h2, if_false, sparseWf, Bool.and_eq_true, decide_eq_true_eq]
        exact ⟨hm.1, ih hm.2 (by omega)⟩

/-- Keys that are cleared read the default, and the others read as before. -/
theorem sparseGet_clear {w : Nat} (m : List (Nat × BitVec w)) (lo hi a : Nat) :
    sparseGet (sparseClear m lo hi) a = if lo ≤ a ∧ a < hi then 0 else sparseGet m a := by
  induction m with
  | nil => simp [sparseClear, sparseGet]
  | cons p m ih =>
    obtain ⟨k, v⟩ := p
    simp only [sparseClear] at ih
    by_cases hk : k < lo ∨ hi ≤ k
    · by_cases ha : k = a
      · subst ha
        have : ¬ (lo ≤ k ∧ k < hi) := by omega
        simp [sparseClear, List.filter_cons, hk, sparseGet, this]
      · simp [sparseClear, List.filter_cons, hk, sparseGet, ha, ih]
    · by_cases ha : k = a
      · subst ha
        have h2 : lo ≤ k ∧ k < hi := by omega
        simp [sparseClear, List.filter_cons, hk, ih, h2]
      · simp [sparseClear, List.filter_cons, hk, sparseGet, ha, ih]

/-- Clearing keys keeps the canonical form. -/
theorem sparseWf_clear {w : Nat} {m : List (Nat × BitVec w)} {k lo hi : Nat} (hm : sparseWf k m = true) :
    sparseWf k (sparseClear m lo hi) = true := by
  induction m generalizing k with
  | nil => rfl
  | cons p m ih =>
    obtain ⟨a, v⟩ := p
    simp only [sparseWf, Bool.and_eq_true, decide_eq_true_eq] at hm
    have h := ih hm.2
    simp only [sparseClear] at h
    by_cases ha : a < lo ∨ hi ≤ a
    · simpa [sparseClear, List.filter_cons, ha, sparseWf, h] using hm.1
    · simpa [sparseClear, List.filter_cons, ha] using sparseWf_mono (a := k) (b := a + 1) (by omega) h

/-! ### Lists replaced at an index -/

@[simp] theorem getD_putAt {α : Type} (d : α) (l : List α) (k : Nat) (v : α) (n : Nat) :
    (putAt d l k v).getD n d = if n = k then v else l.getD n d := by
  simp only [List.getD_eq_getElem?_getD]
  induction k generalizing l n with
  | zero => cases l <;> cases n <;> simp [putAt]
  | succ k ih =>
    cases l with
    | nil => cases n <;> simp [putAt, ih]
    | cons x l => cases n <;> simp [putAt, ih]

theorem length_putAt {α : Type} (d : α) (l : List α) (k : Nat) (v : α) (h : k < l.length) :
    (putAt d l k v).length = l.length := by
  induction k generalizing l with
  | zero => cases l <;> simp_all [putAt]
  | succ k ih =>
    cases l with
    | nil => simp at h
    | cons x l => simp [putAt, ih l (by simpa using h)]

/-! ### Tables -/

theorem getD_set {α : Type} (l : List α) (k : Nat) (v : α) (n : Nat) (d : α) :
    (l.set k v).getD n d = if n = k ∧ k < l.length then v else l.getD n d := by
  simp only [List.getD_eq_getElem?_getD, List.getElem?_set]
  by_cases h : k = n
  · subst h
    by_cases h2 : k < l.length <;> simp [h2]
  · have : ¬ n = k := fun e => h e.symm
    simp [h, this]

end Sys2Proof.Machine
end

