-- ==== Sys2Proof/Laws/State.lean ====
section
/-! SUPPORT. What each effect does to each part of the state: its own field, and every other field unchanged. -/
namespace Sys2Proof.Machine

/-! ### The fields an effect writes -/

/-- Whether an effect writes a field; a reset of registers writes two. -/
def Effect.writes : Effect → Field → Bool
  | .agenda _, f => f == .agenda
  | .cur _ _, f => f == .cur
  | .dev _, f => f == .dev
  | .mem _ _, f => f == .mem
  | .vis _, f => f == .mem
  | .badDram _, f => f == .badDram
  | .badSram _, f => f == .badSram
  | .badRegs _, f => f == .badRegs
  | .badAccs _, f => f == .badAccs
  | .vreg _ _, f => f == .vregs
  | .acc _ _, f => f == .accs
  | .clearVregs _ _, f => f == .vregs
  | .clearAccs _ _, f => f == .accs
  | .ctx _ _, f => f == .ctxs
  | .wave _ _, f => f == .waves
  | .cluster _ _, f => f == .clusters
  | .die _ _, f => f == .dies
  | .vault _ _, f => f == .vaults
  | .reg _ _, f => f == .regs
  | .part _ _, f => f == .parts
  | .link _ _, f => f == .links
  | .wg _ _, f => f == .wgs
  | .gang _ _, f => f == .gangs
  | .launch _ _, f => f == .launches
  | .devCtx _ _, f => f == .devs
  | .addWg _, f => f == .wgs
  | .addGang _, f => f == .gangs
  | .addLaunch _, f => f == .launches
  | .addDev _, f => f == .devs
  | .clearSparse, f => f == .vregs || f == .accs

@[simp] theorem agenda_apply_agenda (s : State) (a : List Turn) :
    (Effect.apply s (.agenda a)).agenda = a := rfl
@[simp] theorem writes_agenda (a : List Turn) (f : Field) :
    Effect.writes (.agenda a) f = (f == .agenda) := rfl
@[simp] theorem curCtx_apply_cur (s : State) (c w : Nat) :
    (Effect.apply s (.cur c w)).curCtx = c := rfl
@[simp] theorem curWave_apply_cur (s : State) (c w : Nat) :
    (Effect.apply s (.cur c w)).curWave = w := rfl
@[simp] theorem writes_cur (c w : Nat) (f : Field) :
    Effect.writes (.cur c w) f = (f == .cur) := rfl
@[simp] theorem dev_apply_dev (s : State) (d : Device) :
    (Effect.apply s (.dev d)).dev = d := rfl
@[simp] theorem writes_dev (d : Device) (f : Field) :
    Effect.writes (.dev d) f = (f == .dev) := rfl
@[simp] theorem mem_apply_mem (s : State) (loc : Nat) (b : Byte) :
    (Effect.apply s (.mem loc b)).mem = sparseSet s.mem loc b := rfl
@[simp] theorem writes_mem (loc : Nat) (b : Byte) (f : Field) :
    Effect.writes (.mem loc b) f = (f == .mem) := rfl
@[simp] theorem vis_apply_vis (s : State) (v : Visibility) :
    (Effect.apply s (.vis v)).vis = v := rfl
@[simp] theorem writes_vis (v : Visibility) (f : Field) :
    Effect.writes (.vis v) f = (f == .mem) := rfl
@[simp] theorem badDram_apply_badDram (s : State) (l : List Nat) :
    (Effect.apply s (.badDram l)).badDram = l := rfl
@[simp] theorem writes_badDram (l : List Nat) (f : Field) :
    Effect.writes (.badDram l) f = (f == .badDram) := rfl
@[simp] theorem badSram_apply_badSram (s : State) (l : List Nat) :
    (Effect.apply s (.badSram l)).badSram = l := rfl
@[simp] theorem writes_badSram (l : List Nat) (f : Field) :
    Effect.writes (.badSram l) f = (f == .badSram) := rfl
@[simp] theorem badRegs_apply_badRegs (s : State) (l : List Nat) :
    (Effect.apply s (.badRegs l)).badRegs = l := rfl
@[simp] theorem writes_badRegs (l : List Nat) (f : Field) :
    Effect.writes (.badRegs l) f = (f == .badRegs) := rfl
@[simp] theorem badAccs_apply_badAccs (s : State) (l : List Nat) :
    (Effect.apply s (.badAccs l)).badAccs = l := rfl
@[simp] theorem writes_badAccs (l : List Nat) (f : Field) :
    Effect.writes (.badAccs l) f = (f == .badAccs) := rfl
@[simp] theorem vregs_apply_vreg (s : State) (key : Nat) (v : W32) :
    (Effect.apply s (.vreg key v)).vregs = sparseSet s.vregs key v := rfl
@[simp] theorem writes_vreg (key : Nat) (v : W32) (f : Field) :
    Effect.writes (.vreg key v) f = (f == .vregs) := rfl
@[simp] theorem accs_apply_acc (s : State) (key : Nat) (v : W32) :
    (Effect.apply s (.acc key v)).accs = sparseSet s.accs key v := rfl
@[simp] theorem writes_acc (key : Nat) (v : W32) (f : Field) :
    Effect.writes (.acc key v) f = (f == .accs) := rfl
@[simp] theorem vregs_apply_clearVregs (s : State) (lo hi : Nat) :
    (Effect.apply s (.clearVregs lo hi)).vregs = sparseClear s.vregs lo hi := rfl
@[simp] theorem writes_clearVregs (lo hi : Nat) (f : Field) :
    Effect.writes (.clearVregs lo hi) f = (f == .vregs) := rfl
@[simp] theorem accs_apply_clearAccs (s : State) (lo hi : Nat) :
    (Effect.apply s (.clearAccs lo hi)).accs = sparseClear s.accs lo hi := rfl
@[simp] theorem writes_clearAccs (lo hi : Nat) (f : Field) :
    Effect.writes (.clearAccs lo hi) f = (f == .accs) := rfl
@[simp] theorem ctxs_apply_ctx (s : State) (k : Nat) (c : Context) :
    (Effect.apply s (.ctx k c)).ctxs = s.ctxs.set k c := rfl
@[simp] theorem writes_ctx (k : Nat) (c : Context) (f : Field) :
    Effect.writes (.ctx k c) f = (f == .ctxs) := rfl
@[simp] theorem waves_apply_wave (s : State) (k : Nat) (w : Wave) :
    (Effect.apply s (.wave k w)).waves = s.waves.set k w := rfl
@[simp] theorem writes_wave (k : Nat) (w : Wave) (f : Field) :
    Effect.writes (.wave k w) f = (f == .waves) := rfl
@[simp] theorem clusters_apply_cluster (s : State) (k : Nat) (c : Cluster) :
    (Effect.apply s (.cluster k c)).clusters = s.clusters.set k c := rfl
@[simp] theorem writes_cluster (k : Nat) (c : Cluster) (f : Field) :
    Effect.writes (.cluster k c) f = (f == .clusters) := rfl
@[simp] theorem dies_apply_die (s : State) (k : Nat) (d : Die) :
    (Effect.apply s (.die k d)).dies = s.dies.set k d := rfl
@[simp] theorem writes_die (k : Nat) (d : Die) (f : Field) :
    Effect.writes (.die k d) f = (f == .dies) := rfl
@[simp] theorem vaults_apply_vault (s : State) (k : Nat) (v : Vault) :
    (Effect.apply s (.vault k v)).vaults = s.vaults.set k v := rfl
@[simp] theorem writes_vault (k : Nat) (v : Vault) (f : Field) :
    Effect.writes (.vault k v) f = (f == .vaults) := rfl
@[simp] theorem regs_apply_reg (s : State) (k : Nat) (r : Regulator) :
    (Effect.apply s (.reg k r)).regs = s.regs.set k r := rfl
@[simp] theorem writes_reg (k : Nat) (r : Regulator) (f : Field) :
    Effect.writes (.reg k r) f = (f == .regs) := rfl
@[simp] theorem parts_apply_part (s : State) (k : Nat) (p : Partition) :
    (Effect.apply s (.part k p)).parts = s.parts.set k p := rfl
@[simp] theorem writes_part (k : Nat) (p : Partition) (f : Field) :
    Effect.writes (.part k p) f = (f == .parts) := rfl
@[simp] theorem links_apply_link (s : State) (k : Nat) (l : Link) :
    (Effect.apply s (.link k l)).links = s.links.set k l := rfl
@[simp] theorem writes_link (k : Nat) (l : Link) (f : Field) :
    Effect.writes (.link k l) f = (f == .links) := rfl
@[simp] theorem wgs_apply_wg (s : State) (k : Nat) (w : Workgroup) :
    (Effect.apply s (.wg k w)).wgs = s.wgs.set k w := rfl
@[simp] theorem writes_wg (k : Nat) (w : Workgroup) (f : Field) :
    Effect.writes (.wg k w) f = (f == .wgs) := rfl
@[simp] theorem gangs_apply_gang (s : State) (k : Nat) (g : Gang) :
    (Effect.apply s (.gang k g)).gangs = s.gangs.set k g := rfl
@[simp] theorem writes_gang (k : Nat) (g : Gang) (f : Field) :
    Effect.writes (.gang k g) f = (f == .gangs) := rfl
@[simp] theorem launches_apply_launch (s : State) (k : Nat) (l : Launch) :
    (Effect.apply s (.launch k l)).launches = s.launches.set k l := rfl
@[simp] theorem writes_launch (k : Nat) (l : Launch) (f : Field) :
    Effect.writes (.launch k l) f = (f == .launches) := rfl
@[simp] theorem devs_apply_devCtx (s : State) (k : Nat) (d : DevCtx) :
    (Effect.apply s (.devCtx k d)).devs = s.devs.set k d := rfl
@[simp] theorem writes_devCtx (k : Nat) (d : DevCtx) (f : Field) :
    Effect.writes (.devCtx k d) f = (f == .devs) := rfl
@[simp] theorem wgs_apply_addWg (s : State) (w : Workgroup) :
    (Effect.apply s (.addWg w)).wgs = s.wgs ++ [w] := rfl
@[simp] theorem writes_addWg (w : Workgroup) (f : Field) :
    Effect.writes (.addWg w) f = (f == .wgs) := rfl
@[simp] theorem gangs_apply_addGang (s : State) (g : Gang) :
    (Effect.apply s (.addGang g)).gangs = s.gangs ++ [g] := rfl
@[simp] theorem writes_addGang (g : Gang) (f : Field) :
    Effect.writes (.addGang g) f = (f == .gangs) := rfl
@[simp] theorem launches_apply_addLaunch (s : State) (l : Launch) :
    (Effect.apply s (.addLaunch l)).launches = s.launches ++ [l] := rfl
@[simp] theorem writes_addLaunch (l : Launch) (f : Field) :
    Effect.writes (.addLaunch l) f = (f == .launches) := rfl
@[simp] theorem devs_apply_addDev (s : State) (d : DevCtx) :
    (Effect.apply s (.addDev d)).devs = s.devs ++ [d] := rfl
@[simp] theorem writes_addDev (d : DevCtx) (f : Field) :
    Effect.writes (.addDev d) f = (f == .devs) := rfl
@[simp] theorem vregs_apply_clearSparse (s : State) :
    (Effect.apply s (.clearSparse)).vregs = [] := rfl
@[simp] theorem accs_apply_clearSparse (s : State) :
    (Effect.apply s (.clearSparse)).accs = [] := rfl
@[simp] theorem writes_clearSparse (f : Field) :
    Effect.writes (.clearSparse) f = (f == .vregs || f == .accs) := rfl

/-! ### Every other field stays -/

@[simp] theorem field_beq (a b : Field) : (a == b) = decide (a = b) := by
  cases a <;> cases b <;> rfl

@[simp] theorem dev_apply {e : Effect} {s : State} (h : e.writes .dev = false) :
    (e.apply s).dev = s.dev := by
  cases e <;> first | rfl | simp at h
@[simp] theorem agenda_apply {e : Effect} {s : State} (h : e.writes .agenda = false) :
    (e.apply s).agenda = s.agenda := by
  cases e <;> first | rfl | simp at h
@[simp] theorem curCtx_apply {e : Effect} {s : State} (h : e.writes .cur = false) :
    (e.apply s).curCtx = s.curCtx := by
  cases e <;> first | rfl | simp at h
@[simp] theorem curWave_apply {e : Effect} {s : State} (h : e.writes .cur = false) :
    (e.apply s).curWave = s.curWave := by
  cases e <;> first | rfl | simp at h
@[simp] theorem mem_apply {e : Effect} {s : State} (h : e.writes .mem = false) :
    (e.apply s).mem = s.mem := by
  cases e <;> first | rfl | simp at h
@[simp] theorem vis_apply {e : Effect} {s : State} (h : e.writes .mem = false) :
    (e.apply s).vis = s.vis := by
  cases e <;> first | rfl | simp at h
@[simp] theorem vregs_apply {e : Effect} {s : State} (h : e.writes .vregs = false) :
    (e.apply s).vregs = s.vregs := by
  cases e <;> first | rfl | simp at h
@[simp] theorem accs_apply {e : Effect} {s : State} (h : e.writes .accs = false) :
    (e.apply s).accs = s.accs := by
  cases e <;> first | rfl | simp at h
@[simp] theorem badDram_apply {e : Effect} {s : State} (h : e.writes .badDram = false) :
    (e.apply s).badDram = s.badDram := by
  cases e <;> first | rfl | simp at h
@[simp] theorem badSram_apply {e : Effect} {s : State} (h : e.writes .badSram = false) :
    (e.apply s).badSram = s.badSram := by
  cases e <;> first | rfl | simp at h
@[simp] theorem badRegs_apply {e : Effect} {s : State} (h : e.writes .badRegs = false) :
    (e.apply s).badRegs = s.badRegs := by
  cases e <;> first | rfl | simp at h
@[simp] theorem badAccs_apply {e : Effect} {s : State} (h : e.writes .badAccs = false) :
    (e.apply s).badAccs = s.badAccs := by
  cases e <;> first | rfl | simp at h
@[simp] theorem ctxs_apply {e : Effect} {s : State} (h : e.writes .ctxs = false) :
    (e.apply s).ctxs = s.ctxs := by
  cases e <;> first | rfl | simp at h
@[simp] theorem waves_apply {e : Effect} {s : State} (h : e.writes .waves = false) :
    (e.apply s).waves = s.waves := by
  cases e <;> first | rfl | simp at h
@[simp] theorem clusters_apply {e : Effect} {s : State} (h : e.writes .clusters = false) :
    (e.apply s).clusters = s.clusters := by
  cases e <;> first | rfl | simp at h
@[simp] theorem dies_apply {e : Effect} {s : State} (h : e.writes .dies = false) :
    (e.apply s).dies = s.dies := by
  cases e <;> first | rfl | simp at h
@[simp] theorem vaults_apply {e : Effect} {s : State} (h : e.writes .vaults = false) :
    (e.apply s).vaults = s.vaults := by
  cases e <;> first | rfl | simp at h
@[simp] theorem regs_apply {e : Effect} {s : State} (h : e.writes .regs = false) :
    (e.apply s).regs = s.regs := by
  cases e <;> first | rfl | simp at h
@[simp] theorem parts_apply {e : Effect} {s : State} (h : e.writes .parts = false) :
    (e.apply s).parts = s.parts := by
  cases e <;> first | rfl | simp at h
@[simp] theorem links_apply {e : Effect} {s : State} (h : e.writes .links = false) :
    (e.apply s).links = s.links := by
  cases e <;> first | rfl | simp at h
@[simp] theorem wgs_apply {e : Effect} {s : State} (h : e.writes .wgs = false) :
    (e.apply s).wgs = s.wgs := by
  cases e <;> first | rfl | simp at h
@[simp] theorem gangs_apply {e : Effect} {s : State} (h : e.writes .gangs = false) :
    (e.apply s).gangs = s.gangs := by
  cases e <;> first | rfl | simp at h
@[simp] theorem launches_apply {e : Effect} {s : State} (h : e.writes .launches = false) :
    (e.apply s).launches = s.launches := by
  cases e <;> first | rfl | simp at h
@[simp] theorem devs_apply {e : Effect} {s : State} (h : e.writes .devs = false) :
    (e.apply s).devs = s.devs := by
  cases e <;> first | rfl | simp at h
@[simp] theorem ctx_apply {e : Effect} {s : State} (h : e.writes .ctxs = false) (k : Nat) :
    (e.apply s).ctx k = s.ctx k := by
  simp only [State.ctx, ctxs_apply h]
@[simp] theorem wave_apply {e : Effect} {s : State} (h : e.writes .waves = false) (k : Nat) :
    (e.apply s).wave k = s.wave k := by
  simp only [State.wave, waves_apply h]
@[simp] theorem cluster_apply {e : Effect} {s : State} (h : e.writes .clusters = false) (k : Nat) :
    (e.apply s).cluster k = s.cluster k := by
  simp only [State.cluster, clusters_apply h]
@[simp] theorem die_apply {e : Effect} {s : State} (h : e.writes .dies = false) (k : Nat) :
    (e.apply s).die k = s.die k := by
  simp only [State.die, dies_apply h]
@[simp] theorem vault_apply {e : Effect} {s : State} (h : e.writes .vaults = false) (k : Nat) :
    (e.apply s).vault k = s.vault k := by
  simp only [State.vault, vaults_apply h]
@[simp] theorem reg_apply {e : Effect} {s : State} (h : e.writes .regs = false) (k : Nat) :
    (e.apply s).reg k = s.reg k := by
  simp only [State.reg, regs_apply h]
@[simp] theorem part_apply {e : Effect} {s : State} (h : e.writes .parts = false) (k : Nat) :
    (e.apply s).part k = s.part k := by
  simp only [State.part, parts_apply h]
@[simp] theorem link_apply {e : Effect} {s : State} (h : e.writes .links = false) (k : Nat) :
    (e.apply s).link k = s.link k := by
  simp only [State.link, links_apply h]
@[simp] theorem wg_apply {e : Effect} {s : State} (h : e.writes .wgs = false) (k : Nat) :
    (e.apply s).wg k = s.wg k := by
  simp only [State.wg, wgs_apply h]
@[simp] theorem gang_apply {e : Effect} {s : State} (h : e.writes .gangs = false) (k : Nat) :
    (e.apply s).gang k = s.gang k := by
  simp only [State.gang, gangs_apply h]
@[simp] theorem launch_apply {e : Effect} {s : State} (h : e.writes .launches = false) (k : Nat) :
    (e.apply s).launch k = s.launch k := by
  simp only [State.launch, launches_apply h]
@[simp] theorem devAt_apply {e : Effect} {s : State} (h : e.writes .devs = false) (k : Nat) :
    (e.apply s).devAt k = s.devAt k := by
  simp only [State.devAt, devs_apply h]
@[simp] theorem byte_apply {e : Effect} {s : State} (h : e.writes .mem = false) (a : Nat) :
    (e.apply s).byte a = s.byte a := by
  simp only [State.byte, mem_apply h]

/-! ### The entry of a table that is written -/

@[simp] theorem ctx_apply_ctx (s : State) (k : Nat) (c : Context) (n : Nat) :
    (Effect.apply s (.ctx k c)).ctx n = if n = k ∧ k < s.ctxs.length then c else s.ctx n := by
  exact getD_set ..
@[simp] theorem wave_apply_wave (s : State) (k : Nat) (w : Wave) (n : Nat) :
    (Effect.apply s (.wave k w)).wave n = if n = k ∧ k < s.waves.length then w else s.wave n := by
  exact getD_set ..
@[simp] theorem cluster_apply_cluster (s : State) (k : Nat) (c : Cluster) (n : Nat) :
    (Effect.apply s (.cluster k c)).cluster n = if n = k ∧ k < s.clusters.length then c else s.cluster n := by
  exact getD_set ..
@[simp] theorem die_apply_die (s : State) (k : Nat) (d : Die) (n : Nat) :
    (Effect.apply s (.die k d)).die n = if n = k ∧ k < s.dies.length then d else s.die n := by
  exact getD_set ..
@[simp] theorem vault_apply_vault (s : State) (k : Nat) (v : Vault) (n : Nat) :
    (Effect.apply s (.vault k v)).vault n = if n = k ∧ k < s.vaults.length then v else s.vault n := by
  exact getD_set ..
@[simp] theorem reg_apply_reg (s : State) (k : Nat) (r : Regulator) (n : Nat) :
    (Effect.apply s (.reg k r)).reg n = if n = k ∧ k < s.regs.length then r else s.reg n := by
  exact getD_set ..
@[simp] theorem part_apply_part (s : State) (k : Nat) (p : Partition) (n : Nat) :
    (Effect.apply s (.part k p)).part n = if n = k ∧ k < s.parts.length then p else s.part n := by
  exact getD_set ..
@[simp] theorem link_apply_link (s : State) (k : Nat) (l : Link) (n : Nat) :
    (Effect.apply s (.link k l)).link n = if n = k ∧ k < s.links.length then l else s.link n := by
  exact getD_set ..
@[simp] theorem wg_apply_wg (s : State) (k : Nat) (w : Workgroup) (n : Nat) :
    (Effect.apply s (.wg k w)).wg n = if n = k ∧ k < s.wgs.length then w else s.wg n := by
  exact getD_set ..
@[simp] theorem gang_apply_gang (s : State) (k : Nat) (g : Gang) (n : Nat) :
    (Effect.apply s (.gang k g)).gang n = if n = k ∧ k < s.gangs.length then g else s.gang n := by
  exact getD_set ..
@[simp] theorem launch_apply_launch (s : State) (k : Nat) (l : Launch) (n : Nat) :
    (Effect.apply s (.launch k l)).launch n = if n = k ∧ k < s.launches.length then l else s.launch n := by
  exact getD_set ..
@[simp] theorem devAt_apply_devCtx (s : State) (k : Nat) (d : DevCtx) (n : Nat) :
    (Effect.apply s (.devCtx k d)).devAt n = if n = k ∧ k < s.devs.length then d else s.devAt n := by
  exact getD_set ..

/-! ### Lists of effects -/

@[simp] theorem applyAll_nil (s : State) : applyAll s [] = s := rfl
@[simp] theorem applyAll_cons (s : State) (e : Effect) (es : List Effect) :
    applyAll s (e :: es) = applyAll (e.apply s) es := rfl
@[simp] theorem applyAll_append (s : State) (es fs : List Effect) :
    applyAll s (es ++ fs) = applyAll (applyAll s es) fs := by
  simp [applyAll, List.foldl_append]

/-- What every effect of a list keeps, the list keeps. -/
theorem applyAll_keeps {P : State → Prop} {es : List Effect} {s : State} (h : ∀ e ∈ es, ∀ t, P t → P (e.apply t))
    (hs : P s) : P (applyAll s es) := by
  induction es generalizing s with
  | nil => exact hs
  | cons e es ih => exact ih (fun x hx => h x (List.mem_cons_of_mem _ hx)) (h e List.mem_cons_self s hs)

end Sys2Proof.Machine
end

