-- ==== Sys2Proof/Laws/Run.lean ====
section
/-! SUPPORT. How programs over the state run: what each step of a program answers and what it leaves, and what a program
keeps. A meaning is opened with these laws and never by unfolding the monad. -/
namespace Sys2Proof.Machine

/-! ### Running a program from a state, after some effects -/

/-- The state after a list of effects, newest first. -/
def after (s : State) (log : List Effect) : State := applyAll s log.reverse

@[simp] theorem after_nil (s : State) : after s [] = s := rfl
@[simp] theorem after_cons (s : State) (e : Effect) (log : List Effect) : after s (e :: log) = e.apply (after s log) := by
  simp [after]
@[simp] theorem after_append (s : State) (es log : List Effect) :
    after s (es.reverse ++ log) = applyAll (after s log) es := by
  simp [after]

@[simp] theorem run_pure {α : Type} (x : α) (s : State) (log : List Effect) : (pure x : Act α) s log = (x, log) := rfl
@[simp] theorem run_bind {α β : Type} (a : Act α) (f : α → Act β) (s : State) (log : List Effect) :
    (a >>= f) s log = f (a s log).1 s (a s log).2 := rfl
@[simp] theorem run_map {α β : Type} (f : α → β) (a : Act α) (s : State) (log : List Effect) :
    (f <$> a) s log = (f (a s log).1, (a s log).2) := rfl
@[simp] theorem run_now (s : State) (log : List Effect) : now s log = (after s log, log) := rfl
@[simp] theorem run_bind_now {α : Type} (f : State → Act α) (s : State) (log : List Effect) :
    (now >>= f) s log = f (after s log) s log := rfl
@[simp] theorem run_emit (e : Effect) (s : State) (log : List Effect) : emit e s log = ((), e :: log) := rfl
@[simp] theorem run_emits (es : List Effect) (s : State) (log : List Effect) :
    emits es s log = ((), es.reverse ++ log) := rfl
@[simp] theorem run_ite {α : Type} (c : Prop) [Decidable c] (a b : Act α) (s : State) (log : List Effect) :
    (if c then a else b) s log = if c then a s log else b s log := by
  split <;> rfl

@[simp] theorem run_setCtx (k : Nat) (c : Context) (s : State) (log : List Effect) :
    setCtx k c s log = ((), .ctx k c :: log) := rfl
@[simp] theorem run_setWave (k : Nat) (w : Wave) (s : State) (log : List Effect) :
    setWave k w s log = ((), .wave k w :: log) := rfl
@[simp] theorem run_setWg (k : Nat) (w : Workgroup) (s : State) (log : List Effect) :
    setWg k w s log = ((), .wg k w :: log) := rfl
@[simp] theorem run_setGang (k : Nat) (g : Gang) (s : State) (log : List Effect) :
    setGang k g s log = ((), .gang k g :: log) := rfl
@[simp] theorem run_setCluster (k : Nat) (c : Cluster) (s : State) (log : List Effect) :
    setCluster k c s log = ((), .cluster k c :: log) := rfl
@[simp] theorem run_setDie (k : Nat) (d : Die) (s : State) (log : List Effect) :
    setDie k d s log = ((), .die k d :: log) := rfl
@[simp] theorem run_setDev (d : Device) (s : State) (log : List Effect) : setDev d s log = ((), .dev d :: log) := rfl

@[simp] theorem run_modCtx (k : Nat) (f : Context → Context) (s : State) (log : List Effect) :
    modCtx k f s log = ((), .ctx k (f ((after s log).ctx k)) :: log) := rfl
@[simp] theorem run_modWave (k : Nat) (f : Wave → Wave) (s : State) (log : List Effect) :
    modWave k f s log = ((), .wave k (f ((after s log).wave k)) :: log) := rfl
@[simp] theorem run_modWg (k : Nat) (f : Workgroup → Workgroup) (s : State) (log : List Effect) :
    modWg k f s log = ((), .wg k (f ((after s log).wg k)) :: log) := rfl
@[simp] theorem run_modGang (k : Nat) (f : Gang → Gang) (s : State) (log : List Effect) :
    modGang k f s log = ((), .gang k (f ((after s log).gang k)) :: log) := rfl
@[simp] theorem run_modLaunch (k : Nat) (f : Launch → Launch) (s : State) (log : List Effect) :
    modLaunch k f s log = ((), .launch k (f ((after s log).launch k)) :: log) := rfl
@[simp] theorem run_modCluster (k : Nat) (f : Cluster → Cluster) (s : State) (log : List Effect) :
    modCluster k f s log = ((), .cluster k (f ((after s log).cluster k)) :: log) := rfl
@[simp] theorem run_modDie (k : Nat) (f : Die → Die) (s : State) (log : List Effect) :
    modDie k f s log = ((), .die k (f ((after s log).die k)) :: log) := rfl
@[simp] theorem run_modVault (k : Nat) (f : Vault → Vault) (s : State) (log : List Effect) :
    modVault k f s log = ((), .vault k (f ((after s log).vault k)) :: log) := rfl
@[simp] theorem run_modReg (k : Nat) (f : Regulator → Regulator) (s : State) (log : List Effect) :
    modReg k f s log = ((), .reg k (f ((after s log).reg k)) :: log) := rfl
@[simp] theorem run_modPart (k : Nat) (f : Partition → Partition) (s : State) (log : List Effect) :
    modPart k f s log = ((), .part k (f ((after s log).part k)) :: log) := rfl
@[simp] theorem run_modLink (k : Nat) (f : Link → Link) (s : State) (log : List Effect) :
    modLink k f s log = ((), .link k (f ((after s log).link k)) :: log) := rfl
@[simp] theorem run_modDevice (f : Device → Device) (s : State) (log : List Effect) :
    modDevice f s log = ((), .dev (f (after s log).dev) :: log) := rfl
@[simp] theorem run_setVis (v : Visibility) (s : State) (log : List Effect) : setVis v s log = ((), .vis v :: log) := rfl
@[simp] theorem run_modVis (f : Visibility → Visibility) (s : State) (log : List Effect) :
    modVis f s log = ((), .vis (f (after s log).vis) :: log) := rfl
@[simp] theorem run_freshIx (s : State) (log : List Effect) :
    freshIx s log = ((after s log).dev.freeCount,
      .dev { (after s log).dev with freeCount := (after s log).dev.freeCount + 1 } :: log) := rfl
theorem run_modDctx (id : Nat) (f : DevCtx → DevCtx) (s : State) (log : List Effect) :
    modDctx id f s log = ((), match (after s log).devIx id with
      | some i => .devCtx i (f ((after s log).devAt i)) :: log
      | none => log) := by
  cases h : (after s log).devIx id <;> simp [modDctx, h]
@[simp] theorem run_stallCur (why : StallReason) (s : State) (log : List Effect) :
    stallCur why s log = ((), .ctx (after s log).curCtx (((after s log).ctx (after s log).curCtx).stall why) :: log) := rfl
@[simp] theorem run_finish (d : Reg) (v : Word) (n : Nat) (s : State) (log : List Effect) :
    finish d v n s log
      = ((), .ctx (after s log).curCtx ((((after s log).ctx (after s log).curCtx).wr d v).adv n) :: log) := rfl
@[simp] theorem run_finishNone (n : Nat) (s : State) (log : List Effect) :
    finishNone n s log = ((), .ctx (after s log).curCtx (((after s log).ctx (after s log).curCtx).adv n) :: log) := rfl

/-- What a meaning answers. -/
theorem commit_eq (a : Act Unit) (s : State) : commit a s = .next (after s (a s []).2) := rfl
theorem event_eq {name : String} {ok : State → Bool} {s : State} (h : ok s = true) (a : Act Unit) :
    event name ok a s = .next (after s (a s []).2) := by
  simp [event, h, commit_eq]
theorem event_fault {name : String} {ok : State → Bool} {s : State} (h : ok s = false) (a : Act Unit) :
    event name ok a s = .fault (.notEnabled name) := by
  simp [event, h]

theorem happens_commit {a : Act Unit} {s : State} {P : State → Prop} (hp : P (after s (a s []).2)) : Happens (commit a s) P :=
  ⟨_, rfl, hp⟩
theorem happens_event {name : String} {ok : State → Bool} {a : Act Unit} {s : State} {P : State → Prop} (h : ok s = true)
    (hp : P (after s (a s []).2)) : Happens (event name ok a s) P :=
  ⟨_, event_eq h a, hp⟩
theorem idle_event {name : String} {ok : State → Bool} {a : Act Unit} {s : State} (h : ok s = false) :
    Idle name (event name ok a s) := event_fault h a

/-! ### What a program keeps -/

/-- Whatever state it starts in, the program keeps P. -/
def Keeps (P : State → Prop) {α : Type} (a : Act α) : Prop := ∀ s log, P (after s log) → P (after s (a s log).2)

theorem Keeps.pure {P : State → Prop} {α : Type} (x : α) : Keeps P (pure x : Act α) := fun _ _ h => h
theorem Keeps.now {P : State → Prop} : Keeps P now := fun _ _ h => h
theorem Keeps.bind {P : State → Prop} {α β : Type} {a : Act α} {f : α → Act β} (ha : Keeps P a) (hf : ∀ x, Keeps P (f x)) :
    Keeps P (a >>= f) := fun s log h => hf _ s _ (ha s log h)
theorem Keeps.emit {P : State → Prop} {e : Effect} (h : ∀ t, P t → P (e.apply t)) : Keeps P (emit e) := by
  intro s log hp
  simpa using h _ hp
theorem Keeps.emits {P : State → Prop} {es : List Effect} (h : ∀ e ∈ es, ∀ t, P t → P (e.apply t)) : Keeps P (emits es) := by
  intro s log hp
  simpa using applyAll_keeps h hp
theorem Keeps.each {P : State → Prop} {α : Type} {l : List α} {f : α → Act Unit} (h : ∀ x ∈ l, Keeps P (f x)) :
    Keeps P (each l f) := by
  induction l with
  | nil => exact Keeps.pure ()
  | cons x l ih =>
    exact Keeps.bind (h x List.mem_cons_self) fun _ => ih fun y hy => h y (List.mem_cons_of_mem _ hy)
theorem Keeps.ite {P : State → Prop} {α : Type} {c : Prop} [Decidable c] {a b : Act α} (ha : Keeps P a) (hb : Keeps P b) :
    Keeps P (if c then a else b) := by
  split <;> assumption
/-- What depends on the state now. -/
theorem Keeps.readNow {P : State → Prop} {α : Type} {f : State → Act α} (h : ∀ t, P t → Keeps P (f t)) :
    Keeps P (Bind.bind Machine.now f) := fun s log hp => h _ hp s log hp

theorem Keeps.modCtx {P : State → Prop} {k : Nat} {f : Context → Context} (h : ∀ t, P t → P (Effect.apply t (.ctx k (f (t.ctx k))))) :
    Keeps P (modCtx k f) := fun s log hp => by simpa using h _ hp
theorem Keeps.modWave {P : State → Prop} {k : Nat} {f : Wave → Wave} (h : ∀ t, P t → P (Effect.apply t (.wave k (f (t.wave k))))) :
    Keeps P (modWave k f) := fun s log hp => by simpa using h _ hp
theorem Keeps.modWg {P : State → Prop} {k : Nat} {f : Workgroup → Workgroup}
    (h : ∀ t, P t → P (Effect.apply t (.wg k (f (t.wg k))))) : Keeps P (modWg k f) :=
  fun s log hp => by simpa using h _ hp
theorem Keeps.modCluster {P : State → Prop} {k : Nat} {f : Cluster → Cluster}
    (h : ∀ t, P t → P (Effect.apply t (.cluster k (f (t.cluster k))))) : Keeps P (modCluster k f) :=
  fun s log hp => by simpa using h _ hp

/-! ### Which fields a program writes -/

/-- Every effect of the program writes fields of F only. -/
def Only (F : List Field) {α : Type} (a : Act α) : Prop :=
  ∀ s log, ∃ es : List Effect, (a s log).2 = es.reverse ++ log ∧ ∀ e ∈ es, ∀ f, e.writes f = true → f ∈ F

theorem Only.pure {F : List Field} {α : Type} (x : α) : Only F (pure x : Act α) :=
  fun _ _ => ⟨[], rfl, fun _ h => absurd h List.not_mem_nil⟩
theorem Only.now {F : List Field} : Only F now := fun _ _ => ⟨[], rfl, fun _ h => absurd h List.not_mem_nil⟩
theorem Only.emits {F : List Field} {es : List Effect} (h : ∀ e ∈ es, ∀ f, e.writes f = true → f ∈ F) : Only F (emits es) :=
  fun _ _ => ⟨es, rfl, h⟩
theorem Only.emit {F : List Field} {e : Effect} (h : ∀ f, e.writes f = true → f ∈ F) : Only F (emit e) :=
  fun _ _ => ⟨[e], rfl, fun x hx => by rw [List.mem_singleton.mp hx]; exact h⟩
theorem Only.bind {F : List Field} {α β : Type} {a : Act α} {f : α → Act β} (ha : Only F a) (hf : ∀ x, Only F (f x)) :
    Only F (a >>= f) := by
  intro s log
  obtain ⟨es, h1, h2⟩ := ha s log
  obtain ⟨fs, h3, h4⟩ := hf (a s log).1 s (a s log).2
  refine ⟨es ++ fs, by rw [run_bind, h3, h1]; simp, ?_⟩
  intro e he
  rcases List.mem_append.mp he with h | h
  · exact h2 e h
  · exact h4 e h
theorem Only.map {F : List Field} {α β : Type} {g : α → β} {a : Act α} (ha : Only F a) : Only F (g <$> a) := ha
theorem Only.ite {F : List Field} {α : Type} {c : Prop} [Decidable c] {a b : Act α} (ha : Only F a) (hb : Only F b) :
    Only F (if c then a else b) := by
  split <;> assumption
theorem Only.each {F : List Field} {α : Type} {l : List α} {f : α → Act Unit} (h : ∀ x, Only F (f x)) :
    Only F (each l f) := by
  induction l with
  | nil => exact Only.pure ()
  | cons x l ih => exact Only.bind (h x) fun _ => ih
theorem Only.mono {F G : List Field} {α : Type} {a : Act α} (h : Only F a) (hs : ∀ f ∈ F, f ∈ G) : Only G a := by
  intro s log
  obtain ⟨es, h1, h2⟩ := h s log
  exact ⟨es, h1, fun e he f hf => hs f (h2 e he f hf)⟩

/-- A field outside F is as it was: `g` reads it, and no effect that leaves the field alone changes what `g` reads. -/
theorem Only.reads {F : List Field} {α β : Type} {a : Act α} (h : Only F a) (g : State → β) {f : Field} (hf : f ∉ F)
    (hg : ∀ (e : Effect) (t : State), e.writes f = false → g (e.apply t) = g t) (s : State) (log : List Effect) :
    g (after s (a s log).2) = g (after s log) := by
  obtain ⟨es, h1, h2⟩ := h s log
  rw [h1, after_append]
  refine applyAll_keeps (P := fun t => g t = g (after s log)) (fun e he t ht => ?_) rfl
  rw [hg e t (by
    cases hw : e.writes f
    · rfl
    · exact absurd (h2 e he f hw) hf)]
  exact ht

theorem sameBut_refl (F : List Field) (s : State) : SameBut F s s := by simp [SameBut]
theorem sameBut_trans {F : List Field} {s t u : State} (h1 : SameBut F s t) (h2 : SameBut F t u) : SameBut F s u := by
  simp only [SameBut] at *
  (repeat' apply And.intro) <;> grind

theorem sameBut_apply {F : List Field} {e : Effect} (h : ∀ f, e.writes f = true → f ∈ F) (s : State) :
    SameBut F s (e.apply s) := by
  cases e <;> simp [SameBut, Effect.apply, Effect.writes] at h ⊢ <;> grind

/-- What a program leaves alone. -/
theorem Only.sameBut {F : List Field} {α : Type} {a : Act α} (h : Only F a) (s : State) (log : List Effect) :
    SameBut F (after s log) (after s (a s log).2) := by
  obtain ⟨es, h1, h2⟩ := h s log
  rw [h1, after_append]
  exact applyAll_keeps (P := fun t => SameBut F (after s log) t)
    (fun e he t ht => sameBut_trans ht (sameBut_apply (h2 e he) t)) (sameBut_refl F _)

end Sys2Proof.Machine
end

