-- ==== Sys2Proof/Laws/Frame.lean ====
section
/-! SUPPORT. What a frame says of each part of the state and of each reader of it. -/
namespace Sys2Proof.Machine

/-! ### The fields -/

theorem SameBut.agenda {F : List Field} {s t : State} (h : SameBut F s t) (hf : Field.agenda ∉ F) : t.agenda = s.agenda := by
  simp only [SameBut] at h; grind
theorem SameBut.curCtx {F : List Field} {s t : State} (h : SameBut F s t) (hf : Field.cur ∉ F) : t.curCtx = s.curCtx := by
  simp only [SameBut] at h; grind
theorem SameBut.curWave {F : List Field} {s t : State} (h : SameBut F s t) (hf : Field.cur ∉ F) : t.curWave = s.curWave := by
  simp only [SameBut] at h; grind
theorem SameBut.vis {F : List Field} {s t : State} (h : SameBut F s t) (hf : Field.mem ∉ F) : t.vis = s.vis := by
  simp only [SameBut] at h; grind
theorem SameBut.dev {F : List Field} {s t : State} (h : SameBut F s t) (hf : Field.dev ∉ F) : t.dev = s.dev := by
  simp only [SameBut] at h; grind
theorem SameBut.mem {F : List Field} {s t : State} (h : SameBut F s t) (hf : Field.mem ∉ F) : t.mem = s.mem := by
  simp only [SameBut] at h; grind
theorem SameBut.badDram {F : List Field} {s t : State} (h : SameBut F s t) (hf : Field.badDram ∉ F) : t.badDram = s.badDram := by
  simp only [SameBut] at h; grind
theorem SameBut.badSram {F : List Field} {s t : State} (h : SameBut F s t) (hf : Field.badSram ∉ F) : t.badSram = s.badSram := by
  simp only [SameBut] at h; grind
theorem SameBut.badRegs {F : List Field} {s t : State} (h : SameBut F s t) (hf : Field.badRegs ∉ F) : t.badRegs = s.badRegs := by
  simp only [SameBut] at h; grind
theorem SameBut.badAccs {F : List Field} {s t : State} (h : SameBut F s t) (hf : Field.badAccs ∉ F) : t.badAccs = s.badAccs := by
  simp only [SameBut] at h; grind
theorem SameBut.vregs {F : List Field} {s t : State} (h : SameBut F s t) (hf : Field.vregs ∉ F) : t.vregs = s.vregs := by
  simp only [SameBut] at h; grind
theorem SameBut.accs {F : List Field} {s t : State} (h : SameBut F s t) (hf : Field.accs ∉ F) : t.accs = s.accs := by
  simp only [SameBut] at h; grind
theorem SameBut.ctxs {F : List Field} {s t : State} (h : SameBut F s t) (hf : Field.ctxs ∉ F) : t.ctxs = s.ctxs := by
  simp only [SameBut] at h; grind
theorem SameBut.waves {F : List Field} {s t : State} (h : SameBut F s t) (hf : Field.waves ∉ F) : t.waves = s.waves := by
  simp only [SameBut] at h; grind
theorem SameBut.clusters {F : List Field} {s t : State} (h : SameBut F s t) (hf : Field.clusters ∉ F) : t.clusters = s.clusters := by
  simp only [SameBut] at h; grind
theorem SameBut.dies {F : List Field} {s t : State} (h : SameBut F s t) (hf : Field.dies ∉ F) : t.dies = s.dies := by
  simp only [SameBut] at h; grind
theorem SameBut.vaults {F : List Field} {s t : State} (h : SameBut F s t) (hf : Field.vaults ∉ F) : t.vaults = s.vaults := by
  simp only [SameBut] at h; grind
theorem SameBut.regs {F : List Field} {s t : State} (h : SameBut F s t) (hf : Field.regs ∉ F) : t.regs = s.regs := by
  simp only [SameBut] at h; grind
theorem SameBut.parts {F : List Field} {s t : State} (h : SameBut F s t) (hf : Field.parts ∉ F) : t.parts = s.parts := by
  simp only [SameBut] at h; grind
theorem SameBut.links {F : List Field} {s t : State} (h : SameBut F s t) (hf : Field.links ∉ F) : t.links = s.links := by
  simp only [SameBut] at h; grind
theorem SameBut.wgs {F : List Field} {s t : State} (h : SameBut F s t) (hf : Field.wgs ∉ F) : t.wgs = s.wgs := by
  simp only [SameBut] at h; grind
theorem SameBut.gangs {F : List Field} {s t : State} (h : SameBut F s t) (hf : Field.gangs ∉ F) : t.gangs = s.gangs := by
  simp only [SameBut] at h; grind
theorem SameBut.launches {F : List Field} {s t : State} (h : SameBut F s t) (hf : Field.launches ∉ F) : t.launches = s.launches := by
  simp only [SameBut] at h; grind
theorem SameBut.devs {F : List Field} {s t : State} (h : SameBut F s t) (hf : Field.devs ∉ F) : t.devs = s.devs := by
  simp only [SameBut] at h; grind

/-! ### The readers -/

theorem SameBut.ctx {F : List Field} {s t : State} (h : SameBut F s t) (hf : Field.ctxs ∉ F) : t.ctx = s.ctx := by
  funext k; simp only [State.ctx, h.ctxs hf]
theorem SameBut.wave {F : List Field} {s t : State} (h : SameBut F s t) (hf : Field.waves ∉ F) : t.wave = s.wave := by
  funext k; simp only [State.wave, h.waves hf]
theorem SameBut.cluster {F : List Field} {s t : State} (h : SameBut F s t) (hf : Field.clusters ∉ F) : t.cluster = s.cluster := by
  funext k; simp only [State.cluster, h.clusters hf]
theorem SameBut.die {F : List Field} {s t : State} (h : SameBut F s t) (hf : Field.dies ∉ F) : t.die = s.die := by
  funext k; simp only [State.die, h.dies hf]
theorem SameBut.vault {F : List Field} {s t : State} (h : SameBut F s t) (hf : Field.vaults ∉ F) : t.vault = s.vault := by
  funext k; simp only [State.vault, h.vaults hf]
theorem SameBut.reg {F : List Field} {s t : State} (h : SameBut F s t) (hf : Field.regs ∉ F) : t.reg = s.reg := by
  funext k; simp only [State.reg, h.regs hf]
theorem SameBut.part {F : List Field} {s t : State} (h : SameBut F s t) (hf : Field.parts ∉ F) : t.part = s.part := by
  funext k; simp only [State.part, h.parts hf]
theorem SameBut.link {F : List Field} {s t : State} (h : SameBut F s t) (hf : Field.links ∉ F) : t.link = s.link := by
  funext k; simp only [State.link, h.links hf]
theorem SameBut.wg {F : List Field} {s t : State} (h : SameBut F s t) (hf : Field.wgs ∉ F) : t.wg = s.wg := by
  funext k; simp only [State.wg, h.wgs hf]
theorem SameBut.gang {F : List Field} {s t : State} (h : SameBut F s t) (hf : Field.gangs ∉ F) : t.gang = s.gang := by
  funext k; simp only [State.gang, h.gangs hf]
theorem SameBut.launch {F : List Field} {s t : State} (h : SameBut F s t) (hf : Field.launches ∉ F) : t.launch = s.launch := by
  funext k; simp only [State.launch, h.launches hf]
theorem SameBut.devAt {F : List Field} {s t : State} (h : SameBut F s t) (hf : Field.devs ∉ F) : t.devAt = s.devAt := by
  funext k; simp only [State.devAt, h.devs hf]
theorem SameBut.devIx {F : List Field} {s t : State} (h : SameBut F s t) (hf : Field.devs ∉ F) : t.devIx = s.devIx := by
  funext k; simp only [State.devIx, h.devs hf]
theorem SameBut.dctx {F : List Field} {s t : State} (h : SameBut F s t) (hf : Field.devs ∉ F) : t.dctx = s.dctx := by
  funext k; simp only [State.dctx, h.devIx hf, h.devAt hf]
theorem SameBut.byte {F : List Field} {s t : State} (h : SameBut F s t) (hf : Field.mem ∉ F) : t.byte = s.byte := by
  funext k; simp only [State.byte, h.mem hf]
theorem SameBut.readLocs {F : List Field} {s t : State} (h : SameBut F s t) (hf : Field.mem ∉ F) : t.readLocs = s.readLocs := by
  funext k; simp only [State.readLocs, h.byte hf]
theorem SameBut.readN {F : List Field} {s t : State} (h : SameBut F s t) (hf : Field.mem ∉ F) : t.readN = s.readN := by
  funext k n; simp only [State.readN, h.readLocs hf]

/-- A larger frame. -/
theorem SameBut.mono {F G : List Field} {s t : State} (h : SameBut F s t) (hs : ∀ f ∈ F, f ∈ G) : SameBut G s t := by
  simp only [SameBut] at *
  (repeat' apply And.intro) <;> grind

end Sys2Proof.Machine
end

