-- ==== Sys2Proof/Laws/Invariant.lean ====
section
/-! SUPPORT. Every effect keeps the invariant of the machine's data, so every meaning that commits effects keeps it. -/
namespace Sys2Proof.Machine

theorem sized_apply (e : Effect) {s : State} (h : s.sized) : (e.apply s).sized := by
  cases e <;> simpa [State.sized, Effect.apply] using h

theorem canonical_apply (e : Effect) {s : State} (h : s.canonical) : (e.apply s).canonical := by
  obtain ⟨h1, h2, h3⟩ := h
  cases e
  case mem l b => exact ⟨sparseWf_set h1 (Nat.zero_le _) b, h2, h3⟩
  case vreg k v => exact ⟨h1, sparseWf_set h2 (Nat.zero_le _) v, h3⟩
  case acc k v => exact ⟨h1, h2, sparseWf_set h3 (Nat.zero_le _) v⟩
  case clearVregs lo hi => exact ⟨h1, sparseWf_clear h2, h3⟩
  case clearAccs lo hi => exact ⟨h1, h2, sparseWf_clear h3⟩
  case clearSparse => exact ⟨h1, rfl, rfl⟩
  all_goals exact ⟨h1, h2, h3⟩

theorem inv_apply (e : Effect) {s : State} (h : s.Inv) : (e.apply s).Inv :=
  ⟨sized_apply e h.1, canonical_apply e h.2⟩

theorem inv_applyAll (es : List Effect) {s : State} (h : s.Inv) : (applyAll s es).Inv :=
  applyAll_keeps (P := State.Inv) (fun e _ _ ht => inv_apply e ht) h

/-- A meaning that commits effects keeps the invariant. -/
theorem inv_commit {a : Act Unit} {s t : State} (h : s.Inv) (hc : commit a s = .next t) : t.Inv := by
  simp only [commit, Host.Outcome.next.injEq] at hc
  exact hc ▸ inv_applyAll _ h

theorem inv_event {name : String} {ok : State → Bool} {a : Act Unit} {s t : State} (h : s.Inv)
    (hc : event name ok a s = .next t) : t.Inv := by
  unfold event at hc
  split at hc
  · exact inv_commit h hc
  · exact absurd hc (by simp)

/-- A write of memory is read back, and every other byte reads as before. -/
theorem byte_apply_mem {s : State} (h : s.canonical) (l a : Nat) (b : Byte) :
    (Effect.apply s (.mem l b)).byte a = if a = l then b else s.byte a :=
  sparseGet_set h.1 l a b

end Sys2Proof.Machine
end

