-- ==== Sys2Proof/Laws/Ops.lean ====
section
/-! SUPPORT. What each shared operation may write. A program over them leaves every other part of the state alone
(`Only.sameBut`). -/
namespace Sys2Proof.Machine

/-! ### One entry -/

theorem Only.setCtx {F : List Field} (h : Field.ctxs ∈ F) (k : Nat) (c : Context) : Only F (Machine.setCtx k c) :=
  Only.emit fun f hf => by simp at hf; exact hf ▸ h
theorem Only.setWave {F : List Field} (h : Field.waves ∈ F) (k : Nat) (w : Wave) : Only F (Machine.setWave k w) :=
  Only.emit fun f hf => by simp at hf; exact hf ▸ h
theorem Only.setWg {F : List Field} (h : Field.wgs ∈ F) (k : Nat) (w : Workgroup) : Only F (Machine.setWg k w) :=
  Only.emit fun f hf => by simp at hf; exact hf ▸ h
theorem Only.setGang {F : List Field} (h : Field.gangs ∈ F) (k : Nat) (g : Gang) : Only F (Machine.setGang k g) :=
  Only.emit fun f hf => by simp at hf; exact hf ▸ h
theorem Only.setCluster {F : List Field} (h : Field.clusters ∈ F) (k : Nat) (c : Cluster) : Only F (Machine.setCluster k c) :=
  Only.emit fun f hf => by simp at hf; exact hf ▸ h
theorem Only.setDie {F : List Field} (h : Field.dies ∈ F) (k : Nat) (d : Die) : Only F (Machine.setDie k d) :=
  Only.emit fun f hf => by simp at hf; exact hf ▸ h
theorem Only.setDev {F : List Field} (h : Field.dev ∈ F) (d : Device) : Only F (Machine.setDev d) :=
  Only.emit fun f hf => by simp at hf; exact hf ▸ h
theorem Only.modCtx {F : List Field} (h : Field.ctxs ∈ F) (k : Nat) (g : Context → Context) : Only F (Machine.modCtx k g) :=
  Only.bind Only.now fun _ => Only.emit fun f hf => by simp at hf; exact hf ▸ h
theorem Only.modWave {F : List Field} (h : Field.waves ∈ F) (k : Nat) (g : Wave → Wave) : Only F (Machine.modWave k g) :=
  Only.bind Only.now fun _ => Only.emit fun f hf => by simp at hf; exact hf ▸ h
theorem Only.modWg {F : List Field} (h : Field.wgs ∈ F) (k : Nat) (g : Workgroup → Workgroup) : Only F (Machine.modWg k g) :=
  Only.bind Only.now fun _ => Only.emit fun f hf => by simp at hf; exact hf ▸ h
theorem Only.modGang {F : List Field} (h : Field.gangs ∈ F) (k : Nat) (g : Gang → Gang) : Only F (Machine.modGang k g) :=
  Only.bind Only.now fun _ => Only.emit fun f hf => by simp at hf; exact hf ▸ h
theorem Only.modLaunch {F : List Field} (h : Field.launches ∈ F) (k : Nat) (g : Launch → Launch) : Only F (Machine.modLaunch k g) :=
  Only.bind Only.now fun _ => Only.emit fun f hf => by simp at hf; exact hf ▸ h
theorem Only.modCluster {F : List Field} (h : Field.clusters ∈ F) (k : Nat) (g : Cluster → Cluster) : Only F (Machine.modCluster k g) :=
  Only.bind Only.now fun _ => Only.emit fun f hf => by simp at hf; exact hf ▸ h
theorem Only.modDie {F : List Field} (h : Field.dies ∈ F) (k : Nat) (g : Die → Die) : Only F (Machine.modDie k g) :=
  Only.bind Only.now fun _ => Only.emit fun f hf => by simp at hf; exact hf ▸ h
theorem Only.modVault {F : List Field} (h : Field.vaults ∈ F) (k : Nat) (g : Vault → Vault) : Only F (Machine.modVault k g) :=
  Only.bind Only.now fun _ => Only.emit fun f hf => by simp at hf; exact hf ▸ h
theorem Only.modReg {F : List Field} (h : Field.regs ∈ F) (k : Nat) (g : Regulator → Regulator) : Only F (Machine.modReg k g) :=
  Only.bind Only.now fun _ => Only.emit fun f hf => by simp at hf; exact hf ▸ h
theorem Only.modPart {F : List Field} (h : Field.parts ∈ F) (k : Nat) (g : Partition → Partition) : Only F (Machine.modPart k g) :=
  Only.bind Only.now fun _ => Only.emit fun f hf => by simp at hf; exact hf ▸ h
theorem Only.modLink {F : List Field} (h : Field.links ∈ F) (k : Nat) (g : Link → Link) : Only F (Machine.modLink k g) :=
  Only.bind Only.now fun _ => Only.emit fun f hf => by simp at hf; exact hf ▸ h
theorem Only.modDevice {F : List Field} (h : Field.dev ∈ F) (g : Device → Device) : Only F (Machine.modDevice g) :=
  Only.bind Only.now fun _ => Only.emit fun f hf => by simp at hf; exact hf ▸ h
theorem Only.freshIx {F : List Field} (h : Field.dev ∈ F) : Only F Machine.freshIx :=
  Only.bind Only.now fun _ => Only.bind (Only.setDev h _) fun _ => Only.pure _
theorem Only.modDctx {F : List Field} (h : Field.devs ∈ F) (id : Nat) (g : DevCtx → DevCtx) : Only F (Machine.modDctx id g) := by
  refine Only.bind Only.now fun s => ?_
  split
  · exact Only.emit fun f hf => by simp at hf; exact hf ▸ h
  · exact Only.pure _

theorem Only.setVis {F : List Field} (h : Field.mem ∈ F) (v : Visibility) : Only F (Machine.setVis v) :=
  Only.emit fun f hf => by simp at hf; exact hf ▸ h
theorem Only.modVis {F : List Field} (h : Field.mem ∈ F) (g : Visibility → Visibility) : Only F (Machine.modVis g) :=
  Only.bind Only.now fun _ => Only.setVis h _

/-! ### Shared operations -/

theorem Only.stallCur {F : List Field} (h0 : Field.ctxs ∈ F) (why : StallReason) : Only F (Machine.stallCur why) := by
  unfold Machine.stallCur
  try dsimp only
  repeat' (first
    | with_reducible exact Only.pure _
    | with_reducible exact Only.now
    | (with_reducible apply Only.setCtx <;> assumption)
    | with_reducible refine Only.bind ?_ fun _ => ?_
    | with_reducible refine Only.each fun _ => ?_
    | with_reducible refine Only.map ?_
    | split)

theorem Only.finish {F : List Field} (h0 : Field.ctxs ∈ F) (d : Reg) (v : Word) (bytes : Nat) : Only F (Machine.finish d v bytes) := by
  unfold Machine.finish
  try dsimp only
  repeat' (first
    | with_reducible exact Only.pure _
    | with_reducible exact Only.now
    | (with_reducible apply Only.setCtx <;> assumption)
    | with_reducible refine Only.bind ?_ fun _ => ?_
    | with_reducible refine Only.each fun _ => ?_
    | with_reducible refine Only.map ?_
    | split)

theorem Only.finishNone {F : List Field} (h0 : Field.ctxs ∈ F) (bytes : Nat) : Only F (Machine.finishNone bytes) := by
  unfold Machine.finishNone
  try dsimp only
  repeat' (first
    | with_reducible exact Only.pure _
    | with_reducible exact Only.now
    | (with_reducible apply Only.setCtx <;> assumption)
    | with_reducible refine Only.bind ?_ fun _ => ?_
    | with_reducible refine Only.each fun _ => ?_
    | with_reducible refine Only.map ?_
    | split)

theorem Only.postEvent {F : List Field} (h0 : Field.parts ∈ F) (part : Nat) (e : EventRec) : Only F (Machine.postEvent part e) := by
  unfold Machine.postEvent
  try dsimp only
  repeat' (first
    | with_reducible exact Only.pure _
    | with_reducible exact Only.now
    | (with_reducible apply Only.modPart <;> assumption)
    | with_reducible refine Only.bind ?_ fun _ => ?_
    | with_reducible refine Only.each fun _ => ?_
    | with_reducible refine Only.map ?_
    | split)

theorem Only.raiseEvent {F : List Field} (h0 : Field.parts ∈ F) (part kind ctxid cls num : Nat) (d0 d1 : Word) : Only F (Machine.raiseEvent part kind ctxid cls num d0 d1) := by
  unfold Machine.raiseEvent
  try dsimp only
  repeat' (first
    | with_reducible exact Only.pure _
    | with_reducible exact Only.now
    | (with_reducible apply Only.postEvent <;> assumption)
    | with_reducible refine Only.bind ?_ fun _ => ?_
    | with_reducible refine Only.each fun _ => ?_
    | with_reducible refine Only.map ?_
    | split)

theorem Only.preemptOne {F : List Field} (h0 : Field.wgs ∈ F) (h1 : Field.gangs ∈ F) (g : Nat) (t : Trigger) : Only F (Machine.preemptOne g t) := by
  unfold Machine.preemptOne
  try dsimp only
  repeat' (first
    | with_reducible exact Only.pure _
    | with_reducible exact Only.now
    | (with_reducible apply Only.setGang <;> assumption)
    | (with_reducible apply Only.modWg <;> assumption)
    | with_reducible refine Only.bind ?_ fun _ => ?_
    | with_reducible refine Only.each fun _ => ?_
    | with_reducible refine Only.map ?_
    | split)

theorem Only.preempt {F : List Field} (h0 : Field.wgs ∈ F) (h1 : Field.gangs ∈ F) (g : Nat) (t : Trigger) : Only F (Machine.preempt g t) := by
  unfold Machine.preempt
  try dsimp only
  repeat' (first
    | with_reducible exact Only.pure _
    | with_reducible exact Only.now
    | (with_reducible apply Only.preemptOne <;> assumption)
    | with_reducible refine Only.bind ?_ fun _ => ?_
    | with_reducible refine Only.each fun _ => ?_
    | with_reducible refine Only.map ?_
    | split)

theorem Only.haltEvent {F : List Field} (h0 : Field.parts ∈ F) (h1 : Field.wgs ∈ F) (h2 : Field.gangs ∈ F) (k : Nat) : Only F (Machine.haltEvent k) := by
  unfold Machine.haltEvent
  try dsimp only
  repeat' (first
    | with_reducible exact Only.pure _
    | with_reducible exact Only.now
    | (with_reducible apply Only.raiseEvent <;> assumption)
    | (with_reducible apply Only.preempt <;> assumption)
    | with_reducible refine Only.bind ?_ fun _ => ?_
    | with_reducible refine Only.each fun _ => ?_
    | with_reducible refine Only.map ?_
    | split)

theorem Only.takeTrap {F : List Field} (h0 : Field.ctxs ∈ F) (h1 : Field.waves ∈ F) (h2 : Field.parts ∈ F) (h3 : Field.wgs ∈ F) (h4 : Field.gangs ∈ F) (k : Nat) (pc epc : Word) (boundary : Bool) (r : TrapRecord) : Only F (Machine.takeTrap k pc epc boundary r) := by
  unfold Machine.takeTrap
  try dsimp only
  repeat' (first
    | with_reducible exact Only.pure _
    | with_reducible exact Only.now
    | (with_reducible apply Only.setCtx <;> assumption)
    | (with_reducible apply Only.modWave <;> assumption)
    | (with_reducible apply Only.haltEvent <;> assumption)
    | with_reducible refine Only.bind ?_ fun _ => ?_
    | with_reducible refine Only.each fun _ => ?_
    | with_reducible refine Only.map ?_
    | split)

theorem Only.trapNow {F : List Field} (h0 : Field.ctxs ∈ F) (h1 : Field.waves ∈ F) (h2 : Field.parts ∈ F) (h3 : Field.wgs ∈ F) (h4 : Field.gangs ∈ F) (r : TrapRecord) : Only F (Machine.trapNow r) := by
  unfold Machine.trapNow
  try dsimp only
  repeat' (first
    | with_reducible exact Only.pure _
    | with_reducible exact Only.now
    | (with_reducible apply Only.takeTrap <;> assumption)
    | with_reducible refine Only.bind ?_ fun _ => ?_
    | with_reducible refine Only.each fun _ => ?_
    | with_reducible refine Only.map ?_
    | split)

theorem Only.illegal {F : List Field} (h0 : Field.ctxs ∈ F) (h1 : Field.waves ∈ F) (h2 : Field.parts ∈ F) (h3 : Field.wgs ∈ F) (h4 : Field.gangs ∈ F) (i : Instr) : Only F (Machine.illegal i) := by
  unfold Machine.illegal
  try dsimp only
  repeat' (first
    | with_reducible exact Only.pure _
    | with_reducible exact Only.now
    | (with_reducible apply Only.trapNow <;> assumption)
    | with_reducible refine Only.bind ?_ fun _ => ?_
    | with_reducible refine Only.each fun _ => ?_
    | with_reducible refine Only.map ?_
    | split)

theorem Only.haltEnded {F : List Field} (h0 : Field.ctxs ∈ F) (h1 : Field.parts ∈ F) (h2 : Field.wgs ∈ F) (h3 : Field.gangs ∈ F) (k : Nat) (r : TrapRecord) : Only F (Machine.haltEnded k r) := by
  unfold Machine.haltEnded
  try dsimp only
  repeat' (first
    | with_reducible exact Only.pure _
    | with_reducible exact Only.now
    | (with_reducible apply Only.setCtx <;> assumption)
    | (with_reducible apply Only.haltEvent <;> assumption)
    | with_reducible refine Only.bind ?_ fun _ => ?_
    | with_reducible refine Only.each fun _ => ?_
    | with_reducible refine Only.map ?_
    | split)

theorem Only.oweTrap {F : List Field} (h0 : Field.ctxs ∈ F) (h1 : Field.waves ∈ F) (h2 : Field.parts ∈ F) (h3 : Field.wgs ∈ F) (h4 : Field.gangs ∈ F) (k : Nat) (wave : Option Nat) (r : TrapRecord) : Only F (Machine.oweTrap k wave r) := by
  unfold Machine.oweTrap
  try dsimp only
  repeat' (first
    | with_reducible exact Only.pure _
    | with_reducible exact Only.now
    | (with_reducible apply Only.setCtx <;> assumption)
    | (with_reducible apply Only.modWave <;> assumption)
    | (with_reducible apply Only.haltEnded <;> assumption)
    | with_reducible refine Only.bind ?_ fun _ => ?_
    | with_reducible refine Only.each fun _ => ?_
    | with_reducible refine Only.map ?_
    | split)

theorem Only.clearPoison {F : List Field} (h0 : Field.badDram ∈ F) (h1 : Field.badSram ∈ F) (locs : List Nat) : Only F (Machine.clearPoison locs) := by
  unfold Machine.clearPoison
  try dsimp only
  repeat' (first
    | with_reducible exact Only.pure _
    | with_reducible exact Only.now
    | (with_reducible refine Only.emit fun f hf => ?_; simp at hf; subst hf; assumption)
    | (with_reducible refine Only.emits fun e he f hf => ?_; simp at he; grind [Effect.writes])
    | with_reducible refine Only.bind ?_ fun _ => ?_
    | with_reducible refine Only.each fun _ => ?_
    | with_reducible refine Only.map ?_
    | split)

theorem Only.writeLocs {F : List Field} (h0 : Field.mem ∈ F) (h1 : Field.badDram ∈ F) (h2 : Field.badSram ∈ F) (locs : List Nat) (bytes : List Byte) : Only F (Machine.writeLocs locs bytes) := by
  unfold Machine.writeLocs
  try dsimp only
  repeat' (first
    | with_reducible exact Only.pure _
    | with_reducible exact Only.now
    | (with_reducible apply Only.clearPoison <;> assumption)
    | (with_reducible refine Only.emit fun f hf => ?_; simp at hf; subst hf; assumption)
    | (with_reducible refine Only.emits fun e he f hf => ?_; simp at he; grind [Effect.writes])
    | with_reducible refine Only.bind ?_ fun _ => ?_
    | with_reducible refine Only.each fun _ => ?_
    | with_reducible refine Only.map ?_
    | split)

theorem Only.writeValue {F : List Field} (h0 : Field.mem ∈ F) (h1 : Field.badDram ∈ F) (h2 : Field.badSram ∈ F) (locs : List Nat) (v : Nat) : Only F (Machine.writeValue locs v) := by
  unfold Machine.writeValue
  try dsimp only
  repeat' (first
    | with_reducible exact Only.pure _
    | with_reducible exact Only.now
    | (with_reducible apply Only.writeLocs <;> assumption)
    | with_reducible refine Only.bind ?_ fun _ => ?_
    | with_reducible refine Only.each fun _ => ?_
    | with_reducible refine Only.map ?_
    | split)

theorem Only.tallySpad {F : List Field} (h0 : Field.clusters ∈ F) (locs : List Nat) : Only F (Machine.tallySpad locs) := by
  unfold Machine.tallySpad
  try dsimp only
  repeat' (first
    | with_reducible exact Only.pure _
    | with_reducible exact Only.now
    | (with_reducible apply Only.modCluster <;> assumption)
    | with_reducible refine Only.bind ?_ fun _ => ?_
    | with_reducible refine Only.each fun _ => ?_
    | with_reducible refine Only.map ?_
    | split)

theorem Only.poisonLocs {F : List Field} (h0 : Field.badDram ∈ F) (h1 : Field.badSram ∈ F) (locs : List Nat) : Only F (Machine.poisonLocs locs) := by
  unfold Machine.poisonLocs
  try dsimp only
  repeat' (first
    | with_reducible exact Only.pure _
    | with_reducible exact Only.now
    | (with_reducible refine Only.emit fun f hf => ?_; simp at hf; subst hf; assumption)
    | (with_reducible refine Only.emits fun e he f hf => ?_; simp at he; grind [Effect.writes])
    | with_reducible refine Only.bind ?_ fun _ => ?_
    | with_reducible refine Only.each fun _ => ?_
    | with_reducible refine Only.map ?_
    | split)

theorem Only.installTlb {F : List Field} (h0 : Field.clusters ∈ F) (h1 : Field.dies ∈ F) (cluster : Nat) (t : TlbEntry) (l1 : Bool) : Only F (Machine.installTlb cluster t l1) := by
  unfold Machine.installTlb
  try dsimp only
  repeat' (first
    | with_reducible exact Only.pure _
    | with_reducible exact Only.now
    | (with_reducible apply Only.modCluster <;> assumption)
    | (with_reducible apply Only.modDie <;> assumption)
    | with_reducible refine Only.bind ?_ fun _ => ?_
    | with_reducible refine Only.each fun _ => ?_
    | with_reducible refine Only.map ?_
    | split)

theorem Only.askHost {F : List Field} (h0 : Field.dev ∈ F) (ctxid : Nat) : Only F (Machine.askHost ctxid) := by
  unfold Machine.askHost
  try dsimp only
  repeat' (first
    | with_reducible exact Only.pure _
    | with_reducible exact Only.now
    | (with_reducible apply Only.modDevice <;> assumption)
    | with_reducible refine Only.bind ?_ fun _ => ?_
    | with_reducible refine Only.each fun _ => ?_
    | with_reducible refine Only.map ?_
    | split)

theorem Only.sendFar {F : List Field} (h0 : Field.links ∈ F) (p o : Nat) : Only F (Machine.sendFar p o) := by
  unfold Machine.sendFar
  try dsimp only
  repeat' (first
    | with_reducible exact Only.pure _
    | with_reducible exact Only.now
    | (with_reducible apply Only.modLink <;> assumption)
    | with_reducible refine Only.bind ?_ fun _ => ?_
    | with_reducible refine Only.each fun _ => ?_
    | with_reducible refine Only.map ?_
    | split)

theorem Only.useXlated {F : List Field} (h0 : Field.dev ∈ F) (h1 : Field.mem ∈ F) (h2 : Field.badDram ∈ F) (h3 : Field.badSram ∈ F) (h4 : Field.clusters ∈ F) (h5 : Field.dies ∈ F) (h6 : Field.links ∈ F) (cluster : Nat) (x : Xlated) (write prefetch : Bool) (l1 : Bool := true) : Only F (Machine.useXlated cluster x write prefetch l1) := by
  unfold Machine.useXlated
  try dsimp only
  repeat' (first
    | with_reducible exact Only.pure _
    | with_reducible exact Only.now
    | (with_reducible apply Only.writeValue <;> assumption)
    | (with_reducible apply Only.installTlb <;> assumption)
    | (with_reducible apply Only.askHost <;> assumption)
    | (with_reducible apply Only.sendFar <;> assumption)
    | with_reducible refine Only.bind ?_ fun _ => ?_
    | with_reducible refine Only.each fun _ => ?_
    | with_reducible refine Only.map ?_
    | split)

theorem Only.touchL2 {F : List Field} (h0 : Field.dies ∈ F) (loc : Nat) (h : Hint) : Only F (Machine.touchL2 loc h) := by
  unfold Machine.touchL2
  try dsimp only
  repeat' (first
    | with_reducible exact Only.pure _
    | with_reducible exact Only.now
    | (with_reducible apply Only.modDie <;> assumption)
    | with_reducible refine Only.bind ?_ fun _ => ?_
    | with_reducible refine Only.each fun _ => ?_
    | with_reducible refine Only.map ?_
    | split)

theorem Only.readBy {F : List Field} (h0 : Field.mem ∈ F) (h1 : Field.clusters ∈ F) (a : Actor) (units : List (List Nat)) : Only F (Machine.readBy a units) := by
  unfold Machine.readBy
  try dsimp only
  repeat' (first
    | with_reducible exact Only.pure _
    | with_reducible exact Only.now
    | (with_reducible apply Only.setVis <;> assumption)
    | (with_reducible apply Only.tallySpad <;> assumption)
    | with_reducible refine Only.bind ?_ fun _ => ?_
    | with_reducible refine Only.each fun _ => ?_
    | with_reducible refine Only.map ?_
    | split)

theorem Only.keepWrite {F : List Field} (h0 : Field.mem ∈ F) (h1 : Field.badDram ∈ F) (h2 : Field.badSram ∈ F) (locs : List Nat) (r : List (Nat × Byte) × Visibility) : Only F (Machine.keepWrite locs r) := by
  unfold Machine.keepWrite
  try dsimp only
  repeat' (first
    | with_reducible exact Only.pure _
    | with_reducible exact Only.now
    | (with_reducible apply Only.setVis <;> assumption)
    | (with_reducible apply Only.clearPoison <;> assumption)
    | (with_reducible refine Only.emit fun f hf => ?_; simp at hf; subst hf; assumption)
    | (with_reducible refine Only.emits fun e he f hf => ?_; simp at he; grind [Effect.writes])
    | with_reducible refine Only.bind ?_ fun _ => ?_
    | with_reducible refine Only.each fun _ => ?_
    | with_reducible refine Only.map ?_
    | split)

theorem Only.settleWrite {F : List Field} (h0 : Field.mem ∈ F) (h1 : Field.badDram ∈ F) (h2 : Field.badSram ∈ F) (h3 : Field.clusters ∈ F) (locs : List Nat) (r : List (Nat × Byte) × Visibility) : Only F (Machine.settleWrite locs r) := by
  unfold Machine.settleWrite
  try dsimp only
  repeat' (first
    | with_reducible exact Only.pure _
    | with_reducible exact Only.now
    | (with_reducible apply Only.tallySpad <;> assumption)
    | (with_reducible apply Only.keepWrite <;> assumption)
    | with_reducible refine Only.bind ?_ fun _ => ?_
    | with_reducible refine Only.each fun _ => ?_
    | with_reducible refine Only.map ?_
    | split)

theorem Only.writeBy {F : List Field} (h0 : Field.mem ∈ F) (h1 : Field.badDram ∈ F) (h2 : Field.badSram ∈ F) (h3 : Field.clusters ∈ F) (a : Actor) (units : List (List (Nat × Byte))) : Only F (Machine.writeBy a units) := by
  unfold Machine.writeBy
  try dsimp only
  repeat' (first
    | with_reducible exact Only.pure _
    | with_reducible exact Only.now
    | (with_reducible apply Only.settleWrite <;> assumption)
    | with_reducible refine Only.bind ?_ fun _ => ?_
    | with_reducible refine Only.each fun _ => ?_
    | with_reducible refine Only.map ?_
    | split)

theorem Only.writeUnder {F : List Field} (h0 : Field.mem ∈ F) (h1 : Field.badDram ∈ F) (h2 : Field.badSram ∈ F) (h3 : Field.clusters ∈ F) (a : Actor) (o : WriteOrder) (above : List MemWrite) (cells : List (Nat × Byte)) : Only F (Machine.writeUnder a o above cells) := by
  unfold Machine.writeUnder
  try dsimp only
  repeat' (first
    | with_reducible exact Only.pure _
    | with_reducible exact Only.now
    | (with_reducible apply Only.settleWrite <;> assumption)
    | with_reducible refine Only.bind ?_ fun _ => ?_
    | with_reducible refine Only.each fun _ => ?_
    | with_reducible refine Only.map ?_
    | split)

theorem Only.writeNewest {F : List Field} (h0 : Field.mem ∈ F) (h1 : Field.badDram ∈ F) (h2 : Field.badSram ∈ F) (h3 : Field.clusters ∈ F) (x : MemAgent) (locs : List Nat) (bytes : List Byte) : Only F (Machine.writeNewest x locs bytes) := by
  unfold Machine.writeNewest
  try dsimp only
  repeat' (first
    | with_reducible exact Only.pure _
    | with_reducible exact Only.now
    | (with_reducible apply Only.settleWrite <;> assumption)
    | with_reducible refine Only.bind ?_ fun _ => ?_
    | with_reducible refine Only.each fun _ => ?_
    | with_reducible refine Only.map ?_
    | split)

theorem Only.acquireBy {F : List Field} (h0 : Field.mem ∈ F) (a : Actor) (c : Scope) (rs : List Release) : Only F (Machine.acquireBy a c rs) := by
  unfold Machine.acquireBy
  try dsimp only
  repeat' (first
    | with_reducible exact Only.pure _
    | with_reducible exact Only.now
    | (with_reducible apply Only.setVis <;> assumption)
    | with_reducible refine Only.bind ?_ fun _ => ?_
    | with_reducible refine Only.each fun _ => ?_
    | with_reducible refine Only.map ?_
    | split)

theorem Only.startIcFill {F : List Field} (h0 : Field.clusters ∈ F) (cluster ctxid line pa : Nat) (hint : Hint) (waiter : Option Nat) : Only F (Machine.startIcFill cluster ctxid line pa hint waiter) := by
  unfold Machine.startIcFill
  try dsimp only
  repeat' (first
    | with_reducible exact Only.pure _
    | with_reducible exact Only.now
    | (with_reducible apply Only.modCluster <;> assumption)
    | with_reducible refine Only.bind ?_ fun _ => ?_
    | with_reducible refine Only.each fun _ => ?_
    | with_reducible refine Only.map ?_
    | split)

theorem Only.startDcFill {F : List Field} (h0 : Field.clusters ∈ F) (cluster ctxid line pa : Nat) (hint : Hint) (waiter : Option Nat) : Only F (Machine.startDcFill cluster ctxid line pa hint waiter) := by
  unfold Machine.startDcFill
  try dsimp only
  repeat' (first
    | with_reducible exact Only.pure _
    | with_reducible exact Only.now
    | (with_reducible apply Only.modCluster <;> assumption)
    | with_reducible refine Only.bind ?_ fun _ => ?_
    | with_reducible refine Only.each fun _ => ?_
    | with_reducible refine Only.map ?_
    | split)

theorem Only.settleAccess {F : List Field} (h0 : Field.dev ∈ F) (h1 : Field.mem ∈ F) (h2 : Field.badDram ∈ F) (h3 : Field.badSram ∈ F) (h4 : Field.ctxs ∈ F) (h5 : Field.clusters ∈ F) (h6 : Field.dies ∈ F) (h7 : Field.links ∈ F) (k : Nat) (x : Option Xlated) (write : Bool) : Only F (Machine.settleAccess k x write) := by
  unfold Machine.settleAccess
  try dsimp only
  repeat' (first
    | with_reducible exact Only.pure _
    | with_reducible exact Only.now
    | (with_reducible apply Only.setCtx <;> assumption)
    | (with_reducible apply Only.useXlated <;> assumption)
    | with_reducible refine Only.bind ?_ fun _ => ?_
    | with_reducible refine Only.each fun _ => ?_
    | with_reducible refine Only.map ?_
    | split)

theorem Only.returnLoad {F : List Field} (h0 : Field.mem ∈ F) (h1 : Field.ctxs ∈ F) (h2 : Field.clusters ∈ F) (k : Nat) (l : ScalarLoad) : Only F (Machine.returnLoad k l) := by
  unfold Machine.returnLoad
  try dsimp only
  repeat' (first
    | with_reducible exact Only.pure _
    | with_reducible exact Only.now
    | (with_reducible apply Only.modCtx <;> assumption)
    | (with_reducible apply Only.readBy <;> assumption)
    | with_reducible refine Only.bind ?_ fun _ => ?_
    | with_reducible refine Only.each fun _ => ?_
    | with_reducible refine Only.map ?_
    | split)

theorem Only.prefetchFill {F : List Field} (h0 : Field.clusters ∈ F) (h1 : Field.dies ∈ F) (cluster ctxid va : Nat) (kind : MissKind) (x : Xlated) : Only F (Machine.prefetchFill cluster ctxid va kind x) := by
  unfold Machine.prefetchFill
  try dsimp only
  repeat' (first
    | with_reducible exact Only.pure _
    | with_reducible exact Only.now
    | (with_reducible apply Only.touchL2 <;> assumption)
    | (with_reducible apply Only.startIcFill <;> assumption)
    | (with_reducible apply Only.startDcFill <;> assumption)
    | with_reducible refine Only.bind ?_ fun _ => ?_
    | with_reducible refine Only.each fun _ => ?_
    | with_reducible refine Only.map ?_
    | split)

theorem Only.startPrefetch {F : List Field} (h0 : Field.clusters ∈ F) (h1 : Field.dies ∈ F) (cluster ctxid va : Nat) (user : Bool) (kind : MissKind) : Only F (Machine.startPrefetch cluster ctxid va user kind) := by
  unfold Machine.startPrefetch
  try dsimp only
  repeat' (first
    | with_reducible exact Only.pure _
    | with_reducible exact Only.now
    | (with_reducible apply Only.modDie <;> assumption)
    | (with_reducible apply Only.installTlb <;> assumption)
    | (with_reducible apply Only.prefetchFill <;> assumption)
    | with_reducible refine Only.bind ?_ fun _ => ?_
    | with_reducible refine Only.each fun _ => ?_
    | with_reducible refine Only.map ?_
    | split)

theorem Only.serveMiss {F : List Field} (h0 : Field.clusters ∈ F) (h1 : Field.dies ∈ F) (m : Miss) (r : Except XFail Xlated) : Only F (Machine.serveMiss m r) := by
  unfold Machine.serveMiss
  try dsimp only
  repeat' (first
    | with_reducible exact Only.pure _
    | with_reducible exact Only.now
    | (with_reducible apply Only.prefetchFill <;> assumption)
    | with_reducible refine Only.bind ?_ fun _ => ?_
    | with_reducible refine Only.each fun _ => ?_
    | with_reducible refine Only.map ?_
    | split)

theorem Only.usePages {F : List Field} (h0 : Field.dev ∈ F) (h1 : Field.mem ∈ F) (h2 : Field.badDram ∈ F) (h3 : Field.badSram ∈ F) (h4 : Field.clusters ∈ F) (h5 : Field.dies ∈ F) (h6 : Field.links ∈ F) (cluster ctxid : Nat) (vas : List Nat) (a : Access) : Only F (Machine.usePages cluster ctxid vas a) := by
  unfold Machine.usePages
  try dsimp only
  repeat' (first
    | with_reducible exact Only.pure _
    | with_reducible exact Only.now
    | (with_reducible apply Only.useXlated <;> assumption)
    | with_reducible refine Only.bind ?_ fun _ => ?_
    | with_reducible refine Only.each fun _ => ?_
    | with_reducible refine Only.map ?_
    | split)

theorem Only.fireVector {F : List Field} (h0 : Field.dev ∈ F) (part vec : Nat) : Only F (Machine.fireVector part vec) := by
  unfold Machine.fireVector
  try dsimp only
  repeat' (first
    | with_reducible exact Only.pure _
    | with_reducible exact Only.now
    | (with_reducible apply Only.modDevice <;> assumption)
    | with_reducible refine Only.bind ?_ fun _ => ?_
    | with_reducible refine Only.each fun _ => ?_
    | with_reducible refine Only.map ?_
    | split)

theorem Only.writeFault {F : List Field} (h0 : Field.dev ∈ F) (h1 : Field.mem ∈ F) (h2 : Field.badDram ∈ F) (h3 : Field.badSram ∈ F) (h4 : Field.clusters ∈ F) (h5 : Field.dies ∈ F) (h6 : Field.links ∈ F) (h7 : Field.devs ∈ F) (ctxid n : Nat) : Only F (Machine.writeFault ctxid n) := by
  unfold Machine.writeFault
  try dsimp only
  repeat' (first
    | with_reducible exact Only.pure _
    | with_reducible exact Only.now
    | (with_reducible apply Only.modDctx <;> assumption)
    | (with_reducible apply Only.writeNewest <;> assumption)
    | (with_reducible apply Only.usePages <;> assumption)
    | (with_reducible apply Only.fireVector <;> assumption)
    | with_reducible refine Only.bind ?_ fun _ => ?_
    | with_reducible refine Only.each fun _ => ?_
    | with_reducible refine Only.map ?_
    | split)

theorem Only.flushFaults {F : List Field} (h0 : Field.dev ∈ F) (h1 : Field.mem ∈ F) (h2 : Field.badDram ∈ F) (h3 : Field.badSram ∈ F) (h4 : Field.clusters ∈ F) (h5 : Field.dies ∈ F) (h6 : Field.parts ∈ F) (h7 : Field.links ∈ F) (h8 : Field.devs ∈ F) (ctxid : Nat) : Only F (Machine.flushFaults ctxid) := by
  unfold Machine.flushFaults
  try dsimp only
  repeat' (first
    | with_reducible exact Only.pure _
    | with_reducible exact Only.now
    | (with_reducible apply Only.modDctx <;> assumption)
    | (with_reducible apply Only.raiseEvent <;> assumption)
    | (with_reducible apply Only.writeFault <;> assumption)
    | with_reducible refine Only.bind ?_ fun _ => ?_
    | with_reducible refine Only.each fun _ => ?_
    | with_reducible refine Only.map ?_
    | split)

theorem Only.raiseFault {F : List Field} (h0 : Field.dev ∈ F) (h1 : Field.mem ∈ F) (h2 : Field.badDram ∈ F) (h3 : Field.badSram ∈ F) (h4 : Field.clusters ∈ F) (h5 : Field.dies ∈ F) (h6 : Field.parts ∈ F) (h7 : Field.links ∈ F) (h8 : Field.devs ∈ F) (ctxid : Nat) (src : FaultSource) (info : FaultInfo) : Only F (Machine.raiseFault ctxid src info) := by
  unfold Machine.raiseFault
  try dsimp only
  repeat' (first
    | with_reducible exact Only.pure _
    | with_reducible exact Only.now
    | (with_reducible apply Only.modDctx <;> assumption)
    | (with_reducible apply Only.flushFaults <;> assumption)
    | with_reducible refine Only.bind ?_ fun _ => ?_
    | with_reducible refine Only.each fun _ => ?_
    | with_reducible refine Only.map ?_
    | split)

theorem Only.withSpill {F : List Field} (h0 : Field.clusters ∈ F) (c : Nat) (j : SpillJob) (run : Act Unit) (hr : Only F run) : Only F (Machine.withSpill c j run) := by
  unfold Machine.withSpill
  try dsimp only
  repeat' (first
    | with_reducible exact Only.pure _
    | with_reducible exact Only.now
    | (with_reducible apply Only.modCluster <;> assumption)
    | assumption
    | with_reducible refine Only.bind ?_ fun _ => ?_
    | with_reducible refine Only.each fun _ => ?_
    | with_reducible refine Only.map ?_
    | split)

theorem Only.endSpill {F : List Field} (h0 : Field.clusters ∈ F) (c : Nat) (j : SpillJob) : Only F (Machine.endSpill c j) := by
  unfold Machine.endSpill
  try dsimp only
  repeat' (first
    | with_reducible exact Only.pure _
    | with_reducible exact Only.now
    | (with_reducible apply Only.modCluster <;> assumption)
    | with_reducible refine Only.bind ?_ fun _ => ?_
    | with_reducible refine Only.each fun _ => ?_
    | with_reducible refine Only.map ?_
    | split)

theorem Only.dropSpills {F : List Field} (h0 : Field.clusters ∈ F) (c : Nat) (waves : List Nat) : Only F (Machine.dropSpills c waves) := by
  unfold Machine.dropSpills
  try dsimp only
  repeat' (first
    | with_reducible exact Only.pure _
    | with_reducible exact Only.now
    | (with_reducible apply Only.modCluster <;> assumption)
    | with_reducible refine Only.bind ?_ fun _ => ?_
    | with_reducible refine Only.each fun _ => ?_
    | with_reducible refine Only.map ?_
    | split)

theorem Only.withSpills {F : List Field} (h0 : Field.clusters ∈ F) (g : Nat) (run : Act Unit) (hr : Only F run) : Only F (Machine.withSpills g run) := by
  unfold Machine.withSpills
  try dsimp only
  repeat' (first
    | with_reducible exact Only.pure _
    | with_reducible exact Only.now
    | (with_reducible apply Only.modCluster <;> assumption)
    | assumption
    | with_reducible refine Only.bind ?_ fun _ => ?_
    | with_reducible refine Only.each fun _ => ?_
    | with_reducible refine Only.map ?_
    | split)

theorem Only.haltAt {F : List Field} (h0 : Field.ctxs ∈ F) (h1 : Field.waves ∈ F) (h2 : Field.parts ∈ F) (h3 : Field.wgs ∈ F) (h4 : Field.gangs ∈ F) (k : Nat) (r : TrapRecord) : Only F (Machine.haltAt k r) := by
  unfold Machine.haltAt
  try dsimp only
  repeat' (first
    | with_reducible exact Only.pure _
    | with_reducible exact Only.now
    | (with_reducible apply Only.setCtx <;> assumption)
    | (with_reducible apply Only.haltEvent <;> assumption)
    | (with_reducible apply Only.oweTrap <;> assumption)
    | with_reducible refine Only.bind ?_ fun _ => ?_
    | with_reducible refine Only.each fun _ => ?_
    | with_reducible refine Only.map ?_
    | split)

theorem Only.pushTransfers {F : List Field} (h0 : Field.ctxs ∈ F) (h1 : Field.waves ∈ F) (k : Nat) (l : List (Nat × StreamItem)) : Only F (Machine.pushTransfers k l) := by
  unfold Machine.pushTransfers
  try dsimp only
  repeat' (first
    | with_reducible exact Only.pure _
    | with_reducible exact Only.now
    | (with_reducible apply Only.setCtx <;> assumption)
    | (with_reducible apply Only.modWave <;> assumption)
    | with_reducible refine Only.bind ?_ fun _ => ?_
    | with_reducible refine Only.each fun _ => ?_
    | with_reducible refine Only.map ?_
    | split)

theorem Only.pushTransfer {F : List Field} (h0 : Field.ctxs ∈ F) (h1 : Field.waves ∈ F) (k : Nat) (f : Nat → StreamItem) : Only F (Machine.pushTransfer k f) := by
  unfold Machine.pushTransfer
  try dsimp only
  repeat' (first
    | with_reducible exact Only.pure _
    | with_reducible exact Only.now
    | (with_reducible apply Only.pushTransfers <;> assumption)
    | with_reducible refine Only.bind ?_ fun _ => ?_
    | with_reducible refine Only.each fun _ => ?_
    | with_reducible refine Only.map ?_
    | split)

theorem Only.setBar {F : List Field} (h0 : Field.wgs ∈ F) (h1 : Field.gangs ∈ F) (h2 : Field.launches ∈ F) (w lvl k : Nat) (b : Barrier) : Only F (Machine.setBar w lvl k b) := by
  unfold Machine.setBar
  try dsimp only
  repeat' (first
    | with_reducible exact Only.pure _
    | with_reducible exact Only.now
    | (with_reducible apply Only.modWg <;> assumption)
    | (with_reducible apply Only.modGang <;> assumption)
    | (with_reducible apply Only.modLaunch <;> assumption)
    | with_reducible refine Only.bind ?_ fun _ => ?_
    | with_reducible refine Only.each fun _ => ?_
    | with_reducible refine Only.map ?_
    | split)

theorem Only.modBits {F : List Field} (h0 : Field.wgs ∈ F) (w lvl k : Nat) (f : RoleBits → RoleBits) : Only F (Machine.modBits w lvl k f) := by
  unfold Machine.modBits
  try dsimp only
  repeat' (first
    | with_reducible exact Only.pure _
    | with_reducible exact Only.now
    | (with_reducible apply Only.modWg <;> assumption)
    | with_reducible refine Only.bind ?_ fun _ => ?_
    | with_reducible refine Only.each fun _ => ?_
    | with_reducible refine Only.map ?_
    | split)

theorem Only.completePhase {F : List Field} (h0 : Field.wgs ∈ F) (h1 : Field.gangs ∈ F) (h2 : Field.launches ∈ F) (w lvl k : Nat) : Only F (Machine.completePhase w lvl k) := by
  unfold Machine.completePhase
  try dsimp only
  repeat' (first
    | with_reducible exact Only.pure _
    | with_reducible exact Only.now
    | (with_reducible apply Only.setBar <;> assumption)
    | (with_reducible apply Only.modBits <;> assumption)
    | with_reducible refine Only.bind ?_ fun _ => ?_
    | with_reducible refine Only.each fun _ => ?_
    | with_reducible refine Only.map ?_
    | split)

theorem Only.arrive {F : List Field} (h0 : Field.mem ∈ F) (h1 : Field.wgs ∈ F) (h2 : Field.gangs ∈ F) (h3 : Field.launches ∈ F) (w role lvl k : Nat) (ids : List Nat) : Only F (Machine.arrive w role lvl k ids) := by
  unfold Machine.arrive
  try dsimp only
  repeat' (first
    | with_reducible exact Only.pure _
    | with_reducible exact Only.now
    | (with_reducible apply Only.setVis <;> assumption)
    | (with_reducible apply Only.setBar <;> assumption)
    | (with_reducible apply Only.modBits <;> assumption)
    | (with_reducible apply Only.completePhase <;> assumption)
    | with_reducible refine Only.bind ?_ fun _ => ?_
    | with_reducible refine Only.each fun _ => ?_
    | with_reducible refine Only.map ?_
    | split)

theorem Only.acquirePhases {F : List Field} (h0 : Field.mem ∈ F) (w lvl k : Nat) (ys : List MemAgent) : Only F (Machine.acquirePhases w lvl k ys) := by
  unfold Machine.acquirePhases
  try dsimp only
  repeat' (first
    | with_reducible exact Only.pure _
    | with_reducible exact Only.now
    | (with_reducible apply Only.setVis <;> assumption)
    | with_reducible refine Only.bind ?_ fun _ => ?_
    | with_reducible refine Only.each fun _ => ?_
    | with_reducible refine Only.map ?_
    | split)

theorem Only.leaveBar {F : List Field} (h0 : Field.wgs ∈ F) (h1 : Field.gangs ∈ F) (h2 : Field.launches ∈ F) (w role lvl k : Nat) : Only F (Machine.leaveBar w role lvl k) := by
  unfold Machine.leaveBar
  try dsimp only
  repeat' (first
    | with_reducible exact Only.pure _
    | with_reducible exact Only.now
    | (with_reducible apply Only.setBar <;> assumption)
    | (with_reducible apply Only.modBits <;> assumption)
    | (with_reducible apply Only.completePhase <;> assumption)
    | with_reducible refine Only.bind ?_ fun _ => ?_
    | with_reducible refine Only.each fun _ => ?_
    | with_reducible refine Only.map ?_
    | split)

theorem Only.maybeLeave {F : List Field} (h0 : Field.wgs ∈ F) (h1 : Field.gangs ∈ F) (h2 : Field.launches ∈ F) (w role : Nat) : Only F (Machine.maybeLeave w role) := by
  unfold Machine.maybeLeave
  try dsimp only
  repeat' (first
    | with_reducible exact Only.pure _
    | with_reducible exact Only.now
    | (with_reducible apply Only.modWg <;> assumption)
    | (with_reducible apply Only.leaveBar <;> assumption)
    | with_reducible refine Only.bind ?_ fun _ => ?_
    | with_reducible refine Only.each fun _ => ?_
    | with_reducible refine Only.map ?_
    | split)

theorem Only.barWait {F : List Field} (h0 : Field.mem ∈ F) (h1 : Field.ctxs ∈ F) (h2 : Field.wgs ∈ F) (str : Bool) (lvl k : Nat) : Only F (Machine.barWait str lvl k) := by
  unfold Machine.barWait
  try dsimp only
  repeat' (first
    | with_reducible exact Only.pure _
    | with_reducible exact Only.now
    | (with_reducible apply Only.stallCur <;> assumption)
    | (with_reducible apply Only.finishNone <;> assumption)
    | (with_reducible apply Only.modBits <;> assumption)
    | (with_reducible apply Only.acquirePhases <;> assumption)
    | with_reducible refine Only.bind ?_ fun _ => ?_
    | with_reducible refine Only.each fun _ => ?_
    | with_reducible refine Only.map ?_
    | split)

theorem Only.allocVote {F : List Field} (h0 : Field.ctxs ∈ F) (k : Nat) (e : Emitted) (waves : Nat) : Only F (Machine.allocVote k e waves) := by
  unfold Machine.allocVote
  try dsimp only
  repeat' (first
    | with_reducible exact Only.pure _
    | with_reducible exact Only.now
    | (with_reducible apply Only.setCtx <;> assumption)
    | with_reducible refine Only.bind ?_ fun _ => ?_
    | with_reducible refine Only.each fun _ => ?_
    | with_reducible refine Only.map ?_
    | split)

theorem Only.allocCount {F : List Field} (h0 : Field.ctxs ∈ F) (k waves : Nat) : Only F (Machine.allocCount k waves) := by
  unfold Machine.allocCount
  try dsimp only
  repeat' (first
    | with_reducible exact Only.pure _
    | with_reducible exact Only.now
    | (with_reducible apply Only.modCtx <;> assumption)
    | with_reducible refine Only.bind ?_ fun _ => ?_
    | with_reducible refine Only.each fun _ => ?_
    | with_reducible refine Only.map ?_
    | split)

theorem Only.allocBar {F : List Field} (h0 : Field.wgs ∈ F) (k : Nat) (e : Emitted) (waves : Nat) : Only F (Machine.allocBar k e waves) := by
  unfold Machine.allocBar
  try dsimp only
  repeat' (first
    | with_reducible exact Only.pure _
    | with_reducible exact Only.now
    | (with_reducible apply Only.setWg <;> assumption)
    | with_reducible refine Only.bind ?_ fun _ => ?_
    | with_reducible refine Only.each fun _ => ?_
    | with_reducible refine Only.map ?_
    | split)

theorem Only.allocWord {F : List Field} (h0 : Field.ctxs ∈ F) (h1 : Field.wgs ∈ F) (k : Nat) (e : Emitted) (waves : Nat) : Only F (Machine.allocWord k e waves) := by
  unfold Machine.allocWord
  try dsimp only
  repeat' (first
    | with_reducible exact Only.pure _
    | with_reducible exact Only.now
    | (with_reducible apply Only.allocVote <;> assumption)
    | (with_reducible apply Only.allocCount <;> assumption)
    | (with_reducible apply Only.allocBar <;> assumption)
    | with_reducible refine Only.bind ?_ fun _ => ?_
    | with_reducible refine Only.each fun _ => ?_
    | with_reducible refine Only.map ?_
    | split)

theorem Only.loftKeep {F : List Field} (h0 : Field.clusters ∈ F) (cluster : Nat) (l : LoftLine) : Only F (Machine.loftKeep cluster l) := by
  unfold Machine.loftKeep
  try dsimp only
  repeat' (first
    | with_reducible exact Only.pure _
    | with_reducible exact Only.now
    | (with_reducible apply Only.modCluster <;> assumption)
    | with_reducible refine Only.bind ?_ fun _ => ?_
    | with_reducible refine Only.each fun _ => ?_
    | with_reducible refine Only.map ?_
    | split)

theorem Only.recordOne {F : List Field} (h0 : Field.dev ∈ F) (h1 : Field.mem ∈ F) (h2 : Field.badDram ∈ F) (h3 : Field.badSram ∈ F) (h4 : Field.ctxs ∈ F) (h5 : Field.waves ∈ F) (h6 : Field.clusters ∈ F) (h7 : Field.dies ∈ F) (h8 : Field.parts ∈ F) (h9 : Field.links ∈ F) (h10 : Field.wgs ∈ F) (h11 : Field.gangs ∈ F) (k : Nat) (e : Emitted) : Only F (Machine.recordOne k e) := by
  unfold Machine.recordOne
  try dsimp only
  repeat' (first
    | with_reducible exact Only.pure _
    | with_reducible exact Only.now
    | (with_reducible apply Only.modCtx <;> assumption)
    | (with_reducible apply Only.oweTrap <;> assumption)
    | (with_reducible apply Only.writeValue <;> assumption)
    | (with_reducible apply Only.useXlated <;> assumption)
    | (with_reducible apply Only.haltAt <;> assumption)
    | (with_reducible apply Only.loftKeep <;> assumption)
    | with_reducible refine Only.bind ?_ fun _ => ?_
    | with_reducible refine Only.each fun _ => ?_
    | with_reducible refine Only.map ?_
    | split)

theorem Only.recordWords {F : List Field} (h0 : Field.dev ∈ F) (h1 : Field.mem ∈ F) (h2 : Field.badDram ∈ F) (h3 : Field.badSram ∈ F) (h4 : Field.ctxs ∈ F) (h5 : Field.waves ∈ F) (h6 : Field.clusters ∈ F) (h7 : Field.dies ∈ F) (h8 : Field.parts ∈ F) (h9 : Field.links ∈ F) (h10 : Field.wgs ∈ F) (h11 : Field.gangs ∈ F) (k : Nat) (words : List Emitted) : Only F (Machine.recordWords k words) := by
  unfold Machine.recordWords
  try dsimp only
  repeat' (first
    | with_reducible exact Only.pure _
    | with_reducible exact Only.now
    | (with_reducible apply Only.setCtx <;> assumption)
    | (with_reducible apply Only.recordOne <;> assumption)
    | with_reducible refine Only.bind ?_ fun _ => ?_
    | with_reducible refine Only.each fun _ => ?_
    | with_reducible refine Only.map ?_
    | split)

theorem Only.replayDone {F : List Field} (h0 : Field.ctxs ∈ F) (h1 : Field.waves ∈ F) (h2 : Field.wgs ∈ F) (h3 : Field.gangs ∈ F) (h4 : Field.launches ∈ F) (k : Nat) : Only F (Machine.replayDone k) := by
  unfold Machine.replayDone
  try dsimp only
  repeat' (first
    | with_reducible exact Only.pure _
    | with_reducible exact Only.now
    | (with_reducible apply Only.setCtx <;> assumption)
    | (with_reducible apply Only.pushTransfers <;> assumption)
    | (with_reducible apply Only.maybeLeave <;> assumption)
    | with_reducible refine Only.bind ?_ fun _ => ?_
    | with_reducible refine Only.each fun _ => ?_
    | with_reducible refine Only.map ?_
    | split)

theorem Only.stopReplay {F : List Field} (h0 : Field.ctxs ∈ F) (h1 : Field.waves ∈ F) (h2 : Field.wgs ∈ F) (h3 : Field.gangs ∈ F) (h4 : Field.launches ∈ F) (k : Nat) : Only F (Machine.stopReplay k) := by
  unfold Machine.stopReplay
  try dsimp only
  repeat' (first
    | with_reducible exact Only.pure _
    | with_reducible exact Only.now
    | (with_reducible apply Only.modCtx <;> assumption)
    | (with_reducible apply Only.modWave <;> assumption)
    | (with_reducible apply Only.modWg <;> assumption)
    | (with_reducible apply Only.replayDone <;> assumption)
    | with_reducible refine Only.bind ?_ fun _ => ?_
    | with_reducible refine Only.each fun _ => ?_
    | with_reducible refine Only.map ?_
    | split)

theorem Only.answerVote {F : List Field} (h0 : Field.ctxs ∈ F) (v : Nat) (x : StreamWord) (id : Nat) (answer : Option (Word × Bool)) : Only F (Machine.answerVote v x id answer) := by
  unfold Machine.answerVote
  try dsimp only
  repeat' (first
    | with_reducible exact Only.pure _
    | with_reducible exact Only.now
    | (with_reducible apply Only.modCtx <;> assumption)
    | with_reducible refine Only.bind ?_ fun _ => ?_
    | with_reducible refine Only.each fun _ => ?_
    | with_reducible refine Only.map ?_
    | split)

theorem Only.stopWave {F : List Field} (h0 : Field.ctxs ∈ F) (h1 : Field.waves ∈ F) (h2 : Field.parts ∈ F) (h3 : Field.wgs ∈ F) (h4 : Field.gangs ∈ F) (v : Nat) (r : TrapRecord) : Only F (Machine.stopWave v r) := by
  unfold Machine.stopWave
  try dsimp only
  repeat' (first
    | with_reducible exact Only.pure _
    | with_reducible exact Only.now
    | (with_reducible apply Only.modWave <;> assumption)
    | (with_reducible apply Only.oweTrap <;> assumption)
    | with_reducible refine Only.bind ?_ fun _ => ?_
    | with_reducible refine Only.each fun _ => ?_
    | with_reducible refine Only.map ?_
    | split)

theorem Only.retireBar {F : List Field} (h0 : Field.mem ∈ F) (h1 : Field.wgs ∈ F) (v : Nat) (x : StreamWord) (id : Nat) : Only F (Machine.retireBar v x id) := by
  unfold Machine.retireBar
  try dsimp only
  repeat' (first
    | with_reducible exact Only.pure _
    | with_reducible exact Only.now
    | (with_reducible apply Only.modWg <;> assumption)
    | (with_reducible apply Only.modBits <;> assumption)
    | (with_reducible apply Only.acquirePhases <;> assumption)
    | with_reducible refine Only.bind ?_ fun _ => ?_
    | with_reducible refine Only.each fun _ => ?_
    | with_reducible refine Only.map ?_
    | split)

theorem Only.retireOne {F : List Field} (h0 : Field.mem ∈ F) (h1 : Field.badRegs ∈ F) (h2 : Field.vregs ∈ F) (h3 : Field.ctxs ∈ F) (h4 : Field.waves ∈ F) (h5 : Field.clusters ∈ F) (h6 : Field.parts ∈ F) (h7 : Field.wgs ∈ F) (h8 : Field.gangs ∈ F) (v : Nat) (f : Flight) : Only F (Machine.retireOne v f) := by
  unfold Machine.retireOne
  try dsimp only
  repeat' (first
    | with_reducible exact Only.pure _
    | with_reducible exact Only.now
    | (with_reducible apply Only.modCtx <;> assumption)
    | (with_reducible apply Only.modWave <;> assumption)
    | (with_reducible apply Only.modCluster <;> assumption)
    | (with_reducible apply Only.answerVote <;> assumption)
    | (with_reducible apply Only.stopWave <;> assumption)
    | (with_reducible apply Only.retireBar <;> assumption)
    | (with_reducible refine Only.emit fun f hf => ?_; simp at hf; subst hf; assumption)
    | (with_reducible refine Only.emits fun e he f hf => ?_; simp at he; grind [Effect.writes])
    | with_reducible refine Only.bind ?_ fun _ => ?_
    | with_reducible refine Only.each fun _ => ?_
    | with_reducible refine Only.map ?_
    | split)

theorem Only.launch {F : List Field} (h0 : Field.mem ∈ F) (h1 : Field.badRegs ∈ F) (h2 : Field.vregs ∈ F) (h3 : Field.ctxs ∈ F) (h4 : Field.waves ∈ F) (h5 : Field.clusters ∈ F) (h6 : Field.parts ∈ F) (h7 : Field.wgs ∈ F) (h8 : Field.gangs ∈ F) (v : Nat) (fls : List Flight) : Only F (Machine.launch v fls) := by
  unfold Machine.launch
  try dsimp only
  repeat' (first
    | with_reducible exact Only.pure _
    | with_reducible exact Only.now
    | (with_reducible apply Only.setWave <;> assumption)
    | (with_reducible apply Only.modCluster <;> assumption)
    | (with_reducible apply Only.retireOne <;> assumption)
    | with_reducible refine Only.bind ?_ fun _ => ?_
    | with_reducible refine Only.each fun _ => ?_
    | with_reducible refine Only.map ?_
    | split)

theorem Only.issued {F : List Field} (h0 : Field.dev ∈ F) (h1 : Field.mem ∈ F) (h2 : Field.badRegs ∈ F) (h3 : Field.vregs ∈ F) (h4 : Field.ctxs ∈ F) (h5 : Field.waves ∈ F) (h6 : Field.clusters ∈ F) (h7 : Field.parts ∈ F) (h8 : Field.wgs ∈ F) (h9 : Field.gangs ∈ F) (i : LaneIn) (slots : Nat) (r : WordResult) (trap : Option TrapRecord) : Only F (Machine.issued i slots r trap) := by
  unfold Machine.issued
  try dsimp only
  repeat' (first
    | with_reducible exact Only.pure _
    | with_reducible exact Only.now
    | (with_reducible apply Only.setWave <;> assumption)
    | (with_reducible apply Only.modWg <;> assumption)
    | (with_reducible apply Only.modCluster <;> assumption)
    | (with_reducible apply Only.modDevice <;> assumption)
    | (with_reducible apply Only.launch <;> assumption)
    | with_reducible refine Only.bind ?_ fun _ => ?_
    | with_reducible refine Only.each fun _ => ?_
    | with_reducible refine Only.map ?_
    | split)

theorem Only.stopped {F : List Field} (h0 : Field.dev ∈ F) (h1 : Field.mem ∈ F) (h2 : Field.badRegs ∈ F) (h3 : Field.vregs ∈ F) (h4 : Field.ctxs ∈ F) (h5 : Field.waves ∈ F) (h6 : Field.clusters ∈ F) (h7 : Field.parts ∈ F) (h8 : Field.wgs ∈ F) (h9 : Field.gangs ∈ F) (i : LaneIn) (cause : Nat) (lanes addr : Word) : Only F (Machine.stopped i cause lanes addr) := by
  unfold Machine.stopped
  try dsimp only
  repeat' (first
    | with_reducible exact Only.pure _
    | with_reducible exact Only.now
    | (with_reducible apply Only.issued <;> assumption)
    | with_reducible refine Only.bind ?_ fun _ => ?_
    | with_reducible refine Only.each fun _ => ?_
    | with_reducible refine Only.map ?_
    | split)

theorem Only.resumeAfter {F : List Field} (h0 : Field.mem ∈ F) (h1 : Field.waves ∈ F) (v : Nat) (handler : Bool) : Only F (Machine.resumeAfter v handler) := by
  unfold Machine.resumeAfter
  try dsimp only
  repeat' (first
    | with_reducible exact Only.pure _
    | with_reducible exact Only.now
    | (with_reducible apply Only.modWave <;> assumption)
    | (with_reducible apply Only.setVis <;> assumption)
    | with_reducible refine Only.bind ?_ fun _ => ?_
    | with_reducible refine Only.each fun _ => ?_
    | with_reducible refine Only.map ?_
    | split)

theorem Only.modVbar {F : List Field} (h0 : Field.wgs ∈ F) (wg id : Nat) (f : Vbar → Vbar) : Only F (Machine.modVbar wg id f) := by
  unfold Machine.modVbar
  try dsimp only
  repeat' (first
    | with_reducible exact Only.pure _
    | with_reducible exact Only.now
    | (with_reducible apply Only.modWg <;> assumption)
    | with_reducible refine Only.bind ?_ fun _ => ?_
    | with_reducible refine Only.each fun _ => ?_
    | with_reducible refine Only.map ?_
    | split)

theorem Only.barArrival {F : List Field} (h0 : Field.mem ∈ F) (h1 : Field.ctxs ∈ F) (h2 : Field.waves ∈ F) (h3 : Field.parts ∈ F) (h4 : Field.wgs ∈ F) (h5 : Field.gangs ∈ F) (h6 : Field.launches ∈ F) (i : LaneIn) (b : Vbar) : Only F (Machine.barArrival i b) := by
  unfold Machine.barArrival
  try dsimp only
  repeat' (first
    | with_reducible exact Only.pure _
    | with_reducible exact Only.now
    | (with_reducible apply Only.oweTrap <;> assumption)
    | (with_reducible apply Only.arrive <;> assumption)
    | (with_reducible apply Only.maybeLeave <;> assumption)
    | (with_reducible apply Only.modVbar <;> assumption)
    | with_reducible refine Only.bind ?_ fun _ => ?_
    | with_reducible refine Only.each fun _ => ?_
    | with_reducible refine Only.map ?_
    | split)

theorem Only.faultWord {F : List Field} (h0 : Field.dev ∈ F) (h1 : Field.mem ∈ F) (h2 : Field.badDram ∈ F) (h3 : Field.badSram ∈ F) (h4 : Field.waves ∈ F) (h5 : Field.clusters ∈ F) (h6 : Field.dies ∈ F) (h7 : Field.parts ∈ F) (h8 : Field.links ∈ F) (h9 : Field.devs ∈ F) (i : LaneIn) (a : Access) (lanes : Word) (va : Nat) (f : XFail) : Only F (Machine.faultWord i a lanes va f) := by
  unfold Machine.faultWord
  try dsimp only
  repeat' (first
    | with_reducible exact Only.pure _
    | with_reducible exact Only.now
    | (with_reducible apply Only.modWave <;> assumption)
    | (with_reducible apply Only.raiseFault <;> assumption)
    | with_reducible refine Only.bind ?_ fun _ => ?_
    | with_reducible refine Only.each fun _ => ?_
    | with_reducible refine Only.map ?_
    | split)

theorem Only.settleLanes {F : List Field} (h0 : Field.dev ∈ F) (h1 : Field.mem ∈ F) (h2 : Field.badDram ∈ F) (h3 : Field.badSram ∈ F) (h4 : Field.clusters ∈ F) (h5 : Field.dies ∈ F) (h6 : Field.links ∈ F) (i : LaneIn) (write : Bool) (pages : List PageUse) : Only F (Machine.settleLanes i write pages) := by
  unfold Machine.settleLanes
  try dsimp only
  repeat' (first
    | with_reducible exact Only.pure _
    | with_reducible exact Only.now
    | (with_reducible apply Only.useXlated <;> assumption)
    | (with_reducible apply Only.touchL2 <;> assumption)
    | with_reducible refine Only.bind ?_ fun _ => ?_
    | with_reducible refine Only.each fun _ => ?_
    | with_reducible refine Only.map ?_
    | split)

theorem Only.readLanes {F : List Field} (h0 : Field.mem ∈ F) (h1 : Field.clusters ∈ F) (i : LaneIn) (n : Nat) (locs : List (Nat × List Nat)) : Only F (Machine.readLanes i n locs) := by
  unfold Machine.readLanes
  try dsimp only
  repeat' (first
    | with_reducible exact Only.pure _
    | with_reducible exact Only.now
    | (with_reducible apply Only.readBy <;> assumption)
    | with_reducible refine Only.bind ?_ fun _ => ?_
    | with_reducible refine Only.each fun _ => ?_
    | with_reducible refine Only.map ?_
    | split)

theorem Only.faultTransfer {F : List Field} (h0 : Field.dev ∈ F) (h1 : Field.mem ∈ F) (h2 : Field.badDram ∈ F) (h3 : Field.badSram ∈ F) (h4 : Field.waves ∈ F) (h5 : Field.clusters ∈ F) (h6 : Field.dies ∈ F) (h7 : Field.parts ∈ F) (h8 : Field.links ∈ F) (h9 : Field.devs ∈ F) (v source access code va : Nat) (f : XFail) : Only F (Machine.faultTransfer v source access code va f) := by
  unfold Machine.faultTransfer
  try dsimp only
  repeat' (first
    | with_reducible exact Only.pure _
    | with_reducible exact Only.now
    | (with_reducible apply Only.modWave <;> assumption)
    | (with_reducible apply Only.raiseFault <;> assumption)
    | with_reducible refine Only.bind ?_ fun _ => ?_
    | with_reducible refine Only.each fun _ => ?_
    | with_reducible refine Only.map ?_
    | split)

theorem Only.popTransfer {F : List Field} (h0 : Field.waves ∈ F) (h1 : Field.clusters ∈ F) (v : Nat) : Only F (Machine.popTransfer v) := by
  unfold Machine.popTransfer
  try dsimp only
  repeat' (first
    | with_reducible exact Only.pure _
    | with_reducible exact Only.now
    | (with_reducible apply Only.modWave <;> assumption)
    | (with_reducible apply Only.endSpill <;> assumption)
    | with_reducible refine Only.bind ?_ fun _ => ?_
    | with_reducible refine Only.each fun _ => ?_
    | with_reducible refine Only.map ?_
    | split)

theorem Only.touchSticky {F : List Field} (h0 : Field.dies ∈ F) (v : Nat) (a : Access) (rows : List (Nat × Nat × Nat)) (found : List (Nat × List Nat)) : Only F (Machine.touchSticky v a rows found) := by
  unfold Machine.touchSticky
  try dsimp only
  repeat' (first
    | with_reducible exact Only.pure _
    | with_reducible exact Only.now
    | (with_reducible apply Only.touchL2 <;> assumption)
    | with_reducible refine Only.bind ?_ fun _ => ?_
    | with_reducible refine Only.each fun _ => ?_
    | with_reducible refine Only.map ?_
    | split)

theorem Only.spillRow {F : List Field} (h0 : Field.mem ∈ F) (h1 : Field.badDram ∈ F) (h2 : Field.badSram ∈ F) (h3 : Field.clusters ∈ F) (v : Nat) (s : State) (r : Nat × List Nat) : Only F (Machine.spillRow v s r) := by
  unfold Machine.spillRow
  try dsimp only
  repeat' (first
    | with_reducible exact Only.pure _
    | with_reducible exact Only.now
    | (with_reducible apply Only.poisonLocs <;> assumption)
    | (with_reducible apply Only.writeNewest <;> assumption)
    | with_reducible refine Only.bind ?_ fun _ => ?_
    | with_reducible refine Only.each fun _ => ?_
    | with_reducible refine Only.map ?_
    | split)

theorem Only.reloadRow {F : List Field} (h0 : Field.badRegs ∈ F) (h1 : Field.vregs ∈ F) (v : Nat) (s : State) (r : Nat × List Nat) : Only F (Machine.reloadRow v s r) := by
  unfold Machine.reloadRow
  try dsimp only
  repeat' (first
    | with_reducible exact Only.pure _
    | with_reducible exact Only.now
    | (with_reducible refine Only.emit fun f hf => ?_; simp at hf; subst hf; assumption)
    | (with_reducible refine Only.emits fun e he f hf => ?_; simp at he; grind [Effect.writes])
    | with_reducible refine Only.bind ?_ fun _ => ?_
    | with_reducible refine Only.each fun _ => ?_
    | with_reducible refine Only.map ?_
    | split)

theorem Only.runSpill {F : List Field} (h0 : Field.dev ∈ F) (h1 : Field.mem ∈ F) (h2 : Field.badDram ∈ F) (h3 : Field.badSram ∈ F) (h4 : Field.waves ∈ F) (h5 : Field.clusters ∈ F) (h6 : Field.dies ∈ F) (h7 : Field.parts ∈ F) (h8 : Field.links ∈ F) (h9 : Field.devs ∈ F) (v lo hi : Nat) (entry : Option (Nat × Nat × Nat)) : Only F (Machine.runSpill v lo hi entry) := by
  unfold Machine.runSpill
  try dsimp only
  repeat' (first
    | with_reducible exact Only.pure _
    | with_reducible exact Only.now
    | (with_reducible apply Only.writeNewest <;> assumption)
    | (with_reducible apply Only.usePages <;> assumption)
    | (with_reducible apply Only.faultTransfer <;> assumption)
    | (with_reducible apply Only.popTransfer <;> assumption)
    | (with_reducible apply Only.touchSticky <;> assumption)
    | (with_reducible apply Only.spillRow <;> assumption)
    | with_reducible refine Only.bind ?_ fun _ => ?_
    | with_reducible refine Only.each fun _ => ?_
    | with_reducible refine Only.map ?_
    | split)

theorem Only.runReload {F : List Field} (h0 : Field.dev ∈ F) (h1 : Field.mem ∈ F) (h2 : Field.badDram ∈ F) (h3 : Field.badSram ∈ F) (h4 : Field.badRegs ∈ F) (h5 : Field.vregs ∈ F) (h6 : Field.ctxs ∈ F) (h7 : Field.waves ∈ F) (h8 : Field.clusters ∈ F) (h9 : Field.dies ∈ F) (h10 : Field.parts ∈ F) (h11 : Field.links ∈ F) (h12 : Field.devs ∈ F) (v lo hi : Nat) (entry : Option Nat) : Only F (Machine.runReload v lo hi entry) := by
  unfold Machine.runReload
  try dsimp only
  repeat' (first
    | with_reducible exact Only.pure _
    | with_reducible exact Only.now
    | (with_reducible apply Only.modCtx <;> assumption)
    | (with_reducible apply Only.usePages <;> assumption)
    | (with_reducible apply Only.faultTransfer <;> assumption)
    | (with_reducible apply Only.popTransfer <;> assumption)
    | (with_reducible apply Only.touchSticky <;> assumption)
    | (with_reducible apply Only.reloadRow <;> assumption)
    | with_reducible refine Only.bind ?_ fun _ => ?_
    | with_reducible refine Only.each fun _ => ?_
    | with_reducible refine Only.map ?_
    | split)

theorem Only.completeMatrix {F : List Field} (h0 : Field.mem ∈ F) (h1 : Field.wgs ∈ F) (g : Nat) (q : MatrixCmd) : Only F (Machine.completeMatrix g q) := by
  unfold Machine.completeMatrix
  try dsimp only
  repeat' (first
    | with_reducible exact Only.pure _
    | with_reducible exact Only.now
    | (with_reducible apply Only.modWg <;> assumption)
    | (with_reducible apply Only.setVis <;> assumption)
    | with_reducible refine Only.bind ?_ fun _ => ?_
    | with_reducible refine Only.each fun _ => ?_
    | with_reducible refine Only.map ?_
    | split)

theorem Only.grantMatrix {F : List Field} (h0 : Field.mem ∈ F) (h1 : Field.clusters ∈ F) (g : Nat) (q : MatrixCmd) : Only F (Machine.grantMatrix g q) := by
  unfold Machine.grantMatrix
  try dsimp only
  repeat' (first
    | with_reducible exact Only.pure _
    | with_reducible exact Only.now
    | (with_reducible apply Only.modCluster <;> assumption)
    | (with_reducible apply Only.setVis <;> assumption)
    | with_reducible refine Only.bind ?_ fun _ => ?_
    | with_reducible refine Only.each fun _ => ?_
    | with_reducible refine Only.map ?_
    | split)

theorem Only.poisonMatrix {F : List Field} (h0 : Field.mem ∈ F) (h1 : Field.ctxs ∈ F) (h2 : Field.waves ∈ F) (h3 : Field.parts ∈ F) (h4 : Field.wgs ∈ F) (h5 : Field.gangs ∈ F) (g : Nat) (q : MatrixCmd) (op6 cause : Nat) (addr : Word) : Only F (Machine.poisonMatrix g q op6 cause addr) := by
  unfold Machine.poisonMatrix
  try dsimp only
  repeat' (first
    | with_reducible exact Only.pure _
    | with_reducible exact Only.now
    | (with_reducible apply Only.oweTrap <;> assumption)
    | (with_reducible apply Only.completeMatrix <;> assumption)
    | with_reducible refine Only.bind ?_ fun _ => ?_
    | with_reducible refine Only.each fun _ => ?_
    | with_reducible refine Only.map ?_
    | split)

theorem Only.writeAccs {F : List Field} (h0 : Field.badAccs ∈ F) (h1 : Field.accs ∈ F) (l : List (Nat × W32)) : Only F (Machine.writeAccs l) := by
  unfold Machine.writeAccs
  try dsimp only
  repeat' (first
    | with_reducible exact Only.pure _
    | with_reducible exact Only.now
    | (with_reducible refine Only.emit fun f hf => ?_; simp at hf; subst hf; assumption)
    | (with_reducible refine Only.emits fun e he f hf => ?_; simp at he; grind [Effect.writes])
    | with_reducible refine Only.bind ?_ fun _ => ?_
    | with_reducible refine Only.each fun _ => ?_
    | with_reducible refine Only.map ?_
    | split)

theorem Only.clearAcc {F : List Field} (h0 : Field.badAccs ∈ F) (h1 : Field.accs ∈ F) (w : Workgroup) (n : Nat) : Only F (Machine.clearAcc w n) := by
  unfold Machine.clearAcc
  try dsimp only
  repeat' (first
    | with_reducible exact Only.pure _
    | with_reducible exact Only.now
    | (with_reducible refine Only.emit fun f hf => ?_; simp at hf; subst hf; assumption)
    | (with_reducible refine Only.emits fun e he f hf => ?_; simp at he; grind [Effect.writes])
    | with_reducible refine Only.bind ?_ fun _ => ?_
    | with_reducible refine Only.each fun _ => ?_
    | with_reducible refine Only.map ?_
    | split)

theorem Only.readTile {F : List Field} (h0 : Field.mem ∈ F) (h1 : Field.clusters ∈ F) (g : Nat) (q : MatrixCmd) (units : List (List Word)) : Only F (Machine.readTile g q units) := by
  unfold Machine.readTile
  try dsimp only
  repeat' (first
    | with_reducible exact Only.pure _
    | with_reducible exact Only.now
    | (with_reducible apply Only.readBy <;> assumption)
    | with_reducible refine Only.bind ?_ fun _ => ?_
    | with_reducible refine Only.each fun _ => ?_
    | with_reducible refine Only.map ?_
    | split)

theorem Only.drainTile {F : List Field} (h0 : Field.mem ∈ F) (h1 : Field.badDram ∈ F) (h2 : Field.badSram ∈ F) (h3 : Field.clusters ∈ F) (g : Nat) (q : MatrixCmd) (m : MdrainArgs) : Only F (Machine.drainTile g q m) := by
  unfold Machine.drainTile
  try dsimp only
  repeat' (first
    | with_reducible exact Only.pure _
    | with_reducible exact Only.now
    | (with_reducible apply Only.modVis <;> assumption)
    | (with_reducible apply Only.clearPoison <;> assumption)
    | (with_reducible apply Only.writeBy <;> assumption)
    | (with_reducible apply Only.writeUnder <;> assumption)
    | (with_reducible apply Only.readTile <;> assumption)
    | with_reducible refine Only.bind ?_ fun _ => ?_
    | with_reducible refine Only.each fun _ => ?_
    | with_reducible refine Only.map ?_
    | split)

theorem Only.setBound {F : List Field} (h0 : Field.wgs ∈ F) (g n : Nat) (b : Option Bound) : Only F (Machine.setBound g n b) := by
  unfold Machine.setBound
  try dsimp only
  repeat' (first
    | with_reducible exact Only.pure _
    | with_reducible exact Only.now
    | (with_reducible apply Only.modWg <;> assumption)
    | with_reducible refine Only.bind ?_ fun _ => ?_
    | with_reducible refine Only.each fun _ => ?_
    | with_reducible refine Only.map ?_
    | split)

theorem Only.modBound {F : List Field} (h0 : Field.wgs ∈ F) (g n : Nat) (f : Bound → Bound) : Only F (Machine.modBound g n f) := by
  unfold Machine.modBound
  try dsimp only
  repeat' (first
    | with_reducible exact Only.pure _
    | with_reducible exact Only.now
    | (with_reducible apply Only.setBound <;> assumption)
    | with_reducible refine Only.bind ?_ fun _ => ?_
    | with_reducible refine Only.each fun _ => ?_
    | with_reducible refine Only.map ?_
    | split)

theorem Only.bindMark {F : List Field} (h0 : Field.dev ∈ F) (h1 : Field.wgs ∈ F) (g n : Nat) (b : Bound) : Only F (Machine.bindMark g n b) := by
  unfold Machine.bindMark
  try dsimp only
  repeat' (first
    | with_reducible exact Only.pure _
    | with_reducible exact Only.now
    | (with_reducible apply Only.modWg <;> assumption)
    | (with_reducible apply Only.modDevice <;> assumption)
    | with_reducible refine Only.bind ?_ fun _ => ?_
    | with_reducible refine Only.each fun _ => ?_
    | with_reducible refine Only.map ?_
    | split)

theorem Only.retireMark {F : List Field} (h0 : Field.wgs ∈ F) (h1 : Field.gangs ∈ F) (h2 : Field.launches ∈ F) (g n : Nat) : Only F (Machine.retireMark g n) := by
  unfold Machine.retireMark
  try dsimp only
  repeat' (first
    | with_reducible exact Only.pure _
    | with_reducible exact Only.now
    | (with_reducible apply Only.maybeLeave <;> assumption)
    | (with_reducible apply Only.setBound <;> assumption)
    | with_reducible refine Only.bind ?_ fun _ => ?_
    | with_reducible refine Only.each fun _ => ?_
    | with_reducible refine Only.map ?_
    | split)

theorem Only.publish {F : List Field} (h0 : Field.mem ∈ F) (h1 : Field.ctxs ∈ F) (h2 : Field.waves ∈ F) (h3 : Field.parts ∈ F) (h4 : Field.wgs ∈ F) (h5 : Field.gangs ∈ F) (h6 : Field.launches ∈ F) (g n : Nat) : Only F (Machine.publish g n) := by
  unfold Machine.publish
  try dsimp only
  repeat' (first
    | with_reducible exact Only.pure _
    | with_reducible exact Only.now
    | (with_reducible apply Only.setVis <;> assumption)
    | (with_reducible apply Only.modVis <;> assumption)
    | (with_reducible apply Only.oweTrap <;> assumption)
    | (with_reducible apply Only.arrive <;> assumption)
    | (with_reducible apply Only.maybeLeave <;> assumption)
    | (with_reducible apply Only.modBound <;> assumption)
    | with_reducible refine Only.bind ?_ fun _ => ?_
    | with_reducible refine Only.each fun _ => ?_
    | with_reducible refine Only.map ?_
    | split)

theorem Only.freeze {F : List Field} (h0 : Field.dev ∈ F) (h1 : Field.mem ∈ F) (h2 : Field.badDram ∈ F) (h3 : Field.badSram ∈ F) (h4 : Field.clusters ∈ F) (h5 : Field.dies ∈ F) (h6 : Field.parts ∈ F) (h7 : Field.links ∈ F) (h8 : Field.wgs ∈ F) (h9 : Field.devs ∈ F) (g n : Nat) (write : Bool) (va : Nat) (f : XFail) : Only F (Machine.freeze g n write va f) := by
  unfold Machine.freeze
  try dsimp only
  repeat' (first
    | with_reducible exact Only.pure _
    | with_reducible exact Only.now
    | (with_reducible apply Only.raiseFault <;> assumption)
    | (with_reducible apply Only.setBound <;> assumption)
    | (with_reducible apply Only.modBound <;> assumption)
    | with_reducible refine Only.bind ?_ fun _ => ?_
    | with_reducible refine Only.each fun _ => ?_
    | with_reducible refine Only.map ?_
    | split)

theorem Only.poisonBound {F : List Field} (h0 : Field.wgs ∈ F) (g n : Nat) : Only F (Machine.poisonBound g n) := by
  unfold Machine.poisonBound
  try dsimp only
  repeat' (first
    | with_reducible exact Only.pure _
    | with_reducible exact Only.now
    | (with_reducible apply Only.modBound <;> assumption)
    | with_reducible refine Only.bind ?_ fun _ => ?_
    | with_reducible refine Only.each fun _ => ?_
    | with_reducible refine Only.map ?_
    | split)

theorem Only.settleCopy {F : List Field} (h0 : Field.dev ∈ F) (h1 : Field.mem ∈ F) (h2 : Field.badDram ∈ F) (h3 : Field.badSram ∈ F) (h4 : Field.clusters ∈ F) (h5 : Field.dies ∈ F) (h6 : Field.links ∈ F) (cluster : Nat) (b : Bound) (write : Bool) (pages : List (Xlated × List Nat)) : Only F (Machine.settleCopy cluster b write pages) := by
  unfold Machine.settleCopy
  try dsimp only
  repeat' (first
    | with_reducible exact Only.pure _
    | with_reducible exact Only.now
    | (with_reducible apply Only.useXlated <;> assumption)
    | (with_reducible apply Only.touchL2 <;> assumption)
    | with_reducible refine Only.bind ?_ fun _ => ?_
    | with_reducible refine Only.each fun _ => ?_
    | with_reducible refine Only.map ?_
    | split)

theorem Only.takeUnits {F : List Field} (h0 : Field.dev ∈ F) (h1 : Field.mem ∈ F) (h2 : Field.badDram ∈ F) (h3 : Field.badSram ∈ F) (h4 : Field.clusters ∈ F) (h5 : Field.dies ∈ F) (h6 : Field.links ∈ F) (h7 : Field.wgs ∈ F) (g n : Nat) (units : List (Nat × Nat × UnitAccess)) : Only F (Machine.takeUnits g n units) := by
  unfold Machine.takeUnits
  try dsimp only
  repeat' (first
    | with_reducible exact Only.pure _
    | with_reducible exact Only.now
    | (with_reducible apply Only.readBy <;> assumption)
    | (with_reducible apply Only.setBound <;> assumption)
    | (with_reducible apply Only.settleCopy <;> assumption)
    | with_reducible refine Only.bind ?_ fun _ => ?_
    | with_reducible refine Only.each fun _ => ?_
    | with_reducible refine Only.map ?_
    | split)

theorem Only.passUnit {F : List Field} (h0 : Field.mem ∈ F) (h1 : Field.ctxs ∈ F) (h2 : Field.waves ∈ F) (h3 : Field.clusters ∈ F) (h4 : Field.parts ∈ F) (h5 : Field.wgs ∈ F) (h6 : Field.gangs ∈ F) (h7 : Field.launches ∈ F) (g n k : Nat) : Only F (Machine.passUnit g n k) := by
  unfold Machine.passUnit
  try dsimp only
  repeat' (first
    | with_reducible exact Only.pure _
    | with_reducible exact Only.now
    | (with_reducible apply Only.modCluster <;> assumption)
    | (with_reducible apply Only.modBound <;> assumption)
    | (with_reducible apply Only.publish <;> assumption)
    | with_reducible refine Only.bind ?_ fun _ => ?_
    | with_reducible refine Only.each fun _ => ?_
    | with_reducible refine Only.map ?_
    | split)

theorem Only.landBytes {F : List Field} (h0 : Field.mem ∈ F) (h1 : Field.badDram ∈ F) (h2 : Field.badSram ∈ F) (h3 : Field.clusters ∈ F) (g i : Nat) (b : Bound) (cells : List (Nat × Byte)) : Only F (Machine.landBytes g i b cells) := by
  unfold Machine.landBytes
  try dsimp only
  repeat' (first
    | with_reducible exact Only.pure _
    | with_reducible exact Only.now
    | (with_reducible apply Only.clearPoison <;> assumption)
    | (with_reducible apply Only.writeLocs <;> assumption)
    | (with_reducible apply Only.tallySpad <;> assumption)
    | (with_reducible apply Only.writeBy <;> assumption)
    | with_reducible refine Only.bind ?_ fun _ => ?_
    | with_reducible refine Only.each fun _ => ?_
    | with_reducible refine Only.map ?_
    | split)

theorem Only.landUnit {F : List Field} (h0 : Field.dev ∈ F) (h1 : Field.mem ∈ F) (h2 : Field.badDram ∈ F) (h3 : Field.badSram ∈ F) (h4 : Field.ctxs ∈ F) (h5 : Field.waves ∈ F) (h6 : Field.clusters ∈ F) (h7 : Field.dies ∈ F) (h8 : Field.parts ∈ F) (h9 : Field.links ∈ F) (h10 : Field.wgs ∈ F) (h11 : Field.gangs ∈ F) (h12 : Field.launches ∈ F) (g n : Nat) (locs : List Nat) (pages : List (Xlated × List Nat)) : Only F (Machine.landUnit g n locs pages) := by
  unfold Machine.landUnit
  try dsimp only
  repeat' (first
    | with_reducible exact Only.pure _
    | with_reducible exact Only.now
    | (with_reducible apply Only.poisonLocs <;> assumption)
    | (with_reducible apply Only.settleCopy <;> assumption)
    | (with_reducible apply Only.passUnit <;> assumption)
    | (with_reducible apply Only.landBytes <;> assumption)
    | with_reducible refine Only.bind ?_ fun _ => ?_
    | with_reducible refine Only.each fun _ => ?_
    | with_reducible refine Only.map ?_
    | split)

theorem Only.completeFar {F : List Field} (h0 : Field.dev ∈ F) (h1 : Field.mem ∈ F) (h2 : Field.badDram ∈ F) (h3 : Field.badSram ∈ F) (h4 : Field.ctxs ∈ F) (h5 : Field.waves ∈ F) (h6 : Field.clusters ∈ F) (h7 : Field.dies ∈ F) (h8 : Field.parts ∈ F) (h9 : Field.links ∈ F) (h10 : Field.wgs ∈ F) (h11 : Field.gangs ∈ F) (h12 : Field.launches ∈ F) (h13 : Field.devs ∈ F) (g n : Nat) (ok : Bool) : Only F (Machine.completeFar g n ok) := by
  unfold Machine.completeFar
  try dsimp only
  repeat' (first
    | with_reducible exact Only.pure _
    | with_reducible exact Only.now
    | (with_reducible apply Only.setBound <;> assumption)
    | (with_reducible apply Only.freeze <;> assumption)
    | (with_reducible apply Only.poisonBound <;> assumption)
    | (with_reducible apply Only.takeUnits <;> assumption)
    | (with_reducible apply Only.landUnit <;> assumption)
    | with_reducible refine Only.bind ?_ fun _ => ?_
    | with_reducible refine Only.each fun _ => ?_
    | with_reducible refine Only.map ?_
    | split)

theorem Only.modComm {F : List Field} (h0 : Field.dev ∈ F) (handle : Nat) (f : Comm → Comm) : Only F (Machine.modComm handle f) := by
  unfold Machine.modComm
  try dsimp only
  repeat' (first
    | with_reducible exact Only.pure _
    | with_reducible exact Only.now
    | (with_reducible apply Only.modDevice <;> assumption)
    | with_reducible refine Only.bind ?_ fun _ => ?_
    | with_reducible refine Only.each fun _ => ?_
    | with_reducible refine Only.map ?_
    | split)

theorem Only.poisonUnreachable {F : List Field} (h0 : Field.wgs ∈ F) : Only F (Machine.poisonUnreachable) := by
  unfold Machine.poisonUnreachable
  try dsimp only
  repeat' (first
    | with_reducible exact Only.pure _
    | with_reducible exact Only.now
    | (with_reducible apply Only.poisonBound <;> assumption)
    | with_reducible refine Only.bind ?_ fun _ => ?_
    | with_reducible refine Only.each fun _ => ?_
    | with_reducible refine Only.map ?_
    | split)

theorem Only.modQueue {F : List Field} (h0 : Field.devs ∈ F) (ctxid n : Nat) (f : Queue → Queue) : Only F (Machine.modQueue ctxid n f) := by
  unfold Machine.modQueue
  try dsimp only
  repeat' (first
    | with_reducible exact Only.pure _
    | with_reducible exact Only.now
    | (with_reducible apply Only.modDctx <;> assumption)
    | with_reducible refine Only.bind ?_ fun _ => ?_
    | with_reducible refine Only.each fun _ => ?_
    | with_reducible refine Only.map ?_
    | split)

theorem Only.modNode {F : List Field} (h0 : Field.devs ∈ F) (ctxid h : Nat) (f : Node → Node) : Only F (Machine.modNode ctxid h f) := by
  unfold Machine.modNode
  try dsimp only
  repeat' (first
    | with_reducible exact Only.pure _
    | with_reducible exact Only.now
    | (with_reducible apply Only.modDctx <;> assumption)
    | with_reducible refine Only.bind ?_ fun _ => ?_
    | with_reducible refine Only.each fun _ => ?_
    | with_reducible refine Only.map ?_
    | split)

theorem Only.coreWrite {F : List Field} (h0 : Field.dev ∈ F) (h1 : Field.mem ∈ F) (h2 : Field.badDram ∈ F) (h3 : Field.badSram ∈ F) (h4 : Field.clusters ∈ F) (h5 : Field.dies ∈ F) (h6 : Field.links ∈ F) (ctxid va : Nat) (bytes : List Byte) : Only F (Machine.coreWrite ctxid va bytes) := by
  unfold Machine.coreWrite
  try dsimp only
  repeat' (first
    | with_reducible exact Only.pure _
    | with_reducible exact Only.now
    | (with_reducible apply Only.writeNewest <;> assumption)
    | (with_reducible apply Only.usePages <;> assumption)
    | with_reducible refine Only.bind ?_ fun _ => ?_
    | with_reducible refine Only.each fun _ => ?_
    | with_reducible refine Only.map ?_
    | split)

theorem Only.sealBatch {F : List Field} (h0 : Field.dev ∈ F) (h1 : Field.mem ∈ F) (h2 : Field.badDram ∈ F) (h3 : Field.badSram ∈ F) (h4 : Field.clusters ∈ F) (h5 : Field.dies ∈ F) (h6 : Field.links ∈ F) (h7 : Field.devs ∈ F) (ctxid h : Nat) : Only F (Machine.sealBatch ctxid h) := by
  unfold Machine.sealBatch
  try dsimp only
  repeat' (first
    | with_reducible exact Only.pure _
    | with_reducible exact Only.now
    | (with_reducible apply Only.modNode <;> assumption)
    | (with_reducible apply Only.coreWrite <;> assumption)
    | with_reducible refine Only.bind ?_ fun _ => ?_
    | with_reducible refine Only.each fun _ => ?_
    | with_reducible refine Only.map ?_
    | split)

theorem Only.sealFull {F : List Field} (h0 : Field.dev ∈ F) (h1 : Field.mem ∈ F) (h2 : Field.badDram ∈ F) (h3 : Field.badSram ∈ F) (h4 : Field.clusters ∈ F) (h5 : Field.dies ∈ F) (h6 : Field.links ∈ F) (h7 : Field.devs ∈ F) (ctxid h : Nat) : Only F (Machine.sealFull ctxid h) := by
  unfold Machine.sealFull
  try dsimp only
  repeat' (first
    | with_reducible exact Only.pure _
    | with_reducible exact Only.now
    | (with_reducible apply Only.sealBatch <;> assumption)
    | with_reducible refine Only.bind ?_ fun _ => ?_
    | with_reducible refine Only.each fun _ => ?_
    | with_reducible refine Only.map ?_
    | split)

theorem Only.hostEntry {F : List Field} (h0 : Field.devs ∈ F) (ctxid qn : Nat) : Only F (Machine.hostEntry ctxid qn) := by
  unfold Machine.hostEntry
  try dsimp only
  repeat' (first
    | with_reducible exact Only.pure _
    | with_reducible exact Only.now
    | (with_reducible apply Only.modQueue <;> assumption)
    | with_reducible refine Only.bind ?_ fun _ => ?_
    | with_reducible refine Only.each fun _ => ?_
    | with_reducible refine Only.map ?_
    | split)

theorem Only.ringDoorbell {F : List Field} (h0 : Field.devs ∈ F) (ctxid qn ix : Nat) : Only F (Machine.ringDoorbell ctxid qn ix) := by
  unfold Machine.ringDoorbell
  try dsimp only
  repeat' (first
    | with_reducible exact Only.pure _
    | with_reducible exact Only.now
    | (with_reducible apply Only.hostEntry <;> assumption)
    | with_reducible refine Only.bind ?_ fun _ => ?_
    | with_reducible refine Only.each fun _ => ?_
    | with_reducible refine Only.map ?_
    | split)

theorem Only.notePlaced {F : List Field} (h0 : Field.clusters ∈ F) (c heat : Nat) : Only F (Machine.notePlaced c heat) := by
  unfold Machine.notePlaced
  try dsimp only
  repeat' (first
    | with_reducible exact Only.pure _
    | with_reducible exact Only.now
    | (with_reducible apply Only.modCluster <;> assumption)
    | with_reducible refine Only.bind ?_ fun _ => ?_
    | with_reducible refine Only.each fun _ => ?_
    | with_reducible refine Only.map ?_
    | split)

theorem Only.wakeClusters {F : List Field} (h0 : Field.clusters ∈ F) (part : Nat) (cs : List Nat) : Only F (Machine.wakeClusters part cs) := by
  unfold Machine.wakeClusters
  try dsimp only
  repeat' (first
    | with_reducible exact Only.pure _
    | with_reducible exact Only.now
    | (with_reducible apply Only.modCluster <;> assumption)
    | with_reducible refine Only.bind ?_ fun _ => ?_
    | with_reducible refine Only.each fun _ => ?_
    | with_reducible refine Only.map ?_
    | split)

theorem Only.writeSignal {F : List Field} (h0 : Field.dev ∈ F) (h1 : Field.mem ∈ F) (h2 : Field.badDram ∈ F) (h3 : Field.badSram ∈ F) (h4 : Field.clusters ∈ F) (h5 : Field.dies ∈ F) (h6 : Field.links ∈ F) (ctxid queue signal status : Nat) (wgs : List Nat) : Only F (Machine.writeSignal ctxid queue signal status wgs) := by
  unfold Machine.writeSignal
  try dsimp only
  repeat' (first
    | with_reducible exact Only.pure _
    | with_reducible exact Only.now
    | (with_reducible apply Only.writeUnder <;> assumption)
    | (with_reducible apply Only.usePages <;> assumption)
    | (with_reducible apply Only.fireVector <;> assumption)
    | with_reducible refine Only.bind ?_ fun _ => ?_
    | with_reducible refine Only.each fun _ => ?_
    | with_reducible refine Only.map ?_
    | split)

theorem Only.reserve {F : List Field} (h0 : Field.ctxs ∈ F) (h1 : Field.waves ∈ F) (g : Nat) (x : Seat) : Only F (Machine.reserve g x) := by
  unfold Machine.reserve
  try dsimp only
  repeat' (first
    | with_reducible exact Only.pure _
    | with_reducible exact Only.now
    | (with_reducible apply Only.setCtx <;> assumption)
    | (with_reducible apply Only.setWave <;> assumption)
    | with_reducible refine Only.bind ?_ fun _ => ?_
    | with_reducible refine Only.each fun _ => ?_
    | with_reducible refine Only.map ?_
    | split)

theorem Only.createGang {F : List Field} (h0 : Field.ctxs ∈ F) (h1 : Field.waves ∈ F) (h2 : Field.clusters ∈ F) (h3 : Field.wgs ∈ F) (h4 : Field.gangs ∈ F) (origin : Origin) (ctxid size firstWgid : Nat) (h : Header) (arg : Word) (stamps : List Stamp) (rels : List Release) (seats : List Seat) (shares : List PoolShare) : Only F (Machine.createGang origin ctxid size firstWgid h arg stamps rels seats shares) := by
  unfold Machine.createGang
  try dsimp only
  repeat' (first
    | with_reducible exact Only.pure _
    | with_reducible exact Only.now
    | (with_reducible apply Only.notePlaced <;> assumption)
    | (with_reducible apply Only.reserve <;> assumption)
    | (with_reducible refine Only.emit fun f hf => ?_; simp at hf; subst hf; assumption)
    | (with_reducible refine Only.emits fun e he f hf => ?_; simp at he; grind [Effect.writes])
    | with_reducible refine Only.bind ?_ fun _ => ?_
    | with_reducible refine Only.each fun _ => ?_
    | with_reducible refine Only.map ?_
    | split)

theorem Only.createGangs {F : List Field} (h0 : Field.ctxs ∈ F) (h1 : Field.waves ∈ F) (h2 : Field.clusters ∈ F) (h3 : Field.wgs ∈ F) (h4 : Field.gangs ∈ F) (origin : Origin)
    (ctxid size firstWgid : Nat) (h : Header) (arg : Word) (stamps : List Stamp) (rels : List Release) (n : Nat) (seats : List Seat) (shares : List PoolShare) :
    Only F (Machine.createGangs origin ctxid size firstWgid h arg stamps rels n seats shares) := by
  induction n generalizing firstWgid seats shares with
  | zero => exact Only.pure _
  | succ n ih => exact Only.bind (by apply Only.createGang <;> assumption) fun _ => ih _ _ _

theorem Only.attempt {F : List Field} (h0 : Field.ctxs ∈ F) (h1 : Field.waves ∈ F) (h2 : Field.clusters ∈ F) (h3 : Field.wgs ∈ F) (h4 : Field.gangs ∈ F) (h5 : Field.devs ∈ F) (origin : Origin) (ctxid size n firstWgid : Nat) (h : Header) (arg : Word) (floors : List (Nat × Nat)) (queue : Option Nat) (failReason : Nat) (stamps : List Stamp) (rels : List Release) : Only F (Machine.attempt origin ctxid size n firstWgid h arg floors queue failReason stamps rels) := by
  unfold Machine.attempt
  try dsimp only
  repeat' (first
    | with_reducible exact Only.pure _
    | with_reducible exact Only.now
    | (with_reducible apply Only.modDctx <;> assumption)
    | (with_reducible apply Only.modQueue <;> assumption)
    | (with_reducible apply Only.wakeClusters <;> assumption)
    | (with_reducible apply Only.createGangs <;> assumption)
    | with_reducible refine Only.bind ?_ fun _ => ?_
    | with_reducible refine Only.each fun _ => ?_
    | with_reducible refine Only.map ?_
    | split)

theorem Only.placeLaunch {F : List Field} (h0 : Field.ctxs ∈ F) (h1 : Field.waves ∈ F) (h2 : Field.clusters ∈ F) (h3 : Field.wgs ∈ F) (h4 : Field.gangs ∈ F) (h5 : Field.launches ∈ F) (h6 : Field.devs ∈ F) (l : Nat) (stamps : List Stamp) (rels : List Release) : Only F (Machine.placeLaunch l stamps rels) := by
  unfold Machine.placeLaunch
  try dsimp only
  repeat' (first
    | with_reducible exact Only.pure _
    | with_reducible exact Only.now
    | (with_reducible apply Only.modLaunch <;> assumption)
    | (with_reducible apply Only.attempt <;> assumption)
    | with_reducible refine Only.bind ?_ fun _ => ?_
    | with_reducible refine Only.each fun _ => ?_
    | with_reducible refine Only.map ?_
    | split)

theorem Only.takeUp {F : List Field} (h0 : Field.dev ∈ F) (h1 : Field.mem ∈ F) (h2 : Field.badDram ∈ F) (h3 : Field.badSram ∈ F) (h4 : Field.clusters ∈ F) (h5 : Field.dies ∈ F) (h6 : Field.links ∈ F) (h7 : Field.launches ∈ F) (ctxid : Nat) (q : Queue) (bytes : List Byte) : Only F (Machine.takeUp ctxid q bytes) := by
  unfold Machine.takeUp
  try dsimp only
  repeat' (first
    | with_reducible exact Only.pure _
    | with_reducible exact Only.now
    | (with_reducible apply Only.writeSignal <;> assumption)
    | (with_reducible refine Only.emit fun f hf => ?_; simp at hf; subst hf; assumption)
    | (with_reducible refine Only.emits fun e he f hf => ?_; simp at he; grind [Effect.writes])
    | with_reducible refine Only.bind ?_ fun _ => ?_
    | with_reducible refine Only.each fun _ => ?_
    | with_reducible refine Only.map ?_
    | split)

theorem Only.dropHead {F : List Field} (h0 : Field.devs ∈ F) (ctxid q : Nat) (task : Option Nat) (count : Bool) : Only F (Machine.dropHead ctxid q task count) := by
  unfold Machine.dropHead
  try dsimp only
  repeat' (first
    | with_reducible exact Only.pure _
    | with_reducible exact Only.now
    | (with_reducible apply Only.modQueue <;> assumption)
    | with_reducible refine Only.bind ?_ fun _ => ?_
    | with_reducible refine Only.each fun _ => ?_
    | with_reducible refine Only.map ?_
    | split)

theorem Only.serveRecord {F : List Field} (h0 : Field.dev ∈ F) (h1 : Field.mem ∈ F) (h2 : Field.badDram ∈ F) (h3 : Field.badSram ∈ F) (h4 : Field.badRegs ∈ F) (h5 : Field.vregs ∈ F) (h6 : Field.ctxs ∈ F) (h7 : Field.waves ∈ F) (h8 : Field.clusters ∈ F) (h9 : Field.dies ∈ F) (h10 : Field.parts ∈ F) (h11 : Field.links ∈ F) (h12 : Field.wgs ∈ F) (h13 : Field.gangs ∈ F) (h14 : Field.launches ∈ F) (h15 : Field.devs ∈ F) (ctxid qn : Nat) (task : Option Nat) (q : Queue) (cur : Option Nat) (bytes : List Byte) (stamp : Option Stamp) (rels : List Release) : Only F (Machine.serveRecord ctxid qn task q cur bytes stamp rels) := by
  unfold Machine.serveRecord
  try dsimp only
  repeat' (first
    | with_reducible exact Only.pure _
    | with_reducible exact Only.now
    | (with_reducible apply Only.launch <;> assumption)
    | (with_reducible apply Only.modQueue <;> assumption)
    | (with_reducible apply Only.placeLaunch <;> assumption)
    | (with_reducible apply Only.takeUp <;> assumption)
    | (with_reducible apply Only.dropHead <;> assumption)
    | with_reducible refine Only.bind ?_ fun _ => ?_
    | with_reducible refine Only.each fun _ => ?_
    | with_reducible refine Only.map ?_
    | split)

theorem Only.serveBatch {F : List Field} (h0 : Field.dev ∈ F) (h1 : Field.mem ∈ F) (h2 : Field.badDram ∈ F) (h3 : Field.badSram ∈ F) (h4 : Field.ctxs ∈ F) (h5 : Field.waves ∈ F) (h6 : Field.clusters ∈ F) (h7 : Field.dies ∈ F) (h8 : Field.links ∈ F) (h9 : Field.wgs ∈ F) (h10 : Field.gangs ∈ F) (h11 : Field.devs ∈ F) (ctxid h : Nat) : Only F (Machine.serveBatch ctxid h) := by
  unfold Machine.serveBatch
  try dsimp only
  repeat' (first
    | with_reducible exact Only.pure _
    | with_reducible exact Only.now
    | (with_reducible apply Only.modNode <;> assumption)
    | (with_reducible apply Only.sealFull <;> assumption)
    | (with_reducible apply Only.attempt <;> assumption)
    | with_reducible refine Only.bind ?_ fun _ => ?_
    | with_reducible refine Only.each fun _ => ?_
    | with_reducible refine Only.map ?_
    | split)

theorem Only.serveHead {F : List Field} (h0 : Field.dev ∈ F) (h1 : Field.mem ∈ F) (h2 : Field.badDram ∈ F) (h3 : Field.badSram ∈ F) (h4 : Field.badRegs ∈ F) (h5 : Field.vregs ∈ F) (h6 : Field.ctxs ∈ F) (h7 : Field.waves ∈ F) (h8 : Field.clusters ∈ F) (h9 : Field.dies ∈ F) (h10 : Field.parts ∈ F) (h11 : Field.links ∈ F) (h12 : Field.wgs ∈ F) (h13 : Field.gangs ∈ F) (h14 : Field.launches ∈ F) (h15 : Field.devs ∈ F) (h : Head) : Only F (Machine.serveHead h) := by
  unfold Machine.serveHead
  try dsimp only
  repeat' (first
    | with_reducible exact Only.pure _
    | with_reducible exact Only.now
    | (with_reducible apply Only.modQueue <;> assumption)
    | (with_reducible apply Only.serveRecord <;> assumption)
    | (with_reducible apply Only.serveBatch <;> assumption)
    | with_reducible refine Only.bind ?_ fun _ => ?_
    | with_reducible refine Only.each fun _ => ?_
    | with_reducible refine Only.map ?_
    | split)

theorem Only.tallyMoved {F : List Field} (h0 : Field.clusters ∈ F) (spad : Option Nat) (n : Nat) : Only F (Machine.tallyMoved spad n) := by
  unfold Machine.tallyMoved
  try dsimp only
  repeat' (first
    | with_reducible exact Only.pure _
    | with_reducible exact Only.now
    | (with_reducible apply Only.modCluster <;> assumption)
    | with_reducible refine Only.bind ?_ fun _ => ?_
    | with_reducible refine Only.each fun _ => ?_
    | with_reducible refine Only.map ?_
    | split)

theorem Only.pauseGang {F : List Field} (h0 : Field.dev ∈ F) (h1 : Field.mem ∈ F) (h2 : Field.badDram ∈ F) (h3 : Field.badSram ∈ F) (h4 : Field.clusters ∈ F) (h5 : Field.dies ∈ F) (h6 : Field.parts ∈ F) (h7 : Field.links ∈ F) (h8 : Field.gangs ∈ F) (h9 : Field.devs ∈ F) (g w : Nat) (src : Nat) (va : Nat) (f : XFail) (progress : Nat) : Only F (Machine.pauseGang g w src va f progress) := by
  unfold Machine.pauseGang
  try dsimp only
  repeat' (first
    | with_reducible exact Only.pure _
    | with_reducible exact Only.now
    | (with_reducible apply Only.modGang <;> assumption)
    | (with_reducible apply Only.raiseFault <;> assumption)
    | with_reducible refine Only.bind ?_ fun _ => ?_
    | with_reducible refine Only.each fun _ => ?_
    | with_reducible refine Only.map ?_
    | split)

theorem Only.writePieces {F : List Field} (h0 : Field.dev ∈ F) (h1 : Field.mem ∈ F) (h2 : Field.badDram ∈ F) (h3 : Field.badSram ∈ F) (h4 : Field.clusters ∈ F) (h5 : Field.dies ∈ F) (h6 : Field.parts ∈ F) (h7 : Field.links ∈ F) (h8 : Field.gangs ∈ F) (h9 : Field.devs ∈ F) (g i : Nat) (ps : List AreaPiece) : Only F (Machine.writePieces g i ps) := by
  induction ps generalizing i with
  | nil => exact Only.pure _
  | cons p ps ih =>
    unfold Machine.writePieces
    refine Only.bind Only.now fun s => ?_
    dsimp only
    split
    · exact Only.bind (by apply Only.pauseGang <;> assumption) fun _ => Only.pure _
    · refine Only.bind (by apply Only.usePages <;> assumption) fun _ => Only.bind (by apply Only.writeLocs <;> assumption) fun _ =>
        Only.bind (by apply Only.tallyMoved <;> assumption) fun _ => Only.bind (Only.each fun _ => (by apply Only.touchL2 <;> assumption)) fun _ => ih _

theorem Only.goOnWriting {F : List Field} (h0 : Field.dev ∈ F) (h1 : Field.mem ∈ F) (h2 : Field.badDram ∈ F) (h3 : Field.badSram ∈ F) (h4 : Field.clusters ∈ F) (h5 : Field.dies ∈ F) (h6 : Field.parts ∈ F) (h7 : Field.links ∈ F) (h8 : Field.gangs ∈ F) (h9 : Field.devs ∈ F) (g : Nat) (pieces : List AreaPiece) : Only F (Machine.goOnWriting g pieces) := by
  unfold Machine.goOnWriting
  try dsimp only
  repeat' (first
    | with_reducible exact Only.pure _
    | with_reducible exact Only.now
    | (with_reducible apply Only.writePieces <;> assumption)
    | with_reducible refine Only.bind ?_ fun _ => ?_
    | with_reducible refine Only.each fun _ => ?_
    | with_reducible refine Only.map ?_
    | split)

theorem Only.startEdges {F : List Field} (h0 : Field.mem ∈ F) (g : Nat) : Only F (Machine.startEdges g) := by
  unfold Machine.startEdges
  try dsimp only
  repeat' (first
    | with_reducible exact Only.pure _
    | with_reducible exact Only.now
    | (with_reducible apply Only.setVis <;> assumption)
    | with_reducible refine Only.bind ?_ fun _ => ?_
    | with_reducible refine Only.each fun _ => ?_
    | with_reducible refine Only.map ?_
    | split)

theorem Only.dropKernelLines {F : List Field} (h0 : Field.clusters ∈ F) (cluster ctxid lo hi : Nat) : Only F (Machine.dropKernelLines cluster ctxid lo hi) := by
  unfold Machine.dropKernelLines
  try dsimp only
  repeat' (first
    | with_reducible exact Only.pure _
    | with_reducible exact Only.now
    | (with_reducible apply Only.modCluster <;> assumption)
    | with_reducible refine Only.bind ?_ fun _ => ?_
    | with_reducible refine Only.each fun _ => ?_
    | with_reducible refine Only.map ?_
    | split)

theorem Only.startMember {F : List Field} (h0 : Field.badAccs ∈ F) (h1 : Field.accs ∈ F) (h2 : Field.ctxs ∈ F) (h3 : Field.waves ∈ F) (h4 : Field.clusters ∈ F) (h5 : Field.wgs ∈ F) (g : Nat) : Only F (Machine.startMember g) := by
  unfold Machine.startMember
  try dsimp only
  repeat' (first
    | with_reducible exact Only.pure _
    | with_reducible exact Only.now
    | (with_reducible apply Only.setCtx <;> assumption)
    | (with_reducible apply Only.modWave <;> assumption)
    | (with_reducible apply Only.modWg <;> assumption)
    | (with_reducible apply Only.clearAcc <;> assumption)
    | (with_reducible apply Only.dropKernelLines <;> assumption)
    | with_reducible refine Only.bind ?_ fun _ => ?_
    | with_reducible refine Only.each fun _ => ?_
    | with_reducible refine Only.map ?_
    | split)

theorem Only.releaseFlights {F : List Field} (h0 : Field.clusters ∈ F) (v : Nat) : Only F (Machine.releaseFlights v) := by
  unfold Machine.releaseFlights
  try dsimp only
  repeat' (first
    | with_reducible exact Only.pure _
    | with_reducible exact Only.now
    | (with_reducible apply Only.modCluster <;> assumption)
    | with_reducible refine Only.bind ?_ fun _ => ?_
    | with_reducible refine Only.each fun _ => ?_
    | with_reducible refine Only.map ?_
    | split)

theorem Only.leaveCluster {F : List Field} (h0 : Field.ctxs ∈ F) (h1 : Field.waves ∈ F) (h2 : Field.clusters ∈ F) (h3 : Field.wgs ∈ F) (g : Nat) (status : WgStatus) : Only F (Machine.leaveCluster g status) := by
  unfold Machine.leaveCluster
  try dsimp only
  repeat' (first
    | with_reducible exact Only.pure _
    | with_reducible exact Only.now
    | (with_reducible apply Only.setCtx <;> assumption)
    | (with_reducible apply Only.setWave <;> assumption)
    | (with_reducible apply Only.modWg <;> assumption)
    | (with_reducible apply Only.modCluster <;> assumption)
    | (with_reducible apply Only.endSpill <;> assumption)
    | (with_reducible apply Only.releaseFlights <;> assumption)
    | with_reducible refine Only.bind ?_ fun _ => ?_
    | with_reducible refine Only.each fun _ => ?_
    | with_reducible refine Only.map ?_
    | split)

theorem Only.retireMember {F : List Field} (h0 : Field.ctxs ∈ F) (h1 : Field.waves ∈ F) (h2 : Field.clusters ∈ F) (h3 : Field.wgs ∈ F) (h4 : Field.devs ∈ F) (g : Nat) : Only F (Machine.retireMember g) := by
  unfold Machine.retireMember
  try dsimp only
  repeat' (first
    | with_reducible exact Only.pure _
    | with_reducible exact Only.now
    | (with_reducible apply Only.modWg <;> assumption)
    | (with_reducible apply Only.modDctx <;> assumption)
    | (with_reducible apply Only.leaveCluster <;> assumption)
    | with_reducible refine Only.bind ?_ fun _ => ?_
    | with_reducible refine Only.each fun _ => ?_
    | with_reducible refine Only.map ?_
    | split)

theorem Only.finishLaunch {F : List Field} (h0 : Field.dev ∈ F) (h1 : Field.mem ∈ F) (h2 : Field.badDram ∈ F) (h3 : Field.badSram ∈ F) (h4 : Field.clusters ∈ F) (h5 : Field.dies ∈ F) (h6 : Field.links ∈ F) (l : Nat) : Only F (Machine.finishLaunch l) := by
  unfold Machine.finishLaunch
  try dsimp only
  repeat' (first
    | with_reducible exact Only.pure _
    | with_reducible exact Only.now
    | (with_reducible apply Only.writeSignal <;> assumption)
    | with_reducible refine Only.bind ?_ fun _ => ?_
    | with_reducible refine Only.each fun _ => ?_
    | with_reducible refine Only.map ?_
    | split)

theorem Only.retireGang {F : List Field} (h0 : Field.dev ∈ F) (h1 : Field.mem ∈ F) (h2 : Field.badDram ∈ F) (h3 : Field.badSram ∈ F) (h4 : Field.ctxs ∈ F) (h5 : Field.waves ∈ F) (h6 : Field.clusters ∈ F) (h7 : Field.dies ∈ F) (h8 : Field.links ∈ F) (h9 : Field.wgs ∈ F) (h10 : Field.gangs ∈ F) (h11 : Field.launches ∈ F) (h12 : Field.devs ∈ F) (g status : Nat) : Only F (Machine.retireGang g status) := by
  unfold Machine.retireGang
  try dsimp only
  repeat' (first
    | with_reducible exact Only.pure _
    | with_reducible exact Only.now
    | (with_reducible apply Only.modGang <;> assumption)
    | (with_reducible apply Only.modLaunch <;> assumption)
    | (with_reducible apply Only.modNode <;> assumption)
    | (with_reducible apply Only.sealFull <;> assumption)
    | (with_reducible apply Only.retireMember <;> assumption)
    | (with_reducible apply Only.finishLaunch <;> assumption)
    | with_reducible refine Only.bind ?_ fun _ => ?_
    | with_reducible refine Only.each fun _ => ?_
    | with_reducible refine Only.map ?_
    | split)

theorem Only.dropFaults {F : List Field} (h0 : Field.devs ∈ F) (ctxid g : Nat) : Only F (Machine.dropFaults ctxid g) := by
  unfold Machine.dropFaults
  try dsimp only
  repeat' (first
    | with_reducible exact Only.pure _
    | with_reducible exact Only.now
    | (with_reducible apply Only.modDctx <;> assumption)
    | with_reducible refine Only.bind ?_ fun _ => ?_
    | with_reducible refine Only.each fun _ => ?_
    | with_reducible refine Only.map ?_
    | split)

theorem Only.discardGangWork {F : List Field} (h0 : Field.dev ∈ F) (h1 : Field.mem ∈ F) (h2 : Field.badDram ∈ F) (h3 : Field.badSram ∈ F) (h4 : Field.ctxs ∈ F) (h5 : Field.waves ∈ F) (h6 : Field.clusters ∈ F) (h7 : Field.dies ∈ F) (h8 : Field.links ∈ F) (h9 : Field.wgs ∈ F) (h10 : Field.gangs ∈ F) (h11 : Field.launches ∈ F) (h12 : Field.devs ∈ F) (g : Nat) : Only F (Machine.discardGangWork g) := by
  unfold Machine.discardGangWork
  try dsimp only
  repeat' (first
    | with_reducible exact Only.pure _
    | with_reducible exact Only.now
    | (with_reducible apply Only.retireGang <;> assumption)
    | (with_reducible apply Only.dropFaults <;> assumption)
    | with_reducible refine Only.bind ?_ fun _ => ?_
    | with_reducible refine Only.each fun _ => ?_
    | with_reducible refine Only.map ?_
    | split)

theorem Only.keepOrder {F : List Field} (h0 : Field.mem ∈ F) (g : Nat) : Only F (Machine.keepOrder g) := by
  unfold Machine.keepOrder
  try dsimp only
  repeat' (first
    | with_reducible exact Only.pure _
    | with_reducible exact Only.now
    | (with_reducible apply Only.modVis <;> assumption)
    | with_reducible refine Only.bind ?_ fun _ => ?_
    | with_reducible refine Only.each fun _ => ?_
    | with_reducible refine Only.map ?_
    | split)

theorem Only.haltSpill {F : List Field} (h0 : Field.ctxs ∈ F) (h1 : Field.waves ∈ F) (h2 : Field.parts ∈ F) (h3 : Field.wgs ∈ F) (h4 : Field.gangs ∈ F) (k : Nat) (va kind : Nat) : Only F (Machine.haltSpill k va kind) := by
  unfold Machine.haltSpill
  try dsimp only
  repeat' (first
    | with_reducible exact Only.pure _
    | with_reducible exact Only.now
    | (with_reducible apply Only.haltAt <;> assumption)
    | with_reducible refine Only.bind ?_ fun _ => ?_
    | with_reducible refine Only.each fun _ => ?_
    | with_reducible refine Only.map ?_
    | split)

theorem Only.settleAnswer {F : List Field} (h0 : Field.dev ∈ F) (h1 : Field.mem ∈ F) (h2 : Field.badDram ∈ F) (h3 : Field.badSram ∈ F) (h4 : Field.ctxs ∈ F) (h5 : Field.waves ∈ F) (h6 : Field.clusters ∈ F) (h7 : Field.dies ∈ F) (h8 : Field.parts ∈ F) (h9 : Field.links ∈ F) (h10 : Field.wgs ∈ F) (h11 : Field.gangs ∈ F) (h12 : Field.launches ∈ F) (h13 : Field.devs ∈ F) (r : FaultRecord) (fail : Bool) : Only F (Machine.settleAnswer r fail) := by
  unfold Machine.settleAnswer
  try dsimp only
  repeat' (first
    | with_reducible exact Only.pure _
    | with_reducible exact Only.now
    | (with_reducible apply Only.modWave <;> assumption)
    | (with_reducible apply Only.modGang <;> assumption)
    | (with_reducible apply Only.raiseEvent <;> assumption)
    | (with_reducible apply Only.endSpill <;> assumption)
    | (with_reducible apply Only.setBound <;> assumption)
    | (with_reducible apply Only.modBound <;> assumption)
    | (with_reducible apply Only.poisonBound <;> assumption)
    | (with_reducible apply Only.discardGangWork <;> assumption)
    | (with_reducible apply Only.haltSpill <;> assumption)
    | with_reducible refine Only.bind ?_ fun _ => ?_
    | with_reducible refine Only.each fun _ => ?_
    | with_reducible refine Only.map ?_
    | split)

theorem Only.settleHeld {F : List Field} (h0 : Field.dev ∈ F) (h1 : Field.mem ∈ F) (h2 : Field.badDram ∈ F) (h3 : Field.badSram ∈ F) (h4 : Field.ctxs ∈ F) (h5 : Field.waves ∈ F) (h6 : Field.clusters ∈ F) (h7 : Field.dies ∈ F) (h8 : Field.parts ∈ F) (h9 : Field.links ∈ F) (h10 : Field.wgs ∈ F) (h11 : Field.gangs ∈ F) (h12 : Field.launches ∈ F) (h13 : Field.devs ∈ F) (ctxid : Nat) : Only F (Machine.settleHeld ctxid) := by
  unfold Machine.settleHeld
  try dsimp only
  repeat' (first
    | with_reducible exact Only.pure _
    | with_reducible exact Only.now
    | (with_reducible apply Only.modDctx <;> assumption)
    | (with_reducible apply Only.settleAnswer <;> assumption)
    | with_reducible refine Only.bind ?_ fun _ => ?_
    | with_reducible refine Only.each fun _ => ?_
    | with_reducible refine Only.map ?_
    | split)

theorem Only.loadSpad {F : List Field} (h0 : Field.mem ∈ F) (h1 : Field.badDram ∈ F) (h2 : Field.badSram ∈ F) (h3 : Field.clusters ∈ F) (s0 : State) (g : Nat) : Only F (Machine.loadSpad s0 g) := by
  unfold Machine.loadSpad
  try dsimp only
  repeat' (first
    | with_reducible exact Only.pure _
    | with_reducible exact Only.now
    | (with_reducible apply Only.writeLocs <;> assumption)
    | (with_reducible apply Only.poisonLocs <;> assumption)
    | (with_reducible apply Only.tallyMoved <;> assumption)
    | with_reducible refine Only.bind ?_ fun _ => ?_
    | with_reducible refine Only.each fun _ => ?_
    | with_reducible refine Only.map ?_
    | split)

theorem Only.rearm {F : List Field} (h0 : Field.wgs ∈ F) (g : Nat) : Only F (Machine.rearm g) := by
  unfold Machine.rearm
  try dsimp only
  repeat' (first
    | with_reducible exact Only.pure _
    | with_reducible exact Only.now
    | (with_reducible apply Only.modWg <;> assumption)
    | with_reducible refine Only.bind ?_ fun _ => ?_
    | with_reducible refine Only.each fun _ => ?_
    | with_reducible refine Only.map ?_
    | split)

theorem Only.loadElements {F : List Field} (h0 : Field.badRegs ∈ F) (h1 : Field.badAccs ∈ F) (h2 : Field.vregs ∈ F) (h3 : Field.accs ∈ F) (s0 : State) (g : Nat) : Only F (Machine.loadElements s0 g) := by
  unfold Machine.loadElements
  try dsimp only
  repeat' (first
    | with_reducible exact Only.pure _
    | with_reducible exact Only.now
    | (with_reducible refine Only.emit fun f hf => ?_; simp at hf; subst hf; assumption)
    | (with_reducible refine Only.emits fun e he f hf => ?_; simp at he; grind [Effect.writes])
    | with_reducible refine Only.bind ?_ fun _ => ?_
    | with_reducible refine Only.each fun _ => ?_
    | with_reducible refine Only.map ?_
    | split)

theorem Only.loadMember {F : List Field} (h0 : Field.ctxs ∈ F) (h1 : Field.waves ∈ F) (h2 : Field.wgs ∈ F) (h3 : Field.gangs ∈ F) (s0 : State) (g : Nat) : Only F (Machine.loadMember s0 g) := by
  unfold Machine.loadMember
  try dsimp only
  repeat' (first
    | with_reducible exact Only.pure _
    | with_reducible exact Only.now
    | (with_reducible apply Only.setCtx <;> assumption)
    | (with_reducible apply Only.modWave <;> assumption)
    | (with_reducible apply Only.modWg <;> assumption)
    | (with_reducible apply Only.modGang <;> assumption)
    | with_reducible refine Only.bind ?_ fun _ => ?_
    | with_reducible refine Only.each fun _ => ?_
    | with_reducible refine Only.map ?_
    | split)

theorem Only.recoverRole {F : List Field} (h0 : Field.ctxs ∈ F) (h1 : Field.waves ∈ F) (h2 : Field.wgs ∈ F) (g role : Nat) : Only F (Machine.recoverRole g role) := by
  unfold Machine.recoverRole
  try dsimp only
  repeat' (first
    | with_reducible exact Only.pure _
    | with_reducible exact Only.now
    | (with_reducible apply Only.setCtx <;> assumption)
    | (with_reducible apply Only.modWave <;> assumption)
    | (with_reducible apply Only.modWg <;> assumption)
    | with_reducible refine Only.bind ?_ fun _ => ?_
    | with_reducible refine Only.each fun _ => ?_
    | with_reducible refine Only.map ?_
    | split)

theorem Only.readAreas {F : List Field} (h0 : Field.dev ∈ F) (h1 : Field.mem ∈ F) (h2 : Field.badDram ∈ F) (h3 : Field.badSram ∈ F) (h4 : Field.clusters ∈ F) (h5 : Field.dies ∈ F) (h6 : Field.parts ∈ F) (h7 : Field.links ∈ F) (h8 : Field.gangs ∈ F) (h9 : Field.devs ∈ F) (g : Nat) : Only F (Machine.readAreas g) := by
  unfold Machine.readAreas
  try dsimp only
  repeat' (first
    | with_reducible exact Only.pure _
    | with_reducible exact Only.now
    | (with_reducible apply Only.modGang <;> assumption)
    | (with_reducible apply Only.touchL2 <;> assumption)
    | (with_reducible apply Only.usePages <;> assumption)
    | (with_reducible apply Only.pauseGang <;> assumption)
    | with_reducible refine Only.bind ?_ fun _ => ?_
    | with_reducible refine Only.each fun _ => ?_
    | with_reducible refine Only.map ?_
    | split)

theorem Only.refuseRestore {F : List Field} (h0 : Field.dev ∈ F) (h1 : Field.mem ∈ F) (h2 : Field.badDram ∈ F) (h3 : Field.badSram ∈ F) (h4 : Field.ctxs ∈ F) (h5 : Field.waves ∈ F) (h6 : Field.clusters ∈ F) (h7 : Field.dies ∈ F) (h8 : Field.parts ∈ F) (h9 : Field.links ∈ F) (h10 : Field.wgs ∈ F) (h11 : Field.gangs ∈ F) (g : Nat) (bad : List (Nat × Nat × Nat × Nat)) : Only F (Machine.refuseRestore g bad) := by
  unfold Machine.refuseRestore
  try dsimp only
  repeat' (first
    | with_reducible exact Only.pure _
    | with_reducible exact Only.now
    | (with_reducible apply Only.modGang <;> assumption)
    | (with_reducible apply Only.raiseEvent <;> assumption)
    | (with_reducible apply Only.coreWrite <;> assumption)
    | (with_reducible apply Only.leaveCluster <;> assumption)
    | with_reducible refine Only.bind ?_ fun _ => ?_
    | with_reducible refine Only.each fun _ => ?_
    | with_reducible refine Only.map ?_
    | split)

theorem Only.restoreGang {F : List Field} (h0 : Field.dev ∈ F) (h1 : Field.mem ∈ F) (h2 : Field.badDram ∈ F) (h3 : Field.badSram ∈ F) (h4 : Field.badRegs ∈ F) (h5 : Field.badAccs ∈ F) (h6 : Field.vregs ∈ F) (h7 : Field.accs ∈ F) (h8 : Field.ctxs ∈ F) (h9 : Field.waves ∈ F) (h10 : Field.clusters ∈ F) (h11 : Field.dies ∈ F) (h12 : Field.parts ∈ F) (h13 : Field.links ∈ F) (h14 : Field.wgs ∈ F) (h15 : Field.gangs ∈ F) (h16 : Field.launches ∈ F) (h17 : Field.devs ∈ F) (g : Nat) : Only F (Machine.restoreGang g) := by
  unfold Machine.restoreGang
  try dsimp only
  repeat' (first
    | with_reducible exact Only.pure _
    | with_reducible exact Only.now
    | (with_reducible apply Only.modWg <;> assumption)
    | (with_reducible apply Only.modGang <;> assumption)
    | (with_reducible apply Only.preempt <;> assumption)
    | (with_reducible apply Only.endSpill <;> assumption)
    | (with_reducible refine Only.withSpills (by assumption) _ _ ?_)
    | (with_reducible apply Only.dropKernelLines <;> assumption)
    | (with_reducible apply Only.settleHeld <;> assumption)
    | (with_reducible apply Only.loadSpad <;> assumption)
    | (with_reducible apply Only.rearm <;> assumption)
    | (with_reducible apply Only.loadElements <;> assumption)
    | (with_reducible apply Only.loadMember <;> assumption)
    | (with_reducible apply Only.recoverRole <;> assumption)
    | (with_reducible apply Only.readAreas <;> assumption)
    | (with_reducible apply Only.refuseRestore <;> assumption)
    | with_reducible refine Only.bind ?_ fun _ => ?_
    | with_reducible refine Only.each fun _ => ?_
    | with_reducible refine Only.map ?_
    | split)

theorem Only.placeAgain {F : List Field} (h0 : Field.ctxs ∈ F) (h1 : Field.waves ∈ F) (h2 : Field.clusters ∈ F) (h3 : Field.wgs ∈ F) (h4 : Field.gangs ∈ F) (h5 : Field.devs ∈ F) (g : Nat) : Only F (Machine.placeAgain g) := by
  unfold Machine.placeAgain
  try dsimp only
  repeat' (first
    | with_reducible exact Only.pure _
    | with_reducible exact Only.now
    | (with_reducible apply Only.modWg <;> assumption)
    | (with_reducible apply Only.modGang <;> assumption)
    | (with_reducible apply Only.modQueue <;> assumption)
    | (with_reducible apply Only.notePlaced <;> assumption)
    | (with_reducible apply Only.wakeClusters <;> assumption)
    | (with_reducible apply Only.reserve <;> assumption)
    | with_reducible refine Only.bind ?_ fun _ => ?_
    | with_reducible refine Only.each fun _ => ?_
    | with_reducible refine Only.map ?_
    | split)

theorem Only.busWrite {F : List Field} (h0 : Field.mem ∈ F) (h1 : Field.badDram ∈ F) (h2 : Field.badSram ∈ F) (a : Nat) (bytes : List Byte) : Only F (Machine.busWrite a bytes) := by
  unfold Machine.busWrite
  try dsimp only
  repeat' (first
    | with_reducible exact Only.pure _
    | with_reducible exact Only.now
    | (with_reducible apply Only.keepWrite <;> assumption)
    | with_reducible refine Only.bind ?_ fun _ => ?_
    | with_reducible refine Only.each fun _ => ?_
    | with_reducible refine Only.map ?_
    | split)

theorem Only.completeCommand {F : List Field} (h0 : Field.mem ∈ F) (h1 : Field.badDram ∈ F) (h2 : Field.badSram ∈ F) (h3 : Field.parts ∈ F) (h : CmdHead) (op status result : Nat) : Only F (Machine.completeCommand h op status result) := by
  unfold Machine.completeCommand
  try dsimp only
  repeat' (first
    | with_reducible exact Only.pure _
    | with_reducible exact Only.now
    | (with_reducible apply Only.raiseEvent <;> assumption)
    | (with_reducible apply Only.busWrite <;> assumption)
    | with_reducible refine Only.bind ?_ fun _ => ?_
    | with_reducible refine Only.each fun _ => ?_
    | with_reducible refine Only.map ?_
    | split)

theorem Only.beginSuspend {F : List Field} (h0 : Field.wgs ∈ F) (h1 : Field.gangs ∈ F) (h2 : Field.devs ∈ F) (ctxid : Nat) : Only F (Machine.beginSuspend ctxid) := by
  unfold Machine.beginSuspend
  try dsimp only
  repeat' (first
    | with_reducible exact Only.pure _
    | with_reducible exact Only.now
    | (with_reducible apply Only.modDctx <;> assumption)
    | (with_reducible apply Only.preempt <;> assumption)
    | with_reducible refine Only.bind ?_ fun _ => ?_
    | with_reducible refine Only.each fun _ => ?_
    | with_reducible refine Only.map ?_
    | split)

theorem Only.resumeDev {F : List Field} (h0 : Field.dev ∈ F) (h1 : Field.mem ∈ F) (h2 : Field.badDram ∈ F) (h3 : Field.badSram ∈ F) (h4 : Field.ctxs ∈ F) (h5 : Field.waves ∈ F) (h6 : Field.clusters ∈ F) (h7 : Field.dies ∈ F) (h8 : Field.parts ∈ F) (h9 : Field.links ∈ F) (h10 : Field.wgs ∈ F) (h11 : Field.gangs ∈ F) (h12 : Field.launches ∈ F) (h13 : Field.devs ∈ F) (ctxid : Nat) : Only F (Machine.resumeDev ctxid) := by
  unfold Machine.resumeDev
  try dsimp only
  repeat' (first
    | with_reducible exact Only.pure _
    | with_reducible exact Only.now
    | (with_reducible apply Only.modDctx <;> assumption)
    | (with_reducible apply Only.flushFaults <;> assumption)
    | (with_reducible apply Only.settleHeld <;> assumption)
    | with_reducible refine Only.bind ?_ fun _ => ?_
    | with_reducible refine Only.each fun _ => ?_
    | with_reducible refine Only.map ?_
    | split)

theorem Only.killRanks {F : List Field} (h0 : Field.dev ∈ F) (ctxid : Nat) : Only F (Machine.killRanks ctxid) := by
  unfold Machine.killRanks
  try dsimp only
  repeat' (first
    | with_reducible exact Only.pure _
    | with_reducible exact Only.now
    | (with_reducible apply Only.modDevice <;> assumption)
    | with_reducible refine Only.bind ?_ fun _ => ?_
    | with_reducible refine Only.each fun _ => ?_
    | with_reducible refine Only.map ?_
    | split)

theorem Only.dropContextCaches {F : List Field} (h0 : Field.clusters ∈ F) (h1 : Field.dies ∈ F) (ctxid : Nat) : Only F (Machine.dropContextCaches ctxid) := by
  unfold Machine.dropContextCaches
  try dsimp only
  repeat' (first
    | with_reducible exact Only.pure _
    | with_reducible exact Only.now
    | (with_reducible apply Only.modCluster <;> assumption)
    | (with_reducible apply Only.modDie <;> assumption)
    | with_reducible refine Only.bind ?_ fun _ => ?_
    | with_reducible refine Only.each fun _ => ?_
    | with_reducible refine Only.map ?_
    | split)

theorem Only.destroyDev {F : List Field} (h0 : Field.dev ∈ F) (h1 : Field.mem ∈ F) (h2 : Field.badDram ∈ F) (h3 : Field.badSram ∈ F) (h4 : Field.ctxs ∈ F) (h5 : Field.waves ∈ F) (h6 : Field.clusters ∈ F) (h7 : Field.dies ∈ F) (h8 : Field.links ∈ F) (h9 : Field.wgs ∈ F) (h10 : Field.gangs ∈ F) (h11 : Field.launches ∈ F) (h12 : Field.devs ∈ F) (ctxid : Nat) : Only F (Machine.destroyDev ctxid) := by
  unfold Machine.destroyDev
  try dsimp only
  repeat' (first
    | with_reducible exact Only.pure _
    | with_reducible exact Only.now
    | (with_reducible apply Only.modLaunch <;> assumption)
    | (with_reducible apply Only.modDctx <;> assumption)
    | (with_reducible apply Only.retireGang <;> assumption)
    | (with_reducible apply Only.killRanks <;> assumption)
    | (with_reducible apply Only.dropContextCaches <;> assumption)
    | with_reducible refine Only.bind ?_ fun _ => ?_
    | with_reducible refine Only.each fun _ => ?_
    | with_reducible refine Only.map ?_
    | split)

theorem Only.resumeRecord {F : List Field} (h0 : Field.launches ∈ F) (h1 : Field.devs ∈ F) (ctxid : Nat) (q : Queue) (bytes : List Byte) (placed : Nat) (hold : Nat → Queue → Queue) : Only F (Machine.resumeRecord ctxid q bytes placed hold) := by
  unfold Machine.resumeRecord
  try dsimp only
  repeat' (first
    | with_reducible exact Only.pure _
    | with_reducible exact Only.now
    | (with_reducible apply Only.modQueue <;> assumption)
    | (with_reducible refine Only.emit fun f hf => ?_; simp at hf; subst hf; assumption)
    | (with_reducible refine Only.emits fun e he f hf => ?_; simp at he; grind [Effect.writes])
    | with_reducible refine Only.bind ?_ fun _ => ?_
    | with_reducible refine Only.each fun _ => ?_
    | with_reducible refine Only.map ?_
    | split)

theorem Only.resumeLaunches {F : List Field} (h0 : Field.mem ∈ F) (h1 : Field.badRegs ∈ F) (h2 : Field.vregs ∈ F) (h3 : Field.ctxs ∈ F) (h4 : Field.waves ∈ F) (h5 : Field.clusters ∈ F) (h6 : Field.parts ∈ F) (h7 : Field.wgs ∈ F) (h8 : Field.gangs ∈ F) (h9 : Field.launches ∈ F) (h10 : Field.devs ∈ F) (ctxid : Nat) (c : List Byte) : Only F (Machine.resumeLaunches ctxid c) := by
  unfold Machine.resumeLaunches
  try dsimp only
  repeat' (first
    | with_reducible exact Only.pure _
    | with_reducible exact Only.now
    | (with_reducible apply Only.launch <;> assumption)
    | (with_reducible apply Only.resumeRecord <;> assumption)
    | with_reducible refine Only.bind ?_ fun _ => ?_
    | with_reducible refine Only.each fun _ => ?_
    | with_reducible refine Only.map ?_
    | split)

theorem Only.recreateGang {F : List Field} (h0 : Field.dev ∈ F) (h1 : Field.wgs ∈ F) (h2 : Field.gangs ∈ F) (h3 : Field.launches ∈ F) (h4 : Field.devs ∈ F) (ctxid save : Nat) (faults : List (Nat × List Byte)) : Only F (Machine.recreateGang ctxid save faults) := by
  unfold Machine.recreateGang
  try dsimp only
  repeat' (first
    | with_reducible exact Only.pure _
    | with_reducible exact Only.now
    | (with_reducible apply Only.freshIx <;> assumption)
    | (with_reducible apply Only.modDctx <;> assumption)
    | (with_reducible refine Only.emit fun f hf => ?_; simp at hf; subst hf; assumption)
    | (with_reducible refine Only.emits fun e he f hf => ?_; simp at he; grind [Effect.writes])
    | with_reducible refine Only.bind ?_ fun _ => ?_
    | with_reducible refine Only.each fun _ => ?_
    | with_reducible refine Only.map ?_
    | split)

theorem Only.loadFault {F : List Field} (h0 : Field.devs ∈ F) (ctxid : Nat) (b : List Byte) : Only F (Machine.loadFault ctxid b) := by
  unfold Machine.loadFault
  try dsimp only
  repeat' (first
    | with_reducible exact Only.pure _
    | with_reducible exact Only.now
    | (with_reducible apply Only.modDctx <;> assumption)
    | with_reducible refine Only.bind ?_ fun _ => ?_
    | with_reducible refine Only.each fun _ => ?_
    | with_reducible refine Only.map ?_
    | split)

theorem Only.rejoin {F : List Field} (h0 : Field.dev ∈ F) (h1 : Field.devs ∈ F) (ctxid : Nat) (c : List Byte) : Only F (Machine.rejoin ctxid c) := by
  unfold Machine.rejoin
  try dsimp only
  repeat' (first
    | with_reducible exact Only.pure _
    | with_reducible exact Only.now
    | (with_reducible apply Only.modDevice <;> assumption)
    | (with_reducible apply Only.freshIx <;> assumption)
    | (with_reducible apply Only.modDctx <;> assumption)
    | with_reducible refine Only.bind ?_ fun _ => ?_
    | with_reducible refine Only.each fun _ => ?_
    | with_reducible refine Only.map ?_
    | split)

theorem Only.loadImage {F : List Field} (h0 : Field.dev ∈ F) (h1 : Field.mem ∈ F) (h2 : Field.badRegs ∈ F) (h3 : Field.vregs ∈ F) (h4 : Field.ctxs ∈ F) (h5 : Field.waves ∈ F) (h6 : Field.clusters ∈ F) (h7 : Field.parts ∈ F) (h8 : Field.wgs ∈ F) (h9 : Field.gangs ∈ F) (h10 : Field.launches ∈ F) (h11 : Field.devs ∈ F) (ctxid : Nat) (records : List (Nat × List Byte)) : Only F (Machine.loadImage ctxid records) := by
  unfold Machine.loadImage
  try dsimp only
  repeat' (first
    | with_reducible exact Only.pure _
    | with_reducible exact Only.now
    | (with_reducible apply Only.modDctx <;> assumption)
    | (with_reducible apply Only.resumeLaunches <;> assumption)
    | (with_reducible apply Only.recreateGang <;> assumption)
    | (with_reducible apply Only.loadFault <;> assumption)
    | (with_reducible apply Only.rejoin <;> assumption)
    | with_reducible refine Only.bind ?_ fun _ => ?_
    | with_reducible refine Only.each fun _ => ?_
    | with_reducible refine Only.map ?_
    | split)

theorem Only.setEntry {F : List Field} (h0 : Field.dev ∈ F) (e : BoundaryEntry) : Only F (Machine.setEntry e) := by
  unfold Machine.setEntry
  try dsimp only
  repeat' (first
    | with_reducible exact Only.pure _
    | with_reducible exact Only.now
    | (with_reducible apply Only.modDevice <;> assumption)
    | with_reducible refine Only.bind ?_ fun _ => ?_
    | with_reducible refine Only.each fun _ => ?_
    | with_reducible refine Only.map ?_
    | split)

theorem Only.suspendHolders {F : List Field} (h0 : Field.parts ∈ F) (h1 : Field.wgs ∈ F) (h2 : Field.gangs ∈ F) (h3 : Field.devs ∈ F) (part : Nat) (holders : List Nat) : Only F (Machine.suspendHolders part holders) := by
  unfold Machine.suspendHolders
  try dsimp only
  repeat' (first
    | with_reducible exact Only.pure _
    | with_reducible exact Only.now
    | (with_reducible apply Only.modPart <;> assumption)
    | (with_reducible apply Only.beginSuspend <;> assumption)
    | with_reducible refine Only.bind ?_ fun _ => ?_
    | with_reducible refine Only.each fun _ => ?_
    | with_reducible refine Only.map ?_
    | split)

theorem Only.endWait {F : List Field} (h0 : Field.dev ∈ F) (h1 : Field.mem ∈ F) (h2 : Field.badDram ∈ F) (h3 : Field.badSram ∈ F) (h4 : Field.ctxs ∈ F) (h5 : Field.waves ∈ F) (h6 : Field.clusters ∈ F) (h7 : Field.dies ∈ F) (h8 : Field.parts ∈ F) (h9 : Field.links ∈ F) (h10 : Field.wgs ∈ F) (h11 : Field.gangs ∈ F) (h12 : Field.launches ∈ F) (h13 : Field.devs ∈ F) (p : Partition) : Only F (Machine.endWait p) := by
  unfold Machine.endWait
  try dsimp only
  repeat' (first
    | with_reducible exact Only.pure _
    | with_reducible exact Only.now
    | (with_reducible apply Only.modDevice <;> assumption)
    | (with_reducible apply Only.modDctx <;> assumption)
    | (with_reducible apply Only.resumeDev <;> assumption)
    | (with_reducible apply Only.setEntry <;> assumption)
    | with_reducible refine Only.bind ?_ fun _ => ?_
    | with_reducible refine Only.each fun _ => ?_
    | with_reducible refine Only.map ?_
    | split)

theorem Only.replyTo {F : List Field} (h0 : Field.dev ∈ F) (func : Nat) (st : ReplyStatus) (bytes : List Byte) : Only F (Machine.replyTo func st bytes) := by
  unfold Machine.replyTo
  try dsimp only
  repeat' (first
    | with_reducible exact Only.pure _
    | with_reducible exact Only.now
    | (with_reducible apply Only.modDevice <;> assumption)
    | with_reducible refine Only.bind ?_ fun _ => ?_
    | with_reducible refine Only.each fun _ => ?_
    | with_reducible refine Only.map ?_
    | split)

theorem Only.ringBell {F : List Field} (h0 : Field.devs ∈ F) (part : Nat) (v : Word) : Only F (Machine.ringBell part v) := by
  unfold Machine.ringBell
  try dsimp only
  repeat' (first
    | with_reducible exact Only.pure _
    | with_reducible exact Only.now
    | (with_reducible apply Only.ringDoorbell <;> assumption)
    | with_reducible refine Only.bind ?_ fun _ => ?_
    | with_reducible refine Only.each fun _ => ?_
    | with_reducible refine Only.map ?_
    | split)

theorem Only.writeHarness {F : List Field} (h0 : Field.dev ∈ F) (func : Nat) (v : W32) : Only F (Machine.writeHarness func v) := by
  unfold Machine.writeHarness
  try dsimp only
  repeat' (first
    | with_reducible exact Only.pure _
    | with_reducible exact Only.now
    | (with_reducible apply Only.modDevice <;> assumption)
    | with_reducible refine Only.bind ?_ fun _ => ?_
    | with_reducible refine Only.each fun _ => ?_
    | with_reducible refine Only.map ?_
    | split)

theorem Only.writeLimit {F : List Field} (h0 : Field.dev ∈ F) (func : Nat) (v : Word) : Only F (Machine.writeLimit func v) := by
  unfold Machine.writeLimit
  try dsimp only
  repeat' (first
    | with_reducible exact Only.pure _
    | with_reducible exact Only.now
    | (with_reducible apply Only.modDevice <;> assumption)
    | with_reducible refine Only.bind ?_ fun _ => ?_
    | with_reducible refine Only.each fun _ => ?_
    | with_reducible refine Only.map ?_
    | split)

theorem Only.writeDomain {F : List Field} (h0 : Field.regs ∈ F) (func reg : Nat) (v : Word) : Only F (Machine.writeDomain func reg v) := by
  unfold Machine.writeDomain
  try dsimp only
  repeat' (first
    | with_reducible exact Only.pure _
    | with_reducible exact Only.now
    | (with_reducible apply Only.modReg <;> assumption)
    | with_reducible refine Only.bind ?_ fun _ => ?_
    | with_reducible refine Only.each fun _ => ?_
    | with_reducible refine Only.map ?_
    | split)

theorem Only.writeSlot {F : List Field} (h0 : Field.dev ∈ F) (h1 : Field.regs ∈ F) (h2 : Field.parts ∈ F) (func part off : Nat) (v : Word) : Only F (Machine.writeSlot func part off v) := by
  unfold Machine.writeSlot
  try dsimp only
  repeat' (first
    | with_reducible exact Only.pure _
    | with_reducible exact Only.now
    | (with_reducible apply Only.modPart <;> assumption)
    | (with_reducible apply Only.writeHarness <;> assumption)
    | (with_reducible apply Only.writeLimit <;> assumption)
    | (with_reducible apply Only.writeDomain <;> assumption)
    | with_reducible refine Only.bind ?_ fun _ => ?_
    | with_reducible refine Only.each fun _ => ?_
    | with_reducible refine Only.map ?_
    | split)

theorem Only.writeBar0 {F : List Field} (h0 : Field.dev ∈ F) (h1 : Field.regs ∈ F) (h2 : Field.parts ∈ F) (func part off bytes : Nat) (v : Word) : Only F (Machine.writeBar0 func part off bytes v) := by
  unfold Machine.writeBar0
  try dsimp only
  repeat' (first
    | with_reducible exact Only.pure _
    | with_reducible exact Only.now
    | (with_reducible apply Only.writeSlot <;> assumption)
    | with_reducible refine Only.bind ?_ fun _ => ?_
    | with_reducible refine Only.each fun _ => ?_
    | with_reducible refine Only.map ?_
    | split)

theorem Only.performRequest {F : List Field} (h0 : Field.mem ∈ F) (h1 : Field.badDram ∈ F) (h2 : Field.badSram ∈ F) (h3 : Field.dies ∈ F) (part : Nat) (a : HostAcc) : Only F (Machine.performRequest part a) := by
  unfold Machine.performRequest
  try dsimp only
  repeat' (first
    | with_reducible exact Only.pure _
    | with_reducible exact Only.now
    | (with_reducible apply Only.writeLocs <;> assumption)
    | (with_reducible apply Only.touchL2 <;> assumption)
    | with_reducible refine Only.bind ?_ fun _ => ?_
    | with_reducible refine Only.each fun _ => ?_
    | with_reducible refine Only.map ?_
    | split)

theorem Only.forward {F : List Field} (h0 : Field.links ∈ F) (package : Nat) (a : HostAcc) : Only F (Machine.forward package a) := by
  unfold Machine.forward
  try dsimp only
  repeat' (first
    | with_reducible exact Only.pure _
    | with_reducible exact Only.now
    | (with_reducible apply Only.modLink <;> assumption)
    | (with_reducible apply Only.sendFar <;> assumption)
    | with_reducible refine Only.bind ?_ fun _ => ?_
    | with_reducible refine Only.each fun _ => ?_
    | with_reducible refine Only.map ?_
    | split)

theorem Only.completeFetch {F : List Field} (h0 : Field.ctxs ∈ F) (h1 : Field.clusters ∈ F) (k : Nat) (f : Fill) (ok : Bool) : Only F (Machine.completeFetch k f ok) := by
  unfold Machine.completeFetch
  try dsimp only
  repeat' (first
    | with_reducible exact Only.pure _
    | with_reducible exact Only.now
    | (with_reducible apply Only.modCtx <;> assumption)
    | (with_reducible apply Only.modCluster <;> assumption)
    | with_reducible refine Only.bind ?_ fun _ => ?_
    | with_reducible refine Only.each fun _ => ?_
    | with_reducible refine Only.map ?_
    | split)

theorem Only.completeAgent {F : List Field} (h0 : Field.dev ∈ F) (h1 : Field.mem ∈ F) (h2 : Field.badDram ∈ F) (h3 : Field.badSram ∈ F) (h4 : Field.ctxs ∈ F) (h5 : Field.waves ∈ F) (h6 : Field.clusters ∈ F) (h7 : Field.dies ∈ F) (h8 : Field.parts ∈ F) (h9 : Field.links ∈ F) (h10 : Field.wgs ∈ F) (h11 : Field.gangs ∈ F) (h12 : Field.launches ∈ F) (h13 : Field.devs ∈ F) (a : Agent) (ok : Bool) : Only F (Machine.completeAgent a ok) := by
  unfold Machine.completeAgent
  try dsimp only
  repeat' (first
    | with_reducible exact Only.pure _
    | with_reducible exact Only.now
    | (with_reducible apply Only.modCtx <;> assumption)
    | (with_reducible apply Only.modWave <;> assumption)
    | (with_reducible apply Only.completeFar <;> assumption)
    | (with_reducible apply Only.completeFetch <;> assumption)
    | with_reducible refine Only.bind ?_ fun _ => ?_
    | with_reducible refine Only.each fun _ => ?_
    | with_reducible refine Only.map ?_
    | split)

theorem Only.topologyChange {F : List Field} (h0 : Field.dev ∈ F) : Only F (Machine.topologyChange) := by
  unfold Machine.topologyChange
  try dsimp only
  repeat' (first
    | with_reducible exact Only.pure _
    | with_reducible exact Only.now
    | (with_reducible apply Only.modDevice <;> assumption)
    | with_reducible refine Only.bind ?_ fun _ => ?_
    | with_reducible refine Only.each fun _ => ?_
    | with_reducible refine Only.map ?_
    | split)

theorem Only.linkEvent {F : List Field} (h0 : Field.parts ∈ F) (link : Nat) : Only F (Machine.linkEvent link) := by
  unfold Machine.linkEvent
  try dsimp only
  repeat' (first
    | with_reducible exact Only.pure _
    | with_reducible exact Only.now
    | (with_reducible apply Only.raiseEvent <;> assumption)
    | with_reducible refine Only.bind ?_ fun _ => ?_
    | with_reducible refine Only.each fun _ => ?_
    | with_reducible refine Only.map ?_
    | split)

theorem Only.startRetrain {F : List Field} (h0 : Field.dev ∈ F) (h1 : Field.parts ∈ F) (h2 : Field.links ∈ F) (link : Nat) : Only F (Machine.startRetrain link) := by
  unfold Machine.startRetrain
  try dsimp only
  repeat' (first
    | with_reducible exact Only.pure _
    | with_reducible exact Only.now
    | (with_reducible apply Only.modLink <;> assumption)
    | (with_reducible apply Only.topologyChange <;> assumption)
    | (with_reducible apply Only.linkEvent <;> assumption)
    | with_reducible refine Only.bind ?_ fun _ => ?_
    | with_reducible refine Only.each fun _ => ?_
    | with_reducible refine Only.map ?_
    | split)

theorem Only.noteSlow {F : List Field} (h0 : Field.regs ∈ F) : Only F (Machine.noteSlow) := by
  unfold Machine.noteSlow
  try dsimp only
  repeat' (first
    | with_reducible exact Only.pure _
    | with_reducible exact Only.now
    | (with_reducible apply Only.modReg <;> assumption)
    | with_reducible refine Only.bind ?_ fun _ => ?_
    | with_reducible refine Only.each fun _ => ?_
    | with_reducible refine Only.map ?_
    | split)

theorem Only.raiseDomain {F : List Field} (h0 : Field.clusters ∈ F) (h1 : Field.regs ∈ F) (r : Nat) : Only F (Machine.raiseDomain r) := by
  unfold Machine.raiseDomain
  try dsimp only
  repeat' (first
    | with_reducible exact Only.pure _
    | with_reducible exact Only.now
    | (with_reducible apply Only.modCluster <;> assumption)
    | (with_reducible apply Only.noteSlow <;> assumption)
    | with_reducible refine Only.bind ?_ fun _ => ?_
    | with_reducible refine Only.each fun _ => ?_
    | with_reducible refine Only.map ?_
    | split)

theorem Only.alarmRaise {F : List Field} (h0 : Field.clusters ∈ F) (h1 : Field.regs ∈ F) (reg : Nat) : Only F (Machine.alarmRaise reg) := by
  unfold Machine.alarmRaise
  try dsimp only
  repeat' (first
    | with_reducible exact Only.pure _
    | with_reducible exact Only.now
    | (with_reducible apply Only.modReg <;> assumption)
    | (with_reducible apply Only.raiseDomain <;> assumption)
    | with_reducible refine Only.bind ?_ fun _ => ?_
    | with_reducible refine Only.each fun _ => ?_
    | with_reducible refine Only.map ?_
    | split)

theorem Only.lowerDomain {F : List Field} (h0 : Field.clusters ∈ F) (h1 : Field.regs ∈ F) (reg : Nat) : Only F (Machine.lowerDomain reg) := by
  unfold Machine.lowerDomain
  try dsimp only
  repeat' (first
    | with_reducible exact Only.pure _
    | with_reducible exact Only.now
    | (with_reducible apply Only.modCluster <;> assumption)
    | (with_reducible apply Only.modReg <;> assumption)
    | (with_reducible apply Only.noteSlow <;> assumption)
    | with_reducible refine Only.bind ?_ fun _ => ?_
    | with_reducible refine Only.each fun _ => ?_
    | with_reducible refine Only.map ?_
    | split)

theorem Only.note {F : List Field} (h0 : Field.dev ∈ F) (a : PowerAction) : Only F (Machine.note a) := by
  unfold Machine.note
  try dsimp only
  repeat' (first
    | with_reducible exact Only.pure _
    | with_reducible exact Only.now
    | (with_reducible apply Only.modDevice <;> assumption)
    | with_reducible refine Only.bind ?_ fun _ => ?_
    | with_reducible refine Only.each fun _ => ?_
    | with_reducible refine Only.map ?_
    | split)

theorem Only.throttle {F : List Field} (h0 : Field.dev ∈ F) (h1 : Field.clusters ∈ F) (h2 : Field.regs ∈ F) (h3 : Field.wgs ∈ F) (h4 : Field.gangs ∈ F) (domain cluster : Nat) : Only F (Machine.throttle domain cluster) := by
  unfold Machine.throttle
  try dsimp only
  repeat' (first
    | with_reducible exact Only.pure _
    | with_reducible exact Only.now
    | (with_reducible apply Only.modCluster <;> assumption)
    | (with_reducible apply Only.modReg <;> assumption)
    | (with_reducible apply Only.preempt <;> assumption)
    | (with_reducible apply Only.raiseDomain <;> assumption)
    | (with_reducible apply Only.note <;> assumption)
    | with_reducible refine Only.bind ?_ fun _ => ?_
    | with_reducible refine Only.each fun _ => ?_
    | with_reducible refine Only.map ?_
    | split)

theorem Only.reverse {F : List Field} (h0 : Field.clusters ∈ F) (h1 : Field.regs ∈ F) (a : PowerAction) : Only F (Machine.reverse a) := by
  unfold Machine.reverse
  try dsimp only
  repeat' (first
    | with_reducible exact Only.pure _
    | with_reducible exact Only.now
    | (with_reducible apply Only.modCluster <;> assumption)
    | (with_reducible apply Only.modReg <;> assumption)
    | (with_reducible apply Only.lowerDomain <;> assumption)
    | with_reducible refine Only.bind ?_ fun _ => ?_
    | with_reducible refine Only.each fun _ => ?_
    | with_reducible refine Only.map ?_
    | split)

theorem Only.unthrottle {F : List Field} (h0 : Field.dev ∈ F) (h1 : Field.clusters ∈ F) (h2 : Field.regs ∈ F) : Only F (Machine.unthrottle) := by
  unfold Machine.unthrottle
  try dsimp only
  repeat' (first
    | with_reducible exact Only.pure _
    | with_reducible exact Only.now
    | (with_reducible apply Only.modDevice <;> assumption)
    | (with_reducible apply Only.reverse <;> assumption)
    | with_reducible refine Only.bind ?_ fun _ => ?_
    | with_reducible refine Only.each fun _ => ?_
    | with_reducible refine Only.map ?_
    | split)

theorem Only.afterRemap {F : List Field} (h0 : Field.dev ∈ F) (h1 : Field.mem ∈ F) (h2 : Field.badDram ∈ F) (h3 : Field.badSram ∈ F) (h4 : Field.clusters ∈ F) (h5 : Field.dies ∈ F) (h6 : Field.parts ∈ F) (h7 : Field.links ∈ F) (h8 : Field.devs ∈ F) : Only F (Machine.afterRemap) := by
  unfold Machine.afterRemap
  try dsimp only
  repeat' (first
    | with_reducible exact Only.pure _
    | with_reducible exact Only.now
    | (with_reducible apply Only.flushFaults <;> assumption)
    | (with_reducible apply Only.sealFull <;> assumption)
    | with_reducible refine Only.bind ?_ fun _ => ?_
    | with_reducible refine Only.each fun _ => ?_
    | with_reducible refine Only.map ?_
    | split)

theorem Only.poisonEvent {F : List Field} (h0 : Field.parts ∈ F) (cls num addr size : Nat) : Only F (Machine.poisonEvent cls num addr size) := by
  unfold Machine.poisonEvent
  try dsimp only
  repeat' (first
    | with_reducible exact Only.pure _
    | with_reducible exact Only.now
    | (with_reducible apply Only.raiseEvent <;> assumption)
    | with_reducible refine Only.bind ?_ fun _ => ?_
    | with_reducible refine Only.each fun _ => ?_
    | with_reducible refine Only.map ?_
    | split)

theorem Only.poisonElement {F : List Field} (h0 : Field.parts ∈ F) (c size : Nat) : Only F (Machine.poisonElement c size) := by
  unfold Machine.poisonElement
  try dsimp only
  repeat' (first
    | with_reducible exact Only.pure _
    | with_reducible exact Only.now
    | (with_reducible apply Only.poisonEvent <;> assumption)
    | with_reducible refine Only.bind ?_ fun _ => ?_
    | with_reducible refine Only.each fun _ => ?_
    | with_reducible refine Only.map ?_
    | split)

theorem Only.releaseSpared {F : List Field} (h0 : Field.gangs ∈ F) (c : Nat) : Only F (Machine.releaseSpared c) := by
  unfold Machine.releaseSpared
  try dsimp only
  repeat' (first
    | with_reducible exact Only.pure _
    | with_reducible exact Only.now
    | (with_reducible apply Only.modGang <;> assumption)
    | with_reducible refine Only.bind ?_ fun _ => ?_
    | with_reducible refine Only.each fun _ => ?_
    | with_reducible refine Only.map ?_
    | split)

theorem Only.missLine {F : List Field} (h0 : Field.dev ∈ F) (h1 : Field.mem ∈ F) (h2 : Field.badDram ∈ F) (h3 : Field.badSram ∈ F) (h4 : Field.ctxs ∈ F) (h5 : Field.clusters ∈ F) (h6 : Field.dies ∈ F) (h7 : Field.links ∈ F) (k line pa : Nat) (x : Xlated) : Only F (Machine.missLine k line pa x) := by
  unfold Machine.missLine
  try dsimp only
  repeat' (first
    | with_reducible exact Only.pure _
    | with_reducible exact Only.now
    | (with_reducible apply Only.modCtx <;> assumption)
    | (with_reducible apply Only.useXlated <;> assumption)
    | (with_reducible apply Only.startIcFill <;> assumption)
    | with_reducible refine Only.bind ?_ fun _ => ?_
    | with_reducible refine Only.each fun _ => ?_
    | with_reducible refine Only.map ?_
    | split)

theorem Only.fetchTrap {F : List Field} (h0 : Field.ctxs ∈ F) (h1 : Field.waves ∈ F) (h2 : Field.parts ∈ F) (h3 : Field.wgs ∈ F) (h4 : Field.gangs ∈ F) (k pc : Nat) (r : TrapRecord) : Only F (Machine.fetchTrap k pc r) := by
  unfold Machine.fetchTrap
  try dsimp only
  repeat' (first
    | with_reducible exact Only.pure _
    | with_reducible exact Only.now
    | (with_reducible apply Only.takeTrap <;> assumption)
    | with_reducible refine Only.bind ?_ fun _ => ?_
    | with_reducible refine Only.each fun _ => ?_
    | with_reducible refine Only.map ?_
    | split)

theorem Only.noteFetch {F : List Field} (h0 : Field.clusters ∈ F) (h1 : Field.dies ∈ F) (k : Nat) (i : Instr) : Only F (Machine.noteFetch k i) := by
  unfold Machine.noteFetch
  try dsimp only
  repeat' (first
    | with_reducible exact Only.pure _
    | with_reducible exact Only.now
    | (with_reducible apply Only.installTlb <;> assumption)
    | with_reducible refine Only.bind ?_ fun _ => ?_
    | with_reducible refine Only.each fun _ => ?_
    | with_reducible refine Only.map ?_
    | split)

theorem Only.command {F : List Field} (h0 : Field.mem ∈ F) (h1 : Field.badDram ∈ F) (h2 : Field.badSram ∈ F) (h3 : Field.parts ∈ F)
    (h : CmdHead) (op status : Nat) {a : Act Nat} (ha : Only F a) : Only F (Machine.command h op status a) := by
  unfold Machine.command
  split
  · exact Only.completeCommand h0 h1 h2 h3 _ _ _ _
  · exact Only.bind ha fun _ => Only.completeCommand h0 h1 h2 h3 _ _ _ _

theorem Only.waitingCommand {F : List Field} (h0 : Field.mem ∈ F) (h1 : Field.badDram ∈ F) (h2 : Field.badSram ∈ F)
    (h3 : Field.parts ∈ F) (h : CmdHead) (op status : Nat) (i : Instr) {a : Act Unit} (ha : Only F a) :
    Only F (Machine.waitingCommand h op status i a) := by
  unfold Machine.waitingCommand
  split
  · exact Only.completeCommand h0 h1 h2 h3 _ _ _ _
  · exact Only.bind (Only.modPart h3 _ _) fun _ => ha

theorem Only.forPart {F : List Field} (h0 : Field.dev ∈ F) (func : Nat) {f : Nat → Act Unit} (hf : ∀ p, Only F (f p)) :
    Only F (Machine.forPart func f) := by
  refine Only.bind Only.now fun s => ?_
  split
  · exact hf _
  · exact Only.replyTo h0 _ _ _

end Sys2Proof.Machine
end

