-- ==== Sys2Proof/Tests/Slice0.lean ====
section
/-! SUPPORT. Tests: words that the encoding tables give, terms that well-formedness refuses, one step of each instruction on a small
state with the result the manual gives, and for each obligation with hypotheses a state that meets them. -/
open Sys2Proof Sys2Proof.Machine
namespace Sys2Proof.Tests
set_option Elab.async false

/-! ### Decoding: words written out from the encoding tables -/

/-- R37, R143, Table 2.4: fn10 in bits 31 to 22; d = 5, a = 6, b = 7. -/
theorem decode_alu :
    decodeTableWord 32 0x000E6282 = some (.add 5 6 7) ∧
    decodeTableWord 32 0x004E6282 = some (.sub 5 6 7) ∧
    decodeTableWord 32 0x008E6282 = some (.and_ 5 6 7) ∧
    decodeTableWord 32 0x00CE6282 = some (.or_ 5 6 7) ∧
    decodeTableWord 32 0x010E6282 = some (.xor_ 5 6 7) ∧
    decodeTableWord 32 0x014E6282 = some (.shl 5 6 7) ∧
    decodeTableWord 32 0x018E6282 = some (.shr 5 6 7) ∧
    decodeTableWord 32 0x01CE6282 = some (.sar 5 6 7) ∧
    decodeTableWord 32 0x020E6282 = some (.mul 5 6 7) ∧
    decodeTableWord 32 0x024E6282 = some (.mulh 5 6 7) ∧
    decodeTableWord 32 0x028E6282 = some (.mulhn 5 6 7) ∧
    decodeTableWord 32 0x02CE6282 = some (.div 5 6 7) ∧
    decodeTableWord 32 0x030E6282 = some (.divn 5 6 7) ∧
    decodeTableWord 32 0x034E6282 = some (.rem 5 6 7) ∧
    decodeTableWord 32 0x038E6282 = some (.remn 5 6 7) ∧
    decodeTableWord 32 0x03CE6282 = some (.min_ 5 6 7) ∧
    decodeTableWord 32 0x040E6282 = some (.max_ 5 6 7) ∧
    decodeTableWord 32 0x044E6282 = some (.minn 5 6 7) ∧
    decodeTableWord 32 0x048E6282 = some (.maxn 5 6 7) ∧
    decodeTableWord 32 0x04CE6282 = some (.slt 5 6 7) ∧
    decodeTableWord 32 0x050E6282 = some (.sltn 5 6 7) ∧
    decodeTableWord 32 0x054E6282 = some (.seq 5 6 7) ∧
    decodeTableWord 32 0x05806282 = some (.clz 5 6) ∧
    decodeTableWord 32 0x05C06282 = some (.ctz 5 6) ∧
    decodeTableWord 32 0x06006282 = some (.popc 5 6) ∧
    decodeTableWord 32 0x064E6282 = some (.addw 5 6 7) ∧
    decodeTableWord 32 0x068E6282 = some (.subw 5 6 7) ∧
    decodeTableWord 32 0x06CE6282 = some (.andn 5 6 7) := by decide

/-- R34, R144, R145, Table 2.3: d = 5, a = 6, imm12 = 0xFFD, a shift by 63. -/
theorem decode_immediate :
    decodeTableWord 32 0xFFD06284 = some (.addi 5 6 0xFFD) ∧
    decodeTableWord 32 0xFFD06286 = some (.andi 5 6 0xFFD) ∧
    decodeTableWord 32 0xFFD06288 = some (.ori 5 6 0xFFD) ∧
    decodeTableWord 32 0xFFD0628A = some (.xori 5 6 0xFFD) ∧
    decodeTableWord 32 0xFFD0628E = some (.slti 5 6 0xFFD) ∧
    decodeTableWord 32 0xFFD2628E = some (.sltni 5 6 0xFFD) ∧
    decodeTableWord 32 0xFFD4628E = some (.seqi 5 6 0xFFD) ∧
    decodeTableWord 32 0x03F0628C = some (.shli 5 6 63) ∧
    decodeTableWord 32 0x03F2628C = some (.shri 5 6 63) ∧
    decodeTableWord 32 0x03F4628C = some (.sari 5 6 63) ∧
    decodeTableWord 32 0x12346290 = some (.shi 5 0x12346) ∧
    decodeTableWord 32 0x00124C12 = some (.pchi 24 0x124) ∧
    decodeTableWord 32 0xFFC05284 = some (.addi 5 5 0xFFC) ∧
    decodeTableWord 32 0x0400600C = none := by decide

/-- R36, R38, R146, R148, Tables 2.3 and 2.5. -/
theorem decode_memory :
    decodeTableWord 32 0x7FF06294 = some (.ld .b 5 6 0x7FF) ∧
    decodeTableWord 32 0x7FF26294 = some (.ld .h 5 6 0x7FF) ∧
    decodeTableWord 32 0x7FF46294 = some (.ld .w 5 6 0x7FF) ∧
    decodeTableWord 32 0x7FF66294 = some (.ld .d 5 6 0x7FF) ∧
    decodeTableWord 32 0x7FF86294 = some (.ld .bn 5 6 0x7FF) ∧
    decodeTableWord 32 0x7FFA6294 = some (.ld .hn 5 6 0x7FF) ∧
    decodeTableWord 32 0x7FFC6294 = some (.ld .wn 5 6 0x7FF) ∧
    decodeTableWord 32 0x80006296 = some (.st .b 5 6 0x800) ∧
    decodeTableWord 32 0x80026296 = some (.st .h 5 6 0x800) ∧
    decodeTableWord 32 0x80046296 = some (.st .w 5 6 0x800) ∧
    decodeTableWord 32 0x80066296 = some (.st .d 5 6 0x800) ∧
    decodeTableWord 32 0x000E0014 = none ∧
    decodeTableWord 32 0x00080016 = none ∧
    decodeTableWord 32 0xCC128398 = some (.amo true .device .acqRel .add 7 8 9) ∧
    decodeTableWord 32 0x240E6298 = some (.amo false .gang .acquire .add 5 6 7) ∧
    decodeTableWord 32 0x244E6298 = some (.amo false .gang .acquire .min 5 6 7) ∧
    decodeTableWord 32 0x248E6298 = some (.amo false .gang .acquire .max 5 6 7) ∧
    decodeTableWord 32 0x24CE6298 = some (.amo false .gang .acquire .minn 5 6 7) ∧
    decodeTableWord 32 0x250E6298 = some (.amo false .gang .acquire .maxn 5 6 7) ∧
    decodeTableWord 32 0x254E6298 = some (.amo false .gang .acquire .and 5 6 7) ∧
    decodeTableWord 32 0x258E6298 = some (.amo false .gang .acquire .or 5 6 7) ∧
    decodeTableWord 32 0x25CE6298 = some (.amo false .gang .acquire .xor 5 6 7) ∧
    decodeTableWord 32 0x260E6298 = some (.amo false .gang .acquire .xchg 5 6 7) ∧
    decodeTableWord 32 0x264E6298 = some (.amo false .gang .acquire .fadd 5 6 7) ∧
    decodeTableWord 32 0x26806298 = some (.amo false .gang .acquire .load 5 6 0) ∧
    decodeTableWord 32 0xDACE6018 = some (.amo true .system .release .store 0 6 7) ∧
    decodeTableWord 32 0xBF0E6298 = some (.amo true .die .acqRel .cas 5 6 7) := by decide

/-- R149, R150 and the example of the rule: BLT s4, s5 back by three words; the JALR of the PCHI pair. -/
theorem decode_control :
    decodeTableWord 32 0xFFD4521A = some (.blt 4 5 0xFFD) ∧
    decodeTableWord 32 0x1230521A = some (.beq 4 5 0x123) ∧
    decodeTableWord 32 0x1232521A = some (.bne 4 5 0x123) ∧
    decodeTableWord 32 0x1234521A = some (.blt 4 5 0x123) ∧
    decodeTableWord 32 0x1236521A = some (.bge 4 5 0x123) ∧
    decodeTableWord 32 0x1238521A = some (.bltn 4 5 0x123) ∧
    decodeTableWord 32 0x123A521A = some (.bgen 4 5 0x123) ∧
    decodeTableWord 32 0x8000109C = some (.jal 1 0x80001) ∧
    decodeTableWord 32 0xFF81809E = some (.jalr 1 24 0xFF8) := by decide

/-- R158, R160 to R162, R268, R302, Tables 2.3, 6.9 and 6.10, with the words of the rules. -/
theorem decode_system :
    decodeTableWord 32 0 = some .gnop ∧
    decodeTableWord 32 0x00400000 = some .endRole ∧
    decodeTableWord 32 0x00BE0000 = some (.trap 31) ∧
    decodeTableWord 32 0x00C00000 = some .eret ∧
    decodeTableWord 32 0x01002480 = some (.featq 9 2) ∧
    decodeTableWord 32 0x01400000 = some .sdrain ∧
    decodeTableWord 32 0x011004C4 = some (.rdsr 9 0x011) ∧
    decodeTableWord 32 0x01224044 = some (.wrsr 0x012 4) ∧
    decodeTableWord 32 0xFFF06042 = some (.gpref 6 0xFFF) ∧
    decodeTableWord 32 0x00126042 = some (.dpref 6 1) ∧
    decodeTableWord 32 0x00000070 = some (.genExtension 0 0) ∧
    decodeTableWord 32 0x01800000 = none := by decide

/-- R152, R153, R212, R218, R221 to R223, R229, Table 2.3: WENTER of 768; STGT, CAPB as in Table 8.2. -/
theorem decode_window_and_stretch :
    decodeTableWord 32 0x30000020 = some (.wenter 24) ∧
    decodeTableWord 32 0x00000022 = some .wleave ∧
    decodeTableWord 32 0x000C5024 = some (.stgt 5 6) ∧
    decodeTableWord 32 0x00500026 = some (.capb 5) ∧
    decodeTableWord 32 0x00000028 = some .cape ∧
    decodeTableWord 32 0x03F0002A = some (.cdrop 63) ∧
    decodeTableWord 32 0x000093AC = some (.hset 7 9) ∧
    decodeTableWord 32 0x000090AE = some (.hstep 1 9) ∧
    decodeTableWord 32 0x00209030 = some (.rply 2 9) ∧
    decodeTableWord 32 0x000004B2 = some (.vread 9) := by decide

/-- R268, R280, R290, R291, R294, R368, Tables 2.3, 10.3, 11.6 and 16.3. -/
theorem decode_fence_barrier_mark :
    decodeTableWord 32 0x17400034 = some (.gfence true false true true false .device) ∧
    decodeTableWord 32 0x15400034 = none ∧
    decodeTableWord 32 0x06320036 = some (.barw true .grid 3) ∧
    decodeTableWord 32 0x01740036 = some (.baraw false .gang 7) ∧
    decodeTableWord 32 0x00F00036 = some (.bara .workgroup 15) ∧
    decodeTableWord 32 0x003004B8 = some (.wmrd 9 3) ∧
    decodeTableWord 32 0x03327038 = some (.wmwait .count 3 7) ∧
    decodeTableWord 32 0x02520038 = some (.wmwait .published 5 0) ∧
    decodeTableWord 32 0x00F40038 = some (.wmfree 15) ∧
    decodeTableWord 32 0x00160038 = some (.cpkill 1) ∧
    decodeTableWord 32 0x03000036 = none := by decide

/-- R234, R239, R240, R322 to R325, the words of Tables 9.2 and 13.3. -/
theorem decode_tile_and_queue :
    decodeTableWord 32 0x000291BA = some (.tcfg 1 3 9) ∧
    decodeTableWord 32 0x0002353C = some (.trd 1 10 3) ∧
    decodeTableWord 32 0x0020003E = some (.mclr 2) ∧
    decodeTableWord 32 0x0002703E = some (.mwait 7) ∧
    decodeTableWord 32 0x0030C4C0 = some (.qpush 9 12 3) ∧
    decodeTableWord 32 0x0032D4C0 = some (.qpop 9 13 3) ∧
    decodeTableWord 32 0x0034E540 = some (.qsig 10 14 3) ∧
    decodeTableWord 32 0x0036F5C0 = some (.qstat 11 15 3) := by decide

/-- R61, R62, Tables 2.13 and 2.14 and the words of R241, R245, R279, R327 and R421; LI64 has op6 0, d in bits 12 to 8, and its value in bits 127 to 64. -/
theorem decode_long :
    decodeTableWord 128 0x80000000000000010000000000000903 = some (.li64 9 0x8000000000000001) ∧
    decodeTableWord 128 0x00000000040000000008004000088207 =
      some (.mloop (
        { incB := 0x400, incA := 8, steps := 64, scope := .wave, release := false, acquire := false, clear := true, tB := 1, tA := 0
          acc := 2 })) ∧
    decodeTableWord 128 0x0485110B =
      some (.mdrain (
        { scale := 9, scope := .wave, release := false, saturate := true, rounding := .rz, addOn := false, tD := 2, acc := 1 })) ∧
    decodeTableWord 128 0x0033030F =
      some (.copy (
        { hint := .default, barrier := 0, arrive := false, scope := .workgroup, release := true, acquire := false, dims := 1, sB := 16
          wm := 3 })) ∧
    decodeTableWord 128 0x006D1413 = some (.nrec { scope := .workgroup, release := true, count := 3, sD := 8, sN := 20 }) ∧
    decodeTableWord 128 0xB0204817 =
      some (.cred (
        { scope := .system, release := true, acquire := false, red := .sum, type := .f32, op := .allreduce, wm := 2, sP := 8 })) ∧
    decodeTableWord 128 0x0000001B = none := by decide

/-- The operand fields of the sample lane words: class 01 and P in bits 2 to 0, C in bit 3, op8 in bits 11 to 4, the predicate, PN, S,
mod6, dst, srcA, srcB and srcC above (R40, Table 2.7). -/
def sampleLane : LaneWord :=
  { srcC := 795, srcB := 1, srcA := 802, dst := 9, mod6 := 0x2A, s := true, pn := false, pg := 5, c := false, p := true }

/-- R59, Table 2.12: op8 0x00 to 0x1D. -/
theorem decode_lane_integer :
    decodeLane 0xC6C01C8809AA5005 = some (.vnop sampleLane) ∧
    decodeLane 0xC6C01C8809AA5015 = some (.vadd sampleLane) ∧
    decodeLane 0xC6C01C8809AA5025 = some (.vsub sampleLane) ∧
    decodeLane 0xC6C01C8809AA5035 = some (.vmul sampleLane) ∧
    decodeLane 0xC6C01C8809AA5045 = some (.vmulh sampleLane) ∧
    decodeLane 0xC6C01C8809AA5055 = some (.vmad sampleLane) ∧
    decodeLane 0xC6C01C8809AA5065 = some (.vmin sampleLane) ∧
    decodeLane 0xC6C01C8809AA5075 = some (.vmax sampleLane) ∧
    decodeLane 0xC6C01C8809AA5085 = some (.vabsd sampleLane) ∧
    decodeLane 0xC6C01C8809AA5095 = some (.vand sampleLane) ∧
    decodeLane 0xC6C01C8809AA50A5 = some (.vor sampleLane) ∧
    decodeLane 0xC6C01C8809AA50B5 = some (.vxor sampleLane) ∧
    decodeLane 0xC6C01C8809AA50C5 = some (.vandn sampleLane) ∧
    decodeLane 0xC6C01C8809AA50D5 = some (.vshl sampleLane) ∧
    decodeLane 0xC6C01C8809AA50E5 = some (.vshr sampleLane) ∧
    decodeLane 0xC6C01C8809AA50F5 = some (.vrot sampleLane) ∧
    decodeLane 0xC6C01C8809AA5105 = some (.vbfx sampleLane) ∧
    decodeLane 0xC6C01C8809AA5115 = some (.vbfi sampleLane) ∧
    decodeLane 0xC6C01C8809AA5125 = some (.vpopc sampleLane) ∧
    decodeLane 0xC6C01C8809AA5135 = some (.vclz sampleLane) ∧
    decodeLane 0xC6C01C8809AA5145 = some (.vctz sampleLane) ∧
    decodeLane 0xC6C01C8809AA5155 = some (.vbrev sampleLane) ∧
    decodeLane 0xC6C01C8809AA5165 = some (.vpermb sampleLane) ∧
    decodeLane 0xC6C01C8809AA5175 = some (.vdiv sampleLane) ∧
    decodeLane 0xC6C01C8809AA5185 = some (.vrem sampleLane) ∧
    decodeLane 0xC6C01C8809AA5195 = some (.vaddc sampleLane) ∧
    decodeLane 0xC6C01C8809AA51A5 = some (.vcmp sampleLane) ∧
    decodeLane 0xC6C01C8809AA51B5 = some (.vmov sampleLane) ∧
    decodeLane 0xC6C01C8809AA51C5 = some (.vsel sampleLane) ∧
    decodeLane 0xC6C01C8809AA51D5 = some (.vlea sampleLane) := by decide

/-- R59, Table 2.12: op8 0x40 to 0x53 and 0x80 to 0x87. -/
theorem decode_lane_float :
    decodeLane 0xC6C01C8809AA5405 = some (.vfadd sampleLane) ∧
    decodeLane 0xC6C01C8809AA5415 = some (.vfsub sampleLane) ∧
    decodeLane 0xC6C01C8809AA5425 = some (.vfmul sampleLane) ∧
    decodeLane 0xC6C01C8809AA5435 = some (.vfmulz sampleLane) ∧
    decodeLane 0xC6C01C8809AA5445 = some (.vfma sampleLane) ∧
    decodeLane 0xC6C01C8809AA5455 = some (.vfmaz sampleLane) ∧
    decodeLane 0xC6C01C8809AA5465 = some (.vfmin sampleLane) ∧
    decodeLane 0xC6C01C8809AA5475 = some (.vfmax sampleLane) ∧
    decodeLane 0xC6C01C8809AA5485 = some (.vfsgn sampleLane) ∧
    decodeLane 0xC6C01C8809AA5495 = some (.vfcmp sampleLane) ∧
    decodeLane 0xC6C01C8809AA54A5 = some (.vfclass sampleLane) ∧
    decodeLane 0xC6C01C8809AA54B5 = some (.vfdiv sampleLane) ∧
    decodeLane 0xC6C01C8809AA54C5 = some (.vfsqrt sampleLane) ∧
    decodeLane 0xC6C01C8809AA54D5 = some (.vfrnd sampleLane) ∧
    decodeLane 0xC6C01C8809AA54E5 = some (.vfscale sampleLane) ∧
    decodeLane 0xC6C01C8809AA54F5 = some (.vfxtr sampleLane) ∧
    decodeLane 0xC6C01C8809AA5505 = some (.vcvtf sampleLane) ∧
    decodeLane 0xC6C01C8809AA5515 = some (.vcvtfi sampleLane) ∧
    decodeLane 0xC6C01C8809AA5525 = some (.vcvtif sampleLane) ∧
    decodeLane 0xC6C01C8809AA5535 = some (.vfdot2 sampleLane) ∧
    decodeLane 0xC6C01C8809AA5805 = some (.vrcp sampleLane) ∧
    decodeLane 0xC6C01C8809AA5815 = some (.vrsq sampleLane) ∧
    decodeLane 0xC6C01C8809AA5825 = some (.vexp2 sampleLane) ∧
    decodeLane 0xC6C01C8809AA5835 = some (.vlog2 sampleLane) ∧
    decodeLane 0xC6C01C8809AA5845 = some (.vsin sampleLane) ∧
    decodeLane 0xC6C01C8809AA5855 = some (.vcos sampleLane) ∧
    decodeLane 0xC6C01C8809AA5865 = some (.vtanh sampleLane) ∧
    decodeLane 0xC6C01C8809AA5875 = some (.vsigm sampleLane) := by decide

/-- R59, Table 2.12: op8 0x90 to 0x98, 0xB0 to 0xB5 and 0xE0 to 0xE4. -/
theorem decode_lane_other :
    decodeLane 0xC6C01C8809AA5905 = some (.vplop sampleLane) ∧
    decodeLane 0xC6C01C8809AA5915 = some (.vpmov sampleLane) ∧
    decodeLane 0xC6C01C8809AA5925 = some (.vshuf sampleLane) ∧
    decodeLane 0xC6C01C8809AA5935 = some (.vbcast sampleLane) ∧
    decodeLane 0xC6C01C8809AA5945 = some (.vrotl sampleLane) ∧
    decodeLane 0xC6C01C8809AA5955 = some (.vscan sampleLane) ∧
    decodeLane 0xC6C01C8809AA5965 = some (.vred sampleLane) ∧
    decodeLane 0xC6C01C8809AA5975 = some (.vvote sampleLane) ∧
    decodeLane 0xC6C01C8809AA5985 = some (.vbar sampleLane) ∧
    decodeLane 0xC6C01C8809AA5B05 = some (.vld sampleLane) ∧
    decodeLane 0xC6C01C8809AA5B15 = some (.vst sampleLane) ∧
    decodeLane 0xC6C01C8809AA5B25 = some (.vatom sampleLane) ∧
    decodeLane 0xC6C01C8809AA5B35 = some (.vcas sampleLane) ∧
    decodeLane 0xC6C01C8809AA5B45 = some (.vpref sampleLane) ∧
    decodeLane 0xC6C01C8809AA5B55 = some (.vfence sampleLane) ∧
    decodeLane 0xC6C01C8809AA5E05 = some (.vidot4 sampleLane) ∧
    decodeLane 0xC6C01C8809AA5E15 = some (.vidot8 sampleLane) ∧
    decodeLane 0xC6C01C8809AA5E25 = some (.vslice sampleLane) ∧
    decodeLane 0xC6C01C8809AA5E35 = some (.vslacc sampleLane) ∧
    decodeLane 0xC6C01C8809AA5E45 = some (.vplane sampleLane) := by decide

/-- The words of R40, R184, R250, R269, R369 and the release store of 10_ordering; an extension word; a reserved op8. -/
theorem decode_lane_examples :
    decodeLane 0xC7B4502028012019 = some (.vadd
      { srcC := 798, srcB := 837, srcA := 8, dst := 40, mod6 := 0, s := false, pn := true, pg := 2, c := true, p := false }) ∧
    decodeLane 0xC7B2702B074001A1 = some (.vcmp
      { srcC := 798, srcB := 807, srcA := 10, dst := 775, mod6 := 0x10, s := false, pn := false, pg := 0, c := false, p := false }) ∧
    decodeLane 0xE341505008040E31 = some (.vslacc
      { srcC := 909, srcB := 21, srcA := 20, dst := 8, mod6 := 1, s := false, pn := false, pg := 0, c := false, p := false }) ∧
    decodeLane 0x0731EC7B1E000B51 = some (.vfence
      { srcC := 0x01C, srcB := 798, srcA := 798, dst := 798, mod6 := 0, s := false, pn := false, pg := 0, c := false, p := false }) ∧
    decodeLane 0x0431EC7B1E000981 = some (.vbar
      { srcC := 0x010, srcB := 798, srcA := 798, dst := 798, mod6 := 0, s := false, pn := false, pg := 0, c := false, p := false }) ∧
    decodeLane 0x1AF2CC7802101B21 = some (.vatom
      { srcC := 0x06B, srcB := 812, srcA := 798, dst := 2, mod6 := 4, s := false, pn := false, pg := 1, c := false, p := false }) ∧
    decodeLane 0xC6C01C8809AA5F35 = some (.vext 3 sampleLane) ∧
    decodeLane 0xC6C01C8809AA51E5 = none := by decide

/-! ### Well-formedness: a term that each check refuses -/

def sampleMloop : MloopArgs :=
  { incB := 0, incA := 0, steps := 1, scope := .wave, release := false, acquire := false, clear := false, tB := 1, tA := 0, acc := 0 }
def sampleMdrain : MdrainArgs :=
  { scale := 0, scope := .wave, release := false, saturate := false, rounding := .rne, addOn := false, tD := 2, acc := 0 }
def sampleCopy : CopyArgs :=
  { hint := .default, barrier := 0, arrive := false, scope := .wave, release := false, acquire := false, dims := 0, sB := 16, wm := 3 }
def sampleNrec : NrecArgs := { scope := .wave, release := false, count := 0, sD := 8, sN := 20 }
def sampleCred : CredArgs :=
  { scope := .wave, release := false, acquire := false, red := .sum, type := .i32, op := .allreduce, wm := 2, sP := 8 }
/-- R32, R36, R39, R59, R62, R148, R160, R302: each names a limit that its term breaks by one. -/
theorem wellFormed_refuses :
    Instr.wellFormed (.featq 1 4) = false ∧
    Instr.wellFormed (.wenter 25) = false ∧
    Instr.wellFormed (.amo true .wave .acquire .load 1 2 3) = false ∧
    Instr.wellFormed (.amo true .wave .release .load 1 2 0) = false ∧
    Instr.wellFormed (.amo true .wave .release .store 1 2 3) = false ∧
    Instr.wellFormed (.amo true .wave .acqRel .store 0 2 3) = false ∧
    Instr.wellFormed (.wmwait .landed 0 1) = false ∧
    Instr.wellFormed (.rdsr 1 0x007) = false ∧
    Instr.wellFormed (.wrsr 0x042 1) = false ∧
    Instr.wellFormed (.mloop { sampleMloop with steps := 0 }) = false ∧
    Instr.wellFormed (.mloop { sampleMloop with scope := .device }) = false ∧
    Instr.wellFormed (.mdrain { sampleMdrain with scope := .gang }) = false ∧
    Instr.wellFormed (.copy { sampleCopy with dims := 3 }) = false ∧
    Instr.wellFormed (.copy { sampleCopy with sB := 0 }) = false ∧
    Instr.wellFormed (.copy { sampleCopy with sB := 28 }) = false ∧
    Instr.wellFormed (.copy { sampleCopy with barrier := 1 }) = false ∧
    Instr.wellFormed (.copy { sampleCopy with scope := .die }) = false ∧
    Instr.wellFormed (.nrec { sampleNrec with sD := 0 }) = false ∧
    Instr.wellFormed (.nrec { sampleNrec with sD := 25, count := 7 }) = false ∧
    Instr.wellFormed (.nrec { sampleNrec with scope := .die }) = false ∧
    Instr.wellFormed (.cred { sampleCred with type := .bytes }) = false ∧
    Instr.wellFormed (.cred { sampleCred with op := .allgather, red := .min }) = false ∧
    Instr.wellFormed (.cred { sampleCred with sP := 0 }) = false ∧
    Instr.wellFormed (.cred { sampleCred with sP := 29 }) = false ∧
    Instr.wellFormed (.cred { sampleCred with scope := .die }) = false ∧
    Instr.wellFormed (.emitLaneWord 0x3 none) = false ∧
    Instr.wellFormed (.emitLaneWord 0x1E1 none) = false ∧
    Instr.wellFormed (.emitLaneWord 0x1 (some 1)) = false := by
  decide
/-- The samples themselves are well formed, and so are the terms at the limits. -/
theorem wellFormed_admits :
    Instr.wellFormed (.mloop sampleMloop) = true ∧
    Instr.wellFormed (.mdrain sampleMdrain) = true ∧
    Instr.wellFormed (.copy sampleCopy) = true ∧
    Instr.wellFormed (.copy { sampleCopy with sB := 27 }) = true ∧
    Instr.wellFormed (.nrec sampleNrec) = true ∧
    Instr.wellFormed (.nrec { sampleNrec with sD := 24, count := 7 }) = true ∧
    Instr.wellFormed (.cred sampleCred) = true ∧
    Instr.wellFormed (.cred { sampleCred with sP := 28 }) = true ∧
    Instr.wellFormed (.wenter 24) = true ∧
    Instr.wellFormed (.featq 1 3) = true ∧
    Instr.wellFormed (.amo true .wave .acquire .load 1 2 0) = true ∧
    Instr.wellFormed (.emitLaneWord 0x1 none) = true := by
  decide
/-! ### Small states -/

/-- What a result that answers a next state says of it. -/
def got {α : Type} (r : Result) (f : State → α) : Option α :=
  match r with
  | .next t => some (f t)
  | _ => none
/-- The state that a result answers. -/
def after (r : Result) : State :=
  match r with
  | .next t => t
  | _ => State.reset
/-- The step that a result says does not happen. -/
def idle (r : Result) : Option String :=
  match r with
  | .fault (.notEnabled n) => some n
  | _ => none
/-- One role with one wave, all rights and every table, at the first word of its code. -/
def ready : State := State.reset.loadWord 32 0
def onCtx (f : Context → Context) (s : State) : State := { s with ctxs := s.ctxs.modify 0 f }
def onWave (f : Wave → Wave) (s : State) : State := { s with waves := s.waves.modify 0 f }
def onWg (f : Workgroup → Workgroup) (s : State) : State := { s with wgs := s.wgs.modify 0 f }
def onGang (f : Gang → Gang) (s : State) : State := { s with gangs := s.gangs.modify 0 f }
def onLaunch (f : Launch → Launch) (s : State) : State := { s with launches := s.launches.modify 0 f }
def onDctx (f : DevCtx → DevCtx) (s : State) : State := { s with devs := s.devs.modify 0 f }
def onPart (f : Partition → Partition) (s : State) : State := { s with parts := s.parts.modify 0 f }
def onLink (f : Link → Link) (s : State) : State := { s with links := s.links.modify 0 f }
def onCluster (f : Cluster → Cluster) (s : State) : State := { s with clusters := s.clusters.modify 0 f }
def onDie (f : Die → Die) (s : State) : State := { s with dies := s.dies.modify 0 f }
def onVault (f : Vault → Vault) (s : State) : State := { s with vaults := s.vaults.modify 0 f }
def onReg (f : Regulator → Regulator) (s : State) : State := { s with regs := s.regs.modify 0 f }
def onDev (f : Device → Device) (s : State) : State := { s with dev := f s.dev }
/-- The context with some registers set. -/
def withRegs (l : List (Nat × Word)) (s : State) : State :=
  onCtx (fun c => { c with s := l.foldl (fun r p => putAt 0 r p.1 p.2) c.s }) s
def inHandler (s : State) : State := onCtx (fun c => { c with mode := .handler }) s
/-- Memory with some bytes from a location on. -/
def withMem (loc : Nat) (bs : List Byte) (s : State) : State := after (commit (writeLocs (locRange loc bs.length) bs) s)
/-- The first byte of the scratchpad, as an address of its workgroup and as a location. -/
def spadVa : Word := 0x1100000000000
def spadAt : Nat := spadLoc 0 0

/-! ### Scalar words -/

/-- Register 5 after a word on s6 = x and s7 = y. -/
def alu (i : Instr) (x y : Word) : Option (Word × Word) :=
  got (exec i (withRegs [(6, x), (7, y)] ready)) fun t => (t.cur.rd 5, t.cur.pc)

/-- Table 6.4: sums and differences wrap; the logic words. -/
theorem test_add_to_andn :
    alu (.add 5 6 7) 3 (-1) = some (2, 0x1044) ∧ alu (.sub 5 6 7) 0 1 = some (-1, 0x1044) ∧
      alu (.and_ 5 6 7) 0xF0F0 0xFF00 = some (0xF000, 0x1044) ∧ alu (.or_ 5 6 7) 0xF0F0 0xFF00 = some (0xFFF0, 0x1044) ∧
      alu (.xor_ 5 6 7) 0xF0F0 0xFF00 = some (0x0FF0, 0x1044) ∧ alu (.andn 5 6 7) 0xF0F0 0xFF00 = some (0x00F0, 0x1044) := by
  decide +kernel
/-- Table 6.4: shifts take bits 5 to 0 of b. -/
theorem test_shifts :
    alu (.shl 5 6 7) 3 65 = some (6, 0x1044) ∧ alu (.shr 5 6 7) 0x8000000000000000 63 = some (1, 0x1044) ∧
      alu (.sar 5 6 7) 0x8000000000000000 127 = some (-1, 0x1044) ∧ alu (.shli 5 6 63) 1 0 = some (0x8000000000000000, 0x1044) ∧
      alu (.shri 5 6 63) (-1) 0 = some (1, 0x1044) ∧ alu (.sari 5 6 4) 0x8000000000000000 0 = some (0xF800000000000000, 0x1044) := by
  decide +kernel
/-- Table 6.4: products, and the division corners. -/
theorem test_mul_div :
    alu (.mul 5 6 7) (-2) 3 = some (-6, 0x1044) ∧ alu (.mulh 5 6 7) (-2) 3 = some (-1, 0x1044) ∧
      alu (.mulhn 5 6 7) 0x8000000000000000 6 = some (3, 0x1044) ∧
      alu (.div 5 6 7) 0x8000000000000000 (-1) = some (0x8000000000000000, 0x1044) ∧ alu (.divn 5 6 7) 7 0 = some (-1, 0x1044) ∧
      alu (.rem 5 6 7) (-7) 2 = some (-1, 0x1044) ∧ alu (.remn 5 6 7) 7 0 = some (7, 0x1044) := by
  decide +kernel
/-- Table 6.4: signed and unsigned comparisons, counts, and 32-bit sums. -/
theorem test_compare_count :
    alu (.min_ 5 6 7) (-1) 1 = some (-1, 0x1044) ∧ alu (.max_ 5 6 7) (-1) 1 = some (1, 0x1044) ∧
      alu (.minn 5 6 7) (-1) 1 = some (1, 0x1044) ∧ alu (.maxn 5 6 7) (-1) 1 = some (-1, 0x1044) ∧
      alu (.slt 5 6 7) (-1) 0 = some (1, 0x1044) ∧ alu (.sltn 5 6 7) (-1) 0 = some (0, 0x1044) ∧
      alu (.seq 5 6 7) 4 4 = some (1, 0x1044) ∧ alu (.clz 5 6) 1 0 = some (63, 0x1044) ∧ alu (.ctz 5 6) 0 0 = some (64, 0x1044) ∧
      alu (.popc 5 6) 0xFF 0 = some (8, 0x1044) ∧ alu (.addw 5 6 7) 0x7FFFFFFF 1 = some (0xFFFFFFFF80000000, 0x1044) ∧
      alu (.subw 5 6 7) 0x100000000 1 = some (-1, 0x1044) := by
  decide +kernel
/-- R144, R145, R62: immediates are sign-extended, and SLTNI compares the extended value unsigned. -/
theorem test_immediates :
    alu (.addi 5 6 0xFFC) 4 0 = some (0, 0x1044) ∧ alu (.andi 5 6 0xFF0) (-1) 0 = some (-16, 0x1044) ∧
      alu (.ori 5 6 0x800) 0 0 = some (-2048, 0x1044) ∧ alu (.xori 5 6 0xFFF) 1 0 = some (-2, 0x1044) ∧
      alu (.slti 5 6 0xFFF) 0 0 = some (0, 0x1044) ∧ alu (.sltni 5 6 0xFFF) 0 0 = some (1, 0x1044) ∧
      alu (.seqi 5 6 0xFFF) (-1) 0 = some (1, 0x1044) ∧ alu (.shi 5 0x80000) 0 0 = some (0xFFFFFFFF80000000, 0x1044) ∧
      alu (.pchi 5 0x124) 0 0 = some (0x125040, 0x1044) ∧ alu (.li64 5 0x8000000000000001) 0 0 = some (0x8000000000000001, 0x1050) := by
  decide +kernel
/-- R141: s0 reads zero and discards writes; in handler mode s24 is the bank's. -/
theorem test_register_file :
    (got (exec (.add 0 6 7) (withRegs [(6, 1)] ready)) fun t => (t.cur.rd 0, t.cur.pc)) = some (0, 0x1044) ∧
      (got (exec (.add 24 6 0) (inHandler (withRegs [(6, 9), (24, 5)] ready))) fun t => (t.cur.rd 24, t.cur.s.getD 24 0)) = some (9, 5) := by
  decide +kernel
/-- R149, R150: offsets count words; the example BLT goes back by 12 bytes; the PCHI pair of the manual at 0x40001000. -/
theorem test_branches :
    alu (.beq 6 7 2) 1 1 = some (0, 0x1048) ∧ alu (.bne 6 7 2) 1 1 = some (0, 0x1044) ∧ alu (.blt 6 7 0xFFD) (-1) 0 = some (0, 0x1034) ∧
      alu (.bge 6 7 3) 0 (-1) = some (0, 0x104C) ∧ alu (.bltn 6 7 2) (-1) 0 = some (0, 0x1044) ∧ alu (.bgen 6 7 2) (-1) 0 = some (0, 0x1048) ∧
      alu (.jal 5 0xFFFFF) 0 0 = some (0x1044, 0x103C) ∧ alu (.jalr 5 6 0xFF8) 0x2008 0 = some (0x1044, 0x2000) ∧
      (got (exec (.jalr 1 24 0xFF8) (onCtx (fun c => { c with pc := 0x40001004 }) (withRegs [(24, 0x40125000)] ready))) fun t =>
        (t.cur.rd 1, t.cur.pc)) = some (0x40001008, 0x40124FF8) := by
  decide +kernel
/-- R133, R150: a misaligned target halts a context without a handler, with cause 8, the target and kind 4; d stays. -/
theorem test_jalr_misaligned :
    (got (exec (.jalr 5 6 2) (withRegs [(6, 0x2000), (5, 7)] ready)) fun t =>
      (t.cur.status, t.cur.trap.cause, t.cur.trap.pc, t.cur.trap.info0, t.cur.trap.info1, t.cur.rd 5))
      = some (.halted, 8, 0x1040, 0x2002, 4, 7) := by
  decide +kernel

/-- R146, Table 6.5: loads extend by their size, from the scratchpad. -/
def loads (sz : LdSize) (i : BitVec 12) : Option Word :=
  got (exec (.ld sz 5 6 i) (withRegs [(6, spadVa)] (withMem spadAt [0x80, 0xFF, 1, 0x82, 0x11, 0x22, 0x33, 0x84] ready))) fun t => t.cur.rd 5
theorem test_ld :
    loads .b 0 = some (-128) ∧ loads .bn 0 = some 0x80 ∧ loads .h 2 = some 0xFFFFFFFFFFFF8201 ∧ loads .hn 2 = some 0x8201 ∧
      loads .w 4 = some 0xFFFFFFFF84332211 ∧ loads .wn 4 = some 0x84332211 ∧ loads .d 0 = some 0x843322118201FF80 := by
  decide +kernel
/-- R146: a store writes the low bytes, least significant first, and no others. -/
theorem test_st :
    (got (exec (.st .h 5 6 2) (withRegs [(6, spadVa), (5, 0x11223344)] ready)) fun t =>
      (t.byte (spadAt + 1), t.byte (spadAt + 2), t.byte (spadAt + 3), t.byte (spadAt + 4), t.cur.issued)) = some (0, 0x44, 0x33, 0, 1) := by
  decide +kernel
/-- R148, Table 6.6: the old value is sign-extended from 32 bits, for MAXN zero-extended; CAS takes its expected value from d; a store returns nothing. -/
def amos (wide : Bool) (op : AtomOp) (d b : Word) : Option (Word × Nat) :=
  got (exec (.amo wide .wave .relaxed op 5 6 7)
    (withRegs [(6, spadVa), (5, d), (7, b)] (withMem spadAt [0xFE, 0xFF, 0xFF, 0xFF, 1, 0, 0, 0] ready))) fun t =>
      (t.cur.rd 5, t.readLocs (locRange spadAt 8))
theorem test_amo_word :
    amos false .add 0 3 = some (-2, 0x100000001) ∧ amos false .max 0 1 = some (-2, 0x100000001) ∧
      amos false .maxn 0 1 = some (0xFFFFFFFE, 0x1FFFFFFFE) ∧ amos false .cas 0xFFFFFFFE 7 = some (-2, 0x100000007) ∧
      amos false .store 9 7 = some (9, 0x100000007) := by
  decide +kernel
theorem test_amo_wide :
    amos true .add 0 2 = some (0x1FFFFFFFE, 0x200000000) ∧ amos true .xchg 0 5 = some (0x1FFFFFFFE, 5) ∧
      amos true .cas 0 7 = some (0x1FFFFFFFE, 0x1FFFFFFFE) ∧ amos true .load 0 0 = some (0x1FFFFFFFE, 0x1FFFFFFFE) := by
  decide +kernel
/-- R133: a misaligned access traps with cause 8, its address and kind 4, and writes nothing. -/
theorem test_misaligned :
    (got (exec (.st .w 5 6 1) (withRegs [(6, spadVa), (5, 1)] ready)) fun t =>
      (t.cur.status, t.cur.trap.cause, t.cur.trap.info0, t.cur.trap.info1, t.mem.length)) =
      some (.halted, 8, spadVa + 1, 4, 0) := by
  decide +kernel

/-! ### System words and special registers -/

/-- A context whose device context has a handler at 0x9000. -/
def withHandler : State := onDctx (fun d => { d with desc := { d.desc with tvec := 0x9000 } }) ready
/-- R158, R164: TRAP 7 enters the handler with cause 19, its code, and EPC at the next word. -/
theorem test_trap :
    (got (exec (.trap 7) withHandler) fun t =>
      (t.cur.mode, t.cur.pc, t.cur.trap.cause, t.cur.trap.info0, t.cur.trap.pc, t.cur.trap.epc)) = some (.handler, 0x9000, 19, 7, 0x1040, 0x1044) := by
  decide +kernel
/-- R165: ERET goes to EPC in user mode; in user mode it is illegal, cause 1. -/
theorem test_eret :
    (got (exec .eret (onCtx (fun c => { c with mode := .handler, trap := { c.trap with epc := 0x1080 } }) ready)) fun t =>
      (t.cur.mode, t.cur.pc)) = some (.user, 0x1080) ∧
      (got (exec .eret withHandler) fun t => (t.cur.trap.cause, t.cur.trap.info0, t.cur.trap.epc)) = some (1, 0x00C00000, 0x1040) := by
  decide +kernel
/-- R167, R305: an extension word parks its context; the core then has it take the emulation trap, cause 4. -/
theorem test_gen_extension :
    let s := after (exec (.genExtension 2 5) withHandler)
    s.cur.status = .parked (.emulation 0x2F4) ∧
      (got (exec (.emulationComplete (.context 0)) s) fun t => (t.cur.trap.cause, t.cur.trap.epc)) = some (4, 0x1040) := by
  decide +kernel
/-- R158, R159, R230, R268: GNOP, SDRAIN and GFENCE step over; END ends the role. -/
theorem test_gnop_end_sdrain_gfence :
    (got (exec .gnop ready) fun t => t.cur.pc) = some 0x1044 ∧ (got (exec .endRole ready) fun t => (t.cur.status, t.cur.pc)) = some (.ended, 0x1044) ∧
      (got (exec .sdrain ready) fun t => t.cur.pc) = some 0x1044 ∧
      (got (exec (.gfence true true true true true .system) ready) fun t => t.cur.pc) = some 0x1044 := by
  decide +kernel
/-- R302, Table 12.2: class 0 is the architecture revision, class 3 counts clusters, dies and links. -/
theorem test_featq :
    (got (exec (.featq 5 0) ready) fun t => t.cur.rd 5) = some 2 ∧ (got (exec (.featq 5 3) ready) fun t => t.cur.rd 5) = some 0x420 := by
  decide +kernel
/-- R160: CTXID reads; WSEL writes; a write to a read-only register is illegal. -/
theorem test_rdsr_wrsr :
    (got (exec (.rdsr 5 0x001) ready) fun t => t.cur.rd 5) = some 1 ∧
      (got (exec (.wrsr 0x010 6) (withRegs [(6, 0xFA)] ready)) fun t => t.cur.xctl) = some 0xA ∧
      (got (exec (.wrsr 0x001 6) withHandler) fun t => t.cur.trap.cause) = some 1 ∧
      (got (exec (.wrsr 0x012 6) (withRegs [(6, 1)] withHandler)) fun t => t.cur.trap.cause) = some 1 := by
  decide +kernel
/-- R161: a prefetch of an address that does not translate is dropped. -/
theorem test_prefetch :
    (got (exec (.gpref 6 0) ready) fun t => t.cur.pc) = some 0x1044 ∧ (got (exec (.dpref 6 0) ready) fun t => t.cur.pc) = some 0x1044 := by
  decide +kernel
/-- R152, R153: a frame opens above the old one and closes again; a frame above W is the window trap, cause 16. -/
theorem test_wenter_wleave :
    (got (exec (.wenter 1) ready) fun t => (t.cur.win.base, t.cur.win.frame, t.cur.win.stack)) = some (0, 32, [(0, 0)]) ∧
      (got (exec .wleave (after (exec (.wenter 1) ready))) fun t => (t.cur.win.frame, t.cur.win.stack)) = some (0, []) ∧
      (got (exec (.wenter 3) withHandler) fun t => (t.cur.trap.cause, t.cur.trap.info0, t.cur.trap.info1)) = some (16, 0, 96) := by
  decide +kernel

/-! ### Witnesses: states that meet the hypotheses of the obligations on words, registers and accesses -/

/-- The first clause: ADDI at 0x1040 in a cached line, inside the code [0x1000, 0x2000). -/
theorem witness_step_word :
    let s := State.reset.loadWord 32 0xFFC05284
    let u := State.actingCtx { s with agenda := [] } 0
    let line := (loadLine 0xFFC05284).bytes
    s.agenda = [.ctx 0] ∧ s.mayRun 0 = true ∧ State.turnOf { s with agenda := [] } 0 = true ∧ u.trapDue 0 = false ∧
      u.codeLine 0 0x1040 = .bytes line ∧ line.length = 64 ∧ (u.ctx 0).pc.toNat = 0x1040 ∧ wordBytes (line.headD 0) = 4 ∧ u.codeExtent 0 = (0x1000, 0x2000) ∧
      (decode line).toOption.map (·.1) = some (.addi 5 5 0xFFC) := by
  decide +kernel
/-- The second and the third clause: a lane word with P = 1 as the last word of the code, and one with another behind it. -/
def pairLine (pc w : Nat) : State :=
  onCtx (fun c => { c with pc := BitVec.ofNat 64 pc })
    (onCluster (fun c => { c with icache := [{ ctxid := 1, line := pc / 64 * 64, bytes := leBytes 64 (w * 2 ^ (8 * (pc % 64))) }] })
      (State.reset.loadWord 128 0))
theorem witness_step_pair :
    let s := pairLine 0x1FF8 0x1D
    let u := State.actingCtx { s with agenda := [] } 0
    s.agenda = [.ctx 0] ∧ s.mayRun 0 = true ∧ State.turnOf { s with agenda := [] } 0 = true ∧ u.trapDue 0 = false ∧
      u.codeExtent 0 = (0x1000, 0x2000) ∧ (u.ctx 0).pc.toNat = 0x1FF8 ∧
      u.codeLine 0 0x1FF8 = .bytes (leBytes 64 (0x1D * 2 ^ 448)) ∧ ((leBytes 64 (0x1D * 2 ^ 448)).drop 56).headD 0 = 0x1D ∧
      wordBytes 0x1D = 8 ∧ bitAt 0x1D 2 = true := by
  decide +kernel
theorem witness_step_pair_next :
    let s := pairLine 0x1FF0 0x1D
    let u := State.actingCtx { s with agenda := [] } 0
    s.agenda = [.ctx 0] ∧ s.mayRun 0 = true ∧ State.turnOf { s with agenda := [] } 0 = true ∧ u.trapDue 0 = false ∧
      u.codeExtent 0 = (0x1000, 0x2000) ∧ (u.ctx 0).pc.toNat = 0x1FF0 ∧ u.codeLine 0 0x1FF8 = .bytes (leBytes 64 (0x1D * 2 ^ 384)) := by
  decide +kernel
/-- The words of no instruction: a branch of condition 6 (R149), and a long word of op6 6 (Table 2.13). -/
theorem witness_reserved : ReservedGen 0x000C001A ∧ ReservedLong 0x1B :=
  ⟨show 6 ≤ bits 0x000C001A 19 17 by decide, trivial⟩
theorem test_step_reserved :
    (got (step (State.reset.loadWord 32 0x000C001A)) fun t => (t.cur.trap.cause, t.cur.trap.info0)) = some (1, 0x000C001A) ∧
      (got (step (State.reset.loadWord 128 0x1B)) fun t => (t.cur.trap.cause, t.cur.trap.info0)) = some (1, 0x1B) := by
  decide +kernel

/-- TurnsRunTheirInstructions: a context with a trap due; one that is free; one behind another in the rotation; a wave with a word, and one
without; waves of which a handler word, an open chain and an older word go first; a record; a device step; writes and choices of the driver. -/
def owed : PendingTrap := { record := .of 12 1 2 3 4, seq := 0, wave := none }
def withRecord : State :=
  onPart (fun p => { p with cmd := { ring := 0x1000, size := 16, enable := true, err := false, wr := 1, rd := 0 } })
    (onDev (fun d => { d with images := [{ digest := [], runs := true }] }) State.reset)
theorem witness_turns :
    let a := { onCtx (fun c => { c with pending := [owed] }) ready with agenda := [.ctx 0] }
    let b := { State.reset with agenda := [.ctx 511] }
    let w := State.reset.loadWord 64 0x11
    let e := { State.reset with agenda := [.event .deviceReset] }
    let r := onCluster (fun c => { c with lastCtx := 15 }) ready
    let two (f g : Wave → Wave) : State := { w with waves := (w.waves.modify 1 fun _ => g (w.wave 0)).modify 0 f }
    let heads (s : State) : Bool := s.laneReady 1 && (s.wave 0).head.isSome && (s.wave 0).half.isNone && lexLt (s.laneRank 0) (s.laneRank 1)
    let younger (x : Wave) : Wave := { x with stream := x.stream.map fun y => match y with
      | .word y => .word { y with order := y.order + 1 }
      | y => y }
    (a.mayRun 0 = true ∧ a.turnOf 0 = true ∧ (State.actingCtx { a with agenda := [] } 0).trapDue 0 = true) ∧ b.mayRun 511 = false ∧
      (r.readyCtx 0 = true ∧ (r.cluster 0).lastCtx < 16 ∧ (0 + 15 - 15) % 16 < (1 % 16 + 15 - 15) % 16 ∧ r.turnOf 1 = false) ∧
      heads (two (fun x => { x with hbuf := x.head.toList.map fun y => { y with handler := true }, stream := [] }) id) = true ∧
      heads (two (fun x => { x with chain := true }) id) = true ∧ heads (two id younger) = true ∧
      ready.canonical ∧ (busLocs 0x1000 64).Nodup ∧ (ready.devIx 1).isSome = true ∧
      (w.agenda = [.wave 0] ∧ w.laneReady 0 = true ∧ ((w.wave 0).head.map fun x => decodeLane x.word.toNat) =
        some (some (.vadd { srcC := 0, srcB := 0, srcA := 0, dst := 0, mod6 := 0, s := false, pn := false, pg := 0, c := false, p := false }))) ∧
      State.reset.laneReady 1023 = false ∧ withRecord.hasRecord 0 = true ∧ (e.agenda = [.event .deviceReset] ∧ isEvent .deviceReset = true) := by
  decide +kernel

/-- DecodeInvertsEncode, EveryStepKeepsTheInvariant and MemoryReadsWhatWasWritten. -/
theorem witness_encoded : encode (.addi 5 5 0xFFC) = some (32, 0xFFC05284) ∧ Instr.wellFormed (.addi 5 5 0xFFC) = true := by decide
theorem witness_invariant : ready.Inv ∧ (got (step ready) fun t => t.cur.pc) = some 0x1044 := by decide +kernel
theorem witness_memory :
    let s := withMem spadAt [1, 2, 3] ready
    s.canonical ∧ [spadAt, 0].Nodup ∧ (got (commit (writeLocs [spadAt, 0] [0, 9]) s) fun t => (t.mem, t.byte spadAt, t.byte 0)) =
      some ([(0, 9), (spadAt + 1, 2), (spadAt + 2, 3)], 0, 9) := by
  decide +kernel
/-- ScalarRegisterFile, at its boundaries s1, s24 and s31 in handler mode. -/
theorem witness_registers :
    let c := (inHandler ready).cur
    c.mode = .handler ∧ (24 : Reg).toNat = 24 ∧ (c.wr 24 7).rd 24 = 7 ∧ (c.wr 31 7).rd 31 = 7 ∧ (c.wr 23 7).rd 23 = 7 ∧
      ({ c.wr 24 7 with mode := .user } : Context).rd 24 = 0 ∧ ({ c.wr 23 7 with mode := .user } : Context).rd 23 = 7 := by
  decide +kernel
/-- AluResults, ImmediateResults and BranchesAndJumps; both targets of JALR. -/
theorem witness_acting :
    Acting ready ∧ (ready.rd 0 + (8 : BitVec 12).signExtend 64) &&& 3 = 0 ∧ (ready.rd 0 + (2 : BitVec 12).signExtend 64) &&& 3 ≠ 0 := by
  decide +kernel

/-- ScalarAccessesComplete: the last bytes of the scratchpad, for each size; atomic widths. -/
def atEnd (n : Nat) : State := withRegs [(6, spadVa + BitVec.ofNat 64 (4096 - n))] ready
theorem witness_accesses :
    ready.canonical ∧ (∀ n ∈ [1, 2, 4, 8],
      let s := atEnd n
      let locs := locRange (spadAt + 4096 - n) n
      s.genAccess 0 (s.rd 6) n n .load true = .ok locs none ∧ s.dcMiss 0 none (s.rd 6) = none ∧
        s.genAccess 0 (s.rd 6) n n .store false = .ok locs none ∧ s.genAccess 0 (s.rd 6) n n .atomic true = .ok locs none ∧
        locs.Nodup) := by
  decide +kernel
/-- A store to a page of the host window, which a TLB entry translates: it needs no reply (R414). -/
def hostPage : TlbEntry :=
  { ctxid := 1, va := 0x2000, size := 12, frame := 0x8_0000_0000_0000, flags := 0x4FF, ret := 0, leafAt := 0 }
def withPage : State := onCluster (fun c => { c with tlb := [hostPage] }) (withRegs [(6, 0x2000)] ready)
theorem witness_paged_store :
    withPage.genAccess 0 0x2000 8 8 .store false =
      .ok (locRange 0x8_0000_0000_0000 8) (some { pa := 0x8_0000_0000_0000, entry := hostPage, walked := false }) := by
  decide +kernel
/-- ScalarAccessChecks, where its clauses meet: the first and the last address of each aperture. -/
theorem witness_access_checks :
    let f (a : Word) := ready.genAccess 0 a 8 8 .load true
    f 0x1000000000000 = .trap (accessRecord 7 0x1000000000000 0) ∧ f 0x10FFFFFFFFFF8 = .trap (accessRecord 7 0x10FFFFFFFFFF8 0) ∧
      f 0x1100000000000 = .ok (locRange spadAt 8) none ∧ f 0x1100000000FF8 = .ok (locRange (spadAt + 0xFF8) 8) none ∧
      f 0x1100000001000 = .trap (accessRecord 7 0x1100000001000 0) ∧ f 0x11FFFFFFFFFF8 = .trap (accessRecord 7 0x11FFFFFFFFFF8 0) ∧
      f 0x1100000001001 = .trap (accessRecord 8 0x1100000001001 4) ∧ ready.landing (locRange spadAt 8) = .clear ∧
      ready.held (locRange spadAt 8) = false ∧ ready.poisoned (locRange spadAt 8) = false ∧ (ready.wg 0).cluster < 32 := by
  decide +kernel

/-- TakingATrap and TrapAndReturnWords. -/
theorem witness_trap :
    let d := withHandler
    0 < d.ctxs.length ∧ (d.ctx 0).mode = .user ∧ (d.dctx (d.ctx 0).ctxid).desc.tvec ≠ 0 ∧ (TrapRecord.of 63).cause < 64 ∧
      (ready.dctx (ready.ctx 0).ctxid).desc.tvec = 0 ∧ ((inHandler d).ctx 0).mode = .handler := by
  decide +kernel
theorem witness_return :
    let e := inHandler ready
    let r := onWave (fun w => { w with status := .stopped, stopSeq := some 0 }) (onCtx (fun c => { c with resumes := some 0 }) e)
    let p := onCtx (fun c => { c with pending := [owed, owed] }) withHandler
    let ended := onCtx (fun c => { c with pending := [owed], status := .ended }) withHandler
    (Acting e ∧ e.cur.mode = .handler ∧ e.cur.em.handlerChain.lastC = false) ∧
      (r.cur.resumes = some 0 ∧ 0 < r.waves.length ∧ (r.wave 0).status = .stopped ∧
        (r.cur.pending.any fun p => p.wave == some 0) = false ∧ (got (exec .eret r) fun t => (t.wave 0).status) = some .live) ∧
      (onCtx (fun c => { c with em := { c.em with handlerChain := { c.em.handlerChain with lastC := true } } }) e).cur.em.handlerChain.lastC = true ∧
      ((p.ctx 0).mode = .user ∧ (p.ctx 0).status = .running ∧ (p.ctx 0).pending = owed :: [owed] ∧
        (got (exec (.boundaryTrapEntry 0) p) fun t => ((t.ctx 0).pending, (t.ctx 0).trap.cause, (t.ctx 0).trap.epc)) = some ([owed], 0x10C, 0x1040)) ∧
      ((p.wg (p.ctx 0).wg).status = .running ∧ p.pausing 0 = false) ∧
      (got (exec (.boundaryTrapEntry 0) ended) fun t => ((t.ctx 0).status, (t.ctx 0).trap.cause)) = some (.halted, 0x10C) ∧
      idle (exec (.boundaryTrapEntry 0) withHandler) = some "BOUNDARY_TRAP_ENTRY" := by
  decide +kernel

/-- A word that has been pushed and has not retired: the streams are not drained. -/
def aWord (w : Nat) : StreamWord :=
  { word := BitVec.ofNat 64 w, payA := 0, payB := 0, payC := 0, xctl := 0, compat := true, emitter := 0, ssn := 0, order := 0
    handler := false, base := 0, replay := none, vote := none, counted := none, bar := none, waiting := false }
def undrained : State := onWave (fun w => { w with stream := [.word (aWord 0x11)] }) ready
/-- SystemWordsComplete. -/
theorem witness_system :
    ready.drained 0 = true ∧ undrained.drained 0 = false ∧ (3 : BitVec 5).toNat < 4 ∧ ready.cur.mode = .user ∧ ready.cur.em.capOpen = false ∧
      ready.sized ∧ (got (exec .sdrain undrained) fun t => t.cur.status) = some (.stalled .drain) ∧
      (got (exec (.gfence false false false true false .wave) undrained) fun t => t.cur.status) = some (.stalled .drain) := by
  decide +kernel
/-- SpecialRegisterReads and SpecialRegisterWrites. -/
theorem witness_special :
    let h := inHandler ready
    let none_ := onWg (fun w => { w with waves := [] }) ready
    ready.selWave 0 = some 0 ∧ (ready.wave 0).busyFor 0 (ready.cur.mode == .handler) = false ∧ 0 < ready.waves.length ∧
      (∀ n ∈ ([0x001, 0x010, 0x011, 0x012, 0x013, 0x018, 0x019, 0x01A, 0x020, 0x040, 0x041] : List (BitVec 12)),
        specialRegs.contains n.toNat = true) ∧
      h.cur.mode = .handler ∧ ready.cur.mode = .user ∧ (((0xF : Word).truncate 4 : BitVec 4) &&& ~~~ (ready.dctx 1).desc.traps = 0) ∧
      (((1 : Word).truncate 4 : BitVec 4) &&& ~~~ (DevCtx.blank).desc.traps ≠ 0) ∧
      (ready.dctx 1).desc.compats.getLsbD 1 = true ∧ (Descriptor.blank).compats.getLsbD 1 = false ∧
      (0 : Word).toNat < ready.cur.nwaves ∧ ready.cur.nwaves ≤ (1 : Word).toNat ∧ none_.selWave 0 = none := by
  decide +kernel
/-- RegisterWindow: a frame that fills W, a saved frame at the lowest register in use, W + 32, and an open chain. -/
theorem witness_window :
    let c := ready.cur
    let deep := onCtx (fun c => { c with win := { c.win with base := 32, frame := 32, stack := [(0, 32)] } }) ready
    let chained := onCtx (fun c => { c with em := { c.em with userChain := { c.em.userChain with lastC := true } } }) ready
    let full := onDctx (fun d => { d with desc := { d.desc with spill := 2 } }) deep
    let bad := onCtx (fun c => { c with win := { c.win with base := 32, frame := 32, stack := [(0, 32)], popBad := some 0x5000 } }) withHandler
    (c.em.capOpen = false ∧ c.chainOpen = false ∧ 32 * 2 ≤ c.width ∧ c.win.base + c.win.frame + 64 ≤ c.win.lo + c.width ∧
        c.win.stack.length < 16 ∧ c.win.popPending = false) ∧ c.win.stack = [] ∧
      (deep.cur.win.stack = (0, 32) :: [] ∧ deep.cur.win.lo ≤ 0 ∧ deep.cur.em.capOpen = false ∧ deep.cur.chainOpen = false) ∧
      (0 < c.nwaves ∧ c.width < 96 ∧ 96 ≤ 768) ∧ chained.cur.chainOpen = true ∧
      (full.cur.width = 64 ∧ full.cur.width < full.cur.win.base + full.cur.win.frame + 32 - full.cur.win.lo ∧
        512 + 4 * (96 - 64) ≤ (full.dctx full.cur.ctxid).desc.spill * 512 ∧ full.cur.em.seq.busy = false ∧ full.roleWaves 0 = [0]) ∧
      (got (exec (.wenter 1) full) fun t => (t.wave 0).stream) = some [.spill 0 32 none] ∧
      (got (exec .wleave bad) fun t => (t.cur.trap.cause, t.cur.trap.info0, t.cur.trap.info1)) = some (18, 0x5000, 5) := by
  decide +kernel

/-! ### Emission and stretches -/

/-- A lane word from its fields, with class 01. -/
def word (op dst a b c : Nat) (mod : Nat := 0) (pg : Nat := 0) (flags : Nat := 0) : Nat :=
  1 + flags + op * 16 + pg * 2 ^ 12 + mod * 2 ^ 18 + dst * 2 ^ 24 + a * 2 ^ 34 + b * 2 ^ 44 + c * 2 ^ 54
/-- VADD.i32 v4, s3, #5 and VNOP. -/
def vaddS3 : Nat := word 0x01 4 803 837 798
def vnopW : Nat := word 0x00 798 798 798 798
/-- A context with a frame of 32 registers, and a page of host memory under the low addresses. -/
def framed : State := onCtx (fun c => { c with win := { c.win with frame := 32 } }) (withRegs [(3, 0x77)] ready)
def bigPage : TlbEntry :=
  { ctxid := 1, va := 0, size := 30, frame := 0x8_0000_0000_0000, flags := 0x4FF, ret := 0, leafAt := 0 }
def paged (s : State) : State := onCluster (fun c => { c with tlb := [bigPage] }) s
def stalledOn (i : Instr) (s : State) : Option CtxStatus := got (exec i s) fun t => t.cur.status
def trapOf (i : Instr) (s : State) : Option (Word × Word × Word) := got (exec i s) fun t => (t.cur.trap.cause, t.cur.trap.info0, t.cur.trap.info1)
def em (f : Emission → Emission) (s : State) : State := onCtx (fun c => { c with em := f c.em }) s

/-- R63, R64: the word stands at the end of the wave's buffer with the value of s3, and the PC steps over it. -/
theorem test_emit :
    (got (exec (.emitLaneWord (BitVec.ofNat 64 vaddS3) none) framed) fun t =>
      (t.cur.pc, (t.wave 0).stream.map fun x => match x with
        | .word y => (y.word, y.payA)
        | _ => (0, 0))) = some (0x1048, [(BitVec.ofNat 64 vaddS3, 0x77)]) := by
  decide +kernel
/-- R63, Table 2.14: a register outside the frame fails check 6, cause 2. -/
theorem test_emit_trap :
    (got (exec (.emitLaneWord (BitVec.ofNat 64 (word 0x01 32 803 837 798)) none) framed) fun t =>
      (t.cur.trap.cause, t.cur.trap.info0, t.cur.trap.info2)) = some (2, BitVec.ofNat 64 (word 0x01 32 803 837 798), 6) := by
  decide +kernel
/-- R63, Table 2.14: a word that fails each check, with the cause and the check's number: a reserved op8, a modifier, an operand code, a
register outside the frame, a scalar register under a capture, S at a predicate, a ninth word of a chain, a pair cut short, a latch entry
that no word has pushed. -/
theorem test_emission_checks :
    let refused (s : State) (w : Nat) : Option (Word × Word) :=
      got (exec (.emitLaneWord (BitVec.ofNat 64 w) none) s) fun t => (t.cur.trap.cause, t.cur.trap.info2)
    let captured := em (fun e => { e with capOpen := true }) framed
    let long := em (fun e => { e with userChain := { e.userChain with lastC := true, pos := 7 } }) framed
    [refused framed (word 0x1E 4 1 2 798), refused framed (word 0x00 798 798 798 798 1), refused framed (word 0x01 4 799 2 798),
        refused framed (word 0x01 32 1 2 798), refused captured vaddS3, refused framed (word 0x1A 774 1 2 798 0 0 (2 ^ 17)),
        refused long (word 0x01 4 1 2 798 0 0 8), refused framed (word 0x01 4 1 2 798 0 0 4), refused framed (word 0x01 4 768 2 798)] =
      [some (2, 3), some (2, 4), some (2, 5), some (2, 6), some (2, 7), some (2, 8), some (2, 9), some (3, 10), some (13, 11)] := by
  decide +kernel
/-- LaneWordEmission: a word and a pair with room; a word that fails a check; a busy sequencer; a full buffer. -/
theorem witness_emission :
    let s := framed
    let e := emitted vaddS3
    let busy := em (fun e => { e with seq := { e.seq with busy := true } }) s
    let full := onWave (fun w => { w with stream := List.replicate 128 (.word (aWord 0x11)) }) s
    Acting s ∧ s.emitTrap 0 [e] = none ∧ s.cur.mode = .user ∧ s.cur.em.seq.busy = false ∧ s.cur.em.capOpen = false ∧
      isVote e = false ∧ isCounted e.op = false ∧ e.op ≠ 0x98 ∧ s.targetWaves 0 s.cur.em.target = [0] ∧
      s.pushWait 0 [0] [e] false = none ∧ 0 < s.waves.length ∧ e.w.srcA.toNat = 800 + 3 ∧ (formOf e.op e.w).a.kind ≠ .m ∧
      (s.emitTrap 0 [emitted (word 0x01 32 803 837 798)]).isSome = true ∧
      (busy.emitTrap 0 [e] = none ∧ busy.cur.em.seq.busy = true) ∧
      (full.emitTrap 0 [e] = none ∧ full.pushWait 0 [0] [e] false = some .targetFull) ∧
      (inHandler s).pushWait 0 [0] [e] true = none := by
  decide +kernel
/-- VMUL.i64 and VADD.i64 behind it, a pair that R55 admits. -/
theorem witness_emission_pair :
    let w1 := word 0x03 4 8 10 798 0 0 4
    let w2 := word 0x0E 6 8 832 798
    let words := [emitted w1, emitted w2]
    framed.emitTrap 0 words = none ∧ framed.pushWait 0 [0] words false = none ∧ (emitted w1).w.p = true ∧ w2 % 4 = 1 ∧
      (got (exec (.emitLaneWord (BitVec.ofNat 64 w1) (some (BitVec.ofNat 64 w2))) framed) fun t => (t.cur.pc, (t.wave 0).stream.length)) =
        some (0x1050, 2) := by
  decide +kernel

/-- CaptureRecords, with the loft area in a page; the last word that fits, and the first that does not. -/
def capturing (len : Nat) : State :=
  paged (em (fun e => { e with capOpen := true, capId := 5, dir := putAt DirEntry.zero e.dir 5 { DirEntry.zero with recd := true, len := len } })
    (onCtx (fun c => { c with loft := 0x10000 }) framed))
/-- VADD.i32 v4, v1, #5: a captured word names no scalar register. -/
def vaddV1 : Nat := word 0x01 4 1 837 798
/-- What recording that word meets in a context whose loft area begins at another page. -/
def onCtxLoft (a : Nat) (s : State) : LoftWay :=
  let t := onCluster (fun c => { c with tlb := [{ bigPage with va := 0x10000, size := 16 }] }) (onCtx (fun c => { c with loft := a }) s)
  t.loftAccess 0 0 (t.cur.loftAddr 5 255) .store
theorem witness_capture :
    let s := capturing 255
    let e := emitted vaddV1
    let x : Xlated := { pa := 0x8_0000_0001_2FF8, entry := bigPage, walked := false }
    Acting s ∧ s.canonical ∧ s.emitTrap 0 [e] = none ∧ s.cur.mode = .user ∧ s.cur.em.seq.busy = false ∧ s.cur.em.capOpen = true ∧
      s.cur.status ≠ .halted ∧ s.cur.em.capId < 64 ∧ isVote e = false ∧ s.pushWait 0 [0] [e] false = none ∧
      (s.cur.em.entry 5).ovf = false ∧ (s.cur.em.entry 5).len + 1 ≤ 256 ∧
      s.loftAccess 0 0 (s.cur.loftAddr 5 255) .store = .ok 0x8_0000_0001_2FF8 x ∧ recordedWord e = vaddV1 ∧
      onCtxLoft 0x8000 s = .fails 3 ∧ 256 < ((capturing 256).cur.em.entry 5).len + 1 ∧
      (got (exec (.emitLaneWord (BitVec.ofNat 64 vaddV1) none) s) fun t =>
        ((t.cur.em.entry 5).len, (t.cur.em.entry 5).fmin, t.readN 0x8_0000_0001_2FF8 8)) = some (256, 5, vaddV1) ∧
      (got (exec (.emitLaneWord (BitVec.ofNat 64 vaddV1) none) (capturing 256)) fun t => (t.cur.em.entry 5).ovf) = some true := by
  decide +kernel

/-- StretchWordsComplete, its first part: the directory entry 5 undefined, recorded, defined; VREAD. -/
def entry5 (d : DirEntry) (s : State) : State := em (fun e => { e with dir := putAt DirEntry.zero e.dir 5 d }) s
def defined5 : State := entry5 { DirEntry.zero with defd := true, len := 1, fmin := 5 } framed
def multi : State := onWg (fun w => { w with header := { w.header with multicast := true } }) framed
theorem witness_stretch :
    let s := framed
    let rec5 := capturing 7
    (Acting s ∧ s.cur.em.capOpen = false ∧ s.cur.chainOpen = false ∧ (1 : Word).toNat < 2 ^ min s.cur.nwaves 16) ∧
      ((multi.wg 0).header.multicast = true ∧ (1 : Word).toNat < 2 ^ (multi.gang (multi.wg 0).gang).size) ∧
      (s.cur.mode = .user ∧ s.cur.em.replays 5 = false) ∧
      (rec5.cur.em.capOpen = true ∧ rec5.cur.chainOpen = false ∧ (rec5.cur.em.entry rec5.cur.em.capId).ovf = false) ∧
      ((s.cur.em.entry 5).recd = false ∧ (s.cur.em.entry 5).defd = false) ∧
      (defined5.cur.em.entry 5 = { DirEntry.zero with defd := true, len := 1, fmin := 5 } ∧ defined5.cur.em.replays 5 = false ∧
        (4294967295 : Word).toNat < 2 ^ 32 ∧ 5 ≤ defined5.cur.win.frame ∧ defined5.cur.em.seq.busy = false) := by
  decide +kernel
theorem test_stretch_words :
    (got (exec (.stgt 5 0) (withRegs [(5, 1)] framed)) fun t => t.cur.em.target) = some { mask := 1, grp := 0 } ∧
      (got (exec (.capb 5) framed) fun t => (t.cur.em.capOpen, t.cur.em.capId, (t.cur.em.entry 5).recd)) = some (true, 5, true) ∧
      (got (exec .cape (capturing 7)) fun t => (t.cur.em.capOpen, (t.cur.em.entry 5).defd, (t.cur.em.entry 5).len)) = some (false, true, 7) ∧
      (got (exec (.cdrop 5) defined5) fun t => (t.cur.em.entry 5).defd) = some false ∧
      (got (exec (.hset 7 3) framed) fun t => t.cur.em.binds.getD 7 Binding.zero) = some { base := 0x77, step := 0 } ∧
      (got (exec (.hstep 7 3) framed) fun t => t.cur.em.binds.getD 7 Binding.zero) = some { base := 0, step := 0x77 } ∧
      (got (exec (.rply 5 3) defined5) fun t => (t.cur.em.seq.busy, t.cur.em.seq.total, t.cur.em.seq.parts)) =
        some (true, 0x77, [{ cluster := 0, rep := 0, next := 0 }]) ∧
      trapOf (.rply 6 3) framed = some (15, 0, 6) := by
  decide +kernel
/-- R229: a vote that every wave has answered, one that waits, and none to come (cause 14). -/
def voted (awaited : Nat) : State :=
  em (fun e => { e with votes := [{ id := 0, kind := 0, wide := false, value := 1, awaited := awaited, best := none }] }) framed
theorem test_vread :
    (got (exec (.vread 5) (voted 0)) fun t => (t.cur.rd 5, t.cur.em.votes)) = some (1, []) ∧
      stalledOn (.vread 5) (voted 1) = some (.stalled .vote) ∧ trapOf (.vread 5) framed = some (14, 0, 0) ∧
      framed.cur.em.votes = [] ∧ framed.cur.em.seq.busy = false := by
  decide +kernel

/-- ReplayPushes: an empty stretch; a stretch of one word that the loft holds; one of which the loft lacks the line; nothing to do. -/
def loftHolds : LoftLine := { ctx := 0, line := 0x12800, loc := 0x8_0000_0001_2800, bad := [] }
def replaying (len : Nat) : State :=
  withMem 0x8_0000_0001_2800 (leBytes 8 vaddV1) (onCluster (fun c => { c with loft := [loftHolds] })
    (paged (entry5 { DirEntry.zero with defd := true, len := len, fmin := 5 }
      (em (fun e => { e with seq := { e.seq with
          busy := true, id := 5, total := 2, parts := [{ cluster := 0, rep := 0, next := 0 }], target := { mask := 1, grp := 0 } } })
        (onCtx (fun c => { c with loft := 0x10000 }) framed)))))
theorem witness_replay :
    let s := replaying 1
    let w := emitted vaddV1
    let miss := onCluster (fun c => { c with loft := [] }) s
    0 < s.ctxs.length ∧ (s.wg s.cur.wg).ctxs[s.cur.role]? = some 0 ∧ s.seqMayPush 0 0 = true ∧ (s.cur.em.entry s.cur.em.seq.id).len ≠ 0 ∧
      s.cur.em.seq.late = [] ∧ s.cur.status ≠ .ended ∧ s.nextWords 0 0 = [(0x12800, .word vaddV1)] ∧ s.seqWaves 0 0 = [0] ∧
      s.pushWait 0 (s.seqWaves 0 0) [w] false = none ∧ isVote w = false ∧ isCounted w.op = false ∧ w.op ≠ 0x98 ∧
      ((replaying 0).seqMayPush 0 0 = true ∧ ((replaying 0).cur.em.entry 5).len = 0) ∧
      (miss.nextWords 0 0 = [(0x12800, .miss)] ∧ miss.loftFilling 0 0 0x12800 = false ∧
        miss.loftAccess 0 0 0x12800 .load = .ok 0x8_0000_0001_2800 { pa := 0x8_0000_0001_2800, entry := bigPage, walked := false }) ∧
      framed.replayReady 0 0 = false := by
  decide +kernel
theorem test_replay_push :
    (got (exec (.replayPush ⟨0, 0⟩) (replaying 1)) fun t => (t.cur.em.seq.busy, t.cur.em.seq.parts, (t.wave 0).stream.length)) =
        some (true, [{ cluster := 0, rep := 1, next := 0 }], 1) ∧
      idle (exec (.replayPush ⟨0, 0⟩) framed) = some "REPLAY_PUSH" := by
  decide +kernel

/-! ### Barriers -/

/-- Barrier 3 with two arrivals a phase; gang and grid barriers. -/
def bar3 (b : Barrier) (s : State) : State := onWg (fun w => { w with bars := putAt Barrier.zero w.bars 3 b }) s
def two : State := bar3 { phases := 0, arrived := 0, perPhase := 2 } ready
def gridded : State := onLaunch (fun l => { l with coresident := true }) ready
def bits3 (r : RoleBits) (s : State) : State := onWg (fun w => { w with bits := putAt RoleBits.zero w.bits 3 r }) s
theorem test_barrier_words :
    (got (exec (.bara .workgroup 3) two) fun t => (t.bar 0 0 3, (t.wg 0).barBits 0 3)) =
        some ({ phases := 0, arrived := 1, perPhase := 2 }, { arr := 1, unw := 1, aw := 0 }) ∧
      (got (exec (.bara .workgroup 3) ready) fun t => (t.bar 0 0 3, (t.wg 0).barBits 0 3)) =
        some ({ phases := 1, arrived := 0, perPhase := 1 }, { arr := 0, unw := 1, aw := 0 }) ∧
      (got (exec (.barw false .workgroup 3) (bits3 { arr := 0, unw := 1, aw := 0 } ready)) fun t => ((t.wg 0).barBits 0 3, t.cur.pc)) =
        some (RoleBits.zero, 0x1044) ∧
      (got (exec (.baraw false .gang 7) ready) fun t => (t.bar 0 1 7, t.cur.pc)) = some ({ phases := 1, arrived := 0, perPhase := 1 }, 0x1044) ∧
      stalledOn (.baraw true .workgroup 3) two = some (.stalled .barrier) := by
  decide +kernel
/-- R368: a second arrival in one phase, and an arrival at grid barriers that do not exist: cause 17 with level and number. -/
theorem test_barrier_traps :
    trapOf (.bara .workgroup 3) (bits3 { arr := 1, unw := 1, aw := 0 } two) = some (17, 3, 0) ∧
      trapOf (.bara .grid 1) ready = some (17, 0x21, 0) ∧ (trapOf (.barw false .grid 1) ready).map (·.1) = some 1 := by
  decide +kernel
theorem witness_barriers :
    let arrived := bits3 { arr := 1, unw := 1, aw := 0 } two
    (Acting two ∧ two.cur.wg < two.wgs.length ∧ (two.wg 0).gang < two.gangs.length ∧ two.grid (two.wg 0) = none ∧ 0 ∈ two.barMembers 0 0 ∧
        two.cur.role < 4 ∧ two.barExists 0 0 3 = true ∧ (two.bar 0 0 3).arrived + 1 < (two.bar 0 0 3).perPhase ∧
        two.arrivalDue 0 0 0 3 = false ∧ ((two.wg 0).barBits 0 3).aw.getLsbD 0 = false ∧ ((two.wg 0).barBits 0 3).arr.getLsbD 0 = false) ∧
      (ready.bar 0 0 3).arrived + 1 = (ready.bar 0 0 3).perPhase ∧ ((arrived.wg 0).barBits 0 3).arr.getLsbD 0 = true ∧
      (gridded.grid (gridded.wg 0) = some 0 ∧ 0 < gridded.launches.length ∧ gridded.barExists 0 2 3 = true ∧ 0 ∈ gridded.barMembers 0 2 ∧
        (gridded.bar 0 2 3).arrived + 1 = (gridded.bar 0 2 3).perPhase) ∧
      (ready.barExists 0 2 0 = false ∧ gridded.barExists 0 2 4 = false ∧ ready.barExists 0 1 8 = false ∧ ready.barExists 0 1 7 = true) := by
  decide +kernel

/-! ### Tiles and matrix commands -/

def tileAt (off : Nat) (rows cols pitch fmt : Nat) : Tile :=
  { Tile.start with base := spadVa + BitVec.ofNat 64 off, rows := rows, cols := cols, pitch := pitch, fmt := fmt }
/-- t0: 2 by 8 signed bytes; t1: 8 by 2 signed bytes; t2: 2 by 2 words. -/
def tiled : State :=
  onWg (fun w => { w with tiles := [tileAt 0 2 8 8 4, tileAt 0x40 8 2 2 4, tileAt 0x80 2 2 8 9] }) ready
def loop0 : MloopArgs := { sampleMloop with clear := true }
def drain0 : MdrainArgs := sampleMdrain
theorem test_tile_words :
    (got (exec (.tcfg 1 3 9) (withRegs [(9, 0x8001)] ready)) fun t => ((t.wg 0).tile 3).rows * 1000 + ((t.wg 0).tile 3).cols) = some 1128 ∧
      (got (exec (.trd 1 10 0) tiled) fun t => t.cur.rd 10) = some 0x0802 ∧
      (trapOf (.tcfg 1 3 9) (withRegs [(9, 0x8100)] ready)).map (·.1) = some 1 ∧
      (got (exec (.mclr 2) tiled) fun t => ((t.wg 0).mseq, (t.wg 0).mqueue.map (·.op))) = some (1, [.mclr 2]) ∧
      (got (exec (.mloop loop0) tiled) fun t => (t.cur.pc, (t.wg 0).mqueue.map fun q => (q.num, q.kind))) = some (0x1050, [(1, .i32)]) ∧
      (got (exec (.mdrain drain0) tiled) fun t => (t.wg 0).mqueue.map fun q => (q.num, q.scale)) = some [(1, 0x3F800000)] ∧
      stalledOn (.mwait 5) (withRegs [(5, 1)] tiled) = some (.stalled .matrix) ∧ (got (exec (.mwait 5) tiled) fun t => t.cur.pc) = some 0x1044 := by
  decide +kernel
def clear0 : MatrixCmd :=
  { op := .mclr 0, num := 1, left := 0, done := 0, started := false, tA := Tile.start, tB := Tile.start, scale := 0, compat := true
    kind := .none, role := 0, handler := false, pc := 0 }
def queued4 : State := onWg (fun w => { w with mqueue := List.replicate 4 clear0 }) tiled
theorem witness_tiles :
    (Acting tiled ∧ tiled.cur.wg < tiled.wgs.length ∧ (15 : BitVec 4).toNat < (tiled.wg 0).header.tiles ∧ tileValueOk 1 0x8001 = true ∧
        tileValueOk 1 0x8180 = false) ∧
      (tiled.cur.rights.getLsbD 1 = true ∧ (7 : BitVec 3).toNat < (tiled.wg 0).header.accs ∧ (tiled.wg 0).mqueue.length < 4) ∧
      4 ≤ (queued4.wg 0).mqueue.length ∧ stalledOn (.mclr 2) (onWg (fun w => { w with status := .saving }) tiled) = some (.stalled .queueFull) ∧
      stalledOn (.mloop { loop0 with acquire := true }) (onWave (fun w => { w with stream := [.word (aWord 0x11)] }) tiled) =
        some (.stalled .drain) ∧
      (mloopLegal (tiled.wg 0) loop0 = true ∧ mloopMisaligned ((tiled.wg 0).tile 0) ((tiled.wg 0).tile 1) loop0 = none ∧
        tiled.lowestRefused (tiled.wg 0) ⟨true, false⟩
          (stepAddrs ((tiled.wg 0).tile 0) ((tiled.wg 0).tile 1) ((tiled.wg 0).tile 0).base ((tiled.wg 0).tile 1).base 0) = none) ∧
      (mdrainLegal (tiled.wg 0) drain0 = true ∧ ((tiled.wg 0).tile 2).misaligned ((tiled.wg 0).tile 2).base = none ∧
        tiled.lowestRefused (tiled.wg 0) (drainNeed drain0)
          (((tiled.wg 0).tile 2).dataAddrs ((tiled.wg 0).tile 2).base true 2 2) = none) := by
  decide +kernel
/-- RightsTraps: a context without rights. -/
def noRights : State := onCtx (fun c => { c with rights := 0 }) ready
theorem witness_rights :
    (∀ bit < 3, noRights.cur.rights.getLsbD bit = false) ∧ trapOf (.wmrd 5 3) noRights = some (10, 1, 0) ∧
      trapOf (.mclr 0) noRights = some (10, 2, 0) ∧ trapOf (.qstat 5 6 0) noRights = some (10, 4, 0) := by
  decide +kernel

/-! ### Watermarks, copies and collectives -/

/-- A copy of n bytes from the scratchpad's start to its byte 1024, bound to register 3. -/
def bound3 (st : CopyState) (count len : Nat) : Bound :=
  { blankBound with
    src := spadVa.toNat, dst := spadVa.toNat + 1024, dstLoc := some (spadAt + 1024), inner := len, len := len, srcLen := len, state := st
    count := count, sent := count, armed := st == .issued || st == .landing }
def marked (b : Bound) : State := onWg (fun w => w.setMark 3 { bc := 7, bound := some b }) ready
theorem test_watermark_words :
    (got (exec (.wmrd 5 3) (marked (bound3 .landing 64 256))) fun t => t.cur.rd 5) = some 0x0007200000000040 ∧
      (got (exec (.wmwait .published 3 0) (marked (bound3 .published 256 256))) fun t => t.cur.pc) = some 0x1044 ∧
      stalledOn (.wmwait .landed 3 0) (marked (bound3 .landing 64 256)) = some (.stalled .watermark) ∧
      trapOf (.wmwait .landed 3 0) (marked (bound3 .poisoned 64 256)) = some (12, spadVa + 1088, 5) ∧
      (got (exec (.wmwait .count 3 5) (withRegs [(5, 0x0007000000000040)] (marked (bound3 .landing 64 256)))) fun t => t.cur.pc) = some 0x1044 ∧
      (got (exec (.wmfree 3) (marked (bound3 .published 256 256))) fun t => (t.wg 0).mark 3) = some { bc := 7, bound := none } ∧
      stalledOn (.wmfree 3) (marked (bound3 .issued 0 256)) = some (.stalled .watermark) ∧
      (got (exec (.cpkill 3) (marked (bound3 .issued 0 256))) fun t => (t.wg 0).mark 3) = some { bc := 7, bound := none } := by
  decide +kernel
theorem witness_watermarks :
    (Acting ready ∧ ready.cur.wg < ready.wgs.length ∧ ready.cur.rights.getLsbD 0 = true) ∧
      (∀ ev ∈ [WmEvent.srcFree, .landed, .published, .count], Watermark.start.wait ev 0 none = .done) ∧ Watermark.start.bindWait = .free ∧
      ({ bc := 7, bound := some (bound3 .landing 64 256) } : Watermark).bindWait = .wait ∧
      ({ bc := 7, bound := some (bound3 .landing 64 256) } : Watermark).wait .count 0x0007000000000041 none = .wait ∧
      ({ bc := 7, bound := some (bound3 .landed 256 256) } : Watermark).wait .published 0 none = .wait ∧
      (∀ ev ∈ [WmEvent.srcFree, .landed, .published],
        ({ bc := 7, bound := some (bound3 .landing 64 256) } : Watermark).wait ev 0 (some 9) = .done) ∧ (9 : Word) ≠ (bound3 .landing 64 256).stamp ∧
      (bound3 .landing 64 256).count < 2 ^ 40 ∧
      ({ bc := 7, bound := some (bound3 .poisoned 64 256) } : Watermark).wait .landed 0 none = .trap (bound3 .poisoned 64 256).poisonRecord := by
  decide +kernel
/-- R277 to R279: 128 bytes from offset 0 to offset 1024; a copy of the whole upper half is the last that fits. -/
def copyRegs (len : Word) : State := withRegs [(16, spadVa), (17, spadVa + 1024), (18, len)] ready
theorem test_copy :
    (got (exec (.copy sampleCopy) (copyRegs 128)) fun t => (t.cur.pc, t.dev.stamp)) = some (0x1050, 1) ∧
      (got (exec (.copy sampleCopy) (copyRegs 128)) fun t => (t.bound 0 3).map fun b => (b.state, b.count, b.len)) = some (some (.issued, 0, 128)) ∧
      trapOf (.copy sampleCopy) (copyRegs 3073) = some (7, spadVa + 1024, 0) ∧ trapOf (.copy sampleCopy) (copyRegs 1025) = some (11, spadVa, spadVa + 1024) := by
  decide +kernel
theorem witness_copy :
    let s := copyRegs 1024
    let b := copyBound sampleCopy s.cur
    Acting s ∧ s.cur.wg < s.wgs.length ∧ s.cur.rights.getLsbD 0 = true ∧ sampleCopy.arrive = false ∧ b.geometryOk 0 = true ∧ 0 < b.len ∧
      s.spanFault (s.wg 0) false b.src (b.srcAt (b.len - 1) - b.src + 1) = none ∧
      s.spanFault (s.wg 0) true b.dst (b.dstAt (b.len - 1) - b.dst + 1) = none ∧ b.overlaps (s.wg 0) = false ∧
      ((s.wg 0).mark 3).bindWait = .free ∧ s.spanLoc (s.wg 0) b.dst = some (spadAt + 1024) ∧ s.comparatorsFull (spadAt + 1024) = false ∧
      s.drained 0 = true ∧ (s.wg 0).status = .running ∧
      stalledOn (.copy sampleCopy) (onWg (fun w => { w with status := .saving }) s) = some (.stalled .queueFull) ∧
      stalledOn (.copy { sampleCopy with acquire := true }) (onWave (fun w => { w with stream := [.word (aWord 0x11)] }) s) =
        some (.stalled .drain) := by
  decide +kernel
/-- A communicator of two ranks: this workgroup, and one of another package. -/
def comm9 : Comm := { handle := 9, identity := [], ranks := [(0, 1, 0), (1, 1, 0)], groups := [1, 1], calls := [4, 0], dead := [] }
def strayed : State :=
  onDev (fun d => { d with comms := [comm9] }) (onDctx (fun d => { d with comms := [9] })
    (withRegs [(8, spadVa), (9, spadVa + 1024), (10, 16), (11, 9)] ready))
/-- The same with a way to package 1. -/
def collective : State := onDev (fun d => { d with routes := [(1, 1)] }) (onLink (fun l => { l with status := .up }) strayed)
theorem witness_cred :
    let s := collective
    Acting s ∧ s.cur.wg < s.wgs.length ∧
      ((s.credBound sampleCred s.cur).map fun b => (s.credTrap (s.wg 0) 4 b, b.len, b.kind)) = some (none, 64, .cred sampleCred 9 0 0 4 16) ∧ ((s.wg 0).mark 2).bindWait = .free ∧ s.spanLoc (s.wg 0) (spadVa.toNat + 1024) = some (spadAt + 1024) ∧
      s.comparatorsFull (spadAt + 1024) = false ∧ (s.comm 9).isSome = true ∧
      (got (exec (.cred sampleCred) s) fun t => (t.comm 9).map (·.calls)) = some (some [5, 0]) ∧
      (got (exec (.cred sampleCred) s) fun t => (t.bound 0 2).map (·.state)) = some (some .issued) ∧
      (got (exec (.cred sampleCred) strayed) fun t => (t.bound 0 2).map (·.state)) = some (some .poisoned) := by
  decide +kernel

/-! ### Lane words -/

/-- A lane word at the head of wave 0, whose p1 holds lane 0 only; lane 0 of some registers; the payload of its scalar operands. -/
def laneState (w : Nat) (regs : List (Nat × W32)) (pay : Word := 0) : State :=
  { onWave (fun v => { v with preds := [BitVec.allOnes 64, 1], stream := [.word { aWord w with payA := pay, payB := pay }] }) ready with
    vregs := regs.map fun p => (64 * p.1, p.2), agenda := [.wave 0] }
/-- v4, v5 and the flags of lane 0 once the word has issued: written, or in flight. -/
def laneOut (t : State) : W32 × W32 × BitVec 7 :=
  match (t.wave 0).flight with
  | f :: _ =>
    let v (k : Nat) : W32 := ((f.result.regs.find? (·.1 == k)).map (·.2)).getD 0
    (v 256, v 320, f.result.flags)
  | [] => (sparseGet t.vregs 256, sparseGet t.vregs 320, (t.wave 0).wxf)
def lane (w : Nat) (regs : List (Nat × W32) := []) (pay : Word := 0) : Option (W32 × W32 × BitVec 7) :=
  got (step (laneState w regs pay)) laneOut
/-- The predicate p2 of all lanes after a word. -/
def laneP2 (w : Nat) (regs : List (Nat × W32) := []) : Option Word := got (step (laneState w regs)) fun t => (t.wave 0).preds.getD 2 0
/-- Codes of the integers n and -n. -/
def I (n : Nat) : Nat := 832 + n
def N (n : Nat) : Nat := 895 + n
/-- A word under p1. -/
def one (op dst a b c : Nat) (mod : Nat := 0) : Nat := word op dst a b c mod 1

/-- Table 7.4: wrapping and saturating sums; the high and the low half of products. -/
theorem test_vadd : lane (one 0x01 4 (I 3) (N 5) 798) = some (-2, 0, 0) ∧
    lane (one 0x01 4 1 2 798 15) [(1, 0x7F010203), (2, 0x01010101)] = some (0x80020304, 0, 0) ∧
    lane (one 0x01 4 1 2 798 11) [(1, 0x7F010203), (2, 0x01010101)] = some (0x7F020304, 0, 0x40) := by decide +kernel
theorem test_vsub : lane (one 0x02 4 (I 3) (I 5) 798) = some (-2, 0, 0) ∧ lane (one 0x02 4 (I 0) (I 1) 798 1) = some (-1, -1, 0) := by decide +kernel
theorem test_vmul : lane (one 0x03 4 (N 3) (I 5) 798) = some (-15, 0, 0) := by decide +kernel
theorem test_vmulh : lane (one 0x04 4 (N 2) (I 3) 798) = some (-1, 0, 0) ∧ lane (one 0x04 4 (N 2) (I 3) 798 4) = some (2, 0, 0) := by decide +kernel
theorem test_vmad : lane (one 0x05 4 (N 2) (I 3) (I 10)) = some (4, 0, 0) := by decide +kernel
theorem test_vmin_vmax : lane (one 0x06 4 (N 1) (I 1) 798) = some (-1, 0, 0) ∧ lane (one 0x07 4 (N 1) (I 1) 798 4) = some (-1, 0, 0) ∧
    lane (one 0x07 4 (N 1) (I 1) 798) = some (1, 0, 0) := by decide +kernel
theorem test_vabsd : lane (one 0x08 4 (N 3) (I 4) 798) = some (7, 0, 0) := by decide +kernel
theorem test_vlogic : lane (one 0x09 4 (I 12) (I 10) 798) = some (8, 0, 0) ∧ lane (one 0x0A 4 (I 12) (I 10) 798) = some (14, 0, 0) ∧
    lane (one 0x0B 4 (I 12) (I 10) 798) = some (6, 0, 0) ∧ lane (one 0x0C 4 (I 12) (I 10) 798) = some (4, 0, 0) := by decide +kernel
theorem test_vshifts : lane (one 0x0D 4 (I 1) (I 33) 798) = some (2, 0, 0) ∧ lane (one 0x0E 4 (N 8) (I 1) 798) = some (-4, 0, 0) ∧
    lane (one 0x0E 4 (N 8) (I 31) 798 4) = some (1, 0, 0) ∧ lane (one 0x0F 4 (I 3) (I 31) 798) = some (0x80000001, 0, 0) := by decide +kernel
/-- R181: a signed field of length 4 at bit 4; an insertion there. -/
theorem test_vbfx_vbfi : lane (one 0x10 4 1 2 798) [(1, 0xA5), (2, 0x0404)] = some (-6, 0, 0) ∧
    lane (one 0x10 4 1 2 798 4) [(1, 0xA5), (2, 0x0404)] = some (10, 0, 0) ∧
    lane (one 0x11 4 (I 3) 1 2) [(1, 0xA5), (2, 0x0404)] = some (0x35, 0, 0) := by decide +kernel
theorem test_vcounts : lane (one 0x12 4 (I 63) 798 798) = some (6, 0, 0) ∧ lane (one 0x13 4 (I 1) 798 798) = some (31, 0, 0) ∧
    lane (one 0x14 4 (I 0) 798 798) = some (32, 0, 0) ∧ lane (one 0x15 4 (I 1) 798 798) = some (0x80000000, 0, 0) := by decide +kernel
/-- R182: nibbles 7, 0, 4 and a cleared byte. -/
theorem test_vpermb : lane (one 0x16 4 1 2 3) [(1, 0x44332211), (2, 0x8407), (3, 0x88776655)] = some (0x00551188, 0, 0) := by decide +kernel
/-- R87: division by zero and the signed remainder, in the divide unit. -/
theorem test_vdiv_vrem : lane (one 0x17 4 (I 7) (I 0) 798) = some (-1, 0, 0) ∧ lane (one 0x17 4 (N 7) (I 2) 798) = some (-3, 0, 0) ∧
    lane (one 0x18 4 (N 7) (I 2) 798) = some (-1, 0, 0) := by decide +kernel
/-- R183: a sum with the carry of p0, and the carry out in p2. -/
theorem test_vaddc : lane (one 0x19 4 (N 1) (I 0) 772 8) = some (0, 0, 0) ∧ laneP2 (one 0x19 4 (N 1) (I 0) 772 8) = some 1 := by decide +kernel
/-- R184: less than, signed and unsigned; a common bit. -/
theorem test_vcmp : laneP2 (one 0x1A 774 (N 1) (I 0) 798 0x10) = some 1 ∧ laneP2 (one 0x1A 774 (N 1) (I 0) 798 0x14) = some 0 ∧
    laneP2 (word 0x1A 774 796 (I 1) 798 0x30) = some 0xAAAAAAAAAAAAAAAA := by decide +kernel
theorem test_vmov_vsel : lane (one 0x1B 4 (N 7) 798 798 1) = some (-7, -1, 0) ∧ lane (one 0x1C 4 (I 3) (I 5) 772) = some (3, 0, 0) ∧
    lane (one 0x1C 4 (I 3) (I 5) 774) = some (5, 0, 0) := by decide +kernel
/-- R185: base + 8 times a signed, and an unsigned, 32-bit index. -/
theorem test_vlea : lane (one 0x1D 4 803 (N 1) 798 0x23) [] 0x100 = some (0xF8, 0, 0) ∧
    lane (one 0x1D 4 803 (N 1) 798 0x03) [] 0x100 = some (0xF8, 8, 0) := by decide +kernel

/-- Tables 2.9 and 7.5: sums, products and fused products in binary32. -/
theorem test_vf_arith : lane (one 0x40 4 961 960 798) = some (0x3FC00000, 0, 0) ∧ lane (one 0x41 4 961 960 798) = some (0x3F000000, 0, 0) ∧
    lane (one 0x42 4 962 963 798) = some (0x41000000, 0, 0) ∧ lane (one 0x43 4 (I 0) 972 798) = some (0, 0, 0) ∧
    lane (one 0x44 4 962 963 961) = some (0x41100000, 0, 0) ∧ lane (one 0x45 4 (I 0) 972 961) = some (0x3F800000, 0, 0) := by decide +kernel
/-- The same in binary64, packed binary16 and bf16; infinity minus infinity is invalid; a sum that rounds is inexact. -/
theorem test_vf_types : lane (one 0x40 4 961 960 798 4) = some (0, 0x3FF80000, 0) ∧ lane (one 0x40 4 961 960 798 8) = some (0x3E003E00, 0, 0) ∧
    lane (one 0x40 4 961 960 798 12) = some (0x3FC03FC0, 0, 0) ∧ (lane (one 0x40 4 972 973 798)).map (·.2.2) = some 1 ∧
    lane (one 0x40 4 1 961 798) [(1, 0x33000000)] = some (0x3F800000, 0, 0x10) ∧
    lane (one 0x40 4 1 961 798 2) [(1, 0x33000000)] = some (0x3F800001, 0, 0x10) := by decide +kernel
theorem test_vf_select : lane (one 0x46 4 961 962 798) = some (0x3F800000, 0, 0) ∧ lane (one 0x47 4 961 962 798) = some (0x40000000, 0, 0) ∧
    lane (one 0x48 4 961 965 961) = some (0xBF800000, 0, 0) ∧ laneP2 (one 0x49 774 961 962 798 0x10) = some 1 ∧
    laneP2 (one 0x49 774 974 974 798) = some 0 ∧ lane (one 0x4A 4 973 798 798) = some (4, 0, 0) := by decide +kernel
theorem test_vf_divide : lane (one 0x4B 4 961 962 798) = some (0x3F000000, 0, 0) ∧ lane (one 0x4B 4 961 (I 0) 798) = some (0x7F800000, 0, 2) ∧
    lane (one 0x4C 4 963 798 798) = some (0x40000000, 0, 0) := by decide +kernel
theorem test_vf_parts : lane (one 0x4D 4 960 798 798) = some (0, 0, 0) ∧ lane (one 0x4E 4 961 (I 3) 798) = some (0x41000000, 0, 0) ∧
    lane (one 0x4F 4 963 (I 0) 798) = some (2, 0, 0) ∧ lane (one 0x4F 4 963 (I 1) 798) = some (0x3F800000, 0, 0) ∧
    lane (one 0x53 4 961 962 961 8) = some (0x40A00000, 0, 0) := by decide +kernel
/-- R193 to R195: binary32 to binary16 and to binary64; to an integer rounding down; from one. -/
theorem test_vcvt : lane (one 0x50 4 961 798 798 8) = some (0x3C00, 0, 0) ∧ lane (one 0x50 4 961 798 798 0) = some (0, 0x3FF00000, 0) ∧
    lane (one 0x51 4 964 798 798 3) = some (-1, 0, 0x10) ∧ lane (one 0x51 4 972 798 798 0) = some (0x7FFFFFFF, 0, 1) ∧
    lane (one 0x52 4 (I 3) 798 798 0) = some (0x40400000, 0, 0) := by decide +kernel
/-- R196, Table 7.8: exact points. -/
theorem test_sfu : lane (one 0x80 4 962 798 798) = some (0x3F000000, 0, 0) ∧ lane (one 0x81 4 963 798 798) = some (0x3F000000, 0, 0) ∧
    lane (one 0x82 4 (I 0) 798 798) = some (0x3F800000, 0, 0) ∧ lane (one 0x83 4 961 798 798) = some (0, 0, 0) ∧
    lane (one 0x84 4 (I 0) 798 798) = some (0, 0, 0) ∧ lane (one 0x85 4 (I 0) 798 798) = some (0x3F800000, 0, 0) ∧
    lane (one 0x86 4 972 798 798) = some (0x3F800000, 0, 0) ∧ lane (one 0x87 4 (I 0) 798 798) = some (0x3F000000, 0, 0) := by decide +kernel

/-- R197, R198: a and not b by truth table; a predicate into a register and back. -/
theorem test_predicates : laneP2 (word 0x90 774 772 773 798 4) = some 0xFFFFFFFFFFFFFFFE ∧ lane (one 0x91 4 773 798 798 0) = some (1, 0, 0) ∧
    laneP2 (word 0x91 774 796 798 798 1) = some 0xFFFFFFFFFFFFFFFE := by decide +kernel
/-- R199: lane 0 reads lane 3 of v1; a rotation by 61 lanes brings lane 3 to lane 0. -/
def spread (w : Nat) : Option W32 := got (step { laneState w [] with vregs := [(67, 0x33)] }) fun t => sparseGet t.vregs 256
theorem test_cross_lane : spread (one 0x92 4 1 (I 3) 798) = some 0x33 ∧ spread (one 0x93 4 1 (I 3) 798) = some 0x33 ∧
    spread (one 0x94 4 1 (I 61) 798) = some 0x33 := by decide +kernel
/-- R200: the manual's segmented scan (lanes 0 to 7 hold 1 to 8; heads in lanes 0 and 5), and the sum of all lane indices. -/
def scanned (lane3 : Bool) : Option (List W32) :=
  let s := laneState (word 0x95 4 1 775 798 8 2) []
  let act : Word := if lane3 then BitVec.allOnes 64 else ~~~8
  got (step (onWave (fun w => { w with preds := [BitVec.allOnes 64, 1, act, 0x21] })
    { s with vregs := (List.range 8).map fun l => (64 + l, BitVec.ofNat 32 (l + 1)) })) fun t => (List.range 8).map fun l => sparseGet t.vregs (256 + l)
theorem test_vscan : scanned true = some [1, 3, 6, 10, 15, 6, 13, 21] ∧ scanned false = some [1, 3, 6, 0, 11, 6, 13, 21] := by decide +kernel
theorem test_vred : lane (word 0x96 4 796 798 798 0) = some (2016, 0, 0) := by decide +kernel
/-- R210: four products of signed bytes; eight of nibbles. -/
theorem test_vidot : lane (one 0xE0 4 1 2 (I 10)) [(1, 0x01020304), (2, 0x010101FF)] = some (12, 0, 0) ∧
    lane (one 0xE1 4 1 2 (I 0)) [(1, 0x1111111F), (2, 0x11111111)] = some (6, 0, 0) := by decide +kernel
/-- R248: the first digit of 0.25 is 32, and 0.5 is too large; R250: an initial product. -/
theorem test_slices : lane (one 0xE2 4 960 (I 1) (I 1)) = some (32, 0, 0) ∧ lane (one 0xE2 4 960 (I 0) (I 1)) = some (0, 0, 1) ∧
    lane (one 0xE3 4 (I 3) (I 1) (I 0) 1) = some (0, 0x40180000, 0) := by decide +kernel
/-- R244: bit 7 of each of eight bytes. -/
theorem test_vplane : lane (one 0xE4 4 2 (I 0) 798) [(2, 0x80008000), (3, 0x00000080)] = some (0x1A, 0, 0) := by decide +kernel
/-- VNOP and VFENCE leave the registers. -/
theorem test_vnop_vfence : lane vnopW = some (0, 0, 0) ∧ lane 0x0731EC7B1E000B51 = some (0, 0, 0) := by decide +kernel

/-- R205, R207: lane 0 of p1 at the scratchpad's start; the loaded value is in flight. -/
def laneMem (w : Nat) (regs : List (Nat × W32)) : Option (W32 × Nat) :=
  got (step (withMem spadAt [0xF0, 0xFF, 0xFF, 0xFF, 1, 0, 0, 0] (laneState w regs spadVa))) fun t =>
    ((laneOut t).1, t.readLocs (locRange spadAt 8))
theorem test_vld_vst : laneMem (word 0xB0 4 (I 0) 803 0 1 1) [] = some (0xFFFFFFF0, 0x1FFFFFFF0) ∧
    laneMem (word 0xB0 4 (I 0) 803 1 4 1) [] = some (1, 0x1FFFFFFF0) ∧
    laneMem (word 0xB1 4 (I 0) 803 1 2 1) [(4, 0xAABBCCDD)] = some (0, 0x1CCDDFFF0) := by decide +kernel
theorem test_vatom_vcas : laneMem (word 0xB2 4 (I 0) 803 0x200 4 1) [(4, 0x20)] = some (0xFFFFFFF0, 0x100000010) ∧
    laneMem (word 0xB3 4 (I 0) 803 0x200 4 1) [(4, 0xFFFFFFF0), (5, 7)] = some (0xFFFFFFF0, 0x100000007) := by decide +kernel
/-- The manual's worked group: lanes 0, 1 and 2 add 5, 7 and 9 to one word that holds 100. -/
theorem test_vatom_group :
    (got (step (onWave (fun w => { w with preds := [BitVec.allOnes 64, 7] })
      (withMem spadAt [100, 0, 0, 0] { laneState (word 0xB2 4 (I 0) 803 0x200 4 1) [] spadVa with vregs := [(256, 5), (257, 7), (258, 9)] })))
      fun t => ((t.wave 0).flight.flatMap (·.result.regs), t.readLocs (locRange spadAt 4))) = some ([(256, 100), (257, 105), (258, 112)], 121) := by
  decide +kernel
/-- VPREF changes no memory; R118, R134: a misaligned access is in flight as a stop with cause 8. -/
theorem test_vpref_stop : laneMem (word 0xB4 798 (I 0) 803 0 4 1) [] = some (0, 0x1FFFFFFF0) ∧
    (got (step (laneState (word 0xB0 4 (I 2) 803 0 4 1) [] spadVa)) fun t => (t.wave 0).flight.map fun f => f.trap.map (·.cause)) =
      some [some 8] := by decide +kernel
/-- R60: an extension word parks its stream. -/
theorem test_vext : (got (step (laneState (one 0xF3 798 798 798 798) [])) fun t => (t.wave 0).status) = some .parked := by decide +kernel


/-! ### Witnesses: lane words -/

/-- Whether a word in flight carries no vote, no counted write and no arrival. -/
def noVote (f : Flight) : Bool := f.entry.vote.isNone && f.entry.counted.isNone && f.entry.bar.isNone
/-- The conditions of LaneHead, computed. -/
def headOk (w : Nat) (s : State) : Bool :=
  match (s.wave s.curWave).head with
  | none => false
  | some x =>
    let i := s.laneIn s.curWave x
    s.laneAt (laneOp8 w) (LaneWord.ofNat w) && decide (s.curWave < s.waves.length ∧ s.canonical ∧ i.poisonLanes = 0 ∧
      (i.w.half = none ∨ (LaneWord.ofNat w).p = false) ∧ i.w.half.all noVote = true ∧ i.x.vote = none ∧ i.x.counted = none ∧ i.x.bar = none ∧
      4 ≤ i.w.width ∧ i.w.after = none)
theorem all_noVote (h : Option Flight) (ok : h.all noVote = true) (f : Flight) (e : h = some f) :
    f.entry.vote = none ∧ f.entry.counted = none ∧ f.entry.bar = none := by
  subst e; simp_all [noVote]
theorem head_of_ok (w : Nat) (s : State) (h : headOk w s = true) : ∃ i, LaneHead s (laneOp8 w) (LaneWord.ofNat w) i := by
  unfold headOk at h
  split at h
  · cases h
  · next x hx =>
    refine ⟨s.laneIn s.curWave x, ?_⟩
    have := Bool.and_eq_true_iff.1 h
    unfold LaneHead
    grind [all_noVote]
/-- A word of each operation that the statements on lane words name, legal under every check of Table 2.14. -/
def sampleWords : List Nat :=
  ([0x01, 0x02, 0x03, 0x04, 0x06, 0x07, 0x08, 0x09, 0x0A, 0x0B, 0x0C, 0x0D, 0x0E, 0x0F, 0x10, 0x17, 0x18, 0x92].map fun op => one op 4 0 0 798) ++
  ([0x05, 0x11, 0x16, 0xE0, 0xE1].map fun op => one op 4 0 0 0) ++ ([0x12, 0x13, 0x14, 0x15, 0x1B].map fun op => one op 4 0 798 798) ++
  [vnopW, 0x0731EC7B1E000B51, one 0x93 4 0 832 798, one 0x94 4 0 832 798, one 0x19 4 0 0 772, one 0x19 4 0 0 772 60, one 0x1A 774 0 0 798, one 0x1A 774 0 0 798 0x30, one 0x1C 4 0 0 772,
    one 0x1D 4 803 0 798, one 0x90 774 772 773 798 15, one 0x91 774 0 798 798 1, one 0x91 4 773 798 798, one 0x95 4 0 775 798 8,
    one 0x95 4 0 798 798, one 0x96 4 0 798 798, one 0xE4 4 0 832 798]
def sampleFloats : List Nat :=
  ([0x40, 0x41, 0x42, 0x43, 0x46, 0x47, 0x4B].map fun op => one op 4 0 0 798) ++ ([0x44, 0x45, 0x48].map fun op => one op 4 0 0 0) ++
  ([0x4A, 0x4C, 0x4D, 0x50, 0x51, 0x52, 0x80, 0x81, 0x82, 0x83, 0x84, 0x85, 0x86, 0x87].map fun op => one op 4 0 798 798) ++
  [one 0x40 4 0 0 798 12, one 0x49 774 0 0 798, one 0x4E 4 0 0 798, one 0x4F 4 0 832 798, one 0x4F 4 0 833 798, one 0x53 4 0 0 0 8,
    one 0xE2 4 0 832 833, one 0xE3 4 0 832 833 1]
theorem witness_lane_words : ∀ w ∈ sampleWords, headOk w (laneState w []) = true ∧ framed.emitTrap 0 [emitted w] = none := by decide +kernel
theorem witness_float_words : ∀ w ∈ sampleFloats, headOk w (laneState w []) = true ∧ framed.emitTrap 0 [emitted w] = none := by decide +kernel
/-- RoundingIsExact: 1 in each format is exact, and 1 and a third of its last place is not. -/
theorem witness_rounding :
    (∀ p ∈ [(f64, 0x3FF0000000000000), (f32, 0x3F800000), (f16, 0x3C00), (bf16, 0x3F80), (e5m2, 0x3C), (e4m3, 0x38)],
      p.2 < 2 ^ p.1.width ∧ (match p.1.decode p.2 with
        | .fin neg m e => decide (p.1.round .rne neg m e = (p.2, 0)) &&
          decide (p.1.round .rz neg (3 * m + 1) (e - 1) = (p.1.round .rz neg (3 * m + 1) (e - 1))) && m != 0
        | _ => false) = true) ∧
      (∀ mode ∈ [Rounding.rne, .rz, .rd, .ru], f32.round mode false (2 ^ 25 + 1) (-25) =
        (if mode = .ru then 0x3F800001 else 0x3F800000, 0x10) ∧ (f32.round mode true (2 ^ 25 + 1) (-25)).1 =
          if mode = .rd then 0xBF800001 else 0xBF800000) ∧
      f32.decode 0x3F800000 = .fin false 0x800000 (-23) := by decide +kernel
/-- SliceWords: digits that do not exist of a finite value, and an initial product. -/
theorem witness_slices :
    (∀ t ∈ [(0 : Int), 10], sliceRes 0x3FC0000000000000 0 t = (0, flagNV)) ∧ sliceRes 0x3FC0000000000000 0 9 = (0, 0) ∧
      f64.decode 0x3FC0000000000000 = .fin false 0x10000000000000 (-55) ∧
      slaccRes false true 0 (-2147483647) 0 0 = f64.roundInt .rne (-2147483647) 0 := by decide +kernel

/-- LaneMemoryWords: the last bytes of the scratchpad in each size; an atomic word with and without a returned value; a page; a word that
stops, and one of which a page is not present. -/
def planOf (s : State) : Option MemPlan := (s.wave s.curWave).head.bind fun x => (s.laneIn s.curWave x).memPlan
def memState (w n : Nat) : State := laneState w [] (spadVa + BitVec.ofNat 64 (4096 - n))
def memCase (op code n c : Nat) : Bool :=
  let w := word op 4 (I 0) 803 c code 1
  headOk w (memState w n) && planOf (memState w n) == some (.ok [(0, locRange (spadAt + 4096 - n) n)] [])
/-- No page of the context is mapped. -/
def absent (s : State) : State := onCluster (fun c => { c with tlb := [] }) s
theorem witness_lane_memory :
    (∀ p ∈ ([(0, 1), (1, 1), (2, 2), (3, 2), (4, 4), (5, 8), (6, 16), (7, 2)] : List (Nat × Nat)), memCase 0xB0 p.1 p.2 0 = true ∧ memCase 0xB1 p.1 p.2 0 = true) ∧
      (∀ p ∈ ([(4, 4), (5, 8)] : List (Nat × Nat)), memCase 0xB2 p.1 p.2 0 = true ∧ memCase 0xB2 p.1 p.2 0x200 = true ∧ memCase 0xB3 p.1 p.2 0 = true) ∧
      (locRange (spadAt + 4088) 8).Nodup ∧ headOk (word 0xB4 798 (I 0) 803 0 4 1) (memState (word 0xB4 798 (I 0) 803 0 4 1) 4) = true ∧
      (match planOf (paged (laneState (word 0xB1 4 (I 0) 803 0 4 1) [])) with
        | some (.ok l xs) => (l, xs.map (·.page))
        | _ => ([], [])) = ([(0, locRange 0x8_0000_0000_0000 4)], [{ pa := 0x8_0000_0000_0000, entry := bigPage, walked := false }]) ∧
      (match planOf (laneState (word 0xB0 4 (I 2) 803 0 4 1) [] spadVa) with
        | some (.stop cause lanes _) => (cause, lanes)
        | _ => (0, 0)) = (8, 1) ∧
      (match planOf (absent (laneState (word 0xB0 4 (I 0) 803 0 4 1) [] 0x4000)) with
        | some (.fault lanes _ va _) => (lanes, va)
        | _ => (0, 0)) = (1, 0x4000) ∧ ((absent ready).devIx 1).isSome = true := by decide +kernel
/-- That page: its record stands with the driver, and the wave waits for the answer with its word at its head (R385). -/
theorem test_lane_fault :
    (got (step (absent (laneState (word 0xB0 4 (I 0) 803 0 4 1) [] 0x4000))) fun t =>
      ((t.wave 0).status, (t.wave 0).stream.length, (t.dctx 1).faults.map fun r => (r.source, r.answer))) =
      some (.faulted, 1, [(.lane 0 0, none)]) := by
  decide +kernel
/-- R131: where lanes 0 and 1 store to one address, lane 1's bytes remain. R207: lanes 0 and 1 add 1.0 to one word that holds 2.0; the
old values are 2.0 and 3.0. -/
def twoLanes (w : Nat) (f : State → State) : State :=
  f (onWave (fun x => { x with preds := [BitVec.allOnes 64, 3] }) (laneState w [] spadVa))
theorem test_lane_overlap :
    (got (step (twoLanes (word 0xB1 4 (I 0) 803 0 4 1) fun s => { s with vregs := [(256, 5), (257, 7)] })) fun t =>
        t.readLocs (locRange spadAt 4)) = some 7 ∧
      (got (step (twoLanes (word 0xB2 4 (I 0) 803 0x209 4 1) fun s =>
          withMem spadAt [0, 0, 0, 0x40] { s with vregs := [(256, 0x3F800000), (257, 0x3F800000)] })) fun t =>
        ((t.wave 0).flight.flatMap (·.result.regs), t.readLocs (locRange spadAt 4))) =
        some ([(256, 0x40000000), (257, 0x40400000)], 0x40800000) := by
  decide +kernel
/-- R129, R258, R264, Table 10.9 a: a store of the context, and a load that it emits behind it. The load may still read the old byte where
nothing orders the two; after a fence that names the scalar and the stream path (R267) it reads the new one. -/
def raced (fence : Bool) : Option (List W32) :=
  let st := after (exec (.st .w 5 6 0) (withRegs [(6, spadVa), (5, 9)] ready))
  let s := if fence then after (exec (.gfence false false true true false .workgroup) st) else st
  let ld := onWave (fun v => { v with preds := [BitVec.allOnes 64, 1], stream := [.word { aWord (word 0xB0 4 (I 0) 803 0 4 1) with payA := spadVa, payB := spadVa }] }) s
  got (step { ld with agenda := [.wave 0], vis := { ld.vis with picks := [1] } }) fun t => (t.wave 0).flight.flatMap fun f => f.result.regs.map (·.2)
theorem test_weak_order : raced false = some [0] ∧ raced true = some [9] := by decide +kernel

/-- VoteBarrierAndExtensionWords. -/
def voteW (kind : Nat) : Nat := word 0x97 798 772 798 798 kind 1
def votes2 (kind : Nat) : State :=
  em (fun e => { e with votes := [{ id := 5, kind := kind, wide := false, value := 0, awaited := 1, best := none }] })
    (onWave (fun w => { w with stream := [.word { aWord (voteW kind) with vote := some 5 }] }) (laneState (voteW kind) []))
def voteCase (k : Nat) : Bool :=
  (votes2 k).laneAt 0x97 (LaneWord.ofNat (voteW k)) && decide ((got (exec (.vvote (LaneWord.ofNat (voteW k))) (votes2 k)) fun t =>
    t.cur.em.votes.map fun e => (e.value, e.awaited)) = some [(1, 0)])
def vbar2 : Vbar := { id := 5, role := 0, lvl := 0, num := 0, wait := true, left := 2, retiring := 2, arrived := none, ids := [] }
def vbarW : Nat := word 0x98 798 798 798 (5) 1 1
def barring : State :=
  onWg (fun w => { w with vbars := [vbar2] })
    (onWave (fun w => { w with stream := [.word { aWord vbarW with bar := some 5 }] }) (laneState vbarW []))
theorem witness_vote_barrier :
    headOk (voteW 0) (laneState (voteW 0) []) = true ∧ headOk (voteW 2) (laneState (voteW 2) []) = true ∧ voteCase 0 = true ∧ voteCase 2 = true ∧
      (barring.laneAt 0x98 (LaneWord.ofNat vbarW) = true ∧ bitAt 1 0 = true ∧ (LaneWord.ofNat vbarW).mod6 = 1 ∧
        (barring.wg 0).vbars = [vbar2] ∧ 1 < vbar2.left) ∧
      (let s := onWave (fun w => { w with badPreds := [0] }) (votes2 0)
       (s.laneIn 0 { aWord (voteW 0) with vote := some 5 }).poisonLanes = 1 ∧ s.laneAt 0x97 (LaneWord.ofNat (voteW 0)) = true ∧
         (got (exec (.vvote (LaneWord.ofNat (voteW 0))) s) fun t => ((t.wave 0).status, t.cur.em.votes.map fun e => (e.value, e.awaited))) =
           some (.stopped, [(0, 0)])) := by decide +kernel
theorem witness_extension_poison :
    let x := word 0xF3 798 798 798 798
    let parked := onWave (fun w => { w with status := .parked }) (laneState x [])
    let bad := { laneState (one 0x01 4 1 0 798) [] with badRegs := [64] }
    ((laneState x []).laneAt (0xF0 + (3 : BitVec 4).toNat) (LaneWord.ofNat x) = true) ∧
      ((onCtx (fun c => { c with status := .parked (.emulation 0x70) }) withHandler).ctx 0).status = .parked (.emulation 0x70) ∧
      withHandler.pausing 0 = false ∧
      ((parked.wave 0).status = .parked ∧ (parked.wave 0).head = some (aWord x) ∧ (LaneWord.ofNat x).p = false ∧ 0xF0 ≤ laneOp8 x) ∧
      bad.laneAt 0x01 (LaneWord.ofNat (one 0x01 4 1 0 798)) = true ∧ (bad.laneIn 0 (aWord (one 0x01 4 1 0 798))).poisonLanes = 1 ∧
      (got (exec (.vadd (LaneWord.ofNat (one 0x01 4 1 0 798))) bad) fun t => ((t.wave 0).status, t.cur.pending.map (·.record.cause))) =
        some (.stopped, [18]) := by decide +kernel

/-- LaneWordsRetire: a load and a special function in flight, and a word that stops. -/
def inFlight (w : Nat) (pay : Word) : State := after (step (laneState w [] pay))
def inUnit (w : Nat) (pay : Word) : Bool :=
  let s := inFlight w pay
  decide s.canonical && (s.wave 0).flight.map (fun f => f.unit != .barrier && noVote f && f.trap.isNone) == [true]
def misfit : State := inFlight (word 0xB0 4 (I 2) 803 0 4 1) spadVa
theorem witness_retire :
    inUnit (word 0xB0 4 (I 0) 803 0 4 1) spadVa = true ∧ inUnit (one 0x80 4 0 798 798) 0 = true ∧ inUnit (one 0x17 4 0 0 798) 0 = true ∧
      (misfit.wave 0).flight.map (fun f => (noVote f, f.trap.map (·.cause))) = [(true, some 8)] ∧
      (got (exec (.laneWordRetire 0) misfit) fun t => ((t.wave 0).status, t.cur.pending.map fun p => (p.record.cause, p.wave))) =
        some (.stopped, [(8, some 0)]) ∧
      (got (exec (.laneWordRetire 0) (inFlight (word 0xB0 4 (I 0) 803 0 4 1) spadVa)) fun t => (t.cluster 0).slotsUsed) = some 0 := by
  decide +kernel

/-- The clauses on a counted write, a vote and a VBAR in flight. -/
def flying (f : Flight → Flight) (s : State) : State :=
  onWave (fun w => { w with flight := (inFlight (one 0x80 4 0 798 798) 0 |>.wave 0).flight.map f }) s
theorem witness_retire_clauses :
    let counted := flying (fun f => { f with entry := { f.entry with counted := some 3 } })
      (onCtx (fun c => { c with issued := 4, counted := [{ num := 3, scalar := false, awaited := 1 }] }) ready)
    let vote := flying (fun f => { f with entry := { f.entry with vote := some 5 }, result := { f.result with vote := some (1, false) } })
      (em (fun e => { e with votes := [{ id := 5, kind := 2, wide := false, value := 6, awaited := 1, best := none }] }) ready)
    let bar (done : Nat) := flying (fun f => { f with unit := .barrier, entry := { f.entry with bar := some 5 }, slots := 0 })
      (onWg (fun w => { w with vbars := [{ vbar2 with num := 3, left := 0, retiring := 1, arrived := some done }] }) (bar3 { phases := 1, arrived := 0, perPhase := 1 } ready))
    (got (exec (.laneWordRetire 0) counted) fun t => t.cur.counted) = some [] ∧
      (got (exec (.laneWordRetire 0) vote) fun t => t.cur.em.votes.map fun e => (e.value, e.awaited)) = some [(7, 0)] ∧
      ((bar 0).wg 0).vbars.map (fun b => (b.id, b.retiring)) = [(5, 1)] ∧
      ((bar 0).wave 0).flight.map (fun f => (f.unit, f.trap, f.entry.vote, f.entry.counted)) = [(.barrier, none, none, none)] ∧
      (((bar 1).wave 0).flight.map fun f => (bar 1).barDone f.entry) = [false] ∧
      (got (exec (.laneWordRetire 0) (bar 0)) fun t => ((t.wg 0).vbars, (t.wave 0).flight)) = some ([], []) ∧
      idle (exec (.laneWordRetire 0) (bar 1)) = some "LANE_WORD_RETIRE" := by
  decide +kernel

/-- WindowTransfers: one register of the wave, with and without a page under the spill region. -/
def transferring (x : StreamItem) : State := onWave (fun w => { w with stream := [x] }) ready
theorem witness_transfers :
    let rows := [(0, locRange 0x8_0000_0000_8000 256)]
    (∀ x ∈ [StreamItem.spill 0 1 none, .reload 0 1 none],
      let s := paged (transferring x)
      s.canonical ∧ (s.wave 0).status = .live ∧ s.mayIssue 0 = true ∧ 1 - 0 ≤ (s.wave 0).width) ∧
      (∀ a ∈ [Access.spill, .reload], (paged ready).rowLocs 0 a (ready.transferRows 0 0 1 none) = .ok rows) ∧
      (paged ready).held (rows.flatMap (·.2)) = false ∧ (ready.cluster 0).spillq = [] ∧
      ((transferring (.spill 0 1 none)).rowLocs 0 .spill (ready.transferRows 0 0 1 none)).toOption = none ∧ ready.transfer 0 = none := by
  decide +kernel
/-- R361: a spill behind a save of another workgroup takes its place in the cluster's queue, and does nothing until its turn. -/
theorem test_spill_queue :
    let s := onCluster (fun c => { c with spillq := [.gang 7] }) (paged (transferring (.spill 0 1 none)))
    let t := after (exec (.windowSpill 0) s)
    (t.cluster 0).spillq = [.gang 7, .window 0] ∧ (t.wave 0).stream = [.spill 0 1 none] ∧ idle (exec (.windowSpill 0) t) = some "WINDOW_SPILL" := by
  decide +kernel
/-- The entry that a WLEAVE waits for: 16 entries remain, so the reload brings the entry 17, which the region holds in its header. -/
theorem witness_transfer_entry :
    let s := onCtx (fun c => { c with win := { c.win with popPending := true } }) (paged (transferring (.reload 0 1 (some 17))))
    (s.rowLocs 0 .reload (s.transferRows 0 0 1 (some 17))).toOption.isSome = true ∧ (s.wave 0).owner < s.ctxs.length ∧
      (s.ctx (s.wave 0).owner).win.popPending = true ∧
      (got (exec (.windowReload 0) s) fun t => (t.ctx 0).win.popRead) = some (some (0, 0)) := by
  decide +kernel

/-! ### Queues, nodes, fills and walks -/

/-- A data queue 0 with 16 entries whose ring lies in the page under the low addresses; a launch queue; a node. -/
def dataQ : Queue := { newQueue 0 true 0x20000 16 0 0 with status := .enabled }
def launchQ : Queue := { dataQ with data := false }
def fullQ : Queue := { dataQ with held := (List.range 16).map fun i => (i, none), tail := 16 }
def queued (q : Queue) : State := paged (onDctx (fun d => { d with queues := [q] }) (withRegs [(5, spadVa), (6, 1023), (7, 1024)] ready))
/-- A task record at the scratchpad's start that names counter 1023 with one dependence. -/
def taskBytes : List Byte := layBytes [(0, 0x16), (2, 1), (0, 0x15), (1, 4), (1023, 4), (0, 12)]
def withTask (s : State) : State := withMem spadAt taskBytes s
def node0 : Node :=
  { handle := 0, header := 0x1000, prio := 0, size := 8, count := 2, timer := 1, pool := 0x30000, opened := none, sealed := []
    slots := List.replicate 17 false, dying := false, headSince := 0 }
def batch (n : Nat) : Batch := { slot := 0, count := n, since := 0, stamps := List.replicate n { wg := 0, role := 0, count := 0 }, rels := [] }
def noded (n : Node) : State := paged (onDctx (fun d => { d with nodes := [n] }) (withRegs [(8, 0x1122)] ready))
def opened1 : Node := { node0 with opened := some (batch 1), slots := (List.replicate 17 false).set 0 true }
def later (t : Nat) (s : State) : State := onDev (fun d => { d with time := t }) s


theorem test_queue_words :
    (got (exec (.qpush 9 5 0) (queued dataQ)) fun t => (t.cur.rd 9, ((t.dctx 1).queue 0).map fun q => (q.held.length, q.tail))) = some (1, some (1, 1)) ∧
      (got (exec (.qpush 9 5 0) (queued fullQ)) fun t => t.cur.rd 9) = some 0 ∧
      (got (exec (.qpush 9 5 0) (withTask (queued launchQ))) fun t =>
        (t.cur.rd 9, ((t.dctx 1).queue 0).map fun q => ((q.counter 1023).value, (q.counter 1023).task.isSome))) = some (1, some (1, true)) ∧
      (got (exec (.qpop 9 5 0) (queued fullQ)) fun t => (t.cur.rd 9, ((t.dctx 1).queue 0).map fun q => (q.held.length, q.disp))) =
        some (1, some (15, 1)) ∧
      (got (exec (.qsig 9 6 0) (queued dataQ)) fun t => t.cur.rd 9) = some (-1) ∧ (trapOf (.qsig 9 7 0) (queued dataQ)).map (·.1) = some 1 ∧
      (got (exec (.qstat 9 0 0) (queued fullQ)) fun t => t.cur.rd 9) = some 0x20010 ∧
      (got (exec (.nrec { sampleNrec with sN := 0 }) (noded opened1)) fun t =>
        (t.cur.pc, ((t.dctx 1).node 0).map fun n => (n.opened.isSome, n.sealed.map (·.count)))) = some (0x1050, some (false, [2])) := by
  decide +kernel
/-- QueueWords: each of its cases, at the counter 1023, in an empty and in a full ring, and with a stamp that is not reached. -/
theorem witness_queue_words :
    let d := queued dataQ
    let l := withTask (queued launchQ)
    let taken := { launchQ with counters := [{ num := 1023, value := 1, task := some (taskBytes, none), next := [], rels := [] }] }
    let rec_ := (locRange spadAt 64).map l.byte
    Acting d ∧ d.canonical ∧ noRights.cur.hasRight 2 = false ∧ d.cur.hasRight 2 = true ∧ (d.dctx 1).queue 0 = some dataQ ∧
      (d.dctx 1).queue 1 = none ∧ (d.dctx 1).node 0 = none ∧ d.cur.reply = none ∧
      d.genAccess 0 (d.rd 5) 64 64 .load true = .ok (locRange spadAt 64) none ∧ d.genAccess 0 (d.rd 5) 64 64 .store false = .ok (locRange spadAt 64) none ∧
      dataQ.taskCounter rec_ = none ∧ dataQ.full = false ∧ fullQ.full = true ∧ launchQ.taskCounter rec_ = some 1023 ∧
      (launchQ.counter 1023).task = none ∧ (taken.counter 1023).task.isSome = true ∧ launchQ.data = false ∧ dataQ.held = [] ∧
      fullQ.held = (0, none) :: fullQ.held.tail ∧ d.stampMet none = true ∧ d.stampMet (some { wg := 0, role := 0, count := 1 }) = false ∧
      (d.rd 6).toNat < 1024 ∧ 1024 ≤ (d.rd 7).toNat ∧ (locRange spadAt 64).Nodup ∧
      (d.superLocs 0 1 (dataQ.slotVa 0) 64 .store false).toOption = some (locRange 0x8_0000_0002_0000 64) := by
  decide +kernel
theorem witness_nodes :
    let s := noded node0
    let full := { opened1 with opened := some (batch 2) }
    (s.dctx 1).node (s.cur.rd 0).toNat = some node0 ∧ node0.dying = false ∧ 8 * (sampleNrec.count.toNat + 1) = node0.size ∧
      node0.opened = none ∧ node0.freeSlot = some 0 ∧ opened1.opened = some (batch 1) ∧ (batch 1).count + 1 = opened1.count ∧ full.maySeal = true ∧
      (later 1000 (noded opened1)).timerDue 1 0 = true ∧ (later 999 (noded opened1)).timerDue 1 0 = false ∧
      (got (exec (.nodeBatchTimer 1 0) (later 1000 (noded opened1))) fun t => ((t.dctx 1).node 0).map fun n => (n.opened.isSome, n.sealed.length)) =
        some (some (false, 1)) ∧ idle (exec (.nodeBatchTimer 1 0) (later 999 (noded opened1))) = some "NODE_BATCH_TIMER" ∧
      (got (exec (.nrec { sampleNrec with sN := 0 }) (later 1000 (noded opened1))) fun t =>
        ((t.dctx 1).node 0).map fun n => (n.opened.map (fun b => (b.slot, b.count, b.since)), n.sealed.map (·.count))) =
        some (some (some (1, 1, 1000), [1])) ∧
      stalledOn (.nrec { sampleNrec with sN := 0 }) (noded full) = some (.stalled .node) := by
  decide +kernel

/-- CacheFillsAndWalks: a fill of each cache, clean and poisoned, and a write that is counted. -/
def fill0 (line : Nat) : Fill := { ctxid := 1, line := line, pa := 0, waiter := some 0, hint := .default }
def iFill : State := onCluster (fun c => { c with icFills := [fill0 0x1080] }) ready
def dFill : State := onCluster (fun c => { c with dcFills := [fill0 0x2000] }) ready
def lFill : State := onCluster (fun c => { c with loftFills := [fill0 0x12800] }) ready
def counting : State := onCtx (fun c => { c with counted := [{ num := 0, scalar := true, awaited := 1 }] }) ready
theorem test_fills :
    (got (exec (.icacheLineFill 0 0) (withMem 0 [0x55] iFill)) fun t =>
        ((t.cluster 0).icFills.length, (t.cluster 0).icache.head?.map fun l => (l.line, l.bytes.headD 0))) = some (0, some (0x1080, 0x55)) ∧
      (got (exec (.icacheLineFill 0 0) { iFill with badDram := [0] }) fun t => t.cur.fetched) = some [(0x1080, .poison)] ∧
      (got (exec (.dcacheLineFill 0 0) dFill) fun t => (t.cluster 0).dcache) = some [(1, 0x2000)] ∧
      (got (exec (.loftLineFill 0 0) lFill) fun t => (t.cluster 0).loft) = some [{ loftHolds with loc := 0 }] ∧
      (got (exec (.loftLineFill 0 0) { lFill with badDram := [0] }) fun t => t.cur.pending.map (·.record.cause)) = some [18] ∧
      (got (exec (.scalarAccessComplete 0) counting) fun t => t.cur.counted) = some [] := by
  decide +kernel
theorem witness_fills :
    ready.sized ∧ physLoc 0 = some 0 ∧ (iFill.cluster 0).icFills[0]? = some (fill0 0x1080) ∧ iFill.poisoned (locRange 0 64) = false ∧
      State.poisoned { iFill with badDram := [0] } (locRange 0 64) = true ∧ (dFill.cluster 0).dcFills[0]? = some (fill0 0x2000) ∧
      (lFill.cluster 0).loftFills[0]? = some (fill0 0x12800) ∧ (lFill.ctx 0).status ≠ .ended ∧
      (counting.cur.counted.find? (·.scalar)).isSome = true ∧ (ready.cur.counted.any fun w => w.scalar) = false ∧
      (ready.cluster 31).icFills.length ≤ 0 ∧ (ready.cluster 31).dcFills.length ≤ 0 ∧ (ready.cluster 31).loftFills.length ≤ 0 ∧
      (ready.die 3).walks.length ≤ 0 ∧ iFill.held [0] = false ∧ lFill.poisoned (locRange 0 64) = false := by
  decide +kernel
/-- R25: a location whose row is being copied is held. -/
theorem witness_held : (onVault (fun v => { v with remapping := [(Config.rowOf 0, 5)] }) iFill).held [0] = true := by
  have h : (onVault (fun v => { v with remapping := [(Config.rowOf 0, 5)] }) iFill).vault 0 = { iFill.vault 0 with remapping := [(Config.rowOf 0, 5)] } := by
    rfl
  simp [State.held, State.rowHeld, show isDram 0 = true from by decide, show vaultOf 0 = 0 from by decide, h]
def readAll (cls num : Nat) : BoundaryEntry := { cls := cls, num := num, ix := 0, lo := 0xB, hi := 0xFFFFFFFFFF000 }
/-- A table at 0 whose first entry points to one at 0x10000, whose first entry is a leaf; every slice admits reads. -/
def tabled : State :=
  onDev (fun d => { d with boundary := readAll 0 0 :: (List.range 16).map (readAll 1) })
    (withMem 0x10000 (leBytes 8 0x4000009F) (withMem 0 (leBytes 8 0x10001) (onDctx (fun d => { d with desc := { d.desc with root := 0 } }) ready)))
def walking : State :=
  onDie (fun d => { d with walks := [{ cluster := 0, ctxid := 1, va := 0x5000, kind := .dpref, user := false }] }) tabled
theorem slices_admit (a : Nat) (h : a = 0 ∨ a = 0x10000) : walking.admits 0 1 ⟨true, false⟩ a a 8 = true := by
  rcases h with rfl | rfl <;> unfold State.admits <;> simp only [show isDram 0 = true from rfl, show isDram 0x10000 = true from rfl, if_true] <;>
    (generalize Config.sliceOfVault _ = c; revert c; decide +kernel)
theorem witness_walk : ∃ x, walking.missResult { cluster := 0, ctxid := 1, va := 0x5000, kind := .dpref, user := false } = .ok x ∧ x.walked = true := by
  have h1 : walking.walk true 0 1 0x5000 4 0 = .ok (0x4000009F, 3, 0x10000) := by
    unfold State.walk; dsimp only
    rw [show dramLoc (0 + 8 * (0x5000 / 2 ^ (3 + 9 * (3 + 1)) % 512)) = some 0 from by decide]
    simp only [show 0 + 8 * (0x5000 / 2 ^ (3 + 9 * (3 + 1)) % 512) = 0 from by decide, slices_admit 0 (.inl rfl)]
    rw [show walking.rowHeld 0 = false from by decide +kernel, show walking.poisoned (locRange 0 8) = false from by decide +kernel,
      show walking.readN 0 8 = 0x10001 from by decide +kernel]
    rw [show (!bitAt 0x10001 0) = false from by decide, show malformed 0x10001 (3 + 1) = false from by decide, show bitAt 0x10001 7 = false from by decide]
    simp only [Bool.not_true, Bool.false_eq_true, if_false, Bool.and_false]
    rw [show bits 0x10001 51 12 * 4096 = 0x10000 from by decide]
    unfold State.walk; dsimp only
    rw [show dramLoc (0x10000 + 8 * (0x5000 / 2 ^ (3 + 9 * (2 + 1)) % 512)) = some 0x10000 from by decide]
    simp only [show 0x10000 + 8 * (0x5000 / 2 ^ (3 + 9 * (2 + 1)) % 512) = 0x10000 from by decide, slices_admit 0x10000 (.inr rfl)]
    rw [show walking.rowHeld 0x10000 = false from by decide +kernel, show walking.poisoned (locRange 0x10000 8) = false from by decide +kernel,
      show walking.readN 0x10000 8 = 0x4000009F from by decide +kernel]
    rfl
  unfold State.missResult State.walkFor; dsimp only [MissKind.access]
  rw [show (walking.dctx 1).desc.part = 0 from by decide +kernel, show (walking.dctx 1).desc.root = 0 from by decide +kernel]
  simp only [h1, show permitted 0x4000009F .load false = true from by decide]
  exact ⟨_, rfl, rfl⟩
theorem witness_walk_under_way :
    walking.sized ∧ (walking.die 0).walks[0]?.isSome = true ∧ (walking.die 0).walkBusy 1 0x5FF8 = true ∧ (walking.die 0).walkBusy 1 0x6000 = false ∧ (walking.die 0).misses = [] ∧ dieOf 0 = 0 := by decide +kernel

/-! ### Engines -/

/-- An MLOOP, an MDRAIN and an MCLR at the head of the queue of `tiled`; t0 holds 1 to 16 and t1 is all ones. -/
def fed : State := withMem spadAt ((List.range 16).map fun i => BitVec.ofNat 8 (i + 1)) (withMem (spadAt + 0x40) (List.replicate 16 1) tiled)
def heading (i : Instr) : State := after (exec i fed)
def drained1 : State := heading (.mdrain drain0)
def poisonedDrain : State := { drained1 with badAccs := [0] }
/-- Rows 1 to 8 and 9 to 16 times columns of ones. -/
theorem test_matrix :
    (got (exec (.matrixStep 0) (heading (.mloop loop0))) fun t =>
        ((t.wg 0).mqueue.length, (t.wg 0).mdone, sparseGet t.accs ((t.wg 0).accKey 0 0 0), sparseGet t.accs ((t.wg 0).accKey 0 1 1))) =
        some (0, 1, 36, 100) ∧
      (got (exec (.mdrainExecute 0) drained1) fun t => ((t.wg 0).mqueue.length, (t.wg 0).mdone)) = some (0, 1) ∧
      (got (exec (.mclrExecute 0) (heading (.mclr 7))) fun t => ((t.wg 0).mqueue.length, (t.wg 0).mdone)) = some (0, 1) ∧
      (got (exec (.mdrainExecute 0) poisonedDrain) fun t => t.cur.pending.map (·.record.cause)) = some [18] := by
  decide +kernel
theorem witness_matrix :
    let l := heading (.mloop loop0)
    l.canonical ∧ ((l.matrixHead 0).map fun q => (q.op, q.kind, l.matrixPoison (l.wg 0) q.addrs true [])) = some (.mloop loop0, .i32, none) ∧
      l.badAccs = [] ∧ ((l.matrixHead 0).map fun q => (q.tA.rows, q.tB.cols)) = some (2, 2) ∧
      ((drained1.matrixHead 0).map fun q => (q.op, drained1.matrixPoison (drained1.wg 0) q.addrs false [],
        ((drained1.drainBytes (drained1.wg 0) q drain0).map (·.1)) == locRange (spadAt + 0x80) 16)) = some (.mdrain drain0, none, true) ∧
      (locRange (spadAt + 0x80) 16).Nodup ∧
      ((poisonedDrain.matrixHead 0).map fun q => poisonedDrain.matrixPoison (poisonedDrain.wg 0) q.addrs false [0]) = some (some (18, 0)) ∧
      (poisonedDrain.wg 0).ctxs[0]? = some 0 ∧ (poisonedDrain.ctx 0).status ≠ .ended ∧
      ((heading (.mclr 7)).matrixHead 0).map (·.op) = some (.mclr 7) := by
  decide +kernel

def cp (n : Nat) : State := marked (bound3 .issued 0 n)
def far3 : State := onDie (fun d => { d with l2tlb := [bigPage] }) (marked { bound3 .issued 0 256 with src := 0x40000 })
def lost3 : State := marked { bound3 .issued 0 256 with src := 0x40000 }
def sent3 (n len : Nat) : State := marked { bound3 .issued 0 len with sent := n, buffer := List.replicate n 0x66 }
def parking : State := onWg (fun w => { w with status := .saving }) (marked { bound3 .landing 64 256 with park := some 64 })
theorem test_copy_engine :
    (got (exec (.copySegmentSend 0 3) (withMem (spadAt + 5) [0x77] (cp 256))) fun t =>
        (t.bound 0 3).map fun b => (b.sent, b.buffer.length, b.buffer.getD 5 0)) = some (some (256, 256, 0x77)) ∧
      (got (exec (.copySegmentSend 0 3) far3) fun t => (t.bound 0 3).map fun b => (b.sent, b.asks)) = some (some (0, some false)) ∧
      (got (exec (.copySegmentSend 0 3) lost3) fun t => ((t.bound 0 3).map fun b => (b.state, b.record), (t.dctx 1).faults.length)) =
        some (some (.frozen, some 0), 1) := by
  decide +kernel
theorem test_copy_commits :
    (got (exec (.copyUnitCommit 0 3) (sent3 256 256)) fun t => ((t.bound 0 3).map fun b => (b.count, b.state), t.byte (spadAt + 1024))) =
        some (some (64, .landing), 0x66) ∧
      (got (exec (.copyUnitCommit 0 3) (sent3 64 64)) fun t => ((t.bound 0 3).map fun b => (b.count, b.state, b.armed, b.srcf))) =
        some (some (64, .published, false, true)) ∧
      (got (exec (.copyPark 0 3) parking) fun t => (t.bound 0 3).map fun b => (b.state, b.before, b.sent)) = some (some (.parked, .landing, 64)) := by
  decide +kernel
def unitOf3 (s : State) (write : Bool) : Option UnitAccess := (s.bound 0 3).map fun b => s.copyUnit (s.wg 0) b write 0 64
theorem witness_copy_engine :
    let b := bound3 .issued 0 256
    (cp 256).canonical ∧ (cp 256).bound 0 3 = some b ∧ (cp 256).sendReady 0 3 = true ∧ (cp 256).crossesFailed ((cp 256).wg 0) b = false ∧
      unitOf3 (cp 256) false = some (.ok (locRange spadAt 64) []) ∧ b.sent + b.nextRead ((cp 256).wg 0) = b.srcLen ∧ b.overlaps ((cp 256).wg 0) = false ∧
      far3.sendReady 0 3 = true ∧ (match unitOf3 far3 false with
        | some (.ok l xs) => (l, xs.map (·.1))
        | _ => ([], [])) = (locRange 0x8_0000_0004_0000 64, [{ pa := 0x8_0000_0004_0000, entry := bigPage, walked := false }]) ∧ farRead (locRange 0x8_0000_0004_0000 64) = true ∧
      lost3.sendReady 0 3 = true ∧ (lost3.devIx 1).isSome = true ∧ ((unitOf3 lost3 false).map fun u => match u with
        | .freeze va _ => va
        | _ => 0) = some 0x40000 ∧
      ready.sendReady 0 3 = false ∧ (sent3 64 64).commitReady 0 3 = true ∧ (sent3 256 256).commitReady 0 3 = true ∧ b.isCopy = true ∧
      unitOf3 (sent3 64 64) true = some (.ok (locRange (spadAt + 1024) 64) []) ∧ (locRange (spadAt + 1024) 64).Nodup ∧
      (locRange (spadAt + 1024) 64).any isRemote = false ∧ ready.commitReady 0 3 = false ∧ parking.parkReady 0 3 = true ∧
      ready.parkReady 0 3 = false := by
  decide +kernel

/-- ChainUnitsReduce: two calls of one workgroup that agree, that disagree in their count, and with a rank gone. -/
def call3 (rank : Nat) (b0 : Byte) : Bound :=
  { bound3 .issued 0 64 with kind := .cred sampleCred 9 rank 0 4 16, srcf := true, sent := 64, buffer := b0 :: List.replicate 63 0 }
def matched (dead : List Nat) (count : Nat) : State :=
  onDev (fun d => { d with comms := [{ comm9 with ranks := [(0, 1, 0), (0, 1, 1)], groups := [2], calls := [5, 5], dead := dead }] })
    (onWg (fun w => (w.setMark 3 { bc := 0, bound := some (call3 0 5) }).setMark 4 { bc := 0, bound := some { call3 1 7 with kind := .cred sampleCred 9 1 0 4 count } }) ready)
theorem test_chain_units :
    (got (exec (.chainUnitReduce 9) (matched [] 16)) fun t => [3, 4].map fun m => (t.bound 0 m).map fun b => (b.matched, b.data.headD 0)) =
        some [some (true, 12), some (true, 12)] ∧
      (got (exec (.chainUnitReduce 9) (matched [] 15)) fun t => (t.bound 0 4).map fun b => (b.matched, b.state)) = some (some (false, .poisoned)) ∧
      (got (exec (.chainUnitReduce 9) (matched [1] 16)) fun t => (t.bound 0 3).map fun b => (b.matched, b.state)) = some (some (false, .poisoned)) := by
  decide +kernel
theorem witness_chain_units :
    (matched [] 16).reduceReady 9 = true ∧ (matched [] 15).reduceReady 9 = true ∧ (matched [1] 16).reduceReady 9 = true ∧
      callsAgree ((matched [] 16).matchedCalls 9) = true ∧ callsAgree ((matched [] 15).matchedCalls 9) = false ∧
      ((matched [] 16).matchedCalls 9).map (fun x => (x.wg, x.wm, x.bound.len)) = [(0, 3, 64), (0, 4, 64)] ∧ 0 < (matched [] 16).wgs.length ∧
      ((matched [] 16).comm 9).map (fun c => (c.dead, c.ranks.length)) = some ([], 2) := by
  decide +kernel

/-! ### The life of a gang -/

/-- A queue whose head places its second gang, and the same with every cluster lost. -/
def launching : State :=
  { onDctx (fun d => { d with desc := { d.desc with saveBytes := 2 ^ 24, saveBase := 0x1000000, privBase := 0x800000, privBytes := 2 ^ 20, loftSlots := 4, loftBase := 0x200000, stackSlots := 4 },
                              queues := [{ launchQ with held := [(0, none)], tail := 1, current := some 0 }] })
      (paged ready) with launches := [{ loadLaunch with grid := 2, nextGang := 1, queue := 0, size := 1 }] }
def nowhere : State := { launching with clusters := launching.clusters.map fun c => { c with lost := true } }
def trialOf (s : State) : Trial :=
  let r := s.launch 0
  placeGangs (s.judge ((r.floor, r.floorDies) :: s.residentFloors)) r.header r.size (s.offered 0) [1] s.seats
theorem test_dispatch :
    (got (exec .dispatchServe nowhere) fun t => (t.gangs.length, ((t.dctx 1).queue 0).map fun q => (q.reason, q.refusals))) =
        some (1, some (1, 1)) := by
  decide +kernel
theorem witness_dispatch :
    launching.servable = [.ring 1 0] ∧ nowhere.servable = [.ring 1 0] ∧ ready.servable = [] ∧
      ((launching.dctx 1).queue 0).map (·.current) = some (some 0) ∧ 0 < launching.launches.length ∧
      ((launching.launch 0).ctxid, (launching.launch 0).queue, (launching.launch 0).coresident, (launching.launch 0).size) = (1, 0, false, 1) ∧
      (trialOf launching).seats.map (fun l => l.map fun x => (x.cluster, (launching.cluster x.cluster).gated)) = some [(0, false)] ∧
      (takeAllPools (launching.dctx 1).desc loadHeader 1 (launching.dctx 1).pools).map (·.1.length) = some 1 ∧
      (trialOf nowhere).seats = none ∧ (trialOf nowhere).refused = [] := by
  decide +kernel

/-- GangLife: a gang that starts, one whose agents have ended, one that is saved but for its last check, and one that is restored. -/
def starting1 : State := paged (onWg (fun w => { w with status := .starting }) ready)
def ended1 : State := onCtx (fun c => { c with status := .ended }) ready
def small (st : WgStatus) (s : State) : State :=
  onWg (fun w => { w with status := st, header := { w.header with accs := 0, spad := 0, tiles := 0, roles := [{ entry := 0x40, width := 32, waves := 1, rights := 7 }] }, accs := [], kinds := [], saveAt := 0x100000 }) s
def saving1 : State := paged (small .saving ready)

def saving2 : State := onGang (fun g => { g with progress := 16 }) saving1
def restoring1 : State :=
  onWg (fun w => { w with status := .restoring }) (onCtx (fun _ => Context.free) saving1)
/-- Restoring: the fields of the save area that the checks of R359 read, and no other. -/
def savedAt : Nat := 0x8_0000_0010_0000
def restoring2 : State :=
  let h := (restoring1.wg 0).header
  withMem (savedAt + 0x5000) [1] (withMem (savedAt + 0x1000) [1, 0, 0, 0, 0, 0, 0, 0, 0x48, 0x10, 0, 0, 0, 0, 0, 0, 0x33]
    (withMem savedAt (layBytes [(1 + 2 ^ 16 + 2 ^ 24, 4), (0, 4), (h.saveBytes, 8), (0x1000, 8), (0, 4), (0, 1), (1, 1), (0, 2), (0x100000, 8), (0, 24),
      (h.accOffset, 8), (h.spadOffset, 8), (0, 176)] ++ (List.replicate 16 (layBytes [(0, 48), (8, 16)])).flatten) restoring1))
theorem test_gang_life :
    (got (exec (.workgroupStart 0) starting1) fun t => ((t.wg 0).status, t.cur.pc, (t.wave 0).status)) = some (.running, 0x1040, .live) ∧
      (got (exec (.workgroupRetire 0) ended1) fun t => ((t.gang 0).discarded, (t.launch 0).retired)) = some (true, 1) := by
  decide +kernel
theorem witness_gang_start :
    let w := starting1.wg 0
    starting1.sized ∧ starting1.canonical ∧ starting1.startReady 0 = true ∧ (starting1.gang 0).wgs = [0] ∧ (starting1.gang 0).trigger = none ∧
      Answer (goOnWriting 0 (starting1.startPieces 0)) starting1 = true ∧ w.ctxs = [0] ∧ w.waves = [0] ∧ w.waves.length = w.header.waveRoles.length ∧
      ready.startReady 0 = false ∧ (ended1.gang 0).wgs = [0] ∧ (ended1.gang 0).wgs.all ended1.wgEnded = true ∧
      (ended1.gang 0).origin = .launch 0 ∧ 0 < ended1.launches.length ∧ (ready.gang 0).wgs.all ready.wgEnded = false := by
  decide +kernel
theorem witness_gang_save :
    saving2.sized ∧ saving2.canonical ∧ saving2.savable 0 = true ∧ ready.savable 0 = false ∧ (saving2.gang 0).wgs = [0] ∧
      saving2.writesReady 0 (saving2.savePieces 0) = true ∧ saving2.gangTurn 0 = true ∧
      Answer (goOnWriting 0 (saving2.savePieces 0)) saving2 = true := by
  decide +kernel
/-- The members share no agent, and the spill sequencers are free. -/
theorem witness_gang_apart : (∀ s ∈ [starting1, ended1, saving2, restoring2], s.apart 0) ∧ ∀ s ∈ [saving2, restoring2], s.spillFree 0 := by
  unfold State.apart State.spillFree; decide +kernel
theorem witness_gang_restore :
    restoring2.sized ∧ restoring2.canonical ∧ restoring2.restoreGoesOn 0 = true ∧ (restoring2.gang 0).wgs = [0] ∧ (restoring2.gang 0).trigger = none ∧
      (restoring2.dctx 1).faults = [] ∧ Answer (readAreas 0) restoring2 = true ∧ (Leaves (readAreas 0) restoring2).badFields 0 = [] ∧
      (restoring2.wg 0).ctxs = [0] ∧ ready.mayRestore 0 = false ∧ ready.restoreGoesOn 0 = false := by
  decide +kernel

/-! ### Commands -/

def h1 : CmdHead := { part := 0, ctxid := 1, tag := 7, slot := 0x10000, answers := true }
/-- STATUS and RESULT of the record, and the kind of the last event. -/
def answered (r : Result) : Option (Nat × Nat × Option Nat) :=
  got r fun t => (leNat (t.busRead (h1.slot + 0x38) 4), leNat (t.busRead (h1.slot + 0x3C) 4), (t.part 0).held.getLast?.map (·.kind))
def inStatus (st : DevStatus) : State := onDctx (fun d => { d with status := st }) ready
/-- A descriptor of context 2 in host memory at 0x20000. -/
def desc2 : List Byte :=
  layBytes [(0, 8), (2, 2), (0, 1), (2, 1), (3, 1), (15, 1), (1, 2), (0, 8), (0, 8), (0, 8), (1, 4), (0, 4), (0, 16), (0, 8), (16, 4), (0, 4), (0, 48)]
def hostMem (a : Nat) (b : List Byte) (s : State) : State := withMem (busLoc a) b s
def h2 : CmdHead := { h1 with ctxid := 2 }
def image2 : List Byte := layBytes [(1, 2), (2, 1), (0, 5), (0x90, 8)] ++ desc2
def qs (st : QueueStatus) : State := onDctx (fun d => { d with queues := [{dataQ with status := st}] }) ready
def coded (l : List (Option (Nat × Nat × Nat))) : State := onDctx (fun d => { d with code := l }) ready
theorem test_context_commands :
    answered (exec (.createContext h2 0x20000) (hostMem 0x20000 desc2 ready)) = some (0, 0, some 9) ∧
      answered (exec (.enableContext h2) ready) = some (4, 0, some 9) ∧ answered (exec (.enableContext h1) ready) = some (5, 0, some 9) ∧
      (got (exec (.enableContext h1) (inStatus .created)) fun t => (t.dctx 1).status) = some .runnable ∧
      (got (exec (.suspendContext h1) (qs .enabled)) fun t => ((t.dctx 1).status, (t.gang 0).trigger, (t.wg 0).status)) =
        some (.suspending, some .suspend, .saving) ∧
      (got (exec (.resumeContext h1) (onDctx (fun d => { d with status := .suspended }) (qs .stopped))) fun t =>
        ((t.dctx 1).status, (t.dctx 1).queues.map (·.status))) = some (.runnable, [.enabled]) ∧
      (got (exec (.destroyContext h1) ready) fun t => (t.devIx 1, (t.gang 0).discarded)) = some (none, true) ∧
      answered (exec (.migrateBegin h1 0x40000 160) (inStatus .suspended)) = some (0, 160, some 9) ∧
      (got (exec (.migrateAbort h1) (inStatus .migrating)) fun t => (t.dctx 1).status) = some .suspended := by
  decide +kernel
theorem test_migrate_commit :
    (got (exec (.migrateCommit h2 0x20000 0x90 true 0x1000) (hostMem 0x20000 image2 ready)) fun t =>
        ((t.dctx 2).desc.root, (t.dctx 2).status)) = some (0x1000, .runnable) ∧
      answered (exec (.migrateCommit h1 0x40000 0 false 0) (inStatus .migrating)) = some (0, 0, some 9) := by
  decide +kernel
/-- ContextCommands. -/
theorem witness_context_commands :
    let s := hostMem 0x20000 desc2 ready
    let m := hostMem 0x20000 image2 ready
    s.canonical ∧ h2.answers = true ∧ descriptorOk (s.busRead 0x20000 128) = true ∧ (parseDescriptor (s.busRead 0x20000 128)).ctxid = 2 ∧
      s.devIx 2 = none ∧ (∀ x ∈ ready.devs, x.desc.ctxid ≠ h2.ctxid) ∧ MayName ready h1 ∧ (ready.dctx 1).status = .runnable ∧
      (inStatus .suspended).heldByTables 1 = false ∧ (ready.dctx 1).faults = [] ∧ ready.oneLive 1 ∧
      ((inStatus .suspended).migrationImage 1).length = 160 ∧ (busLocs 0x40000 160).Nodup ∧
      (m.busRead 0x20000 0x90).length = 0x90 ∧ field (m.busRead 0x20000 0x90) 8 8 ≤ 0x90 ∧ field (m.busRead 0x20000 0x90) 0 2 ≤ 1 ∧
      field (m.busRead 0x20000 0x90) 2 1 = 2 ∧ m.descStatus h2 (((m.busRead 0x20000 0x90).drop 0x10).take 128) = 0 ∧ (dramLoc 0x1000).isSome = true := by
  decide +kernel
theorem witness_apart : Apart 0x40000 160 (h1.slot + 0x38) 8 := by decide +kernel

theorem test_queue_commands :
    (got (exec (.createQueue h1 255 true 0x20000 16 400 15) ready) fun t => ((t.dctx 1).queue 255).map (·.status)) = some (some .disabled) ∧
      answered (exec (.enableQueue h1 255) ready) = some (4, 0, some 9) ∧
      [exec (.enableQueue h1 0) (qs .disabled), exec (.stopQueue h1 0) (qs .enabled), exec (.startQueue h1 0) (qs .stopped),
        exec (.destroyQueue h1 0) (qs .stopped)].map (fun r => got r fun t => ((t.dctx 1).queue 0).map (·.status)) =
        [some (some .enabled), some (some .stopped), some (some .enabled), some none] ∧
      answered (exec (.enableQueue h1 0) (qs .enabled)) = some (5, 0, some 9) ∧
      (got (exec (.createNode h1 4095 3 0x1000 64 256 65535 0x40) ready) fun t => ((t.dctx 1).node 4095).isSome) = some true ∧
      (got (exec (.destroyNode h1 0) (noded opened1)) fun t => ((t.dctx 1).node 0).map fun n => (n.dying, n.opened.isSome)) =
        some (some (true, false)) ∧
      answered (exec (.registerCode h1 0x2000 0x1000 0x77) (coded [some (0x1000, 0x1000, 0), none])) = some (0, 1, some 9) ∧
      answered (exec (.registerCode h1 0x1FC0 0x1000 0x77) (coded [some (0x1000, 0x1000, 0), none])) = some (8, 0, some 9) ∧
      (got (exec (.deregisterCode h1 0x1000) (coded [none, some (0x1000, 0x1000, 0)])) fun t => (t.dctx 1).code) = some [none, none] := by
  decide +kernel
theorem test_invalidate :
    (got (exec (.invalidate h1 0 0x1000) (paged ready)) fun t => (t.cluster 0).tlb) = some [] ∧
      answered (exec (.invalidate h1 0 0x1001) (paged ready)) = some (3, 0, some 9) := by
  decide +kernel
/-- QueueNodeCodeCommands. -/
theorem witness_queue_commands :
    let c := (coded [some (0x1000, 0x1000, 0), none]).dctx 1
    MayName ready h1 ∧ isPow2 16 = true ∧ isPow2 65536 = true ∧ (ready.dctx 1).queue 255 = none ∧
      (∀ st ∈ [QueueStatus.disabled, .enabled, .stopped], (((qs st).dctx 1).queue 0).map (·.status) = some st) ∧
      (ready.dctx 1).node 4095 = none ∧ (((noded opened1).dctx 1).node 0).isSome = true ∧ c.code[0]? = some (some (0x1000, 0x1000, 0)) ∧
      c.code.findIdx? (fun e => e.isNone) = some 1 := by
  decide +kernel

def faultRec (src : FaultSource) : FaultRecord := { seq := 5, source := src, bytes := [], posted := true, answer := none }
def laneFault : State := onWave (fun w => { w with status := .faulted }) (onDctx (fun d => { d with faults := [faultRec (.lane 0 0)] }) ready)
def laneFault1 : State := onWave (fun w => { w with stream := [.word (aWord vnopW)] }) laneFault
def copyFault : State := onDctx (fun d => { d with faults := [faultRec (.copy 0 3)] }) (marked { bound3 .frozen 0 256 with record := some 5 })
def halted : State := onGang (fun g => { g with waits := true, trigger := some .halt }) (onWg (fun w => { w with status := .saved, saveAt := 0x100000 }) ready)
def h0 : CmdHead := { h1 with ctxid := 0 }
def ranks2 : State := hostMem 0x30000 [2, 0] (hostMem 0x20000 (layBytes [(0, 2), (1, 2), (0, 4), (0, 8), (0, 2), (1, 2), (1, 4), (0, 8)]) ready)
def suspendedBusy : State := onPart (fun p => { p with busy := some (.suspendContext h1) }) (onGang (fun g => { g with discarded := true }) (inStatus .suspending))
def commBusy : State := onPart (fun p => { p with busy := some (.destroyCommunicator h0 9) }) collective
def hv1 : CmdHead := { h1 with part := 1 }
def tabled63 : State := onDev (fun d => { d with boundary := [entryOf 0 127 63 0xB 0x1000] }) ready
def upLink (st : LinkStatus) : State := onLink (fun l => { l with status := st }) ready
theorem test_gang_commands :
    [exec (.answerFault h1 5 false) laneFault, exec (.answerFault h1 5 true) laneFault].map (fun r => got r fun t =>
        ((t.wave 0).status, (t.wave 0).failed.isSome)) = [some (.live, false), some (.live, true)] ∧
      [exec (.answerFault h1 5 false) copyFault, exec (.answerFault h1 5 true) copyFault].map (fun r => got r fun t =>
        (t.bound 0 3).map (·.state)) = [some (some .issued), some (some .poisoned)] ∧
      answered (exec (.answerFault h1 6 true) laneFault) = some (4, 0, some 9) ∧
      (got (exec (.preEmptGang h1 0) ready) fun t => ((t.gang 0).trigger, (t.wg 0).status)) = some (some .driver, .saving) ∧
      (got (exec (.resumeGang h1 0x100000) halted) fun t => (t.gang 0).trigger) = some (some .driver) ∧
      (got (exec (.discardGang h1 0x100000) halted) fun t => ((t.gang 0).discarded, (t.wg 0).status)) = some (true, .retired) ∧
      answered (exec (.unknownCommand h1 1) (hostMem 0x10000 [0x99, 0x12] ready)) = some (1, 0, some 9) := by
  decide +kernel
theorem test_communicator_commands :
    (got (exec (.createCommunicator h0 0x20000 2 1 0x30000) ranks2) fun t => (t.dev.comms.map (·.groups), (t.dctx 1).comms)) = some ([[2]], [0]) ∧
      (got (exec (.destroyCommunicator h0 9) collective) fun t => (t.dctx 1).comms) = some [] ∧
      answered (exec (.destroyCommunicator h0 9) ready) = some (4, 0, some 9) ∧
      (got (exec (.commandComplete 0) suspendedBusy) fun t => ((t.dctx 1).status, (t.part 0).busy)) = some (.suspended, none) ∧
      (got (exec (.commandComplete 0) commBusy) fun t => (t.dev.comms.length, (t.part 0).busy)) = some (0, none) ∧
      idle (exec (.commandComplete 15) ready) = some "COMMAND_COMPLETE" := by
  decide +kernel
/-- GangFaultAndCommunicatorCommands. -/
theorem witness_gang_commands :
    let unanswered (s : State) : Option FaultSource := ((s.dctx 1).faults.find? fun x => x.seq == 5 && x.posted && x.answer.isNone).map (·.source)
    MayName laneFault h1 ∧ MayName copyFault h1 ∧ unanswered laneFault = some (.lane 0 0) ∧ unanswered copyFault = some (.copy 0 3) ∧
      laneFault.holdsAnswer (faultRec (.lane 0 0)) = false ∧ copyFault.holdsAnswer (faultRec (.copy 0 3)) = false ∧
      (laneFault.wg 0).waves[0]? = some 0 ∧ (laneFault.wave 0).status = .faulted ∧
      ((copyFault.bound 0 3).map fun b => (b.state, b.record)) = some (.frozen, some 5) ∧
      (ready.gangsOf 1).find? (fun g => (ready.gang g).wgs.any fun w => (ready.wg w).wgid == 0) = some 0 ∧ (ready.gang 0).waits = false ∧
      halted.gangAt 1 0x100000 = some 0 ∧ (halted.gang 0).waits = true ∧ (halted.gang 0).trigger = some .halt ∧ halted.gangAt 1 0x200000 = none := by
  decide +kernel
theorem witness_communicators :
    let b := ranks2.busRead 0x20000 32
    ranksOk 2 b = true ∧ parseRanks 2 b = [(0, 1, 0), (0, 1, 1)] ∧ leNat (ranks2.busRead 0x30000 2) = 2 ∧ ranks2.freeHandle = some 0 ∧
      groupsOnDevices [2] (parseRanks 2 b) = true ∧ ranks2.localContexts (parseRanks 2 b) = [1] ∧ (ranks2.devIx 1).isSome = true ∧
      ranks2.dev.package = 0 ∧ (collective.comm 9).isSome = true ∧ ready.comm 9 = none ∧
      (suspendedBusy.part 0).busy = some (.suspendContext h1) ∧ suspendedBusy.suspendDone 1 = true ∧ MayName suspendedBusy h1 ∧
      commBusy.credInFlight 9 = false ∧ ready.waitOver (ready.part 15) = none ∧ ready.newHolders (ready.part 15) = [] ∧
      (let gone := onPart (fun p => { p with busy := some (.suspendContext { h1 with ctxid := 5 }) }) ready
       gone.devIx 5 = none ∧ (got (exec (.commandComplete 0) gone) fun t => (leNat (t.busRead (h1.slot + 0x38) 4), (t.part 0).busy)) = some (9, none)) := by
  decide +kernel

theorem test_device_commands :
    [exec (.writeBoundaryEntry hv1 0 0 0 0 0) ready, exec (.readBoundaryEntry hv1 0 0 0 0) ready, exec (.bindFunction hv1 1 0 true) ready,
      exec (.enableLink hv1 0 0) ready, exec (.setRoute hv1 0 0) ready, exec (.setPackageNumber hv1 0) ready].map (fun r => got r fun t =>
        leNat (t.busRead (h1.slot + 0x38) 4)) = List.replicate 6 (some 2) ∧
      (got (exec (.writeBoundaryEntry h1 0 127 63 0xB 0x1000) ready) fun t => (t.tableEntry 0 127 63).lo) = some 0xB ∧
      (got (exec (.writeBoundaryEntry h1 0 127 63 0 0) tabled63) fun t => ((t.tableEntry 0 127 63).lo, (t.dctx 1).status)) =
        some (0xB, .suspending) ∧
      (got (exec (.readBoundaryEntry h1 0 127 63 0x20000) tabled63) fun t => t.busRead 0x20000 16) = some (leBytes 8 0xB ++ leBytes 8 0x1000) ∧
      (got (exec (.bindFunction h1 16 15 true) ready) fun t => t.dev.functions.getD 15 none) = some (some 15) ∧
      (got (exec (.enableLink h1 15 15) ready) fun t => ((t.link 15).status, (t.link 15).part)) = some (.training, 15) ∧
      answered (exec (.enableLink h1 0 15) (upLink .up)) = some (5, 0, some 9) ∧
      (got (exec (.setPackageNumber h1 255) ready) fun t => t.dev.package) = some 255 ∧
      answered (exec (.setPackageNumber h1 255) (upLink .up)) = some (8, 0, some 9) ∧
      answered (exec (.readCouplingTable h1 4 0x20000) ready) = some (3, 0, some 9) := by
  decide +kernel
/-- DeviceCommands. -/
theorem witness_device_commands :
    let e := entryOf 0 127 63 0 0
    hv1.part ≠ 0 ∧ 127 < tableCount 0 ∧ e.keeps (ready.tableEntry 0 127 63) = true ∧ e.keeps (tabled63.tableEntry 0 127 63) = false ∧
      tabled63.holders (tabled63.tableEntry 0 127 63) = [1] ∧
      ready.dev.functions.length = 16 ∧ ready.links.length = 16 ∧ (ready.link 15).status = .down ∧ ((upLink .failed).link 0).status = .failed ∧
      (∀ l ∈ ready.links, l.status ≠ .up) ∧ ((upLink .up).link 0).status = .up ∧ (ready.die 3).coupling.length = 288 := by
  decide +kernel
theorem witness_apart_entry : Apart 0x20000 16 (h1.slot + 0x38) 8 := by decide +kernel
/-- What a command is refused for: a context that was never made, one that was destroyed, another partition's, a number past its range, a
name that is taken or unknown, no free code entry, a gang that is saved already, no buffer. -/
theorem witness_command_refusals :
    let h5 : CmdHead := { h1 with ctxid := 5 }
    let gone := inStatus .destroyed
    let waiting := onGang (fun g => { g with waits := true }) ready
    (∀ x ∈ ready.devs, x.desc.ctxid ≠ h5.ctxid) ∧ gone.devIx 1 = none ∧ gone.canonical ∧ (∃ x ∈ gone.devs, x.desc.ctxid = h1.ctxid) ∧
      ready.devIx hv1.ctxid ≠ none ∧ hv1.part < ready.parts.length ∧ (ready.dctx hv1.ctxid).desc.part ≠ hv1.part ∧
      ((qs .enabled).dctx 1).queue 0 ≠ none ∧ ((noded opened1).dctx 1).node 0 ≠ none ∧ (ready.dctx 1).node 0 = none ∧
      (∀ g ∈ ready.gangsOf 1, ∀ w ∈ (ready.gang g).wgs, (ready.wg w).wgid ≠ 1) ∧ (waiting.gang 0).waits = true ∧ MayName waiting h1 ∧
      tableCount 0 ≤ 128 := by
  decide +kernel
/-- No free code entry: every one of the context holds code, apart from the span that is asked for. -/
theorem witness_code_full : ∀ e ∈ ((coded [some (0x1000, 0x1000, 0)]).dctx 1).code,
    ∃ b, ∃ n, ∃ t, e = some (b, n, t) ∧ (b + n ≤ 0x2000 ∨ 0x2000 + 0x1000 ≤ b) := by
  intro e he
  have h : e = some (0x1000, 0x1000, 0) := List.mem_singleton.1 he
  exact ⟨_, _, _, h, .inl (by decide)⟩
theorem test_command_refusals :
    let h5 : CmdHead := { h1 with ctxid := 5 }
    let waiting := onGang (fun g => { g with waits := true }) ready
    [exec (.destroyNode h5 0) ready, exec (.destroyNode h1 0) (inStatus .destroyed), exec (.destroyNode hv1 0) ready,
      exec (.createQueue h1 256 true 0x20000 16 400 15) ready, exec (.createQueue h1 0 true 0x20000 16 400 15) (qs .enabled),
      exec (.registerCode h1 0x2000 0x1000 0) (coded [some (0x1000, 0x1000, 0)]), exec (.preEmptGang h1 1) ready,
      exec (.preEmptGang h1 0) waiting, exec (.setRoute h1 256 0) ready,
      exec (.attest { h1 with answers := false } 0x20000 0x30000 64) ready, exec (.attest h5 0x20000 0x30000 64) ready].map (fun r => (answered r).map (·.1)) =
      [4, 9, 2, 3, 6, 6, 4, 5, 3, 7, 4].map some := by
  decide +kernel
/-- A report of one image, with its 64-byte key and signature, away from a record. -/
theorem witness_report :
    let s := onDev (fun d => { d with images := [{ digest := List.replicate 32 7, runs := true }] }) ready
    (s.report 0 5 (List.replicate 32 1)).length = 208 ∧ Apart 0x20000 208 (h1.slot + 0x38) 8 := by decide +kernel
/-- R312, R419 and the examples of GB/T 32905: the SM3 digest of "abc". -/
theorem test_sm3 : leNat (Sm3.digest [0x61, 0x62, 0x63]).reverse = 0x66C7F0F462EEEDD9D1F2D46BDC10E4E24167C4875CF2F7A2297DA02B8F4BA8E0 := by
  decide +kernel

/-! ### The host's side -/

def ringSet (cmd : Bool) (ring size : Nat) : State := onPart (fun p => if cmd then { p with cmd := { p.cmd with ring := ring, size := size, wr := 5 } } else { p with ev := { p.ev with ring := ring, size := size } }) State.reset
def ev9 : EventRec := { kind := 9, ctxid := 1, cls := 3, num := 0, time := 5, d0 := 7, d1 := 0 }
def eventing (wr rd : W32) : State := onPart (fun p => { p with held := [ev9, ev9], ev := { ring := 0x1000, size := 64, enable := true, err := false, wr := wr, rd := rd } }) State.reset
/-- VF15 bound to partition 14. -/
def bound15 (s : State) : State := onDev (fun d => { d with functions := d.functions.set 14 (some 14) }) s
theorem test_host_registers :
    (got (exec (.commandQueueEnable 0) (ringSet true 0x1000 16)) fun t => ((t.part 0).cmd.enable, (t.part 0).cmd.rd)) = some (true, 5) ∧
      (got (exec (.commandQueueEnable 0) (ringSet true 0x1000 8)) fun t => ((t.part 0).cmd.enable, (t.part 0).cmd.err)) = some (false, true) ∧
      (got (exec (.eventQueueEnable 0) (ringSet false 0x1000 65536)) fun t => (t.part 0).ev.enable) = some true ∧
      (got (exec (.eventQueueRdidx 15 7) (bound15 State.reset)) fun t => (t.part 14).ev.rd) = some 7 ∧
      (got (exec (.eventQueueRdidx 15 7) State.reset) fun t => (t.dev.reply.map (·.status), t.parts == State.reset.parts)) = some (some .unsupported, true) ∧
      [eventing 0 0, eventing 64 1].map (fun s => got (exec (.eventRingWrite 0) s) fun t => ((t.part 0).ev.wr, (t.dev.msix.headD []).headD 0)) =
        [some (1, 1), some (65, 0)] ∧
      idle (exec (.eventRingWrite 0) (eventing 64 0)) = some "EVENT_RING_WRITE" ∧
      [900, 2300, 899, 2301].map (fun n => got (exec (.packageLimitWrite 0 n) (onDev (fun d => { d with limit := 1 }) State.reset)) (·.dev.limit)) =
        [some 900, some 2300, some 1, some 1] ∧
      [0x1A1A00, 0x0D0D00, 0x0C1A00, 0x1A1B00].map (fun v => got (exec (.domainControlWrite 0 3 v) State.reset) fun t =>
        ((t.reg 3).fmin, (t.reg 3).fmax, (t.reg 3).pendingF)) =
        [some (26, 26, none), some (13, 13, some 13), some (13, 26, none), some (13, 26, none)] ∧
      (got (exec (.packageLimitWrite 15 900) (bound15 State.reset)) (·.dev.limit)) = some 2300 ∧
      (got (exec (.registerWrite 15 0x4000 8 0x5000) (bound15 State.reset)) fun t => (t.part 14).cmd.ring) = some 0x5000 := by
  decide +kernel
theorem test_doorbell :
    (got (exec (.doorbell 0 (1 + 2 ^ 20)) (queued dataQ)) fun t => ((t.dctx 1).queue 0).map fun q => (q.tail, q.held)) =
        some (some (1, [(0, none)])) ∧
      (got (exec (.doorbell 15 (1 + 2 ^ 20)) (bound15 (queued dataQ))) fun t => ((t.dctx 1).queue 0).map (·.tail)) = some (some 0) := by
  decide +kernel
/-- HostRegisters. -/
theorem witness_host_registers :
    let e := eventing 64 1
    State.reset.sized ∧ State.reset.canonical ∧ e.canonical ∧ ((e.part 0).ev.wr - (e.part 0).ev.rd).toNat < (e.part 0).ev.size ∧
      (e.part 0).held = ev9 :: [ev9] ∧ (e.part 0).discarded = 0 ∧ (busLocs 0x1000 32).Nodup ∧ ((eventing 64 0).part 0).mayWriteEvent = false ∧
      ((queued dataQ).dctx 1).desc.part = 0 ∧ dataQ.full = false ∧ State.reset.devIx 0 = none ∧
      dataQ.taskCounter ((queued dataQ).coreRead 1 (dataQ.slotVa 0) 64) = none := by
  decide +kernel

def anyCtx (cls num : Nat) : BoundaryEntry := { cls := cls, num := num, ix := 0, lo := 0xF, hi := 0xFFFFFFFFFF000 }
def openTables (s : State) : State := onDev (fun d => { d with boundary := anyCtx 0 0 :: (List.range 16).map (anyCtx 1) }) s
def hostWait : State := onCtx (fun c => { c with status := .stalled .host }) ready
def askingCopy : State := marked { bound3 .issued 0 256 with asks := some false }
/-- A load of host memory at the head of wave 0. -/
def farLoad : State := paged (laneState (word 0xB0 4 (I 0) 803 0 4 1) [])
/-- A request to location 0x100, whatever slice serves it; no entry admits it after reset. -/
theorem witness_request_admitted : (openTables ready).requestLocs 0 ⟨true, true⟩ 0x100 8 = some (locRange 0x100 8) := by
  have h : ∀ c : BitVec 4, ((openTables ready).tableAdmits 0 0 0 noContext ⟨true, true⟩ 0x100 8
      && (openTables ready).tableAdmits 1 (0 + c.toNat) 0 noContext ⟨true, true⟩ 0x100 8) = true := by decide +kernel
  have ha : (openTables ready).admits 0 noContext ⟨true, true⟩ 0x100 0x100 8 = true := h (Config.sliceOfVault 0)
  have hp : cutSpan 2048 0x100 8 = [(0x100, 8)] := by decide
  have hd : dramLoc 0x100 = some 0x100 := by decide
  unfold State.requestLocs
  simp only [hp, hd, List.map_cons, List.map_nil, Option.filter, ha, if_true]
  rfl
theorem witness_requests :
    accSpan (.fetchAdd 0x100 8 5) = (0x100, 8) ∧ (locRange 0x100 8).Nodup ∧ accLegal (.fetchAdd 0x100 8 5) = true ∧
      accNeed (.fetchAdd 0x100 8 5) = ⟨true, true⟩ ∧ 0x30_0000_0000 < (accSpan (.read 0x30_0000_0000 1)).1 + (accSpan (.read 0x30_0000_0000 1)).2 ∧
      ((upLink .up).link 0).status = .up ∧ (upLink .up).dev.package = 0 ∧ (ready.link 0).status ≠ .up ∧
      State.requestHeld ready 0 (.fetchAdd 0x100 8 5) = false ∧ ready.dev.partOf 0 = some 0 ∧ ready.dev.partOf 3 = none ∧
      (got (exec (.hostBar2Access 3 (.read 0x100 8)) ready) fun t => t.dev.reply.map fun r => (r.func, r.status, r.bytes)) = some (some (3, .unsupported, [])) ∧
      idle (exec (.hostBar2Access 0 (.read 0 4097)) ready) = some "HOST_BAR2_ACCESS" ∧
      (hostWait.ctx 0).status = .stalled .host ∧ (hostWait.ctx 0).reply = none ∧ farLoad.awaitsFar (.wave 0) = true ∧
      ((askingCopy.bound 0 3).map (·.asks)) = some (some false) ∧ ready.awaitsFar (.context 511) = false ∧
      ready.awaitsFar (.wave 1023) = false ∧ ready.awaitsFar (.copy 0 15) = false := by
  decide +kernel
theorem test_completions :
    (got (exec (.hostCompletion (.context 0) true) hostWait) fun t => t.cur.reply) = some (some true) ∧
      (got (exec (.remoteCompletion (.wave 0) false) farLoad) fun t => (t.wave 0).reply) = some (some (false, false)) ∧
      (got (exec (.remoteCompletion (.copy 0 3) false) askingCopy) fun t => (t.bound 0 3).map (·.state)) = some (some .poisoned) := by
  decide +kernel

/-! ### Links, errors, heat and power -/

def lk (st : LinkStatus) (f : Link → Link := id) (t : Nat := 0) : State := onDev (fun d => { d with time := t }) (onLink (fun l => f { l with status := st }) State.reset)
/-- LinkStates, at each boundary. -/
theorem test_links :
    let flit (l : Link) : Option (LinkStatus × Nat × Nat) := some (l.status, l.rxSeq, l.resends)
    (got (exec (.linkTrained 0) (lk .training id 10000000)) fun t => ((t.link 0).status, t.dev.topology)) = some (.up, 1) ∧
      (got (exec (.linkTrainingTimeout 0) (lk .training id 10000000)) fun t => (t.link 0).status) = some .down ∧
      (got (exec (.linkRetrain 0) (lk .up)) fun t => ((t.link 0).status, (t.part 0).held.map (·.kind))) = some (.retraining, [8]) ∧
      (got (exec (.linkRetrainEnd 0 true) (lk .retraining id 100000)) fun t => (t.link 0).status) = some .up ∧
      (got (exec (.linkRetrainEnd 0 false) (lk .retraining fun l => { l with retrains := 1 })) fun t => (t.link 0).status) = some .retraining ∧
      (got (exec (.linkRetrainEnd 0 false) (lk .retraining fun l => { l with retrains := 2 })) fun t => (t.link 0).status) = some .failed ∧
      (got (exec (.linkFlitReceive 0 4096 true) (lk .up)) fun t => flit (t.link 0)) = some (some (.up, 1, 0)) ∧
      (got (exec (.linkFlitReceive 0 0 false) (lk .up fun l => { l with resends := 6 })) fun t => flit (t.link 0)) = some (some (.up, 0, 7)) ∧
      (got (exec (.linkFlitReceive 0 0 false) (lk .up fun l => { l with resends := 7 })) fun t => flit (t.link 0)) =
        some (some (.retraining, 0, 0)) ∧
      [exec (.linkTrained 0) (lk .up), exec (.linkRetrain 0) (lk .down), exec (.linkFlitReceive 0 0 true) (lk .down),
        exec (.linkRetrainEnd 0 true) (lk .up)].map idle =
        [some "LINK_TRAINED", some "LINK_RETRAIN", some "LINK_FLIT_RECEIVE", some "LINK_RETRAIN_END"] := by
  decide +kernel

def vaulted (f : Vault → Vault) (t : Nat := 0) : State := later t (onVault f State.reset)
def errs (n : Nat) (t : Nat) : State := vaulted (fun v => { v with errors := List.replicate n (7, 0) }) t
def remap7 (t : Nat := 2000) : State := vaulted (fun v => { v with remapping := [(7, 0)] }) t
def gatedC (f : Cluster → Cluster) : State := onCluster (fun c => f { c with gated := true }) State.reset
def heated (t : Nat) (hot : Bool) (s : State) : State := later t (onVault (fun v => { v with hot := hot }) (onCluster (fun c => { c with heatSince := some 5 }) s))
def alarmed (f : Regulator → Regulator) (t : Nat := 0) : State := later t (onReg f State.reset)
def slowed (f : Regulator → Regulator) (t : Nat) : State := onCluster (fun c => { c with pass := 4 }) (alarmed f t)
def at_ (t : Nat) : State := later t State.reset
def waking : State := { gatedC (fun c => { c with wakeAt := some 0 }) with vregs := [(0, 1), (2^19, 5)], accs := [(0, 1), (2^19, 6)] }
def pending13 : State := alarmed fun r => { r with pendingF := some 13 }
/-- ErrorsAndReset: the third and the fourth error of a row in a day, one at its end, and with the layer's spares used up; each of the other
errors, and where they do not happen. -/
theorem test_errors :
    [errs 2 5, errs 3 5, errs 3 86400000000000].map (fun s => got (exec (.correctedError 0 7) s) fun t =>
        ((t.vault 0).ce, (t.vault 0).remapping)) = [some (1, []), some (1, [(7, 5)]), some (1, [])] ∧
      (got (exec (.correctedError 0 7) (onVault (fun v => { v with spares := List.replicate 8 64 }) (errs 3 5))) fun t =>
        ((t.vault 0).remapping, (t.part 0).held.map (·.kind))) = some ([], [5]) ∧
      (got (exec (.rowRemapDone 0 7) (remap7 2000)) fun t => ((t.vault 0).remapping, (t.vault 0).spares.headD 0, (t.part 0).held.map (·.kind))) =
        some ([], 1, [4]) ∧ idle (exec (.rowRemapDone 0 7) (remap7 2001)) = some "ROW_REMAP_DONE" ∧
      (remap7 2000).sized ∧ (7, 0) ∈ ((remap7 2000).vault 0).remapping ∧ ((remap7 2000).vault 0).spares.length = 8 ∧ layerOf 7 = 0 ∧
      (got (exec (.uncorrectableError (.dram 0x40)) State.reset) fun t => (t.badDram, (t.part 0).held.map (·.kind))) = some ([1], [2]) ∧
      (got (exec (.uncorrectableError (.sram (2 ^ 56 + 8))) State.reset) fun t => t.badSram) = some [2 ^ 53 + 1] ∧ dramLoc 0x40 = some 0x40 := by
  decide +kernel
/-- R23, R28, R293: poison in a loft line and in the bytes of a segment that stand in the landing buffer. -/
theorem test_poison_targets :
    (got (exec (.uncorrectableError (.loft 0 0 1)) (onCluster (fun c => { c with loft := [loftHolds] }) ready)) fun t =>
        ((t.cluster 0).loft.map (·.bad), (t.part 0).held.map (·.kind))) = some ([[1]], [2]) ∧
      (got (exec (.uncorrectableError (.landing 0 3 0)) (sent3 2 64)) fun t => (t.bound 0 3).map fun b => (b.badBytes, b.state)) =
        some (some ([0, 1], .issued)) := by
  decide +kernel
theorem test_spares :
    (got (exec (.spareSubstitution 0) ready) fun t => ((t.cluster 0).failing, (t.gang 0).trigger)) = some (true, some .spare) ∧
      (got (exec (.spareSubstitution 0) (gatedC id)) fun t => ((t.die 0).spareFor, (t.part 0).held.map (·.kind))) = some (some 0, [3]) ∧
      (got (exec (.spareSubstitution 0) (onDie (fun d => { d with spareFor := some 1 }) (gatedC id))) fun t =>
        ((t.cluster 0).lost, (t.part 0).held.map (·.kind))) = some (true, [6]) ∧
      (ready.cluster 0).gated = false ∧ ((gatedC id).cluster 0).gated = true ∧ ((gatedC id).seats.any fun x => x.cluster == 0) = false ∧
      idle (exec (.spareSubstitution 0) (gatedC fun c => { c with lost := true })) = some "SPARE_SUBSTITUTION" ∧
      (got (exec (.dieToDiePortFailure 0 3) ready) fun t => ((t.die 0).ports, (t.die 3).ports)) =
        some ([true, true, true, false], [false, true, true, true]) ∧ (∀ d < 4, (ready.die d).ports.length = 4) ∧
      idle (exec (.dieToDiePortFailure 3 3) ready) = some "DIE_TO_DIE_PORT_FAILURE" := by
  decide +kernel
/-- HeatAndCurrent, at each boundary. -/
theorem test_heat :
    (got (exec (.vaultSensorSample 0 421) (vaulted id 2000000)) fun t => ((t.vault 0).band, (t.vault 0).hot, (t.cluster 0).pass)) =
        some (3, true, 4) ∧
      (got (exec (.vaultSensorSample 0 420) (vaulted id 2000000)) fun t => ((t.vault 0).band, (t.vault 0).hot, (t.cluster 0).pass)) =
        some (3, false, 1) ∧
      [1999999, 2000000].map (fun n => got (exec (.vaultSensorSample 0 0) (vaulted id n)) fun t => ((t.vault 0).band, (t.vault 0).pend)) =
        [some (3, true), some (0, false)] ∧
      idle (exec (.vaultSensorSample 0 0) (vaulted (fun v => { v with sampled := some 1 }) 100000)) = some "VAULT_SENSOR_SAMPLE" ∧
      (got (exec (.overheatGateCheck 0) (heated 1000005 true ready)) fun t => ((t.cluster 0).noPlace, (t.gang 0).trigger)) =
        some (true, some .gate) ∧
      (got (exec (.overheatGateCheck 0) (heated 1000005 false ready)) fun t => (t.cluster 0).heatSince) = some none ∧
      [heated 1000004 true ready, ready].map (fun s => idle (exec (.overheatGateCheck 0) s)) = List.replicate 2 (some "OVERHEAT_GATE_CHECK") ∧
      (heated 1000005 true ready).hotUnder 0 = true ∧ (heated 1000005 false ready).hotUnder 0 = false ∧
      (heated 1000004 true ready).sized ∧ ((heated 1000004 true ready).cluster 0).heatSince = some 5 := by
  decide +kernel
theorem test_current :
    (got (exec (.currentAlarm 0 true) (alarmed id)) fun t => ((t.reg 0).raisedAt, (t.cluster 0).pass, (t.cluster 8).pass)) = some (some 0, 2, 1) ∧
      (got (exec (.currentAlarm 0 true) (alarmed fun r => { r with raisedAt := some 0 })) fun t => (t.cluster 0).pass) = some 1 ∧
      (got (exec (.currentAlarmSample 0) (alarmed (fun r => { r with alarm := true, raisedAt := some 0 }) 1000)) fun t =>
        ((t.reg 0).raisedAt, (t.cluster 7).pass)) = some (some 1000, 2) ∧
      (got (exec (.currentAlarmSample 0) (alarmed (fun r => { r with raisedAt := some 0 }) 1000)) fun t => (t.reg 0).raisedAt) = some none ∧
      (got (exec (.passCountStepDown 0) (slowed id 50000)) fun t => ((t.reg 0).steppedAt, (t.cluster 0).pass)) = some (50000, 2) ∧
      ((slowed id 50000).cluster 0).heatHold = false ∧ (slowed id 50000).dev.pkgEst ≤ 1000 * (slowed id 50000).dev.limit ∧
      [exec (.currentAlarm 0 false) (alarmed id), exec (.currentAlarmSample 0) (alarmed (fun r => { r with raisedAt := some 0 }) 999),
        exec (.currentAlarmSample 0) (alarmed id), exec (.passCountStepDown 0) (slowed id 49999)].map idle =
        [some "CURRENT_ALARM", some "CURRENT_ALARM_SAMPLE", some "CURRENT_ALARM_SAMPLE", some "PASS_COUNT_STEP_DOWN"] := by
  decide +kernel
/-- PowerAndGating: a package above its limit, whose domain 3 has the highest estimate, and one with 5 % to spare, whatever DRAM and the fixed
parts draw. -/
def windowed (psum limit : Nat) : State :=
  onDev (fun d => { d with limit := limit }) { at_ 1000000 with clusters := (at_ 1000000).clusters.modify 31 fun c => { c with psum := psum } }
theorem witness_power_window (d f : Nat) :
    let package (s : State) := (s.clusters.map (·.psum)).sum / (s.dev.time / 1000 - s.dev.windowAt / 1000) + d + f
    let above := windowed 5000 0
    let under := windowed 0 (d + f)
    above.dev.windowAt + 1000000 ≤ above.dev.time ∧ 1000 * above.dev.limit < package above ∧ package under ≤ 950 * under.dev.limit ∧
      above.allSlow 3 = false ∧ under.quiet 3 = true ∧
      ∀ m < 3, ((above.domain m).map fun j => (above.cluster j).psum).sum < ((above.domain 3).map fun j => (above.cluster j).psum).sum := by
  have h1 : ((windowed 5000 0).clusters.map (·.psum)).sum / ((windowed 5000 0).dev.time / 1000 - (windowed 5000 0).dev.windowAt / 1000) = 5 := by
    decide +kernel
  have h2 : (((at_ 1000000).clusters.modify 31 fun c => { c with psum := 0 }).map (·.psum)).sum = 0 := by decide +kernel
  have h3 : ((windowed 0 (d + f)).clusters.map (·.psum)).sum = 0 := h2
  have h4 : (windowed 0 (d + f)).dev.limit = d + f := rfl
  have h5 : (windowed 5000 0).dev.limit = 0 := rfl
  refine ⟨by decide +kernel, ?_, ?_, by decide +kernel, ?_, by decide +kernel⟩
  · show 1000 * (windowed 5000 0).dev.limit < _ + d + f
    rw [h1, h5]; omega
  · show ((windowed 0 (d + f)).clusters.map (·.psum)).sum / _ + d + f ≤ 950 * (windowed 0 (d + f)).dev.limit
    rw [h3, h4, Nat.zero_div]; omega
  · show (windowed 0 0).quiet 3 = true
    decide +kernel
/-- PowerAndGating, at each boundary. -/
theorem test_power :
      (at_ 1000000).allSlow 3 = false ∧ (at_ 1000000).dev.limit = 2300 ∧ (at_ 1000000).domain 3 = [24, 25, 26, 27, 28, 29, 30, 31] ∧
      [exec (.powerWindowEnd 0 0) (at_ 999999), exec (.weightRefit 5) (at_ 999999999), exec (.idleGate 0) (later 100000 ready),
        exec (.idleGate 0) (gatedC id), exec (.clusterWake 0) ready, exec (.frequencyTransition 0 14) pending13,
        exec (.frequencyPauseEnd 0) pending13].map idle =
        [some "POWER_WINDOW_END", some "WEIGHT_REFIT", some "IDLE_GATE", some "IDLE_GATE", some "CLUSTER_WAKE", some "FREQUENCY_TRANSITION",
          some "FREQUENCY_PAUSE_END"] ∧
      (got (exec (.idleGate 0) (at_ 100000)) fun t => (t.cluster 0).gated) = some true ∧ ((at_ 100000).seats.any fun x => x.cluster == 0) = false ∧
      ((at_ 100000).cluster 0).wakeAt = none ∧ ((at_ 100000).cluster 0).lost = false ∧
      (got (exec (.clusterWake 0) waking) fun t => (t.vregs, t.accs)) = some ([(2 ^ 19, 5)], [(2 ^ 19, 6)]) ∧
      (got (exec (.frequencyTransition 0 13) pending13) fun t => (t.reg 0).paused) = some (some 0) ∧
      (got (exec (.frequencyPauseEnd 0) (onReg (fun r => { r with paused := some 0 }) (later 1500 pending13))) fun t =>
        ((t.reg 0).fcur, (t.reg 0).paused, (t.reg 0).pendingF)) = some (13, none, none) := by
  decide +kernel
/-- R135, R408: a pause parks the running contexts of its domain; R401: those of a gated cluster wait for it. -/
theorem test_pause_parks :
    let s := onReg (fun r => { r with pendingF := some 13 }) ready
    let p := after (exec (.frequencyTransition 0 13) s)
    (p.ctx 0).status = .parked .pause ∧ p.mayRun 0 = false ∧
      (got (exec (.frequencyPauseEnd 0) (later 1500 p)) fun t => ((t.ctx 0).status, (t.reg 0).fcur)) = some (.running, 13) := by
  decide +kernel
/-- R405, R406: an estimate counts whole microseconds, with the counts of the last one; the tables of the fit have one size. -/
theorem witness_estimates :
    1000 / 1000 = State.reset.dev.time / 1000 + 1 ∧ State.reset.dev.cov.length = State.reset.dev.weights.length ∧
      State.reset.dev.weights.length = 12 ∧ (later 1000000000 State.reset).dev.refitAt + 1000000000 ≤ (later 1000000000 State.reset).dev.time := by
  decide +kernel
/-- A reset keeps memory, and every context starts free. -/
theorem test_device_reset : (got (exec .deviceReset (withMem spadAt [7] ready)) fun t => (t.byte spadAt, t.ctxs, t.devs)) =
    some (7, State.reset.ctxs, []) := by
  decide +kernel

/-! ### Witnesses: further clauses -/

/-- A load that has not returned holds back the words that need its register, and not others; the open choice lets a load return later. -/
def awaited5 : State := onCtx (fun c => { c with loads := [{ bank := false, dst := 5, size := .d, locs := locRange spadAt 8 }] }) ready
def choosing (l : List Nat) (s : State) : State := { s with vis := { s.vis with picks := l } }
theorem witness_later_load :
    awaited5.interlocked 0 (.addi 6 5 1) = true ∧ ready.cur.loads = [] ∧
      (choosing [1] ready).loadsLater 0 (locRange spadAt 8) = true ∧ ready.loadsLater 0 (locRange spadAt 8) = false ∧
      (got (exec (.ld .w 5 6 0) (choosing [1] (withRegs [(6, spadVa), (5, 3)] ready))) fun t => (t.cur.loads.length, t.cur.rd 5)) = some (1, 3) ∧
      (awaited5.cur.counted.find? (·.scalar)) = none ∧
      (got (exec (.scalarAccessComplete 0) (withMem spadAt [9] awaited5)) fun t => (t.cur.loads.length, t.cur.rd 5)) = some (0, 9) := by
  decide +kernel
/-- TurnsRunTheirInstructions: the rotation of the partitions, a deadline, and a function's read. -/
theorem witness_further_turns :
    let r := onDev (fun d => { d with lastPart := 15 }) withRecord
    r.hasRecord 0 = true ∧ r.servesPart 0 = true ∧ r.servesPart 1 = false ∧ r.dev.lastPart < 16 ∧
      (0 + 15 - r.dev.lastPart) % 16 < (1 + 15 - r.dev.lastPart) % 16 ∧
      (remap7 500).deadlines = [2000] ∧ ((remap7 500).elapse 9000).dev.time = 2000 ∧ ready.deadlines = [] ∧ (ready.elapse 9).dev.time = 9 ∧
      (got (step { State.reset with agenda := [.hostRead 0 8 2] }) fun t => t.dev.reply.map (·.bytes)) = some (some [0xFC, 0x08]) := by
  decide +kernel
/-- MemoryReadsWhatWasWritten: a store of the context stands above what its wave has seen, and an atomic's write lets nothing under it. -/
def wrote (rmw : Bool) : State :=
  after (if rmw then exec (.amo false .wave .relaxed .xchg 5 6 7) (withRegs [(6, spadVa), (7, 9)] ready)
    else exec (.st .w 7 6 0) (withRegs [(6, spadVa), (7, 9)] ready))
def waveReads : Actor := { agent := .wave 0 0, path := pathLs, family := .role 0 0 }
theorem witness_past :
    (∀ b, (((wrote b).vis.past waveReads (locRange spadAt 4)).map (·.rmw)) = [b]) ∧
      ((wrote false).vis.place waveReads (locRange spadAt 4) 1).length = 1 ∧ (wrote true).vis.place waveReads (locRange spadAt 4) 1 = [] ∧
      waveReads.path < 4 := by
  decide +kernel
/-- TrapAndReturnWords: the data fault of a loft access halts; a trap without a handler. -/
theorem witness_fatal :
    let p := onCtx (fun c => { c with pending := [{ record := loftFault 0x12800 3, seq := 0, wave := none }] }) withHandler
    (p.ctx 0).mode = .user ∧ (p.ctx 0).status = .running ∧ (p.wg (p.ctx 0).wg).status = .running ∧ p.pausing 0 = false ∧
      (loftFault 0x12800 3).cause = 7 ∧ (got (exec (.boundaryTrapEntry 0) p) fun t => ((t.ctx 0).status, (t.ctx 0).pending)) = some (.halted, []) ∧
      (onReg (fun r => { r with paused := some 0 }) p).pausing 0 = true := by
  decide +kernel
/-- SpecialRegisterReads: a role without waves, and a wave with a word that has not retired. -/
theorem witness_flags :
    let none_ := onCtx (fun c => { c with nwaves := 0 }) (onWg (fun w => { w with waves := [] }) ready)
    none_.cur.nwaves = 0 ∧ none_.roleWaves 0 = [] ∧ none_.selWave 0 = none ∧ (trapOf (.rdsr 5 0x021) none_).map (·.1) = some 1 ∧
      (undrained.wave 0).flagsBusy 0 false = true ∧ (ready.wave 0).flagsBusy 0 false = false ∧
      stalledOn (.rdsr 5 0x011) undrained = some (.stalled .drain) := by
  decide +kernel
/-- RegisterWindow: frames that the spill region holds. -/
def nested (n : Nat) (f : Window → Window := id) : State :=
  onDctx (fun d => { d with desc := { d.desc with spill := 2 } })
    (onCtx (fun c => { c with win := f { c.win with base := 32, frame := 32, stack := List.replicate n (0, 32) } }) ready)
theorem witness_deep_window :
    (∀ n ∈ [16, 79], let s := nested n
      s.cur.em.capOpen = false ∧ s.cur.chainOpen = false ∧ 0 < s.cur.nwaves ∧ 32 ≤ s.cur.width ∧ s.cur.width < 96 - s.cur.win.lo ∧
        512 + 4 * (96 - s.cur.width) ≤ (s.dctx s.cur.ctxid).desc.spill * 512 ∧ 16 ≤ s.cur.win.stack.length ∧ s.cur.win.stack.length < 80 ∧
        s.cur.win.popPending = false ∧ s.cur.em.seq.busy = false ∧ s.roleWaves 0 = [0] ∧
        (got (exec (.wenter 1) s) fun t => ((t.wave 0).stream, t.cur.win.stack.length)) = some ([.spill 0 32 (some (n, 32, 32))], n + 1)) ∧
      trapOf (.wenter 1) (nested 80) = some (16, 1, 32) ∧
      (got (exec .wleave (nested 17)) fun t => (t.cur.status, t.cur.win.popPending, (t.wave 0).stream)) =
        some (.stalled .window, true, [.reload 0 0 (some 16)]) ∧
      stalledOn .wleave (nested 17 fun w => { w with popPending := true }) = some (.stalled .window) ∧
      (got (exec .wleave (nested 17 fun w => { w with popPending := true, popRead := some (0, 32), lo := 16 })) fun t =>
        (t.cur.pc, t.cur.win.frame, t.cur.win.lo, (t.wave 0).stream)) = some (0x1044, 32, 0, [.reload 0 16 none]) ∧
      (got (exec .wleave (nested 16)) fun t => (t.cur.pc, t.cur.win.frame, (t.wave 0).stream)) = some (0x1044, 32, []) := by
  decide +kernel
/-- CaptureRecords: a record that fails behind a pending trap, and one that meets poison; CAPE of a capture that overflowed. -/
theorem witness_capture_stops :
    let fails := onCluster (fun c => { c with tlb := [{ bigPage with va := 0x10000, size := 16 }] }) (onCtx (fun c => { c with loft := 0x8000 }) (capturing 255))
    let later := onCtx (fun c => { c with pending := [owed] }) fails
    let rec_ := fun s => got (exec (.emitLaneWord (BitVec.ofNat 64 vaddV1) none) s) fun t =>
      (t.cur.status, t.cur.pending.map (·.record.cause), t.cur.pc, (t.wave 0).stream.length)
    let ovf := entry5 { DirEntry.zero with recd := true, len := 256, ovf := true } (capturing 256)
    rec_ fails = some (.halted, [], 0x1048, 1) ∧ rec_ later = some (.running, [12, 7], 0x1048, 1) ∧
      (got (exec .cape ovf) fun t => (t.cur.em.capOpen, (t.cur.em.entry 5).recd, t.cur.trap.cause, t.cur.trap.info0, t.cur.trap.info1)) =
        some (false, false, 15, 2, 5) ∧
      ovf.cur.em.capOpen = true ∧ ovf.cur.chainOpen = false ∧ (ovf.cur.em.entry ovf.cur.em.capId).ovf = true := by
  decide +kernel

/-- The first and the second half of a pair as the head, the second behind a first that waits; a pair that raises an event. -/
def pairW1 : Nat := word 0x03 4 8 10 798 0 0 4
def pairW2 : Nat := word 0x0E 6 8 832 798
def firstHalf : State :=
  onWave (fun w => { w with stream := [.word (aWord pairW1), .word (aWord pairW2)] }) (laneState pairW1 [])
def secondHalf : State := after (exec (.vmul (LaneWord.ofNat pairW1)) firstHalf)
theorem witness_pair_halves :
    headOk pairW1 firstHalf = true ∧ (LaneWord.ofNat pairW1).p = true ∧ (firstHalf.wave 0).half = none ∧
      headOk pairW2 secondHalf = true ∧ (secondHalf.wave 0).half.isSome = true ∧ (secondHalf.wave 0).stream.length = 1 ∧
      (got (exec (.vshr (LaneWord.ofNat pairW2)) secondHalf) fun t => ((t.wave 0).half, (t.wave 0).stream, (t.wave 0).latch.length)) =
        some (none, [], 2) := by
  decide +kernel
/-- Infinity minus infinity with the invalid event enabled: the word issues, its stream stops behind it, and the owner is owed the trap. -/
def invalidW : Nat := one 0x40 4 972 973 798
def enabledEvent (p : Nat) : State := onWave (fun w => { w with stream := [.word { aWord invalidW with xctl := BitVec.ofNat 4 p }] }) (laneState invalidW [])
theorem witness_arithmetic_event :
    (∀ p ∈ [0, 2, 15], headOk invalidW (enabledEvent p) = true) ∧
      [0, 2].map (fun p => got (exec (.vfadd (LaneWord.ofNat invalidW)) (enabledEvent p)) fun t =>
        ((t.wave 0).status, (t.wave 0).wxf, t.cur.pending.map (·.record.cause))) = [some (.live, 1, []), some (.stopped, 1, [9])] ∧
      (got (exec (.vfadd (LaneWord.ofNat invalidW)) (onCtx (fun c => { c with status := .ended }) (enabledEvent 2))) fun t => t.cur.status) =
        some .halted := by
  decide +kernel
/-- A fence under a poisoned guard stops its stream. -/
theorem witness_poisoned_fence :
    let f := word 0xB5 798 798 798 798 0 1
    let s := onWave (fun w => { w with badPreds := [1] }) (laneState f [])
    s.laneAt 0xB5 (LaneWord.ofNat f) = true ∧ (s.laneIn 0 (aWord f)).poisonLanes ≠ 0 ∧ (s.wave 0).after = none ∧ (s.wave 0).flight = [] ∧
      (got (exec (.vfence (LaneWord.ofNat f)) s) fun t => ((t.wave 0).stream, (t.wave 0).flight.map fun x => x.trap.map (·.cause), t.vis.writes)) =
        some ([], [some 18], []) := by
  decide +kernel
/-- LaneMemoryWords: a fault of a second half brings its first half back to the stream. -/
theorem witness_pair_fault :
    let ld := word 0xB0 4 (I 0) 803 0 4 1
    let s := onWave (fun w => { w with stream := [.word { aWord ld with payA := 0x4000, payB := 0x4000 }] }) (absent secondHalf)
    headOk ld s = true ∧ (match planOf s with
        | some (.fault lanes _ va _) => (lanes, va)
        | _ => (0, 0)) = (1, 0x4000) ∧
      (got (exec (.vld (LaneWord.ofNat ld)) s) fun t => ((t.wave 0).status, (t.wave 0).half, (t.wave 0).stream.length)) =
        some (.faulted, none, 2) := by
  decide +kernel
/-- RightsTraps to CredBinds: a copy of no byte; WatermarkWords: what a wait has observed, of its copy and of one whose register has gone on. -/
theorem witness_empty_copy :
    let s := copyRegs 0
    (copyBound sampleCopy s.cur).len = 0 ∧ (copyBound sampleCopy s.cur).geometryOk 0 = true ∧ ((s.wg 0).mark 3).bindWait = .free ∧
      (got (exec (.copy sampleCopy) s) fun t => t.cur.pc) = some 0x1050 ∧
      (got (exec (.copy sampleCopy) s) fun t => (t.bound 0 3).map fun x => (x.state, x.srcf, x.count, x.armed)) =
        some (some (.published, true, 0, false)) := by
  decide +kernel
theorem witness_observed :
    let m := marked (bound3 .published 256 256)
    let gone := onCtx (fun c => { c with waits := some 9 })
      { m with vis := { m.vis with ended := [{ wg := 0, reg := 3, bc := 6, stamp := 9, len := 64 }] } }
    (m.observed 0 0 3 .published 0).map (·.len) = some 256 ∧ (gone.observed 0 0 3 .published 0).map (·.len) = some 64 ∧
      (onCtx (fun c => { c with waits := some 9 }) m).observed 0 0 3 .published 0 = none ∧ (bound3 .published 256 256).stamp ≠ 9 ∧
      (gone.observed 0 0 3 .count 0x0006000000000040).map (·.len) = some 64 := by
  decide +kernel

/-- CopyEngine: source and destination 8 bytes apart; a poisoned source; a matched CRED; an arrival, and one after its role's; a far
destination; one that no link reaches; one that does not translate. -/
def meeting : State :=
  withMem spadAt ((List.range 64).map (BitVec.ofNat 8)) (marked { bound3 .issued 0 64 with dst := spadVa.toNat + 8, dstLoc := some (spadAt + 8) })
def matchedCred : State :=
  marked { bound3 .issued 0 64 with kind := .cred sampleCred 9 0 0 4 16, matched := true, data := (List.range 64).map (BitVec.ofNat 8), srcf := true, sent := 64 }
def arriving (again : Bool) : State :=
  let s := marked { bound3 .issued 0 64 with sent := 64, buffer := List.replicate 64 0x66, arrive := some 3 }
  if again then bits3 { arr := 1, unw := 1, aw := 0 } (bar3 { phases := 0, arrived := 1, perPhase := 2 } s)
  else bar3 { phases := 0, arrived := 0, perPhase := 2 } s
def goingFar (t : TlbEntry) (s : State) : State :=
  onDie (fun d => { d with l2tlb := [t] })
    (onWg (fun w => w.setMark 3 { bc := 7, bound := some { bound3 .issued 0 256 with dst := 0x40000, dstLoc := none, sent := 64, buffer := List.replicate 64 0x66 } }) s)
def remotePage : TlbEntry := { bigPage with frame := 0xA_0000_0000_0000 + 2 ^ 41 }
theorem witness_copy_commits :
    (∃ b, meeting.bound 0 3 = some b ∧ b.overlaps (meeting.wg 0) = true ∧ meeting.sendReady 0 3 = true ∧
        (got (exec (.copySegmentSend 0 3) meeting) fun t => (t.bound 0 3).map fun b => [b.buffer.getD 7 0, b.buffer.getD 8 9, b.buffer.getD 63 0]) =
          some (some [7, 0, 7])) ∧
      (got (exec (.copySegmentSend 0 3) { cp 256 with badSram := [2 ^ 53 + 1] }) fun t => (t.bound 0 3).map (·.badBytes)) =
        some (some [8, 9, 10, 11, 12, 13, 14, 15]) ∧
      matchedCred.commitReady 0 3 = true ∧
      (got (exec (.copyUnitCommit 0 3) matchedCred) fun t => ((t.bound 0 3).map fun b => (b.state, b.count, b.data.length), t.byte (spadAt + 1024 + 9))) =
        some (some (.published, 64, 0), 9) := by
  refine ⟨⟨_, rfl, ?_⟩, ?_⟩ <;> decide +kernel
theorem witness_copy_arrivals :
    (arriving false).commitReady 0 3 = true ∧ (arriving true).commitReady 0 3 = true ∧ (arriving false).hasArrived 0 0 0 3 = false ∧
      (arriving true).hasArrived 0 0 0 3 = true ∧ ((arriving false).wg 0).ctxs[(bound3 .issued 0 64).role]? = some 0 ∧
      (got (exec (.copyUnitCommit 0 3) (arriving false)) fun t => ((t.bound 0 3).map (·.state), t.bar 0 0 3)) =
        some (some .published, { phases := 0, arrived := 1, perPhase := 2 }) ∧
      (got (exec (.copyUnitCommit 0 3) (arriving true)) fun t => ((t.bound 0 3).map (·.state), t.cur.pending.map fun p => (p.record.cause, p.record.info0))) =
        some (some .published, [(17, 0)]) := by
  decide +kernel
theorem witness_copy_far :
    let far := goingFar remotePage collective
    let lost := goingFar remotePage ready
    let gone := goingFar { bigPage with va := 2 ^ 30 } ready
    far.commitReady 0 3 = true ∧ lost.commitReady 0 3 = true ∧ gone.commitReady 0 3 = true ∧
      (unitOf3 far true).map (fun u => match u with
        | .ok ls _ => ls.any isRemote
        | _ => false) = some true ∧ unitOf3 lost true = some .poison ∧
      (unitOf3 gone true).map (fun u => match u with
        | .freeze va _ => va
        | _ => 0) = some 0x40000 ∧
      [far, lost, gone].map (fun s => got (exec (.copyUnitCommit 0 3) s) fun t => (t.bound 0 3).map fun b => (b.state, b.asks, b.sent, b.buffer.length)) =
        [some (some (.issued, some true, 64, 64)), some (some (.poisoned, none, 0, 0)), some (some (.frozen, none, 64, 64))] := by
  decide +kernel
/-- ChainUnitsReduce: an acquire at system scope, and a package that no link reaches. -/
def systemWide (w : Workgroup) : Workgroup :=
  [3, 4].foldl (fun w n => match (w.mark n).bound with
    | some b => w.setMark n { bc := 0, bound := some { b with acquire := true, bits := 0xA0000000 } }
    | none => w) w
def ordered : State :=
  let m := onWg systemWide (matched [] 16)
  { wrote false with wgs := m.wgs, dev := m.dev }
def unreached : State :=
  onDev (fun d => { d with comms := d.comms.map fun c => { c with ranks := c.ranks ++ [(1, 1, 0)], calls := c.calls ++ [0] } }) (matched [] 16)
theorem witness_chain_ways :
    ordered.reduceReady 9 = true ∧ (ordered.matchedCalls 9).all (fun x => x.bound.acquire && x.bound.scope == .system) = true ∧
      unreached.reduceReady 9 = true ∧ ((unreached.comm 9).map fun c => unreached.farWays c) = some [.fails] ∧
      (got (exec (.chainUnitReduce 9) unreached) fun t => [3, 4].map fun m => (t.bound 0 m).map fun b => (b.matched, b.state)) =
        some [some (false, .poisoned), some (false, .poisoned)] := by
  decide +kernel

/-- R25: the row under location 0x8000, in vault 16, is being copied, and a page shows the location at its own address. -/
def dramPage : TlbEntry := { bigPage with frame := 0 }
def copied (s : State) : State :=
  { onCluster (fun c => { c with tlb := [dramPage] }) s with
    vaults := s.vaults.modify 16 fun v => { v with remapping := [(Config.rowOf 0x8000, 5)] } }
theorem held_row (s : State) (h : (s.vault 16).remapping = [(Config.rowOf 0x8000, 5)]) : s.held [0x8000] = true := by
  simp [State.held, State.rowHeld, show isDram 0x8000 = true from by decide, show vaultOf 0x8000 = 16 from by decide, h]
theorem superHeld_row (s : State) (n : Nat) (a : Access) (x : Xlated) (hc : s.calm = false)
    (ht : s.translateWith true 0 1 0x8000 a false true = .ok x) (hx : x.pa = 0x8000) (h : (s.vault 16).remapping = [(Config.rowOf 0x8000, 5)]) :
    s.superHeld 0 1 0x8000 (n + 1) a = true := by
  unfold State.superHeld
  rw [hc, Bool.not_false, Bool.true_and, List.any_eq_true]
  refine ⟨0, by simp, ?_⟩
  rw [Nat.add_zero, ht]
  show (match physLoc x.pa with
    | some l => s.held [l]
    | none => false) = true
  rw [hx, show physLoc 0x8000 = some 0x8000 from by decide]
  exact held_row s h
theorem copied_held (s : State) (n : Nat) (a : Access) (hc : (copied s).calm = false)
    (ht : (copied s).translateWith true 0 1 0x8000 a false true = .ok { pa := 0x8000, entry := dramPage, walked := false })
    (h : ((copied s).vault 16).remapping = [(Config.rowOf 0x8000, 5)]) : (copied s).superHeld 0 1 0x8000 (n + 1) a = true :=
  superHeld_row (copied s) n a _ hc ht rfl h
def ringHeld : Queue := { dataQ with ring := 0x8000 }
def nodeHeld : Node := { opened1 with pool := 0x8000 }
def spilling : State := onWave (fun w => { w with stream := [.spill 0 1 none] }) ready
def reloading : State := onWave (fun w => { w with stream := [.reload 0 1 none] }) ready
def signalling : State := onLaunch (fun l => { l with signal := 0x8000 }) ended1
/-- A push, a pop, a batch, a doorbell, a signal and the transfers of a window wait for it. -/
theorem witness_copied_row :
    (copied (queued ringHeld)).superHeld 0 1 (ringHeld.slotVa ringHeld.tail) 64 .store = true ∧
      (copied (queued { fullQ with ring := 0x8000 })).superHeld 0 1 (({ fullQ with ring := 0x8000 } : Queue).slotVa 0) 64 .load = true ∧
      (copied (noded nodeHeld)).sealHeld 1 nodeHeld (batch 1) = true ∧ (copied signalling).signalWaits 0 = true := by
  have h := copied_held signalling 7 .store rfl (by decide +kernel) rfl
  refine ⟨copied_held _ 63 _ rfl (by decide +kernel) rfl, copied_held _ 63 _ rfl (by decide +kernel) rfl,
    copied_held _ 63 _ rfl (by decide +kernel) rfl, ?_⟩
  show (true && true && (copied signalling).superHeld 0 1 0x8000 8 .store) = true
  rw [h]; rfl
theorem witness_copied_bell : (copied (queued ringHeld)).bellHeld 0 (1 + 2 ^ 20) = true := by
  have h := copied_held (queued ringHeld) 63 .load rfl (by decide +kernel) rfl
  unfold State.bellHeld
  rw [show (copied (queued ringHeld)).calm = false from rfl, show (copied (queued ringHeld)).dev.partOf 0 = some 0 from rfl]
  show ((List.range 16).any fun i => (copied (queued ringHeld)).superHeld 0 1 (ringHeld.slotVa i) 64 .load) = true
  exact List.any_eq_true.2 ⟨0, by decide, h⟩
theorem witness_copied_transfer :
    (copied spilling).rowsReady 0 .spill ((copied spilling).transferRows 0 0 1 none) = false ∧
      (copied reloading).rowsReady 0 .reload ((copied reloading).transferRows 0 0 1 none) = false := by
  have hs := copied_held spilling 255 .spill rfl (by decide +kernel) rfl
  have hr := copied_held reloading 255 .reload rfl (by decide +kernel) rfl
  constructor
  · show (false || ((! (copied spilling).superHeld 0 1 0x8000 256 .spill) && true)) = false
    rw [hs]; rfl
  · show (false || ((! (copied reloading).superHeld 0 1 0x8000 256 .reload) && true)) = false
    rw [hr]; rfl

/-- WindowTransfers: a spill with a stack entry. -/
theorem witness_spilled_entry :
    let s := paged (transferring (.spill 0 1 (some (16, 32, 40))))
    s.calm = true ∧ (s.rowLocs 0 .spill (s.transferRows 0 0 1 (some 16))).toOption.isSome = true ∧ s.badRegs = [] ∧
      (got (exec (.windowSpill 0) s) fun t => ((t.wave 0).stream, t.readLocs (locRange 0x8_0000_0000_0000 4 ++ locRange 0x8_0000_0000_0100 4))) =
        some ([], 32 + 40 * 2 ^ 32) := by
  decide +kernel
/-- A line of code that comes from host memory (R414): its completion brings it, and an error refuses it. -/
def hostLine : State := onCluster (fun c => { c with icFills := [{ fill0 0x1080 with pa := 0x8_0000_0000_0080 }] }) ready
theorem witness_host_fetch :
    (hostLine.hostFetch 0).isSome = true ∧ hostLine.awaitsFar (.context 0) = true ∧ idle (exec (.icacheLineFill 0 0) hostLine) = some "ICACHE_LINE_FILL" ∧
      [true, false].map (fun ok => got (exec (.hostCompletion (.context 0) ok) hostLine) fun t =>
        ((t.cluster 0).icFills.length, t.cur.fetched.map fun p => (p.1, p.2 == .refused), (t.cluster 0).icache.map (·.line))) =
        [some (0, [(0x1080, false)], [0x1040]), some (0, [(0x1080, true)], [0x1040])] := by
  decide +kernel
/-- GangLife: a restore whose third piece does not translate keeps the first two. -/
def halfRestored : State := onDie (fun d => { d with l2tlb := [] }) (onCluster (fun c => { c with tlb := [{ bigPage with va := 0x100000, size := 12, frame := savedAt }] }) restoring2)
theorem witness_restore_stops :
    halfRestored.restoreGoesOn 0 = true ∧ Answer (readAreas 0) halfRestored = false ∧ (halfRestored.devIx 1).isSome = true ∧
      (got (exec (.gangRestore 0) halfRestored) fun t => ((t.gang 0).progress, (t.gang 0).read.map (·.1), (t.gang 0).paused)) =
        some (2, [0x100000, 0x100800], true) := by
  decide +kernel
/-- DeviceCommands and LinkStates: the last way to package 1 goes, and the CRED that needs it is poisoned. -/
def credOut : State := after (exec (.cred sampleCred) collective)
theorem witness_unreachable :
    (credOut.bound 0 2).map (·.state) = some .issued ∧
      (got (exec (.setRoute h1 1 0) credOut) fun t => (t.bound 0 2).map (·.state)) = some (some .poisoned) ∧
      (got (exec (.linkRetrainEnd 0 false) (onLink (fun l => { l with status := .retraining, retrains := 2 }) credOut)) fun t =>
        ((t.link 0).status, (t.bound 0 2).map (·.state))) = some (.failed, some .poisoned) := by
  decide +kernel
/-- HostRegisters: two entries at once, a task record and another; a register write over two slots; a read. -/
theorem witness_bells :
    let s := hostMem 0x20000 (taskBytes ++ taskBytes.map fun _ => 0) (queued launchQ)
    s.bellHeld 0 (1 + 2 ^ 21) = false ∧
      (got (exec (.doorbell 0 (1 + 2 ^ 21)) s) fun t => ((t.dctx 1).queue 0).map fun q => (q.tail, q.held.map (·.1), (q.counter 1023).task.isSome)) =
        some (some (2, [1], true)) ∧
      (got (exec (.doorbell 0 (1 + 17 * 2 ^ 20)) s) fun t => ((t.dctx 1).queue 0).map (·.tail)) = some (some 0) ∧
      (got (exec (.registerWrite 0 4 8 (1000 * 2 ^ 32)) ready) (·.dev.limit)) = some 1000 ∧ 8 - 4 % 8 < 8 ∧
      idle (exec (.registerWrite 0 0 9 0) ready) = some "REGISTER_WRITE" ∧
      (got (hostRead 0 0x4000 8 (ringSet true 0x1000 16)) fun t => t.dev.reply.map (·.bytes)) = some (some [0, 0x10, 0, 0, 0, 0, 0, 0]) ∧
      (got (hostRead 3 0 8 ready) fun t => t.dev.reply.map fun r => (r.status, r.bytes)) = some (some (.unsupported, [])) := by
  decide +kernel
/-- RequestsAndCompletions: a request for a third package leaves, waits or fails. -/
theorem witness_forwarding :
    collective.packageWay 1 = .leaves ∧ (1 : Nat) ≠ collective.dev.package ∧ (collective.link 0).status = .up ∧ strayed.packageWay 1 = .fails ∧
      (onLink (fun l => { l with status := .retraining }) collective).packageWay 1 = .waits ∧
      (got (exec (.remoteRequest 0 1 (.read 0 8)) (upLink .up)) fun t => (t.link 0).answer) = some (some (false, [])) := by
  decide +kernel
theorem witness_route (u : Nat) : collective.routeLink 1 u = some 0 := by
  unfold State.routeLink
  rw [show collective.routeLinks 1 .up = [0] from by decide +kernel]
  show [0][Config.routeHash u % 1]? = some 0
  rw [Nat.mod_one]; rfl
/-- PowerAndGating: a pause does not outlast 1.5 µs. -/
theorem witness_pause_bound :
    idle (exec (.frequencyPauseEnd 0) (onReg (fun r => { r with paused := some 0 }) (later 1501 pending13))) = some "FREQUENCY_PAUSE_END" ∧
      ((onReg (fun r => { r with paused := some 0 }) (later 7 pending13)).elapse 9000).dev.time = 1500 := by
  decide +kernel

/-- CaptureRecords: the table under the loft area's page holds poison, and the record meets it. -/
def blind : State :=
  onDev (fun d => { d with boundary := readAll 0 0 :: (List.range 16).map (readAll 1) })
    (onDctx (fun d => { d with desc := { d.desc with root := 0 } }) (absent { capturing 255 with badDram := [0] }))
theorem blind_admits : blind.admits 0 1 ⟨true, false⟩ 0 0 8 = true := by
  unfold State.admits; simp only [show isDram 0 = true from rfl, if_true]
  generalize Config.sliceOfVault _ = c; revert c; decide +kernel
theorem witness_capture_poison : blind.loftAccess 0 0 (blind.cur.loftAddr 5 255) .store = .poison := by
  rw [show blind.cur.loftAddr 5 255 = 0x12FF8 from by decide +kernel]
  have hw : blind.walk true 0 1 0x12FF8 4 0 = .error ⟨5, 4⟩ := by
    unfold State.walk; dsimp only
    rw [show dramLoc (0 + 8 * (0x12FF8 / 2 ^ (3 + 9 * (3 + 1)) % 512)) = some 0 from by decide]
    simp only [show 0 + 8 * (0x12FF8 / 2 ^ (3 + 9 * (3 + 1)) % 512) = 0 from by decide, blind_admits]
    rw [show blind.rowHeld 0 = false from by decide +kernel, show blind.poisoned (locRange 0 8) = true from by decide +kernel]
    rfl
  unfold State.loftAccess State.translate State.translateWith State.walkFor; dsimp only
  rw [show (blind.ctx 0).ctxid = 1 from by decide +kernel, show blind.tlbHit 0 1 0x12FF8 .store true = none from by decide +kernel,
    show (blind.dctx 1).desc.part = 0 from by decide +kernel, show (blind.dctx 1).desc.root = 0 from by decide +kernel,
    show (blind.die (dieOf 0)).walkBusy 1 0x12FF8 = false from by decide +kernel]
  simp [hw]

end Sys2Proof.Tests
end

section
/-! # The invariant of the machine's data

Every meaning is a list of effects on the state, a fault, or the reset, and each of them keeps `State.Inv`; so does what a turn does
around the meaning it runs. -/
namespace Sys2Proof.Machine

/-- Where a meaning answers a next state, that state has the invariant. -/
def LeavesInv (r : Result) : Prop := ∀ t, r = .next t → t.Inv

theorem leavesInv_next {t : State} (h : t.Inv) : LeavesInv (.next t) := by
  intro u hu
  cases hu
  exact h

/-! ### Forms of a meaning -/

theorem leavesInv_commit {s : State} (h : s.Inv) (a : Act Unit) : LeavesInv (commit a s) := fun _ => inv_commit h
theorem leavesInv_event {s : State} (h : s.Inv) (name : String) (ok : State → Bool) (a : Act Unit) :
    LeavesInv (event name ok a s) := fun _ => inv_event h
theorem leavesInv_laneAct {s : State} (h : s.Inv) (name : String) (op : Nat) (f : LaneIn → Act Unit) (w : LaneWord) :
    LeavesInv (laneAct name op f w s) := leavesInv_event h _ _ _
theorem leavesInv_laneExec {s : State} (h : s.Inv) (name : String) (op : Nat) (f : LaneIn → LaneOut) (w : LaneWord) :
    LeavesInv (laneExec name op f w s) := leavesInv_laneAct h _ _ _ _
theorem leavesInv_memExec {s : State} (h : s.Inv) (name : String) (op : Nat)
    (f : LaneIn → List (Nat × List Nat) → List PageUse → Act LaneOut) (w : LaneWord) :
    LeavesInv (memExec name op f w s) := leavesInv_laneAct h _ _ _ _

/-! ### Reset -/

theorem sized_reset : State.reset.sized :=
  ⟨List.length_replicate, List.length_replicate, List.length_map .., List.length_replicate, List.length_replicate,
    List.length_replicate, List.length_replicate, List.length_replicate⟩
theorem inv_reset : State.reset.Inv := ⟨sized_reset, rfl, rfl, rfl⟩

/-- A device reset keeps memory, and gives every table its size at reset. -/
theorem inv_resetState {s : State} (h : s.Inv) : (resetState s).Inv := ⟨sized_reset, h.2.1, rfl, rfl⟩

/-! ### Instructions -/

/-- Every instruction keeps the invariant: all but the reset commit effects. -/
theorem leavesInv_exec (i : Instr) {s : State} (h : s.Inv) : LeavesInv (exec i s) := by
  cases i with
  | add | sub | and_ | or_ | xor_ | shl | shr | sar | mul | mulh | mulhn | div | divn | rem | remn | min_ | max_ | minn | maxn
    | slt | sltn | seq | clz | ctz | popc | addw | subw | andn | addi | andi | ori | xori | shli | shri | sari | slti | sltni
    | seqi | shi | pchi | beq | bne | blt | bge | bltn | bgen | li64 | jal =>
    exact leavesInv_next (inv_applyAll _ h)
  | gnop | endRole | trap | eret | sdrain | ld | st | amo | wenter | wleave | stgt | capb | cape | cdrop | hset | hstep | rply
    | vread | gfence | bara | barw | baraw | wmwait | wmfree | cpkill | tcfg | mclr | mwait | qpush | qpop | qsig | qstat | rdsr
    | wrsr | genExtension | mloop | mdrain | copy | nrec | cred | emitLaneWord | createContext | enableContext | suspendContext
    | resumeContext | destroyContext | migrateBegin | migrateCommit | migrateAbort | createQueue | enableQueue | stopQueue
    | startQueue | destroyQueue | createNode | destroyNode | registerCode | deregisterCode | invalidate | answerFault
    | preEmptGang | resumeGang | discardGang | createCommunicator | destroyCommunicator | writeBoundaryEntry | readBoundaryEntry
    | attest | bindFunction | enableLink | setRoute | setPackageNumber | readCouplingTable | unknownCommand | commandQueueEnable
    | eventQueueEnable | eventQueueRdidx | harnessMapWrite | packageLimitWrite | domainControlWrite | correctedError
    | uncorrectableError | gpref | dpref =>
    exact leavesInv_commit h _
  | vext | laneWordRetire | windowSpill | windowReload | boundaryTrapEntry | emulationComplete | icacheLineFill
    | dcacheLineFill | tlbMissWalk | matrixStep | mdrainExecute | mclrExecute | copySegmentSend | copyUnitCommit | copyPark
    | chainUnitReduce | nodeBatchTimer | dispatchServe | workgroupStart | workgroupRetire | gangSaveComplete | gangRestore
    | commandComplete | eventRingWrite | doorbell | registerWrite | hostBar2Access | hostCompletion | linkFlitReceive
    | remoteRequest | linkTrained | linkTrainingTimeout | linkRetrain | linkRetrainEnd | rowRemapDone | spareSubstitution
    | vaultSensorSample | overheatGateCheck | currentAlarm | currentAlarmSample | passCountStepDown | powerWindowEnd
    | weightRefit | idleGate | clusterWake | frequencyTransition | frequencyPauseEnd | dieToDiePortFailure | remoteCompletion
    | loftLineFill | scalarAccessComplete =>
    unfold exec
    exact leavesInv_event h _ _ _
  | vbar | vpref | vfence =>
    unfold exec
    exact leavesInv_laneAct h _ _ _ _
  | vnop | vadd | vsub | vmul | vmulh | vmad | vmin | vmax | vabsd | vand | vor | vxor | vandn | vshl | vshr | vrot | vbfx
    | vbfi | vpopc | vclz | vctz | vbrev | vpermb | vdiv | vrem | vaddc | vcmp | vmov | vsel | vlea | vfadd | vfsub | vfmul
    | vfmulz | vfma | vfmaz | vfmin | vfmax | vfsgn | vfcmp | vfclass | vfdiv | vfsqrt | vfrnd | vfscale | vfxtr | vfdot2 | vcvtf
    | vcvtfi | vcvtif | vrcp | vrsq | vexp2 | vlog2 | vsin | vcos | vtanh | vsigm | vplop | vpmov | vshuf | vbcast | vrotl
    | vscan | vred | vvote | vidot4 | vidot8 | vslice | vslacc | vplane =>
    unfold exec
    exact leavesInv_laneExec h _ _ _ _
  | vld | vst | vatom | vcas =>
    unfold exec
    exact leavesInv_memExec h _ _ _ _
  | replayPush k =>
    rw [exec_replayPush]
    unfold execReplayPush
    exact leavesInv_event h _ _ _
  | jalr d a imm =>
    rw [exec_jalr]
    unfold execJalr
    dsimp only
    split
    · exact leavesInv_next (inv_applyAll _ h)
    · exact leavesInv_commit h _
  | wmrd d wm =>
    rw [exec_wmrd]
    unfold execWmrd
    split
    · exact leavesInv_commit h _
    · exact leavesInv_next (inv_applyAll _ h)
  | featq d cls =>
    rw [exec_featq]
    unfold execFeatq
    split
    · exact leavesInv_next (inv_applyAll _ h)
    · exact leavesInv_commit h _
  | trd f d t =>
    rw [exec_trd]
    unfold execTrd
    dsimp only
    split
    · exact leavesInv_commit h _
    · exact leavesInv_next (inv_applyAll _ h)
  | deviceReset => exact leavesInv_next (inv_resetState h)

/-! ### What a turn does around its meaning -/

theorem inv_afterWord {s : State} (h : s.Inv) (k : Nat) : (s.afterWord k).Inv := by
  unfold State.afterWord
  split
  · exact h
  · simpa [State.Inv, State.sized, State.canonical] using h

theorem leavesInv_wordDone {r : Result} (h : LeavesInv r) (k : Nat) : LeavesInv (wordDone k r) := by
  cases r with
  | next t => exact leavesInv_next (inv_afterWord (h t rfl) k)
  | fault f => exact h
  | refused f => exact h

/-- Time changes counts of clusters, registers of contexts and the device, never the length of a table. -/
theorem inv_elapse {s : State} (h : s.Inv) (ns : Nat) : (s.elapse ns).Inv := by
  unfold State.elapse State.estimated
  dsimp only
  split <;> simpa [State.Inv, State.sized, State.canonical] using h

theorem leavesInv_runWord {s : State} (h : s.Inv) (k : Nat) (i : Instr) : LeavesInv (runWord k i s) := by
  unfold runWord
  split
  · exact leavesInv_commit h _
  · exact leavesInv_wordDone (leavesInv_exec i (inv_applyAll _ h)) k

theorem leavesInv_ctxTurn {s : State} (h : s.Inv) (k : Nat) : LeavesInv (ctxTurn k s) := by
  have hk : (s.actingCtx k).Inv := h
  unfold ctxTurn
  split
  · dsimp only
    split
    · exact leavesInv_exec _ hk
    · split
      · exact leavesInv_runWord hk _ _
      · exact leavesInv_commit hk _
      · exact leavesInv_commit hk _
      · exact leavesInv_commit hk _
  · exact leavesInv_next h

theorem leavesInv_waveTurn {s : State} (h : s.Inv) (v : Nat) : LeavesInv (waveTurn v s) := by
  unfold waveTurn
  split
  · exact leavesInv_exec _ h
  · exact leavesInv_next h

theorem inv_tookRecord {s : State} (h : s.Inv) (p : Nat) : (s.tookRecord p).Inv := by
  simpa [State.tookRecord, State.Inv, State.sized, State.canonical] using h

theorem leavesInv_commandTurn {s : State} (h : s.Inv) (p : Nat) (answers : Bool) : LeavesInv (commandTurn p answers s) := by
  unfold commandTurn
  split
  · exact leavesInv_exec _ (inv_tookRecord h p)
  · exact leavesInv_next h

/-- Every turn of an agenda keeps the invariant. -/
theorem leavesInv_runTurn (t : Turn) {s : State} (h : s.Inv) : LeavesInv (runTurn t s) := by
  cases t with
  | ctx k => exact leavesInv_ctxTurn h k
  | wave v => exact leavesInv_waveTurn h v
  | command p a => exact leavesInv_commandTurn h p a
  | event i =>
    unfold runTurn
    dsimp only
    split
    · exact leavesInv_exec i h
    · exact leavesInv_next h
  | elapse ns => exact leavesInv_next (inv_elapse h ns)
  | hostWrite a b => exact leavesInv_commit h _
  | assign c q v => exact leavesInv_commit h _
  | hostRead f o n => exact leavesInv_commit h _

/-- With an empty agenda, the first candidate that changes the machine moves, or nothing does. -/
theorem leavesInv_firstMove {s : State} (h : s.Inv) (l : List Turn) : LeavesInv (firstMove s l) := by
  induction l with
  | nil => exact leavesInv_next h
  | cons t ts ih =>
    unfold firstMove
    split
    · next s' hr =>
      split
      · exact ih
      · exact leavesInv_next (leavesInv_runTurn t h s' hr)
    · exact ih

theorem leavesInv_step {s : State} (h : s.Inv) : LeavesInv (step s) := by
  unfold step
  split
  · exact leavesInv_runTurn _ (s := { s with agenda := _ }) h
  · exact leavesInv_firstMove h _

/-- Settles O5: the tables of the reset state are built at their sizes, and its memory, registers and accumulators are empty. -/
theorem resetHasTheInvariant : Obligations.ResetHasTheInvariant := inv_reset

/-- Settles O6: a step is one turn, or the first move that changes the machine, and each leaves the invariant. -/
theorem everyStepKeepsTheInvariant : Obligations.EveryStepKeepsTheInvariant :=
  fun _ t h hst => leavesInv_step h t hst

end Sys2Proof.Machine
end

section
/-! # Memory, and what agents may still read of its past -/
namespace Sys2Proof.Machine

/-! ### Bytes that a list of effects writes -/

/-- The effects of writing cells: each byte at its location. -/
def putCells (cells : List (Nat × Byte)) : List Effect := cells.map fun c => .mem c.1 c.2

theorem canonical_applyAll (es : List Effect) {s : State} (h : s.canonical) : (applyAll s es).canonical :=
  applyAll_keeps (P := State.canonical) (fun e _ _ ht => canonical_apply e ht) h

theorem byte_putCells_of_notMem {s : State} (h : s.canonical) {cells : List (Nat × Byte)} {a : Nat}
    (ha : a ∉ cells.map (·.1)) : (applyAll s (putCells cells)).byte a = s.byte a := by
  induction cells generalizing s with
  | nil => rfl
  | cons c cells ih =>
    simp only [List.map_cons, List.mem_cons, not_or] at ha
    calc (applyAll s (putCells (c :: cells))).byte a
        = (Effect.apply s (.mem c.1 c.2)).byte a := ih (canonical_apply _ h) ha.2
      _ = s.byte a := by rw [byte_apply_mem h, if_neg ha.1]

theorem byte_putCells_of_mem {s : State} (h : s.canonical) {cells : List (Nat × Byte)} (hn : (cells.map (·.1)).Nodup)
    {c : Nat × Byte} (hc : c ∈ cells) : (applyAll s (putCells cells)).byte c.1 = c.2 := by
  induction cells generalizing s with
  | nil => cases hc
  | cons d cells ih =>
    simp only [List.map_cons, List.nodup_cons] at hn
    rcases List.mem_cons.mp hc with rfl | hc
    · calc (applyAll s (putCells (c :: cells))).byte c.1
          = (Effect.apply s (.mem c.1 c.2)).byte c.1 := byte_putCells_of_notMem (canonical_apply _ h) hn.1
        _ = c.2 := by rw [byte_apply_mem h, if_pos rfl]
    · exact ih (canonical_apply _ h) hn.2 hc

/-- The cells of bytes written to locations have the locations as keys. -/
theorem map_fst_zip_eq {locs : List Nat} {bytes : List Byte} (h : bytes.length = locs.length) :
    (locs.zip bytes).map (·.1) = locs := List.map_fst_zip (by omega)

/-! ### What a write does to memory -/

theorem mem_clearPoison (locs : List Nat) (s : State) (log : List Effect) :
    (after s (clearPoison locs s log).2).mem = (after s log).mem :=
  (Only.clearPoison (F := [.badDram, .badSram]) (by simp) (by simp) locs).reads State.mem (f := .mem) (by simp)
    (fun _ _ h => mem_apply h) s log
theorem canonical_run {α : Type} {a : Act α} {F : List Field} (ha : Only F a) {s : State} {log : List Effect} (h : (after s log).canonical) :
    (after s (a s log).2).canonical := by
  obtain ⟨es, h1, -⟩ := ha s log
  rw [h1, after_append]
  exact canonical_applyAll es h

@[simp] theorem mem_apply_vis (s : State) (v : Visibility) : (Effect.apply s (.vis v)).mem = s.mem := rfl

theorem mem_writeLocs (locs : List Nat) (bytes : List Byte) (s : State) (log : List Effect) :
    (after s (writeLocs locs bytes s log).2).mem = (applyAll (after s log) (putCells (locs.zip bytes))).mem := by
  unfold writeLocs
  rw [run_bind, run_emits, run_bind_now, run_ite]
  split <;> simp [mem_clearPoison, putCells]

theorem byte_of_mem {s t : State} (h : t.mem = s.mem) (a : Nat) : t.byte a = s.byte a := by
  simp only [State.byte, h]

theorem byte_writeLocs_of_notMem {s : State} {log : List Effect} (h : (after s log).canonical) {locs : List Nat} (bytes : List Byte)
    {a : Nat} (ha : a ∉ locs) : (after s (writeLocs locs bytes s log).2).byte a = (after s log).byte a := by
  rw [byte_of_mem (mem_writeLocs locs bytes s log)]
  refine byte_putCells_of_notMem h fun hc => ha ?_
  obtain ⟨c, hz, rfl⟩ := List.mem_map.mp hc
  exact (List.of_mem_zip hz).1

theorem byte_writeLocs_getElem {s : State} {log : List Effect} (h : (after s log).canonical) {locs : List Nat} {bytes : List Byte}
    (hn : locs.Nodup) (hl : bytes.length = locs.length) {i : Nat} (hi : i < locs.length) :
    (after s (writeLocs locs bytes s log).2).byte locs[i] = bytes.getD i 0 := by
  rw [byte_of_mem (mem_writeLocs locs bytes s log), List.getD_eq_getElem _ _ (hl ▸ hi)]
  have hc : (locs[i], bytes[i]'(hl ▸ hi)) ∈ locs.zip bytes := by
    rw [List.mem_iff_getElem]
    exact ⟨i, by simp [hl, hi], by simp⟩
  exact byte_putCells_of_mem h (by rwa [map_fst_zip_eq hl]) hc

/-! ### What edges leave of the record of writes -/

@[simp] theorem show_cells (w : MemWrite) (x : MemAgent) (ps : Paths) : (w.show x ps).cells = w.cells := by
  unfold MemWrite.show; split <;> rfl
@[simp] theorem show_readers (w : MemWrite) (x : MemAgent) (ps : Paths) : (w.show x ps).readers = w.readers := by
  unfold MemWrite.show; split <;> rfl

/-- An edge only adds to whom writes are visible: each write keeps its bytes and its readers. -/
def MemWrite.SameRecord (w u : MemWrite) : Prop := u.cells = w.cells ∧ u.readers = w.readers

theorem sameRecord_shows (ys : List MemAgent) (ps : Paths) (w : MemWrite) :
    w.SameRecord (ys.foldl (fun w y => w.show y ps) w) := by
  induction ys generalizing w with
  | nil => exact ⟨rfl, rfl⟩
  | cons y ys ih =>
    obtain ⟨hc, hr⟩ := ih (w.show y ps)
    exact ⟨by simpa using hc, by simpa using hr⟩

/-- What an edge makes of each write. -/
def edgeOn (ys : List MemAgent) (f : MemWrite → Option Paths) (w : MemWrite) : MemWrite :=
  match f w with
  | some ps => ys.foldl (fun w y => w.show y ps) w
  | none => w

theorem edge_writes (v : Visibility) (ys : List MemAgent) (f : MemWrite → Option Paths) :
    (v.edge ys f).writes = v.writes.map (edgeOn ys f) := rfl

theorem sameRecord_edgeOn (ys : List MemAgent) (f : MemWrite → Option Paths) (w : MemWrite) : w.SameRecord (edgeOn ys f w) := by
  unfold edgeOn
  split
  · exact sameRecord_shows ys _ w
  · exact ⟨rfl, rfl⟩

/-- What an access learns is an edge, or nothing. -/
theorem learn_writes (v : Visibility) (a : Actor) :
    ∃ g : MemWrite → MemWrite, (v.learn a).writes = v.writes.map g ∧ ∀ w : MemWrite, w.SameRecord (g w) := by
  unfold Visibility.learn
  split
  · exact ⟨id, by simp, fun w => ⟨rfl, rfl⟩⟩
  · exact ⟨edgeOn a.learns (knownTo a.known), edge_writes .., sameRecord_edgeOn _ _⟩

theorem MemWrite.SameRecord.touches {w u : MemWrite} (h : w.SameRecord u) (locs : List Nat) : u.touches locs = w.touches locs := by
  simp only [MemWrite.touches, h.1]

/-! ### Reads -/

/-- The agent has read the write, or written after it, at bytes of the access on its path. -/
def MemWrite.readAt (w : MemWrite) (a : Actor) (locs : List Nat) : Bool :=
  w.readers.any fun r => r.1 == a.agent && r.2.1 == a.path && locs.any fun l => r.2.2.contains l

theorem MemWrite.SameRecord.readAt {w u : MemWrite} (h : w.SameRecord u) (a : Actor) (locs : List Nat) :
    u.readAt a locs = w.readAt a locs := by
  simp only [MemWrite.readAt, h.2]

theorem binds_of_readAt {w : MemWrite} {a : Actor} {locs : List Nat} (h : w.readAt a locs = true) : w.binds a locs = true := by
  simp only [MemWrite.binds, Bool.or_eq_true]
  exact .inr h

theorem readAt_of_reader {w : MemWrite} {a : Actor} {locs : List Nat} (hr : (a.agent, a.path, locs) ∈ w.readers)
    (ht : w.touches locs = true) : w.readAt a locs = true := by
  obtain ⟨c, -, hc⟩ := List.any_eq_true.mp ht
  refine List.any_eq_true.mpr ⟨_, hr, ?_⟩
  simp only [beq_self_eq_true, Bool.true_and]
  exact List.any_eq_true.mpr ⟨c.1, by simpa using hc, hc⟩

/-- No write that an access may read past binds it. -/
theorem binds_of_mem_past {v : Visibility} {a : Actor} {locs : List Nat} {w : MemWrite} (h : w ∈ v.past a locs) :
    w.binds a locs = false := by
  simpa using List.mem_takeWhile_imp h

/-- The reader that `noted` enters into the writes that a read has returned. -/
def notedOn (a : Actor) (locs : List Nat) (ids : List Nat) (w : MemWrite) : MemWrite :=
  if ids.contains w.id && !w.readers.contains (a.agent, a.path, locs) then { w with readers := (a.agent, a.path, locs) :: w.readers }
  else w

theorem noted_writes (v : Visibility) (a : Actor) (locs : List Nat) (got : List MemWrite) :
    (v.noted a locs got).writes = v.writes.map (notedOn a locs (got.map (·.id))) := by
  cases got with
  | nil =>
    have hid : notedOn a locs [] = id := by funext w; simp [notedOn]
    simp [Visibility.noted, hid]
  | cons w got => rfl

@[simp] theorem notedOn_cells (a : Actor) (locs ids : List Nat) (w : MemWrite) : (notedOn a locs ids w).cells = w.cells := by
  unfold notedOn; split <;> rfl

theorem reader_mem_notedOn (a : Actor) (locs : List Nat) {ids : List Nat} {w : MemWrite} (h : w.id ∈ ids) :
    (a.agent, a.path, locs) ∈ (notedOn a locs ids w).readers := by
  unfold notedOn
  split
  · exact List.mem_cons_self
  · next hn => simpa [h] using hn

theorem filter_touches_map {ws : List MemWrite} {g : MemWrite → MemWrite} {locs : List Nat}
    (h : ∀ w, (g w).touches locs = w.touches locs) : (ws.map g).filter (·.touches locs) = (ws.filter (·.touches locs)).map g := by
  rw [List.filter_map]
  exact congrArg (List.map g) (List.filter_congr fun w _ => h w)

/-- Where p fails on all of m, what is taken of l ++ m lies in l. -/
theorem length_takeWhile_append_le {α : Type} {p : α → Bool} (l : List α) {m : List α} (h : ∀ x ∈ m, p x = false) :
    ((l ++ m).takeWhile p).length ≤ l.length := by
  have hm : m.takeWhile p = [] := by
    cases m with
    | nil => rfl
    | cons x m => simp [h x List.mem_cons_self]
  rw [List.takeWhile_append]
  split
  · simp [hm]
  · exact (List.takeWhile_prefix p).length_le

/-- After a read that went past at most n writes, at most those n can be read past (R258). -/
theorem length_past_after_look (v : Visibility) (byte : Nat → Byte) (a : Actor) (n : Nat) (locs : List Nat) (ps : List Nat) :
    ((({ v with picks := ps }.noted a locs (v.look byte a n locs).2).learn a).past a locs).length ≤ n := by
  obtain ⟨g, hg, hsame⟩ := learn_writes ({ v with picks := ps }.noted a locs (v.look byte a n locs).2) a
  let W := v.writes.filter (·.touches locs)
  let k := ((v.past a locs).take n).length
  let h (w : MemWrite) : MemWrite := g (notedOn a locs ((W.drop k).map (·.id)) w)
  have ht (w : MemWrite) : (h w).touches locs = w.touches locs := by
    rw [(hsame _).touches]
    simp [MemWrite.touches]
  have hpast : ((({ v with picks := ps }.noted a locs (v.look byte a n locs).2).learn a).past a locs)
      = ((W.take k).map h ++ (W.drop k).map h).takeWhile (! ·.binds a locs) := by
    rw [← List.map_append, List.take_append_drop, ← filter_touches_map ht]
    simp only [Visibility.past, hg, noted_writes, List.map_map]
    rfl
  have hbound : ∀ u ∈ (W.drop k).map h, (! u.binds a locs) = false := by
    intro u hu
    obtain ⟨w, hw, rfl⟩ := List.mem_map.mp hu
    have hid : w.id ∈ (W.drop k).map (·.id) := List.mem_map_of_mem hw
    have htw : w.touches locs = true := (List.mem_filter.mp (List.mem_of_mem_drop hw)).2
    have hr : (notedOn a locs ((W.drop k).map (·.id)) w).readAt a locs = true :=
      readAt_of_reader (reader_mem_notedOn a locs hid) (by simpa [MemWrite.touches] using htw)
    have hb : (h w).binds a locs = true := binds_of_readAt (((hsame _).readAt a locs).trans hr)
    simp [hb]
  rw [hpast]
  calc _ ≤ ((W.take k).map h).length := length_takeWhile_append_le _ hbound
    _ ≤ k := by simp
    _ ≤ n := by simp [k]

theorem readUnits_single (s : State) (a : Actor) (locs : List Nat) :
    s.readUnits a [locs] = ([(s.vis.look s.byte a (s.vis.picks.headD 0) locs).1], headsOf (s.vis.look s.byte a (s.vis.picks.headD 0) locs).2,
      ({ s.vis with picks := s.vis.picks.tail }.noted a locs (s.vis.look s.byte a (s.vis.picks.headD 0) locs).2).learn a) := rfl

/-! ### What every agent sees -/

theorem or_allPaths (x : Paths) (p : Nat) (hp : p < 4) : (x ||| allPaths).getLsbD p = true := by
  have : allPaths.getLsbD p = true := by
    interval_cases p <;> rfl
  simp [this]

/-- A write is visible to x on the path it was made on where x made it, and on those that an edge has given x. -/
theorem pathsOf_getLsbD (w : MemWrite) (x : MemAgent) (p : Nat) :
    (w.pathsOf x).getLsbD p = ((w.agent == x && (onePath w.path).getLsbD p) || w.seen.any fun e => e.1 == x && e.2.getLsbD p) := by
  have hfold (l : List (MemAgent × Paths)) (m : Paths) :
      (l.foldl (fun m p => if p.1 == x then m ||| p.2 else m) m).getLsbD p = (m.getLsbD p || l.any fun e => e.1 == x && e.2.getLsbD p) := by
    induction l generalizing m with
    | nil => simp
    | cons e l ih =>
      rw [List.foldl_cons, ih, List.any_cons]
      by_cases he : e.1 == x <;> simp [he, Bool.or_assoc]
  rw [MemWrite.pathsOf, hfold]
  by_cases hx : w.agent == x <;> simp [hx]

theorem pathsOf_show_all (w : MemWrite) (x : MemAgent) {p : Nat} (hp : p < 4) : ((w.show x allPaths).pathsOf x).getLsbD p = true := by
  unfold MemWrite.show
  split
  · next h =>
    simp only [Bool.and_eq_true, beq_iff_eq] at h
    rw [← h.1]
    exact or_allPaths _ p hp
  · rw [pathsOf_getLsbD]
    simp only [List.any_cons, beq_self_eq_true, Bool.true_and, or_allPaths _ p hp, Bool.true_or, Bool.or_true]

theorem pathsTo_getLsbD (w : MemWrite) (xs : List MemAgent) (p : Nat) :
    (w.pathsTo xs).getLsbD p = xs.any fun x => (w.pathsOf x).getLsbD p := by
  have hfold (m : Paths) : (xs.foldl (fun m x => m ||| w.pathsOf x) m).getLsbD p
      = (m.getLsbD p || xs.any fun x => (w.pathsOf x).getLsbD p) := by
    induction xs generalizing m with
    | nil => simp
    | cons x xs ih => simp [ih, Bool.or_assoc]
  simp [MemWrite.pathsTo, hfold]

theorem binds_of_pathsOf {w : MemWrite} {a : Actor} (h : (w.pathsOf a.agent).getLsbD a.path = true) (locs : List Nat) :
    w.binds a locs = true := by
  simp [MemWrite.binds, pathsTo_getLsbD, Actor.known, h]

theorem takeWhile_eq_nil_of_forall {α : Type} {p : α → Bool} {l : List α} (h : ∀ x ∈ l, p x = false) : l.takeWhile p = [] :=
  List.eq_nil_of_length_eq_zero (Nat.le_zero.mp (length_takeWhile_append_le [] h))

/-- Nothing is left to read past for an agent that every write has been made visible to. -/
theorem past_seeAll (s : State) (a : Actor) (locs : List Nat) (hp : a.path < 4) : (s.seeAll [a.agent]).past a locs = [] := by
  refine takeWhile_eq_nil_of_forall fun u hu => ?_
  have hw : u ∈ (s.seeAll [a.agent]).writes := (List.mem_filter.mp hu).1
  rw [State.seeAll, edge_writes] at hw
  obtain ⟨w, -, rfl⟩ := List.mem_map.mp hw
  have hb : (edgeOn [a.agent] (fun _ => some allPaths) w).binds a locs = true := binds_of_pathsOf (pathsOf_show_all w _ hp) _
  simp [hb]

/-! ### Writes -/

/-- What a write is placed under does not bind its access and is not known to it, and is a run of the newest. -/
theorem place_prefix (v : Visibility) (a : Actor) (locs : List Nat) (n : Nat) : ∃ k, v.place a locs n = (v.free a locs).take k := by
  unfold Visibility.place
  dsimp only
  cases h : List.find? (fitsUnder · locs) ((List.range (min n (v.free a locs).length + 1)).reverse.map (v.free a locs).take) with
  | none => exact ⟨0, by simp⟩
  | some l =>
    obtain ⟨k, -, rfl⟩ := List.mem_map.mp (List.mem_of_find?_eq_some h)
    exact ⟨k, rfl⟩

theorem free_of_mem_place {v : Visibility} {a : Actor} {locs : List Nat} {n : Nat} {w : MemWrite} (h : w ∈ v.place a locs n) :
    w.binds a locs = false ∧ w.known a.known = false := by
  obtain ⟨k, hk⟩ := place_prefix v a locs n
  rw [hk] at h
  simpa using List.mem_takeWhile_imp (List.mem_of_mem_take h)

theorem fitsUnder_place (v : Visibility) (a : Actor) (locs : List Nat) (n : Nat) : fitsUnder (v.place a locs n) locs = true := by
  unfold Visibility.place
  dsimp only
  cases h : List.find? (fitsUnder · locs) ((List.range (min n (v.free a locs).length + 1)).reverse.map (v.free a locs).take) with
  | none => simp [fitsUnder]
  | some l => exact List.find?_some (p := (fitsUnder · locs)) h

/-- The lowest write at a byte that a write is placed under is no atomic (R259). -/
theorem rmw_lowest_place {v : Visibility} {a : Actor} {locs : List Nat} {n l : Nat} {w : MemWrite} (hl : l ∈ locs)
    (hw : ((v.place a locs n).filter (·.touches [l])).getLast? = some w) : w.rmw = false := by
  have h := List.all_eq_true.mp (fitsUnder_place v a locs n) l hl
  simpa [hw] using h

/-- A write that is to go below none is placed on top of all. -/
theorem place_zero (v : Visibility) (a : Actor) (locs : List Nat) : v.place a locs 0 = [] := by
  simp [Visibility.place, fitsUnder]

/-- The record that a write on top of all leaves: its own first, which its agent has made at these bytes. -/
theorem insert_on_top (v : Visibility) (byte : Nat → Byte) (a : Actor) (o : WriteOrder) (cells : List (Nat × Byte)) :
    (v.insert byte a o [] cells).1 = cells ∧ ∃ w : MemWrite, (v.insert byte a o [] cells).2.writes = w :: v.writes ∧
      (a.agent, a.path, cells.map (·.1)) ∈ w.readers ∧ w.touches (cells.map (·.1)) = ! (cells.map (·.1)).isEmpty := by
  refine ⟨by simp [Visibility.insert], ?_⟩
  unfold Visibility.insert
  refine ⟨_, by simp only [raise, List.getLast?_nil, List.take_zero, List.nil_append, List.drop_zero, List.any_nil,
    List.filter_false, List.find?_nil, List.map_id']; rfl, by simp, ?_⟩
  cases cells <;> simp [MemWrite.touches]

/-- After a write of its own on top of all, the agent reads past nothing there. -/
theorem past_after_own_write {v : Visibility} {w : MemWrite} {ws : List MemWrite} {a : Actor} {locs : List Nat}
    (hv : v.writes = w :: ws) (hr : (a.agent, a.path, locs) ∈ w.readers) (ht : w.touches locs = ! locs.isEmpty) :
    (v.learn a).past a locs = [] := by
  obtain ⟨g, hg, hsame⟩ := learn_writes v a
  cases hl : locs.isEmpty with
  | true => simp [Visibility.past, MemWrite.touches, List.isEmpty_iff.mp hl]
  | false =>
    have htw : w.touches locs = true := by simpa [hl] using ht
    have hb : (g w).binds a locs = true := binds_of_readAt (((hsame w).readAt a _).trans (readAt_of_reader hr htw))
    unfold Visibility.past
    rw [hg, hv, filter_touches_map fun u => (hsame u).touches _, List.filter_cons, if_pos htw, List.map_cons]
    exact List.takeWhile_cons_of_neg (by rw [hb]; decide)

theorem writeUnits_single_newest (s : State) (a : Actor) (cells : List (Nat × Byte)) (h : s.vis.picks = []) :
    (s.writeUnits a [cells]).1 = cells ∧ (s.writeUnits a [cells]).2.past a (cells.map (·.1)) = [] := by
  obtain ⟨h1, w, hw, hr, ht⟩ := insert_on_top { s.vis with picks := s.vis.picks.tail } s.byte a {} cells
  have hu : s.writeUnits a [cells] = ((Visibility.insert { s.vis with picks := s.vis.picks.tail } s.byte a {} [] cells).1,
      (Visibility.insert { s.vis with picks := s.vis.picks.tail } s.byte a {} [] cells).2.learn a) := by
    simp [State.writeUnits, Visibility.write, h, place_zero]
  rw [hu]
  exact ⟨h1, past_after_own_write hw hr ht⟩

/-- Settles O7: a write puts its bytes on the sparse map; a read goes past at most the chosen number of writes, none of which binds it,
and marks what it returns as read; a write goes under none that binds it or is known to it. -/
theorem memoryReadsWhatWasWritten : Obligations.MemoryReadsWhatWasWritten := by
  refine ⟨fun s locs bytes hs hn hl => ?_, fun s a locs hp => ?_⟩
  · have hw : Only [.mem, .badDram, .badSram] (writeLocs locs bytes) := Only.writeLocs (by simp) (by simp) (by simp) locs bytes
    exact ⟨_, rfl, canonical_run hw (log := []) hs, fun i hi => byte_writeLocs_getElem (log := []) hs hn hl hi,
      fun a ha => byte_writeLocs_of_notMem (log := []) hs bytes ha, hw.sameBut s []⟩
  · dsimp only
    rw [readUnits_single]
    refine ⟨⟨_, rfl, ⟨_, rfl⟩, fun h => by simp [Visibility.look, undo, h]⟩, fun w hw => binds_of_mem_past hw,
      length_past_after_look .., past_seeAll s a locs hp, fun n w hw => free_of_mem_place hw,
      fun n l w hl hw => rmw_lowest_place hl hw, fun cells h => writeUnits_single_newest s a cells h⟩

end Sys2Proof.Machine
end

section
/-! # The register window: WENTER and WLEAVE -/
namespace Sys2Proof.Machine

/-! ### Contexts and waves that a program changes -/

theorem waves_length_apply (e : Effect) (s : State) : (e.apply s).waves.length = s.waves.length := by
  cases e <;> simp [Effect.apply]
theorem waves_length_after (s : State) (log : List Effect) : (after s log).waves.length = s.waves.length :=
  applyAll_keeps (P := fun t => t.waves.length = s.waves.length) (fun e _ t h => (waves_length_apply e t).trans h) rfl
theorem ctxs_length_apply (e : Effect) (s : State) : (e.apply s).ctxs.length = s.ctxs.length := by
  cases e <;> simp [Effect.apply]
theorem ctxs_length_after (s : State) (log : List Effect) : (after s log).ctxs.length = s.ctxs.length :=
  applyAll_keeps (P := fun t => t.ctxs.length = s.ctxs.length) (fun e _ t h => (ctxs_length_apply e t).trans h) rfl

/-- A word whose only effect is on its context. -/
theorem becomes_setCtx {s : State} (h : Acting s) (c : Context) : Becomes s c (commit (setCtx s.curCtx c) s) := by
  refine ⟨_, rfl, ⟨(Only.setCtx (F := [.ctxs]) (by simp) _ _).sameBut s [], fun j hj => ?_, fun a => rfl⟩, ?_⟩
  · exact (ctx_apply_ctx ..).trans (if_neg fun hjk => hj hjk.1)
  · exact (ctx_apply_ctx ..).trans (if_pos ⟨rfl, h⟩)

/-! ### A step for each of some waves -/

section
variable {α : Type} {ix : α → Option Nat} {f : α → Wave → Wave}

/-- Change the wave that each entry of a list names, where it names one. -/
def eachWave (l : List α) (ix : α → Option Nat) (f : α → Wave → Wave) : Act Unit :=
  each l fun x => match ix x with
    | some v => modWave v (f x)
    | none => pure ()

theorem Only.eachWave {F : List Field} (h : Field.waves ∈ F) (l : List α) : Only F (Machine.eachWave l ix f) := by
  refine Only.each fun x => ?_
  cases ix x with
  | none => exact Only.pure ()
  | some v => exact Only.modWave h v _

theorem wave_eachWave_of_notMem {l : List α} {v : Nat} (h : v ∉ l.filterMap ix) (s : State) (log : List Effect) :
    (after s (eachWave l ix f s log).2).wave v = (after s log).wave v := by
  induction l generalizing log with
  | nil => rfl
  | cons x l ih =>
    simp only [eachWave, each, run_bind] at ih ⊢
    cases hx : ix x with
    | none =>
      rw [List.filterMap_cons_none hx] at h
      simpa [hx] using ih h log
    | some u =>
      rw [List.filterMap_cons_some hx, List.mem_cons, not_or] at h
      simpa [hx, h.1] using ih h.2 (.wave u (f x ((after s log).wave u)) :: log)

theorem wave_eachWave_of_mem {l : List α} (hn : (l.filterMap ix).Nodup) {x : α} {v : Nat} (hx : x ∈ l) (hv : ix x = some v)
    {s : State} (hlt : v < s.waves.length) (log : List Effect) :
    (after s (eachWave l ix f s log).2).wave v = f x ((after s log).wave v) := by
  induction l generalizing log with
  | nil => cases hx
  | cons y l ih =>
    rcases List.mem_cons.mp hx with rfl | hx
    · rw [List.filterMap_cons_some hv, List.nodup_cons] at hn
      have hrest := wave_eachWave_of_notMem (f := f) hn.1 s (.wave v (f x ((after s log).wave v)) :: log)
      simp only [eachWave, each, run_bind] at hrest ⊢
      simpa [hv, waves_length_after, hlt] using hrest
    · cases hy : ix y with
      | none =>
        rw [List.filterMap_cons_none hy] at hn
        have hrest := ih hn hx log
        simp only [eachWave, each, run_bind] at hrest ⊢
        simpa [hy] using hrest
      | some u =>
        rw [List.filterMap_cons_some hy, List.nodup_cons] at hn
        have huv : v ≠ u := fun h => hn.1 (List.mem_filterMap.mpr ⟨x, hx, h ▸ hv⟩)
        have hrest := ih hn.2 hx (.wave u (f y ((after s log).wave u)) :: log)
        simp only [eachWave, each, run_bind] at hrest ⊢
        simpa [hy, huv] using hrest

end

/-- The entries of a list, read at each of its indices. -/
theorem filterMap_range_getElem? {α : Type} (l : List α) : (List.range l.length).filterMap (fun i => l[i]?) = l := by
  induction l using List.reverseRecOn with
  | nil => rfl
  | append_singleton l x ih =>
    rw [List.length_append, List.length_singleton, List.range_succ, List.filterMap_append]
    have hl : (List.range l.length).filterMap (fun i => (l ++ [x])[i]?) = (List.range l.length).filterMap (fun i => l[i]?) :=
      List.filterMap_congr fun i hi => List.getElem?_append_left (List.mem_range.mp hi)
    rw [hl, ih]
    simp

/-! ### Transfers that a word puts behind the words of its waves -/

/-- A transfer stands at the end of a wave's stream. -/
def Wave.withItem (w : Wave) (x : StreamItem) : Wave := { w with stream := w.stream ++ [x] }

theorem roleWaves_after_setCtx {s : State} {k : Nat} {c : Context} (h : c.wg = (s.ctx k).wg) :
    (after s [.ctx k c]).roleWaves k = s.roleWaves k := by
  have hwg : ((after s [.ctx k c]).ctx k).wg = (s.ctx k).wg := by
    simp only [after_cons, after_nil, ctx_apply_ctx]
    split
    · exact h
    · rfl
  simp only [State.roleWaves, hwg]
  rfl

section
variable {s : State} {k : Nat} {log : List Effect}

theorem run_pushTransfers (h : ((after s log).ctx k).em.seq.busy = false) (l : List (Nat × StreamItem)) :
    pushTransfers k l s log = eachWave l (fun p => ((after s log).roleWaves k)[p.1]?) (fun p w => w.withItem p.2) s log := by
  unfold pushTransfers
  rw [run_bind_now]
  dsimp only
  rw [if_neg (by simp [h])]
  rfl

theorem filterMap_transfers (g : Nat → StreamItem) (l : List Nat) :
    ((List.range l.length).map fun i => (i, g i)).filterMap (fun p => l[p.1]?) = l := by
  rw [List.filterMap_map]
  exact filterMap_range_getElem? l

end

/-- A window word has changed its context to c, and put transfers behind the words of waves of its role. -/
structure WindowMoves (s t : State) (c : Context) (l : List (Nat × StreamItem)) : Prop where
  frame : SameBut [.ctxs, .waves] s t
  others : ∀ j, j ≠ s.curCtx → t.ctx j = s.ctx j
  cur : t.cur = c
  listed : ∀ p ∈ l, ∀ v, (s.roleWaves s.curCtx)[p.1]? = some v → t.wave v = (s.wave v).withItem p.2
  unlisted : ∀ v, v ∉ l.filterMap (fun p => (s.roleWaves s.curCtx)[p.1]?) → t.wave v = s.wave v

theorem windowMoves_pushTransfers {s : State} (hs : Acting s) {c : Context} (hwg : c.wg = s.cur.wg) (hbusy : c.em.seq.busy = false)
    {l : List (Nat × StreamItem)} (hn : (l.filterMap fun p => (s.roleWaves s.curCtx)[p.1]?).Nodup)
    (hlt : ∀ p ∈ l, ∀ v, (s.roleWaves s.curCtx)[p.1]? = some v → v < s.waves.length) :
    WindowMoves s (after s (pushTransfers s.curCtx l s [.ctx s.curCtx c]).2) c l := by
  have hc : (after s [.ctx s.curCtx c]).ctx s.curCtx = c := by simp [show s.curCtx < s.ctxs.length from hs]
  have hb : ((after s [.ctx s.curCtx c]).ctx s.curCtx).em.seq.busy = false := by rw [hc, hbusy]
  have hr := roleWaves_after_setCtx (s := s) (k := s.curCtx) hwg
  rw [run_pushTransfers hb, hr]
  have hsame := (Only.eachWave (F := [.waves]) (by simp) l (ix := fun p => (s.roleWaves s.curCtx)[p.1]?)
    (f := fun p w => w.withItem p.2)).sameBut s [.ctx s.curCtx c]
  refine ⟨?_, fun j hj => ?_, ?_, fun p hp v hv => ?_, fun v hv => ?_⟩
  · exact sameBut_trans ((Only.setCtx (by simp) s.curCtx c).sameBut s []) (hsame.mono (by simp))
  · rw [hsame.ctx (by simp)]
    simp [hj]
  · rw [State.cur, hsame.curCtx (by simp), hsame.ctx (by simp)]
    exact hc
  · exact wave_eachWave_of_mem hn hp hv (hlt p hp v hv) _
  · exact wave_eachWave_of_notMem hv s _

/-- One transfer for each wave of the role. -/
theorem windowMoves_pushTransfer {s : State} (hs : Acting s) {c : Context} (hwg : c.wg = s.cur.wg) (hbusy : c.em.seq.busy = false)
    (hn : (s.roleWaves s.curCtx).Nodup) (hlt : ∀ v ∈ s.roleWaves s.curCtx, v < s.waves.length) (g : Nat → StreamItem) :
    WindowMoves s (after s (pushTransfer s.curCtx g s [.ctx s.curCtx c]).2) c
      ((List.range (s.roleWaves s.curCtx).length).map fun i => (i, g i)) := by
  have h := windowMoves_pushTransfers hs hwg hbusy (l := (List.range (s.roleWaves s.curCtx).length).map fun i => (i, g i))
    (by rwa [filterMap_transfers]) fun p _ v hv => hlt v (List.mem_of_getElem? hv)
  unfold pushTransfer
  rw [run_bind_now, roleWaves_after_setCtx hwg]
  exact h

theorem WindowMoves.all {s t : State} {c : Context} {g : Nat → StreamItem}
    (h : WindowMoves s t c ((List.range (s.roleWaves s.curCtx).length).map fun i => (i, g i))) :
    (∀ i v, (s.roleWaves s.curCtx)[i]? = some v → t.wave v = (s.wave v).withItem (g i)) ∧
      ∀ v, v ∉ s.roleWaves s.curCtx → t.wave v = s.wave v := by
  refine ⟨fun i v hv => h.listed (i, g i) ?_ v hv, fun v hv => h.unlisted v (by rwa [filterMap_transfers])⟩
  obtain ⟨hi, -⟩ := List.getElem?_eq_some_iff.mp hv
  exact List.mem_map.mpr ⟨i, List.mem_range.mpr hi, rfl⟩

/-! ### WENTER -/

section
variable {s : State} {n : BitVec 5}

/-- No capture and no chain is open: a window word is legal. -/
def Context.windowLegal (c : Context) : Prop := ¬ (c.em.capOpen = true ∨ c.chainOpen = true)

/-- The top of the frame that a WENTER opens. -/
def Context.windowTop (c : Context) (frame : Nat) : Nat := c.win.base + c.win.frame + frame
/-- The frame does not fit over the registers that the cluster holds (R152). -/
def Context.spills (c : Context) (frame : Nat) : Bool := decide (0 < c.nwaves) && decide (c.width < c.windowTop frame - c.win.lo)
theorem spills_iff (c : Context) (frame : Nat) :
    c.spills frame = true ↔ 0 < c.nwaves ∧ c.width < c.win.base + c.win.frame + frame - c.win.lo := by
  rw [Context.spills, Bool.and_eq_true, decide_eq_true_eq, decide_eq_true_eq]
  rfl
/-- The window of a WENTER that goes on. -/
def Context.enteredWin (c : Context) (frame lo : Nat) : Window :=
  { base := c.win.base + c.win.frame, frame := frame, lo := lo, stack := (c.win.base, c.win.frame) :: c.win.stack
    popPending := false, popRead := none, popBad := none }

/-- How deep the saved frames may go (R152). -/
def Context.frameLimit (c : Context) : Nat := if 0 < c.nwaves then 80 else 16

/-- The words that no window word may stand behind. -/
theorem not_refused {c : Context} (h : c.windowLegal) : ¬ (c.em.capOpen || c.chainOpen) = true := by
  simpa [Context.windowLegal] using h

theorem execWenter_open (h : ¬ s.cur.windowLegal) : execWenter n s = commit (illegal (.wenter n)) s := by
  have ho : (s.cur.em.capOpen || s.cur.chainOpen) = true := by simpa [Context.windowLegal, imp_iff_not_or] using h
  exact congrArg (commit · s) (if_pos (by rw [Bool.or_eq_true]; exact .inl ho))

theorem not_wenterRefused {c : Context} {frame : Nat} (h : c.windowLegal) (hf : frame ≤ 768) :
    ¬ (c.em.capOpen || c.chainOpen || decide (768 < frame)) = true := by
  rw [Bool.or_eq_true, decide_eq_true_eq]
  exact fun hr => hr.elim (not_refused h) (Nat.not_lt.mpr hf)

theorem not_tooWide {c : Context} {frame : Nat} (hw : c.nwaves = 0 ∨ frame ≤ c.width) :
    ¬ (decide (0 < c.nwaves) && decide (c.width < frame)) = true := by
  rw [Bool.and_eq_true, decide_eq_true_eq, decide_eq_true_eq]
  omega

theorem execWenter_wide (h : s.cur.windowLegal) (hf : 32 * n.toNat ≤ 768) (hw : 0 < s.cur.nwaves) (hwide : s.cur.width < 32 * n.toNat) :
    execWenter n s = commit (trapNow (windowRecord 0 (32 * n.toNat))) s :=
  congrArg (commit · s) <| (if_neg (not_wenterRefused h hf)).trans <| if_pos <| by
    rw [Bool.and_eq_true, decide_eq_true_eq, decide_eq_true_eq]
    exact ⟨hw, hwide⟩

theorem execWenter_deep (h : s.cur.windowLegal) (hf : 32 * n.toNat ≤ 768) (hw : s.cur.nwaves = 0 ∨ 32 * n.toNat ≤ s.cur.width)
    (hd : s.cur.win.stack.length = s.cur.frameLimit) :
    execWenter n s = commit (trapNow (windowRecord 1 (32 * n.toNat))) s :=
  congrArg (commit · s) <| (if_neg (not_wenterRefused h hf)).trans <| (if_neg (not_tooWide hw)).trans <| if_pos <|
    beq_iff_eq.mpr hd

/-- A WENTER whose frame and stack entry find room. -/
theorem execWenter_goes (h : s.cur.windowLegal) (hf : 32 * n.toNat ≤ 768) (hw : s.cur.nwaves = 0 ∨ 32 * n.toNat ≤ s.cur.width)
    (hd : s.cur.win.stack.length < s.cur.frameLimit)
    (hroom : s.cur.spills (32 * n.toNat) = true → spillBytes (s.cur.windowTop (32 * n.toNat) - s.cur.width) ≤ (s.dctx s.cur.ctxid).desc.spill * 512)
    (hp : s.cur.win.popPending = false) :
    execWenter n s = commit (do
      let lo := if s.cur.spills (32 * n.toNat) then s.cur.windowTop (32 * n.toNat) - s.cur.width else s.cur.win.lo
      setCtx s.curCtx (stepped 4 { s.cur with win := s.cur.enteredWin (32 * n.toNat) lo })
      if s.cur.spills (32 * n.toNat) || (0 < s.cur.nwaves && 16 ≤ s.cur.win.stack.length) then
        pushTransfer s.curCtx fun i => .spill s.cur.win.lo lo
          (if i == 0 && 16 ≤ s.cur.win.stack.length then some (s.cur.win.stack.length, s.cur.win.base, s.cur.win.frame) else none)
      else pure ()) s := by
  have hroom' : ¬ (s.cur.spills (32 * n.toNat) &&
      decide ((s.descOf s.curCtx).spill * 512 < spillBytes (s.cur.windowTop (32 * n.toNat) - s.cur.width))) = true := by
    rw [Bool.and_eq_true, decide_eq_true_eq, not_and, not_lt]
    exact hroom
  have hdeep : ¬ (s.cur.win.stack.length == s.cur.frameLimit) = true := fun h => absurd (beq_iff_eq.mp h) (Nat.ne_of_lt hd)
  have hwait : ¬ (s.cur.win.popPending && s.cur.win.popRead.isNone && s.cur.win.popBad.isNone) = true := by simp [hp]
  exact congrArg (commit · s) <| (if_neg (not_wenterRefused h hf)).trans <| (if_neg (not_tooWide hw)).trans <|
    (if_neg hdeep).trans <| (if_neg hroom').trans <| (if_neg hwait).trans rfl

/-- A WENTER that needs no transfer. -/
theorem becomes_wenter (hs : Acting s) (h : s.cur.windowLegal) (hf : 32 * n.toNat ≤ 768)
    (hw : s.cur.nwaves = 0 ∨ 32 * n.toNat ≤ s.cur.width ∧ s.cur.windowTop (32 * n.toNat) ≤ s.cur.win.lo + s.cur.width)
    (hd : s.cur.win.stack.length < 16) (hp : s.cur.win.popPending = false) :
    Becomes s (stepped 4 { s.cur with win := s.cur.enteredWin (32 * n.toNat) s.cur.win.lo }) (execWenter n s) := by
  have hspills : s.cur.spills (32 * n.toNat) = false := by
    simp only [Context.spills, Bool.and_eq_false_iff, decide_eq_false_iff_not]
    omega
  have hlim : 16 ≤ s.cur.frameLimit := by unfold Context.frameLimit; split <;> omega
  rw [execWenter_goes h hf (hw.imp_right And.left) (by omega) (by simp [hspills]) hp]
  have hdeep : ¬ 16 ≤ s.cur.win.stack.length := by omega
  have hgo : (s.cur.spills (32 * n.toNat) || (decide (0 < s.cur.nwaves) && decide (16 ≤ s.cur.win.stack.length))) = false := by
    simp [hspills, hdeep]
  dsimp only
  rw [hgo, hspills]
  exact becomes_setCtx hs _

/-- A WENTER that puts transfers behind the words of its waves. -/
theorem windowMoves_wenter (hs : Acting s) (h : s.cur.windowLegal) (hf : 32 * n.toNat ≤ 768) (hn : 0 < s.cur.nwaves)
    (hw : 32 * n.toNat ≤ s.cur.width) (hd : s.cur.win.stack.length < 80) (hp : s.cur.win.popPending = false)
    (hroom : s.cur.spills (32 * n.toNat) = true → 512 + 4 * (s.cur.windowTop (32 * n.toNat) - s.cur.width) ≤ (s.dctx s.cur.ctxid).desc.spill * 512)
    (hgo : s.cur.spills (32 * n.toNat) = true ∨ 16 ≤ s.cur.win.stack.length) (hbusy : s.cur.em.seq.busy = false)
    (hnd : (s.roleWaves s.curCtx).Nodup) (hlt : ∀ v ∈ s.roleWaves s.curCtx, v < s.waves.length) {lo : Nat}
    (hlo : lo = if s.cur.spills (32 * n.toNat) then s.cur.windowTop (32 * n.toNat) - s.cur.width else s.cur.win.lo) :
    ∃ t, execWenter n s = .next t ∧ WindowMoves s t (stepped 4 { s.cur with win := s.cur.enteredWin (32 * n.toNat) lo })
      ((List.range (s.roleWaves s.curCtx).length).map fun i => (i, .spill s.cur.win.lo lo
        (if i == 0 && decide (16 ≤ s.cur.win.stack.length) then some (s.cur.win.stack.length, s.cur.win.base, s.cur.win.frame) else none))) := by
  have hlim : s.cur.frameLimit = 80 := if_pos hn
  have hgo' : (s.cur.spills (32 * n.toNat) || (decide (0 < s.cur.nwaves) && decide (16 ≤ s.cur.win.stack.length))) = true := by
    simpa [hn] using hgo
  rw [execWenter_goes h hf (.inr hw) (by omega) hroom hp]
  dsimp only
  rw [if_pos hgo', ← hlo]
  exact ⟨_, rfl, windowMoves_pushTransfer hs (c := stepped 4 { s.cur with win := s.cur.enteredWin (32 * n.toNat) lo }) rfl hbusy hnd hlt _⟩

/-! ### WLEAVE -/

theorem execWleave_open (h : ¬ s.cur.windowLegal) : execWleave s = commit (illegal .wleave) s := by
  have ho : (s.cur.em.capOpen || s.cur.chainOpen) = true := by simpa [Context.windowLegal, imp_iff_not_or] using h
  exact congrArg (commit · s) (if_pos ho)

theorem execWleave_empty (h : s.cur.windowLegal) (he : s.cur.win.stack = []) :
    execWleave s = commit (trapNow (windowRecord 3 0)) s :=
  congrArg (commit · s) <| (if_neg (not_refused h)).trans <| if_pos <| beq_iff_eq.mpr (List.length_eq_zero_iff.mpr he)

theorem not_empty {l : List (Nat × Nat)} (h : l ≠ []) : ¬ (l.length == 0) = true :=
  fun hl => h (List.length_eq_zero_iff.mp (beq_iff_eq.mp hl))

theorem execWleave_poisoned (h : s.cur.windowLegal) (he : s.cur.win.stack ≠ []) {va : Word} (hb : s.cur.win.popBad = some va) :
    execWleave s = commit (do
      setCtx s.curCtx { s.cur with win := { s.cur.win with popPending := false, popBad := none } }
      trapNow (accessRecord 18 va 5)) s := by
  refine congrArg (commit · s) <| (if_neg (not_refused h)).trans <| (if_neg (not_empty he)).trans <|
    (if_pos (Option.isSome_iff_exists.mpr ⟨va, hb⟩)).trans ?_
  rw [show (s.ctx s.curCtx).win.popBad = some va from hb]
  rfl

/-- The stack entry that a WLEAVE goes back to lies in the spill region (R154). -/
def Context.readsEntry (c : Context) : Bool := decide (0 < c.nwaves) && decide (16 < c.win.stack.length)

theorem execWleave_asks (h : s.cur.windowLegal) (he : s.cur.win.stack ≠ []) (hb : s.cur.win.popBad = none)
    (hr : s.cur.readsEntry = true) (hp : s.cur.win.popPending = false) :
    execWleave s = commit (do
      setCtx s.curCtx ({ s.cur with win := { s.cur.win with popPending := true } }.stall .window)
      pushTransfers s.curCtx [(0, .reload 0 0 (some (s.cur.win.stack.length - 1)))]) s :=
  congrArg (commit · s) <| (if_neg (not_refused h)).trans <| (if_neg (not_empty he)).trans <|
    (if_neg (by simp [show (s.ctx s.curCtx).win.popBad = none from hb])).trans <| if_pos <| by
      rw [Bool.and_eq_true]
      exact ⟨hr, by simp [show (s.ctx s.curCtx).win.popPending = false from hp]⟩

/-- The window of a WLEAVE that goes back to a frame. -/
def Window.leftTo (w : Window) (b f : Nat) : Window :=
  { base := b, frame := f, lo := min b w.lo, stack := w.stack.tail, popPending := false, popRead := none, popBad := none }

/-- A WLEAVE that waits for no new read goes on with the entry that it has, or waits. -/
theorem execWleave_pops (h : s.cur.windowLegal) (he : s.cur.win.stack ≠ []) (hb : s.cur.win.popBad = none)
    (hr : s.cur.readsEntry = true → s.cur.win.popPending = true) :
    execWleave s = commit (match s.cur.win.popped (decide (0 < s.cur.nwaves)) with
      | none => stallCur .window
      | some (b, f) => do
        setCtx s.curCtx (stepped 4 { s.cur with win := s.cur.win.leftTo b f })
        if decide (0 < s.cur.nwaves) && decide (b < s.cur.win.lo) then
          pushTransfer s.curCtx fun _ => .reload b s.cur.win.lo none
        else pure ()) s := by
  refine congrArg (commit · s) <| (if_neg (not_refused h)).trans <| (if_neg (not_empty he)).trans <|
    (if_neg (by simp [show (s.ctx s.curCtx).win.popBad = none from hb])).trans <| (if_neg ?_).trans ?_
  · rw [Bool.and_eq_true, Bool.not_eq_true']
    exact fun hn => absurd (hr hn.1) (by simp [State.cur, hn.2])
  · have hmin (b : Nat) : (if b < (s.ctx s.curCtx).win.lo then b else (s.ctx s.curCtx).win.lo) = min b s.cur.win.lo := by
      unfold State.cur
      split <;> omega
    simp only [hmin]
    rfl

theorem becomes_wleave (hs : Acting s) (h : s.cur.windowLegal) {b f : Nat} {rest : List (Nat × Nat)} (hst : s.cur.win.stack = (b, f) :: rest)
    (hd : s.cur.win.stack.length ≤ 16) (hlo : s.cur.win.lo ≤ b) (hb : s.cur.win.popBad = none) :
    Becomes s (stepped 4 { s.cur with win :=
      { s.cur.win with base := b, frame := f, stack := rest, popPending := false, popRead := none } }) (execWleave s) := by
  have hr : s.cur.readsEntry = false := by simp [Context.readsEntry, hd]
  have hpop : s.cur.win.popped (decide (0 < s.cur.nwaves)) = some (b, f) := by
    rw [Window.popped, if_neg (by rw [Bool.and_eq_true, decide_eq_true_eq, decide_eq_true_eq]; omega), hst]
    rfl
  have hwin : ({ s.cur.win with base := b, frame := f, stack := rest, popPending := false, popRead := none } : Window) =
      s.cur.win.leftTo b f := by
    simp [Window.leftTo, hst, hb, hlo]
  rw [execWleave_pops h (by simp [hst]) hb (by simp [hr]), hpop, hwin]
  dsimp only
  rw [if_neg (by rw [Bool.and_eq_true, decide_eq_true_eq, decide_eq_true_eq]; omega)]
  exact becomes_setCtx hs _

theorem becomes_wleave_waits (hs : Acting s) (h : s.cur.windowLegal) (hn : 0 < s.cur.nwaves) (hd : 16 < s.cur.win.stack.length)
    (hb : s.cur.win.popBad = none) (hp : s.cur.win.popPending = true) (hread : s.cur.win.popRead = none) :
    Becomes s (s.cur.stall .window) (execWleave s) := by
  have hpop : s.cur.win.popped (decide (0 < s.cur.nwaves)) = none := by simp [Window.popped, hn, hd, hread]
  rw [execWleave_pops h (by intro he; simp [he] at hd) hb (fun _ => hp), hpop]
  exact becomes_setCtx hs _

theorem windowMoves_wleave (hs : Acting s) (h : s.cur.windowLegal) {b f : Nat} (he : s.cur.win.stack ≠ []) (hb : s.cur.win.popBad = none)
    (hpop : if 0 < s.cur.nwaves ∧ 16 < s.cur.win.stack.length then s.cur.win.popPending = true ∧ s.cur.win.popRead = some (b, f)
      else s.cur.win.stack.head? = some (b, f))
    (hbusy : s.cur.em.seq.busy = false) (hnd : (s.roleWaves s.curCtx).Nodup) (hlt : ∀ v ∈ s.roleWaves s.curCtx, v < s.waves.length) :
    ∃ t, execWleave s = .next t ∧ WindowMoves s t
      (stepped 4 { s.cur with win := s.cur.win.leftTo b f })
      (if 0 < s.cur.nwaves ∧ b < s.cur.win.lo then
        (List.range (s.roleWaves s.curCtx).length).map fun i => (i, .reload b s.cur.win.lo none) else []) := by
  have hr : s.cur.readsEntry = true → s.cur.win.popPending = true := by
    intro hr
    rw [if_pos (by simpa [Context.readsEntry] using hr)] at hpop
    exact hpop.1
  have hp : s.cur.win.popped (decide (0 < s.cur.nwaves)) = some (b, f) := by
    unfold Window.popped
    by_cases hc : 0 < s.cur.nwaves ∧ 16 < s.cur.win.stack.length
    · rw [if_pos hc] at hpop
      rw [if_pos (by simpa using hc), hpop.2]
    · rw [if_neg hc] at hpop
      rw [if_neg (by simpa using hc), hpop]
  rw [execWleave_pops h he hb hr, hp]
  dsimp only
  by_cases hgo : 0 < s.cur.nwaves ∧ b < s.cur.win.lo
  · rw [if_pos hgo, if_pos (by simpa using hgo)]
    exact ⟨_, rfl, windowMoves_pushTransfer hs (c := stepped 4 { s.cur with win := _ }) rfl hbusy hnd hlt _⟩
  · rw [if_neg hgo, if_neg (by simpa using hgo)]
    have hm := windowMoves_pushTransfers hs (c := stepped 4 { s.cur with win := s.cur.win.leftTo b f }) rfl hbusy (l := []) (by simp) (by simp)
    rw [run_pushTransfers (by simpa [show s.curCtx < s.ctxs.length from hs, stepped] using hbusy)] at hm
    exact ⟨_, rfl, hm⟩

theorem windowMoves_wleave_asks (hs : Acting s) (h : s.cur.windowLegal) (hn : 0 < s.cur.nwaves) (hd : 16 < s.cur.win.stack.length)
    (hb : s.cur.win.popBad = none) (hp : s.cur.win.popPending = false) (hbusy : s.cur.em.seq.busy = false) {v : Nat} {rest : List Nat}
    (hv : s.roleWaves s.curCtx = v :: rest) (hlt : v < s.waves.length) :
    ∃ t, execWleave s = .next t ∧ WindowMoves s t ({ s.cur with win := { s.cur.win with popPending := true } }.stall .window)
      [(0, .reload 0 0 (some (s.cur.win.stack.length - 1)))] := by
  rw [execWleave_asks h (by intro he; simp [he] at hd) hb (by simp [Context.readsEntry, hn, hd]) hp]
  refine ⟨_, rfl, windowMoves_pushTransfers hs (c := Context.stall { s.cur with win := _ } .window) rfl hbusy (by simp [hv]) ?_⟩
  simpa [hv] using hlt

end

/-! ### The data-poison trap of a WLEAVE -/

/-- A trap in user mode with a handler: its context enters the handler (R164), and only waves change beside it. -/
theorem takeTrap_user {s : State} {log : List Effect} {k : Nat} (hk : k < s.ctxs.length) (pc epc : Word) (bnd : Bool) (r : TrapRecord)
    (hu : ((after s log).ctx k).mode = .user) (ht : ((after s log).dctx ((after s log).ctx k).ctxid).desc.tvec ≠ 0) :
    SameBut [.ctxs, .waves] (after s log) (after s (takeTrap k pc epc bnd r s log).2) ∧
      (after s (takeTrap k pc epc bnd r s log).2).ctx k =
        ((after s log).ctx k).enterHandler ((after s log).dctx ((after s log).ctx k).ctxid).desc.tvec pc epc bnd r := by
  unfold takeTrap
  rw [run_bind_now]
  rw [if_neg (by simpa [hu] using ht), run_bind, run_setCtx]
  have hrest (c : Context) : Only [.waves] (each ((after s log).gang ((after s log).wg ((after s log).ctx k).wg).gang).wgs fun g =>
      each ((after s log).wg g).waves fun v => modWave v fun w => w.enterHandler k) :=
    Only.each fun g => Only.each fun v => Only.modWave (by simp) v _
  generalize hc : ((after s log).ctx k).enterHandler ((after s log).dctx ((after s log).ctx k).ctxid).desc.tvec pc epc bnd r = c
  have hsame := (hrest c).sameBut s (.ctx k c :: log)
  refine ⟨sameBut_trans (by simpa using sameBut_apply (e := .ctx k c) (by simp) (after s log)) (hsame.mono (by simp)), ?_⟩
  rw [hsame.ctx (by simp)]
  simp [ctxs_length_after, hk]

theorem wleave_poison_traps {s : State} (hs : Acting s) (h : s.cur.windowLegal) (he : s.cur.win.stack ≠ []) {va : Word}
    (hb : s.cur.win.popBad = some va) (hu : s.cur.mode = .user) (ht : (s.dctx s.cur.ctxid).desc.tvec ≠ 0) :
    ∃ t, execWleave s = .next t ∧ t.cur = { s.cur with win := { s.cur.win with popPending := false, popBad := none } }.enterHandler
      (s.dctx s.cur.ctxid).desc.tvec s.cur.pc s.cur.pc false (accessRecord 18 va 5) := by
  rw [execWleave_poisoned h he hb]
  let c : Context := { s.cur with win := { s.cur.win with popPending := false, popBad := none } }
  have hc : (after s [.ctx s.curCtx c]).ctx s.curCtx = c := by simp [show s.curCtx < s.ctxs.length from hs]
  obtain ⟨hsame, hctx⟩ := takeTrap_user (s := s) (log := [.ctx s.curCtx c]) hs c.pc c.pc false (accessRecord 18 va 5)
    (by rw [hc]; exact hu) (by rw [hc]; exact ht)
  rw [hc] at hctx
  have hrun : (do
      setCtx s.curCtx c
      trapNow (accessRecord 18 va 5) : Act Unit) s [] = takeTrap s.curCtx c.pc c.pc false (accessRecord 18 va 5) s [.ctx s.curCtx c] := by
    rw [run_bind, run_setCtx, trapNow, run_bind_now]
    rw [show (after s [.ctx s.curCtx c]).curCtx = s.curCtx from rfl, hc]
  refine ⟨_, rfl, ?_⟩
  show (after s _).cur = _
  rw [hrun, State.cur, hsame.curCtx (by simp)]
  exact hctx

/-- Settles O19: each case of WENTER and WLEAVE is one branch of the word, and a transfer goes behind the words of each wave of the role. -/
theorem registerWindow : Obligations.RegisterWindow := by
  intro s n hs
  have hiff : s.cur.windowLegal ↔ ¬ (s.cur.em.capOpen = true ∨ s.cur.chainOpen = true) := Iff.rfl
  simp only [exec_wenter, exec_wleave]
  refine ⟨fun ho => ⟨execWenter_open (not_not.mpr ho), execWleave_open (not_not.mpr ho)⟩,
    fun h hf hw hd hp => becomes_wenter hs h hf hw hd hp, ?_, ?_, fun h hf hw hd => execWenter_deep h hf hw hd, ?_,
    fun h hn hd hb hp hread => becomes_wleave_waits hs h hn hd hb hp hread, ?_, fun h he => execWleave_empty h he,
    fun b f rest h hst hd hlo hb => becomes_wleave hs h hst hd hlo hb, ?_, fun h hf hn hw => execWenter_wide h hf hn hw⟩
  · intro h hf hn hw hsp hroom hd hp hbusy hnd hlt
    have hspills : s.cur.spills (32 * n.toNat) = true := (spills_iff _ _).mpr ⟨hn, hsp⟩
    obtain ⟨t, ht, hm⟩ := windowMoves_wenter hs h hf hn hw (by omega) hp (fun _ => hroom) (.inl hspills) hbusy hnd hlt rfl
    have hdeep : ¬ 16 ≤ s.cur.win.stack.length := by omega
    simp only [hspills, if_true, hdeep, decide_false, Bool.and_false, Bool.false_eq_true, if_false] at hm
    obtain ⟨hall, hrest⟩ := hm.all
    refine ⟨t, ht, hm.frame, hm.others, hm.cur, fun v hv => ?_, hrest⟩
    obtain ⟨i, hi⟩ := List.mem_iff_getElem?.mp hv
    exact hall i v hi
  · intro h hf hn hw hroom hd16 hd80 hp hbusy hnd hlt
    have hlo : (if s.cur.width < s.cur.win.base + s.cur.win.frame + 32 * n.toNat - s.cur.win.lo then
        s.cur.win.base + s.cur.win.frame + 32 * n.toNat - s.cur.width else s.cur.win.lo)
        = if s.cur.spills (32 * n.toNat) then s.cur.windowTop (32 * n.toNat) - s.cur.width else s.cur.win.lo := by
      simp only [spills_iff, hn, true_and]
      rfl
    obtain ⟨t, ht, hm⟩ := windowMoves_wenter hs h hf hn hw hd80 hp
      (fun hsp => hroom ((spills_iff _ _).mp hsp).2) (.inr hd16) hbusy hnd hlt hlo
    simp only [hd16, decide_true, Bool.and_true, beq_iff_eq] at hm
    obtain ⟨hall, hrest⟩ := hm.all
    exact ⟨t, ht, hm.frame, hm.others, hm.cur, hall, hrest⟩
  · intro h hn hd hb hp hbusy v rest hv hlt
    obtain ⟨t, ht, hm⟩ := windowMoves_wleave_asks hs h hn hd hb hp hbusy hv hlt
    refine ⟨t, ht, hm.frame, hm.others, hm.cur, hm.listed _ List.mem_cons_self v (by simp [hv]), fun u hu => hm.unlisted u ?_⟩
    simpa [hv] using hu
  · intro b f h he hb hpop hbusy hnd hlt
    obtain ⟨t, ht, hm⟩ := windowMoves_wleave hs h he hb hpop hbusy hnd hlt
    refine ⟨t, ht, hm.frame, hm.others, hm.cur, ?_⟩
    by_cases hgo : 0 < s.cur.nwaves ∧ b < s.cur.win.lo
    · simp only [if_pos hgo] at hm ⊢
      obtain ⟨hall, hrest⟩ := hm.all
      refine ⟨fun v hv => ?_, hrest⟩
      obtain ⟨i, hi⟩ := List.mem_iff_getElem?.mp hv
      exact hall i v hi
    · simp only [if_neg hgo] at hm ⊢
      exact ⟨fun v _ => hm.unlisted v (by simp), fun v _ => hm.unlisted v (by simp)⟩
  · intro va h he hb hu ht
    obtain ⟨t, hnext, hc⟩ := wleave_poison_traps hs h he hb hu ht
    refine ⟨t, hnext, ?_⟩
    rw [hc]
    exact ⟨rfl, rfl, rfl, rfl, rfl, rfl⟩

end Sys2Proof.Machine
end

section
/-! # Memory errors, failing clusters and ports, and reset -/
namespace Sys2Proof.Machine

/-! ### Events held for the driver (R310, R430) -/

theorem sized_after {s : State} (h : s.sized) (log : List Effect) : (after s log).sized :=
  applyAll_keeps (fun e _ _ ht => sized_apply e ht) h

/-- The last event that the core holds for the partition has the kind, unless it holds 4096 and counts the rest. -/
def State.lastHeld (t : State) (part kind : Nat) : Prop :=
  (t.part part).held.getLast?.map (·.kind) = some kind ∨ 4096 ≤ (t.part part).held.length

theorem part_raiseEvent {s : State} (h : s.sized) {part : Nat} (hp : part < 16) (kind ctxid cls num : Nat) (d0 d1 : Word)
    (log : List Effect) : (after s (raiseEvent part kind ctxid cls num d0 d1 s log).2).part part =
      (if ((after s log).part part).held.length < 4096 then
        { (after s log).part part with held := ((after s log).part part).held ++
            [{ kind := kind, ctxid := ctxid, cls := cls, num := num, time := (after s log).dev.time, d0 := d0, d1 := d1 }] }
      else
        { (after s log).part part with
            discarded := ((after s log).part part).discarded + 1, discardMask := ((after s log).part part).discardMask ||| 2 ^ kind }) := by
  obtain ⟨-, -, -, -, -, -, hparts, -⟩ := sized_after h log
  unfold raiseEvent postEvent
  rw [run_bind_now, run_modPart, after_cons, part_apply_part, if_pos ⟨rfl, by omega⟩]

theorem lastHeld_raiseEvent {s : State} (h : s.sized) {part : Nat} (hp : part < 16) (kind ctxid cls num : Nat) (d0 d1 : Word)
    (log : List Effect) : (after s (raiseEvent part kind ctxid cls num d0 d1 s log).2).lastHeld part kind := by
  unfold State.lastHeld
  rw [part_raiseEvent h hp]
  split
  · exact .inl (by simp)
  · next hfull => exact .inr (Nat.le_of_not_lt hfull)

/-! ### DEVICE_RESET -/

/-! ### CORRECTED_ERROR -/

/-- A vault that has counted one more corrected error of a row. -/
def Vault.withError (v : Vault) (row time : Nat) : Vault :=
  { v with ce := min (v.ce + 1) 65535, errors := (row, time) :: v.errors.filter fun e => time < e.2 + dayNs }

theorem errorsOf_withError (v : Vault) (row time : Nat) : (v.withError row time).errorsOf row time = v.errorsOf row time + 1 := by
  have hday : time < time + dayNs := Nat.lt_add_of_pos_right (by decide)
  have hsame : (v.errors.filter fun e => decide (time < e.2 + dayNs)).filter (fun e => e.1 == row && decide (time < e.2 + dayNs))
      = v.errors.filter fun e => e.1 == row && decide (time < e.2 + dayNs) := by
    rw [List.filter_filter]
    exact congrArg (v.errors.filter ·) (funext fun e => by simp)
  simp [Vault.errorsOf, Vault.withError, hday, hsame]

/-- The spare rows of a layer that are in use or that a copy under way will use. -/
def Vault.sparesUsed (v : Vault) (layer : Nat) : Nat :=
  v.spares.getD layer 0 + (v.remapping.filter fun r => layerOf r.1 == layer).length

@[simp] theorem sparesUsed_withError (v : Vault) (row time layer : Nat) :
    (v.withError row time).sparesUsed layer = v.sparesUsed layer := rfl

section
variable {s : State} {v row : Nat}

/-- The state once the error is counted. -/
def State.counted (s : State) (v row : Nat) : State := Effect.apply s (.vault v ((s.vault v).withError row s.dev.time))

theorem vault_counted (hs : s.sized) (hv : v < 128) (j : Nat) :
    (s.counted v row).vault j = if j = v then (s.vault v).withError row s.dev.time else s.vault j := by
  obtain ⟨-, -, -, -, hvaults, -⟩ := hs
  simp [State.counted, hvaults, hv]

/-- What follows the count, on a vault that has counted the error. -/
def remapIfDue (v row time : Nat) (x : Vault) : Act Unit :=
  if 4 ≤ x.errorsOf row time && !x.remapping.any (·.1 == row) then
    if x.sparesUsed (layerOf row) < 64 then modVault v fun y => { y with remapping := y.remapping ++ [(row, time)] }
    else raiseEvent 0 5 0 1 v 0 0
  else pure ()

theorem happens_correctedError (hs : s.sized) (hv : v < 128) {P : State → Prop}
    (h : P (after s (remapIfDue v row s.dev.time ((s.vault v).withError row s.dev.time) s
      [.vault v ((s.vault v).withError row s.dev.time)]).2)) : Happens (execCorrectedError v row s) P := by
  have hrun : execCorrectedError v row s = .next (after s (remapIfDue v row s.dev.time ((s.counted v row).vault v) s
      [.vault v ((s.vault v).withError row s.dev.time)]).2) := rfl
  rw [vault_counted hs hv, if_pos rfl] at hrun
  exact ⟨_, hrun, h⟩

theorem remapIfDue_not {v row time : Nat} {x : Vault} (h : x.errorsOf row time < 4 ∨ ∃ r ∈ x.remapping, r.1 = row) :
    remapIfDue v row time x = pure () := by
  refine if_neg fun hc => ?_
  rw [Bool.and_eq_true, decide_eq_true_eq, Bool.not_eq_true', List.any_eq_false] at hc
  rcases h with h | ⟨r, hr, hrow⟩
  · omega
  · exact hc.2 r hr (beq_iff_eq.mpr hrow)

theorem remapIfDue_due {v row time : Nat} {x : Vault} (h : 4 ≤ x.errorsOf row time) (hn : ∀ r ∈ x.remapping, r.1 ≠ row) :
    remapIfDue v row time x =
      if x.sparesUsed (layerOf row) < 64 then modVault v fun y => { y with remapping := y.remapping ++ [(row, time)] }
      else raiseEvent 0 5 0 1 v 0 0 := by
  refine if_pos ?_
  rw [Bool.and_eq_true, decide_eq_true_eq, Bool.not_eq_true', List.any_eq_false]
  exact ⟨h, fun r hr hc => hn r hr (beq_iff_eq.mp hc)⟩

/-- The error is counted and nothing else happens. -/
theorem correctedError_counts (hs : s.sized) (hv : v < 128)
    (h : (s.vault v).errorsOf row s.dev.time + 1 < 4 ∨ ∃ r ∈ (s.vault v).remapping, r.1 = row) :
    execCorrectedError v row s = .next (s.counted v row) := by
  obtain ⟨t, hrun, rfl⟩ := happens_correctedError (P := fun t => t = _) (row := row) hs hv rfl
  rw [remapIfDue_not (by rwa [errorsOf_withError])] at hrun
  exact hrun

/-- The fourth error of a row has it copied to a spare. -/
theorem correctedError_remaps (hs : s.sized) (hv : v < 128) (h4 : 4 ≤ (s.vault v).errorsOf row s.dev.time + 1)
    (hn : ∀ r ∈ (s.vault v).remapping, r.1 ≠ row) (hu : (s.vault v).sparesUsed (layerOf row) < 64) :
    execCorrectedError v row s = .next (Effect.apply (s.counted v row) (.vault v
      { (s.vault v).withError row s.dev.time with remapping := (s.vault v).remapping ++ [(row, s.dev.time)] })) := by
  obtain ⟨t, hrun, rfl⟩ := happens_correctedError (P := fun t => t = _) (row := row) hs hv rfl
  rw [remapIfDue_due (x := (s.vault v).withError row s.dev.time) (by rwa [errorsOf_withError]) hn, sparesUsed_withError, if_pos hu, run_modVault] at hrun
  rw [hrun, after_cons]
  exact congrArg (fun x : Vault => Host.Outcome.next (Effect.apply (s.counted v row)
    (.vault v { x with remapping := x.remapping ++ [(row, s.dev.time)] }))) ((vault_counted hs hv v).trans (if_pos rfl))

/-- No spare row is left in the layer: the driver is told. -/
theorem correctedError_tells (hs : s.sized) (hv : v < 128) (h4 : 4 ≤ (s.vault v).errorsOf row s.dev.time + 1)
    (hn : ∀ r ∈ (s.vault v).remapping, r.1 ≠ row) (hu : 64 ≤ (s.vault v).sparesUsed (layerOf row)) :
    execCorrectedError v row s = .next (after s (raiseEvent 0 5 0 1 v 0 0 s [.vault v ((s.vault v).withError row s.dev.time)]).2) := by
  obtain ⟨t, hrun, rfl⟩ := happens_correctedError (P := fun t => t = _) (row := row) hs hv rfl
  rw [remapIfDue_due (x := (s.vault v).withError row s.dev.time) (by rwa [errorsOf_withError]) hn, sparesUsed_withError,
    if_neg (Nat.not_lt.mpr hu)] at hrun
  exact hrun

theorem sameBut_counted (s : State) (v row : Nat) : SameBut [.vaults] s (s.counted v row) :=
  sameBut_apply (by simp) s

theorem correctedError_clause (hs : s.sized) (hv : v < 128) : Happens (execCorrectedError v row s) fun t =>
    SameBut [.vaults, .parts] s t ∧ (t.vault v).ce = min ((s.vault v).ce + 1) 65535 ∧ (∀ j, j ≠ v → t.vault j = s.vault j) ∧
      let n := (s.vault v).errorsOf row s.dev.time + 1
      (n < 4 → (t.vault v).remapping = (s.vault v).remapping ∧ t.parts = s.parts) ∧
      (4 ≤ n → (∀ x ∈ (s.vault v).remapping, x.1 ≠ row) →
        ((s.vault v).sparesUsed (layerOf row) < 64 →
          (t.vault v).remapping = (s.vault v).remapping ++ [(row, s.dev.time)] ∧ t.parts = s.parts) ∧
        (64 ≤ (s.vault v).sparesUsed (layerOf row) → (t.vault v).remapping = (s.vault v).remapping ∧ t.lastHeld 0 5)) := by
  have hcv := (vault_counted (row := row) hs hv v).trans (if_pos rfl)
  have hco : ∀ j, j ≠ v → (s.counted v row).vault j = s.vault j := fun j hj => (vault_counted hs hv j).trans (if_neg hj)
  have hsame : SameBut [.vaults, .parts] s (s.counted v row) := (sameBut_counted s v row).mono (by simp)
  by_cases hdone : (s.vault v).errorsOf row s.dev.time + 1 < 4 ∨ ∃ r ∈ (s.vault v).remapping, r.1 = row
  · refine ⟨_, correctedError_counts hs hv hdone, hsame, (congrArg Vault.ce hcv :), hco, fun _ => ⟨(congrArg Vault.remapping hcv :), rfl⟩,
      fun h4 hn => ?_⟩
    rcases hdone with hlt | ⟨r, hr, hrow⟩
    · omega
    · exact absurd hrow (hn r hr)
  · obtain ⟨h4, hn⟩ : 4 ≤ (s.vault v).errorsOf row s.dev.time + 1 ∧ ∀ r ∈ (s.vault v).remapping, r.1 ≠ row :=
      ⟨by omega, fun r hr hrow => hdone (.inr ⟨r, hr, hrow⟩)⟩
    by_cases hu : (s.vault v).sparesUsed (layerOf row) < 64
    · have hlen : v < (s.counted v row).vaults.length := by
        obtain ⟨-, -, -, -, hvaults, -⟩ := sized_apply (.vault v ((s.vault v).withError row s.dev.time)) hs
        exact hvaults.symm ▸ hv
      refine ⟨_, correctedError_remaps hs hv h4 hn hu, sameBut_trans hsame (sameBut_apply (by simp) _), ?_, fun j hj => ?_,
        fun h => by omega, fun _ _ => ⟨fun _ => ⟨?_, rfl⟩, fun h => by omega⟩⟩
      · rw [vault_apply_vault, if_pos ⟨rfl, hlen⟩]
        rfl
      · rw [vault_apply_vault, if_neg (fun h => hj h.1), hco j hj]
      · rw [vault_apply_vault, if_pos ⟨rfl, hlen⟩]
    · have hframe := (Only.raiseEvent (F := [.parts]) (by simp) 0 5 0 1 v 0 0).sameBut s
        [.vault v ((s.vault v).withError row s.dev.time)]
      have hvault := hframe.vault (by decide)
      refine ⟨_, correctedError_tells hs hv h4 hn (by omega), sameBut_trans hsame (hframe.mono (by simp)), ?_, fun j hj => ?_,
        fun h => by omega, fun _ _ => ⟨fun h => absurd h hu, fun _ => ⟨?_, lastHeld_raiseEvent hs (by omega) ..⟩⟩⟩
      · exact (congrArg Vault.ce ((congrFun hvault v).trans hcv) :)
      · exact (congrFun hvault j).trans (hco j hj)
      · exact (congrArg Vault.remapping ((congrFun hvault v).trans hcv) :)
end

/-! ### ROW_REMAP_DONE -/

/-- What follows from a frame, a program within the frame keeps. -/
theorem Only.keeps {F : List Field} {α : Type} {a : Act α} (h : Only F a) {P : State → Prop} (hP : ∀ s t, SameBut F s t → P s → P t) :
    Keeps P a := fun s log hp => hP _ _ (h.sameBut s log) hp

/-- The core holds an event of the kind for the partition, or 4096 events. -/
def State.told (t : State) (part kind : Nat) : Prop :=
  (∃ e ∈ (t.part part).held, e.kind = kind) ∨ 4096 ≤ (t.part part).held.length

theorem told_of_lastHeld {t : State} {part kind : Nat} (h : t.lastHeld part kind) : t.told part kind := by
  refine h.imp_left fun hlast => ?_
  obtain ⟨e, he, hk⟩ := Option.map_eq_some_iff.mp hlast
  exact ⟨e, List.mem_of_getLast? he, hk⟩

theorem told_of_sameBut {F : List Field} (hF : Field.parts ∉ F) {s t : State} (h : SameBut F s t) {part kind : Nat} (hs : s.told part kind) :
    t.told part kind := by
  unfold State.told
  rwa [h.part hF]

/-- An event that comes later takes none away. -/
theorem keeps_told_raiseEvent (p part kind k ctxid cls num : Nat) (d0 d1 : Word) :
    Keeps (State.told · p kind) (raiseEvent part k ctxid cls num d0 d1) := by
  refine Keeps.readNow fun t _ s log hp => ?_
  unfold postEvent
  rw [run_modPart, after_cons]
  unfold State.told at hp ⊢
  rw [part_apply_part]
  split
  · next hpart =>
    rw [← hpart.1]
    split
    · exact hp.imp (fun ⟨e, he, hk⟩ => ⟨e, List.mem_append_left _ he, hk⟩) fun h => by simp; omega
    · exact hp
  · exact hp

theorem keeps_told_flushFaults (p kind ctxid : Nat) : Keeps (State.told · p kind) (flushFaults ctxid) := by
  have hwrite (n : Nat) : Keeps (State.told · p kind) (writeFault ctxid n) :=
    (Only.writeFault (F := [.dev, .mem, .badDram, .badSram, .clusters, .dies, .links, .devs]) (by simp) (by simp) (by simp) (by simp)
      (by simp) (by simp) (by simp) (by simp) ctxid n).keeps fun _ _ h => told_of_sameBut (by decide) h
  have hmark : Keeps (State.told · p kind) (modDctx ctxid fun d => { d with fullRaised := true }) :=
    (Only.modDctx (F := [.devs]) (by simp) _ _).keeps fun _ _ h => told_of_sameBut (by decide) h
  refine Keeps.readNow fun t _ => Keeps.each fun n _ => Keeps.readNow fun u _ => Keeps.ite (Keeps.pure _) (Keeps.ite ?_ (Keeps.ite (Keeps.pure _) ?_))
  · exact Keeps.readNow fun w _ => Keeps.ite (Keeps.pure _) (hwrite n)
  · exact Keeps.bind (keeps_told_raiseEvent p _ kind _ _ _ _ _ _) fun _ => hmark

theorem keeps_told_afterRemap (p kind : Nat) : Keeps (State.told · p kind) afterRemap := by
  refine Keeps.readNow fun t _ => Keeps.each fun d _ => Keeps.bind (keeps_told_flushFaults p kind _) fun _ => Keeps.each fun n _ => ?_
  exact (Only.sealFull (F := [.dev, .mem, .badDram, .badSram, .clusters, .dies, .links, .devs]) (by simp) (by simp) (by simp) (by simp)
    (by simp) (by simp) (by simp) (by simp) _ _).keeps fun _ _ h => told_of_sameBut (by decide) h

/-- A loop whose every round leaves no effect leaves none. -/
theorem each_silent {α : Type} {l : List α} {f : α → Act Unit} {s : State} {log : List Effect} (h : ∀ x ∈ l, (f x s log).2 = log) :
    (each l f s log).2 = log := by
  induction l with
  | nil => rfl
  | cons x l ih =>
    have hx := h x List.mem_cons_self
    have hrun : (each (x :: l) f s log).2 = (each l f s (f x s log).2).2 := rfl
    rw [hrun, hx]
    exact ih fun y hy => h y (List.mem_cons_of_mem _ hy)

/-- No fault record waits for a slot of its ring, and no node has an open batch. -/
def State.nothingWaits (s : State) : Prop := ∀ d ∈ s.devs, (∀ r ∈ d.faults, r.posted = true) ∧ ∀ n ∈ d.nodes, n.opened = none

theorem dctx_cases (s : State) (id : Nat) : s.dctx id ∈ s.devs ∨ s.dctx id = DevCtx.blank := by
  unfold State.dctx
  split
  · next i hi =>
    have hlt : i < s.devs.length := (List.findIdx?_eq_some_iff_getElem.mp hi).1
    exact .inl (by simp [State.devAt, hlt])
  · exact .inr rfl

theorem nothingWaits_dctx {s : State} (h : s.nothingWaits) (id : Nat) :
    (∀ r ∈ (s.dctx id).faults, r.posted = true) ∧ ∀ n ∈ (s.dctx id).nodes, n.opened = none := by
  rcases dctx_cases s id with hd | hd
  · exact h _ hd
  · rw [hd]
    exact ⟨fun r hr => absurd hr List.not_mem_nil, fun n hn => absurd hn List.not_mem_nil⟩

theorem flushFaults_silent {s : State} {log : List Effect} (h : (after s log).nothingWaits) (id : Nat) : (flushFaults id s log).2 = log := by
  have hnone : ((after s log).dctx id).faults.filter (! ·.posted) = [] :=
    List.filter_eq_nil_iff.mpr fun r hr => by simp [(nothingWaits_dctx h id).1 r hr]
  unfold flushFaults
  rw [run_bind_now, hnone]
  rfl

theorem sealFull_silent {s : State} {log : List Effect} (h : (after s log).nothingWaits) (id n : Nat) : (sealFull id n s log).2 = log := by
  unfold sealFull
  rw [run_bind_now]
  cases hnd : ((after s log).dctx id).node n with
  | none => rfl
  | some nd =>
    dsimp only
    rw [(nothingWaits_dctx h id).2 nd (List.mem_of_find?_eq_some hnd)]
    rfl

theorem afterRemap_silent {s : State} {log : List Effect} (h : (after s log).nothingWaits) : (afterRemap s log).2 = log := by
  refine each_silent fun d _ => ?_
  rw [run_bind, flushFaults_silent h]
  exact each_silent fun n _ => sealFull_silent h _ _

section
variable {s : State} {v row : Nat}

/-- A vault whose row stands in its spare. -/
def Vault.remapped (x : Vault) (row : Nat) : Vault :=
  { x with
    remapping := x.remapping.filter (·.1 != row), errors := x.errors.filter (·.1 != row)
    spares := x.spares.modify (layerOf row) (· + 1) }

/-- The effects of ROW_REMAP_DONE before what waited goes on. -/
def remapLog (s : State) (v row : Nat) : List Effect :=
  (raiseEvent 0 4 0 1 v 0 0 s [.vault v ((s.vault v).remapped row)]).2

theorem sameBut_remapLog (s : State) (v row : Nat) : SameBut [.vaults, .parts] s (after s (remapLog s v row)) :=
  sameBut_trans (t := after s [.vault v ((s.vault v).remapped row)])
    (sameBut_apply (e := .vault v ((s.vault v).remapped row)) (by simp) s)
    (((Only.raiseEvent (F := [.parts]) (by simp) 0 4 0 1 v 0 0).sameBut s _).mono (by simp))

theorem rowRemapDone_clause (hs : s.sized) (hv : v < 128) (h : ∃ x ∈ (s.vault v).remapping, x.1 = row ∧ s.dev.time ≤ x.2 + 2000) :
    Happens (execRowRemapDone v row s) fun t =>
      (∀ x ∈ (t.vault v).remapping, x.1 ≠ row) ∧ t.told 0 4 ∧ (∀ j, j ≠ v → t.vault j = s.vault j) ∧
        ((s.vault v).spares.length = 8 → (t.vault v).spares.getD (layerOf row) 0 = (s.vault v).spares.getD (layerOf row) 0 + 1) ∧
        SameBut [.vaults, .parts, .devs, .dev, .links, .mem, .badDram, .badSram, .clusters, .dies] s t ∧
        (s.nothingWaits → SameBut [.vaults, .parts] s t) := by
  obtain ⟨x, hx, hrow, htime⟩ := h
  have hok : ((s.vault v).remapping.any fun r => r.1 == row && decide (s.dev.time ≤ r.2 + 2000)) = true :=
    List.any_eq_true.mpr ⟨x, hx, by simp [hrow, htime]⟩
  refine ⟨after s (afterRemap s (remapLog s v row)).2, event_eq hok _, ?_⟩
  have hafter := (Only.afterRemap (F := [.devs, .dev, .links, .mem, .badDram, .badSram, .clusters, .dies, .parts]) (by simp) (by simp)
    (by simp) (by simp) (by simp) (by simp) (by simp) (by simp) (by simp)).sameBut s (remapLog s v row)
  have hvault (j : Nat) : (after s (afterRemap s (remapLog s v row)).2).vault j =
      if j = v then (s.vault v).remapped row else s.vault j := by
    obtain ⟨-, -, -, -, hvaults, -⟩ := hs
    have hevent := (Only.raiseEvent (F := [.parts]) (by simp) 0 4 0 1 v 0 0).sameBut s [.vault v ((s.vault v).remapped row)]
    rw [hafter.vault (by decide)]
    refine (congrFun (hevent.vault (by decide)) j).trans ?_
    simp [hvaults, hv]
  refine ⟨?_, ?_, fun j hj => (hvault j).trans (if_neg hj), fun hlen => ?_, ?_, fun hw => ?_⟩
  · rw [hvault, if_pos rfl]
    intro y hy
    simpa using (List.mem_filter.mp hy).2
  · exact keeps_told_afterRemap 0 4 s _ (told_of_lastHeld (lastHeld_raiseEvent hs (by omega) ..))
  · rw [hvault, if_pos rfl]
    have hl : layerOf row < (s.vault v).spares.length := hlen.symm ▸ Nat.mod_lt _ (by decide)
    simp [Vault.remapped, hl]
  · exact sameBut_trans ((sameBut_remapLog s v row).mono (by simp)) (hafter.mono (by simp))
  · have hquiet : (after s (remapLog s v row)).nothingWaits := by
      unfold State.nothingWaits
      rwa [(sameBut_remapLog s v row).devs (by decide)]
    exact (congrArg (SameBut [.vaults, .parts] s <| after s ·) (afterRemap_silent hquiet)).mpr (sameBut_remapLog s v row)

theorem rowRemapDone_idle (h : ∀ x ∈ (s.vault v).remapping, x.1 = row → x.2 + 2000 < s.dev.time) :
    Idle "ROW_REMAP_DONE" (execRowRemapDone v row s) := by
  refine idle_event (List.any_eq_false.mpr fun x hx => ?_)
  have := h x hx
  simp
  omega
end

/-! ### UNCORRECTABLE_ERROR -/

/-- Poison that one effect leaves, and the event that tells the driver. -/
theorem happens_poison {s : State} (hs : s.sized) {r : Result} {e : Effect} {cls num addr size : Nat} {f : Field} {Q : State → Prop}
    (hrun : r = .next (after s (poisonEvent cls num addr size s [e]).2)) (he : ∀ g, e.writes g = true → g = f)
    (hQ : ∀ t, SameBut [.parts] (e.apply s) t → Q t) : Happens r fun t => Q t ∧ t.lastHeld 0 2 ∧ SameBut [f, .parts] s t := by
  have hframe := (Only.poisonEvent (F := [.parts]) (by simp) cls num addr size).sameBut s [e]
  refine ⟨_, hrun, hQ _ hframe, lastHeld_raiseEvent hs (by omega) .., ?_⟩
  exact sameBut_trans (sameBut_apply (fun g hg => by simp [he g hg]) s) (hframe.mono (by simp))

theorem mem_dedup_cons (u x : Nat) (l : List Nat) : u ∈ (x :: l).dedup ↔ u = x ∨ u ∈ l := by
  rw [List.mem_dedup, List.mem_cons]

section
variable {s : State} (hs : s.sized)
include hs

theorem uncorrectable_dram {pa loc : Nat} (hloc : dramLoc pa = some loc) : Happens (execUncorrectableError (.dram pa) s) fun t =>
    (∀ u, u ∈ t.badDram ↔ u = loc / 64 ∨ u ∈ s.badDram) ∧ t.lastHeld 0 2 ∧ SameBut [.badDram, .parts] s t := by
  refine happens_poison (e := .badDram ((loc / 64 :: s.badDram).dedup)) (cls := 1) (num := vaultOf loc) (addr := pa / 64 * 64) (size := 64)
    hs ?_ (by simp) fun t ht u => ?_
  · simp only [execUncorrectableError, hloc]
    rfl
  · rw [ht.badDram (by decide)]
    exact mem_dedup_cons ..

theorem uncorrectable_sram {loc : Nat} (hloc : 2 ^ 56 ≤ loc) : Happens (execUncorrectableError (.sram loc) s) fun t =>
    (∀ u, u ∈ t.badSram ↔ u = loc / 8 ∨ u ∈ s.badSram) ∧ t.lastHeld 0 2 ∧ SameBut [.badSram, .parts] s t := by
  have hrun : ∃ num addr, execUncorrectableError (.sram loc) s =
      .next (after s (poisonEvent 0 num addr 8 s [.badSram ((loc / 8 :: s.badSram).dedup)]).2) := by
    by_cases hspad : isSpad loc = true
    · exact ⟨_, _, congrArg (commit · s) (if_pos hspad)⟩
    · have hchip : isChip loc = true := by simp [isSpad, isChip] at hspad ⊢; omega
      exact ⟨_, _, congrArg (commit · s) ((if_neg hspad).trans (if_pos hchip))⟩
  obtain ⟨num, addr, hrun⟩ := hrun
  refine happens_poison hs hrun (by simp) fun t ht u => ?_
  rw [ht.badSram (by decide)]
  exact mem_dedup_cons ..

theorem uncorrectable_vreg (c reg lane : Nat) : Happens (execUncorrectableError (.vreg c reg lane) s) fun t =>
    (∀ u, u ∈ t.badRegs ↔ u = c * 2 ^ 19 + reg * 64 + lane ∨ u ∈ s.badRegs) ∧ t.lastHeld 0 2 ∧ SameBut [.badRegs, .parts] s t := by
  refine happens_poison (e := .badRegs (((c * 2 ^ 19 + reg * 64 + lane) :: s.badRegs).dedup)) hs rfl (by simp) fun t ht u => ?_
  rw [ht.badRegs (by decide)]
  exact mem_dedup_cons ..

theorem uncorrectable_acc (c reg el : Nat) : Happens (execUncorrectableError (.acc c reg el) s) fun t =>
    (∀ u, u ∈ t.badAccs ↔ u = c * 2 ^ 19 + reg * 2 ^ 14 + el ∨ u ∈ s.badAccs) ∧ t.lastHeld 0 2 ∧ SameBut [.badAccs, .parts] s t := by
  refine happens_poison (e := .badAccs (((c * 2 ^ 19 + reg * 16384 + el) :: s.badAccs).dedup)) hs rfl (by simp) fun t ht u => ?_
  rw [ht.badAccs (by decide)]
  exact mem_dedup_cons ..

theorem uncorrectable_pred {w : Nat} (hw : w < 1024) (p : Nat) : Happens (execUncorrectableError (.pred w p) s) fun t =>
    (∀ u, u ∈ (t.wave w).badPreds ↔ u = p ∨ u ∈ (s.wave w).badPreds) ∧ t.lastHeld 0 2 ∧ SameBut [.waves, .parts] s t := by
  refine happens_poison (e := .wave w { s.wave w with badPreds := (p :: (s.wave w).badPreds).dedup }) hs rfl (by simp) fun t ht u => ?_
  obtain ⟨-, hwaves, -⟩ := hs
  rw [ht.wave (by decide), wave_apply_wave, if_pos ⟨rfl, by omega⟩]
  exact mem_dedup_cons ..

theorem uncorrectable_loft {c line unit : Nat} {x : LoftLine} (hc : c < 32) (hx : (s.cluster c).loft[line]? = some x) (hu : unit < 8) :
    Happens (execUncorrectableError (.loft c line unit) s) fun t =>
      (∃ y, (t.cluster c).loft[line]? = some y ∧ y.ctx = x.ctx ∧ y.line = x.line ∧ ∀ u, u ∈ y.bad ↔ u = unit ∨ u ∈ x.bad) ∧
        t.lastHeld 0 2 ∧ SameBut [.clusters, .parts] s t := by
  have hok : (decide (line < (s.cluster c).loft.length) && decide (unit < 8)) = true := by
    have := (List.getElem?_eq_some_iff.mp hx).1
    simp [this, hu]
  refine happens_poison (e := .cluster c { s.cluster c with
      loft := (s.cluster c).loft.modify line fun l => { l with bad := (unit :: l.bad).dedup } })
    hs (congrArg (commit · s) (if_pos hok)) (by simp) fun t ht => ?_
  obtain ⟨-, -, hclusters, -⟩ := hs
  refine ⟨{ x with bad := (unit :: x.bad).dedup }, ?_, rfl, rfl, fun u => mem_dedup_cons ..⟩
  rw [ht.cluster (by decide), cluster_apply_cluster, if_pos ⟨rfl, by omega⟩]
  simp [hx]

omit hs in
theorem mark_setMark (w : Workgroup) (n : Nat) (m : Watermark) (k : Nat) : (w.setMark n m).mark k = if k = n then m else w.mark k :=
  getD_putAt ..

omit hs in
theorem bound_apply_setMark {g : Nat} (hg : g < s.wgs.length) (n : Nat) (o : Option Bound) (g' n' : Nat) :
    (Effect.apply s (.wg g ((s.wg g).setMark n { (s.wg g).mark n with bound := o }))).bound g' n' =
      if g' = g ∧ n' = n then o else s.bound g' n' := by
  unfold State.bound
  rw [wg_apply_wg]
  by_cases hgg : g' = g
  · rw [if_pos ⟨hgg, hg⟩, mark_setMark, hgg]
    by_cases hnn : n' = n <;> simp [hnn]
  · simp [hgg]

/-- The bytes in flight of a segment of the landing buffer. -/
def Bound.segmentBytes (b : Bound) (seg : Nat) : List Nat :=
  (List.range (b.sent - b.count)).filterMap fun i => if (b.count + i) / 2048 = seg then some (b.count + i) else none

omit hs in
theorem mem_segmentBytes (b : Bound) (seg i : Nat) : i ∈ b.segmentBytes seg ↔ b.count ≤ i ∧ i < b.sent ∧ i / 2048 = seg := by
  simp only [Bound.segmentBytes, List.mem_filterMap, List.mem_range]
  constructor
  · rintro ⟨j, hj, hi⟩
    split at hi <;> simp at hi
    omega
  · rintro ⟨h1, h2, h3⟩
    exact ⟨i - b.count, by omega, by rw [show b.count + (i - b.count) = i by omega, if_pos h3]⟩

theorem uncorrectable_landing {g n seg : Nat} {b : Bound} (hg : g < s.wgs.length) (hb : s.bound g n = some b)
    (hcopy : b.isCopy = true) (hhit : ∃ i, b.count ≤ i ∧ i < b.sent ∧ i / 2048 = seg) :
    Happens (execUncorrectableError (.landing g n seg) s) fun t => (∃ b', t.bound g n = some b' ∧ b'.buffer = b.buffer ∧
      ∀ i, i ∈ b'.badBytes ↔ i ∈ b.badBytes ∨ (b.count ≤ i ∧ i < b.sent ∧ i / 2048 = seg)) ∧ t.lastHeld 0 2 ∧ SameBut [.wgs, .parts] s t := by
  obtain ⟨i, hi⟩ := hhit
  have hok : (b.isCopy && !(b.segmentBytes seg).isEmpty) = true := by
    simp [hcopy, List.ne_nil_of_mem ((mem_segmentBytes b seg i).mpr hi)]
  refine happens_poison (e := .wg g ((s.wg g).setMark n
      { (s.wg g).mark n with bound := some { b with badBytes := (b.segmentBytes seg ++ b.badBytes).dedup } }))
    (cls := 0) (num := (s.wg g).cluster) (addr := 0) (size := 8) hs ?_ (by simp) fun t ht => ?_
  · simp only [execUncorrectableError, hb]
    exact congrArg (commit · s) (if_pos hok)
  · refine ⟨{ b with badBytes := (b.segmentBytes seg ++ b.badBytes).dedup }, ?_, rfl, fun i => ?_⟩
    · have := bound_apply_setMark hg n (some { b with badBytes := (b.segmentBytes seg ++ b.badBytes).dedup }) g n
      rw [if_pos ⟨rfl, rfl⟩] at this
      rw [← this]
      unfold State.bound
      rw [ht.wg (by decide)]
    · rw [List.mem_dedup, List.mem_append, mem_segmentBytes]
      exact or_comm

end

/-! ### Pre-empting gangs -/

/-- A loop reaches P, which each round keeps, when one of its rounds reaches it from Q, which each round keeps. -/
theorem each_reaches {α : Type} {P Q : State → Prop} {l : List α} {f : α → Act Unit} {x : α} (hx : x ∈ l)
    (hQ : ∀ y ∈ l, Keeps Q (f y)) (hP : ∀ y ∈ l, Keeps P (f y)) (h : ∀ s log, Q (after s log) → P (after s (f x s log).2))
    (s : State) (log : List Effect) (hq : Q (after s log)) : P (after s (each l f s log).2) := by
  induction l generalizing log with
  | nil => exact absurd hx List.not_mem_nil
  | cons y l ih =>
    have hlQ := fun z hz => hQ z (List.mem_cons_of_mem y hz)
    have hlP := fun z hz => hP z (List.mem_cons_of_mem y hz)
    rcases List.mem_cons.mp hx with rfl | hx
    · exact Keeps.each hlP s _ (h s log hq)
    · exact ih hx hlQ hlP _ (hQ y List.mem_cons_self s log hq)

/-- The gang exists and has not been discarded. -/
def State.gangLives (t : State) (g : Nat) : Prop := g < t.gangs.length ∧ (t.gang g).discarded = false
/-- A gang that a trigger has reached. -/
def State.gangCaught (t : State) (g : Nat) : Prop := t.gangLives g ∧ (t.gang g).trigger.isSome = true

theorem SameBut.gangLives {F : List Field} {s t : State} (h : SameBut F s t) (hF : Field.gangs ∉ F) {g : Nat} : t.gangLives g ↔ s.gangLives g := by
  unfold State.gangLives
  rw [h.gangs hF, h.gang hF]
theorem SameBut.gangCaught {F : List Field} {s t : State} (h : SameBut F s t) (hF : Field.gangs ∉ F) {g : Nat} :
    t.gangCaught g ↔ s.gangCaught g := by
  unfold State.gangCaught
  rw [h.gangLives hF, h.gang hF]

theorem gangLives_apply_gang {t : State} {g k : Nat} {x : Gang} (hx : x.discarded = (t.gang k).discarded) :
    (Effect.apply t (.gang k x)).gangLives g ↔ t.gangLives g := by
  unfold State.gangLives
  rw [gangs_apply_gang, List.length_set, gang_apply_gang]
  split
  · next h => rw [hx, h.1]
  · exact Iff.rfl

theorem gangCaught_apply_gang {t : State} {g k : Nat} {x : Gang} (hx : x.discarded = (t.gang k).discarded) (ht : x.trigger.isSome = true)
    (h : t.gangCaught g ∨ (t.gangLives g ∧ g = k)) : (Effect.apply t (.gang k x)).gangCaught g := by
  have hl : t.gangLives g := h.elim And.left And.left
  refine ⟨(gangLives_apply_gang hx).mpr hl, ?_⟩
  rw [gang_apply_gang]
  split
  · exact ht
  · next hn => exact h.elim And.right fun hk => absurd ⟨hk.2, hk.2 ▸ hl.1⟩ hn

/-- What preemptOne does to a gang that has not been discarded. -/
theorem preemptOne_lives {s : State} {log : List Effect} {g : Nat} {t : Trigger} (h : ((after s log).gang g).discarded = false) :
    ∃ a : Act Unit, Only [.wgs] a ∧ preemptOne g t s log =
      a s (.gang g { (after s log).gang g with trigger := some (Trigger.join ((after s log).gang g).trigger t) } :: log) := by
  refine ⟨each ((after s log).gang g).wgs fun w => modWg w fun x =>
    if x.status == .running then { x with status := .saving, marks := x.marks.map markPark } else x,
    Only.each fun _ => Only.modWg (by simp) _ _, ?_⟩
  have hn : ¬ ((after s log).gang g).discarded = true := by simp [h]
  unfold preemptOne
  rw [run_bind_now]
  exact congrArg (fun a : Act Unit => a s log) (if_neg hn)

theorem preemptOne_discarded {s : State} {log : List Effect} {g : Nat} {t : Trigger} (h : ((after s log).gang g).discarded = true) :
    preemptOne g t s log = ((), log) := by
  unfold preemptOne
  rw [run_bind_now]
  exact congrArg (fun a : Act Unit => a s log) (if_pos h)

theorem keeps_gangLives_preemptOne (g k : Nat) (t : Trigger) : Keeps (State.gangLives · g) (preemptOne k t) := by
  intro s log h
  cases hd : ((after s log).gang k).discarded with
  | true => rwa [preemptOne_discarded hd]
  | false =>
    obtain ⟨a, ha, hrun⟩ := preemptOne_lives (t := t) hd
    rw [hrun, (ha.sameBut s _).gangLives (by decide), after_cons]
    refine (gangLives_apply_gang ?_).mpr h
    rfl

theorem gangCaught_preemptOne {s : State} {log : List Effect} {g k : Nat} {t : Trigger}
    (h : (after s log).gangCaught g ∨ ((after s log).gangLives g ∧ g = k)) : (after s (preemptOne k t s log).2).gangCaught g := by
  cases hd : ((after s log).gang k).discarded with
  | true =>
    rw [preemptOne_discarded hd]
    refine h.resolve_right fun ⟨hl, hk⟩ => ?_
    rw [← hk, hl.2] at hd
    cases hd
  | false =>
    obtain ⟨a, ha, hrun⟩ := preemptOne_lives (t := t) hd
    rw [hrun, (ha.sameBut s _).gangCaught (by decide), after_cons]
    exact gangCaught_apply_gang rfl rfl h

theorem keeps_gangLives_preempt (g k : Nat) (t : Trigger) : Keeps (State.gangLives · g) (preempt k t) :=
  Keeps.readNow fun _ _ => Keeps.bind (keeps_gangLives_preemptOne g k t) fun _ => Keeps.each fun _ _ => keeps_gangLives_preemptOne g _ _
theorem keeps_gangCaught_preempt (g k : Nat) (t : Trigger) : Keeps (State.gangCaught · g) (preempt k t) :=
  Keeps.readNow fun _ _ => Keeps.bind (fun _ _ h => gangCaught_preemptOne (.inl h)) fun _ =>
    Keeps.each fun _ _ _ _ h => gangCaught_preemptOne (.inl h)
theorem gangCaught_preempt {s : State} {log : List Effect} {g : Nat} (t : Trigger) (h : (after s log).gangLives g) :
    (after s (preempt g t s log).2).gangCaught g :=
  Keeps.each (P := (State.gangCaught · g)) (l := (after s log).gridGangs g) (fun _ _ _ _ h => gangCaught_preemptOne (.inl h)) s _
    (gangCaught_preemptOne (k := g) (t := t) (.inr ⟨h, rfl⟩))

/-- Every gang of a list that lives is caught. -/
theorem gangCaught_each_preempt {s : State} {log : List Effect} {l : List Nat} {g : Nat} (hg : g ∈ l) (t : Trigger)
    (h : (after s log).gangLives g) : (after s (each l (preempt · t) s log).2).gangCaught g :=
  each_reaches (Q := (State.gangLives · g)) hg (fun y _ => keeps_gangLives_preempt g y t) (fun y _ => keeps_gangCaught_preempt g y t)
    (fun _ _ h => gangCaught_preempt t h) s log h

/-! ### SPARE_SUBSTITUTION -/

section
variable {s : State} {c : Nat}

/-- The cluster has work, so that it is pre-empted first. -/
def State.spareWaits (s : State) (c : Nat) : Bool := (!(s.cluster c).gated && s.dev.time != 0) || s.seats.any (·.cluster == c)

theorem spareSubstitution_goes {a : Act Unit} (hc : c < 32) (hl : (s.cluster c).lost = false)
    (ha : (if s.spareWaits c then do
        modCluster c fun x => { x with failing := true }
        each (s.gangsOn c) fun g => preempt g .spare
      else if (s.die (c / 8)).spareFor.isNone then do
        let ix ← freshIx
        modDie (c / 8) fun y => { y with spareFor := some c }.recouple (c % 8) ix
        modCluster c fun x => { x with failing := false }
        raiseEvent 0 3 0 0 c 0 0
      else do
        modCluster c fun x => { x with failing := false, lost := true, wakeAt := none }
        topologyChange
        raiseEvent 0 6 0 0 c 0 0
        releaseSpared c) = a) : execSpareSubstitution c s = .next (after s (a s []).2) := by
  have hok : (decide (c < Config.clusters) && !(s.cluster c).lost) = true := by simp [hl, Config.clusters, hc]
  rw [← ha]
  exact event_eq hok _

theorem spareSubstitution_preempts (hs : s.sized) (hc : c < 32) (hl : (s.cluster c).lost = false) (hw : s.spareWaits c = true) :
    Happens (execSpareSubstitution c s) fun t => (t.cluster c).failing = true ∧ SameBut [.clusters, .gangs, .wgs] s t ∧
      ∀ g ∈ s.gangsOn c, g < s.gangs.length → (s.gang g).discarded = false → (t.gang g).trigger.isSome = true := by
  obtain ⟨-, -, hclusters, -⟩ := hs
  have heach := (Only.each (l := s.gangsOn c) fun g => Only.preempt (F := [.wgs, .gangs]) (by simp) (by simp) g .spare).sameBut s
    [.cluster c { s.cluster c with failing := true }]
  refine ⟨_, spareSubstitution_goes hc hl (if_pos hw), ?_, ?_, fun g hg hlt hd => ?_⟩
  · refine (congrArg Cluster.failing (congrFun (heach.cluster (by decide)) c)).trans ?_
    simp [hclusters, hc]
  · exact sameBut_trans (sameBut_apply (e := .cluster c { s.cluster c with failing := true }) (by simp) s) (heach.mono (by simp))
  · exact (gangCaught_each_preempt hg .spare (log := [.cluster c { s.cluster c with failing := true }]) ⟨hlt, hd⟩).2

theorem spareSubstitution_uses (hs : s.sized) (hc : c < 32) (hl : (s.cluster c).lost = false) (hw : s.spareWaits c = false)
    (hspare : (s.die (c / 8)).spareFor = none) : Happens (execSpareSubstitution c s) fun t =>
      (t.die (c / 8)).spareFor = some c ∧ (t.cluster c).lost = false ∧ (t.cluster c).failing = false ∧ t.lastHeld 0 3 ∧
        (∀ i, i < (s.die (c / 8)).coupling.length → (t.die (c / 8)).coupling.getD i 0 =
          if i / 32 = c % 8 then Config.spareCoupling s.dev.freeCount (i % 32) else (s.die (c / 8)).coupling.getD i 0) ∧
        SameBut [.dies, .clusters, .parts, .dev] s t := by
  obtain ⟨-, -, hclusters, hdies, -⟩ := id hs
  let log : List Effect := [.cluster c { s.cluster c with failing := false },
    .die (c / 8) ({ s.die (c / 8) with spareFor := some c }.recouple (c % 8) s.dev.freeCount),
    .dev { s.dev with freeCount := s.dev.freeCount + 1 }]
  have hevent := (Only.raiseEvent (F := [.parts]) (by simp) 0 3 0 0 c 0 0).sameBut s log
  have hd : c / 8 < 4 := by omega
  have hdie : (after s (raiseEvent 0 3 0 0 c 0 0 s log).2).die (c / 8) =
      { s.die (c / 8) with spareFor := some c }.recouple (c % 8) s.dev.freeCount := by
    rw [hevent.die (by decide)]
    simp [log, hdies, hd]
  have hcluster : (after s (raiseEvent 0 3 0 0 c 0 0 s log).2).cluster c = { s.cluster c with failing := false } := by
    rw [hevent.cluster (by decide)]
    simp [log, hclusters, hc]
  refine ⟨after s (raiseEvent 0 3 0 0 c 0 0 s log).2,
    spareSubstitution_goes hc hl ((if_neg (by simp [hw])).trans (if_pos (by simp [hspare]))), ?_⟩
  beta_reduce
  rw [hdie, hcluster]
  refine ⟨rfl, hl, rfl, lastHeld_raiseEvent hs (by omega) .., fun i hi => ?_, ?_⟩
  · simp [Die.recouple, hi]
  · refine sameBut_trans (t := after s log) ?_ (hevent.mono (by simp))
    simp [SameBut, log]

theorem spareSubstitution_loses (hs : s.sized) (hc : c < 32) (hl : (s.cluster c).lost = false) (hw : s.spareWaits c = false)
    (hspare : (s.die (c / 8)).spareFor ≠ none) : Happens (execSpareSubstitution c s) fun t =>
      (t.cluster c).lost = true ∧ t.dev.topology = s.dev.topology + 1 ∧ t.lastHeld 0 6 ∧
        SameBut [.clusters, .dev, .parts, .gangs] s t := by
  obtain ⟨-, -, hclusters, -⟩ := id hs
  let log : List Effect := [.dev { s.dev with topology := s.dev.topology + 1 },
    .cluster c { s.cluster c with failing := false, lost := true, wakeAt := none }]
  have hevent := (Only.raiseEvent (F := [.parts]) (by simp) 0 6 0 0 c 0 0).sameBut s log
  have hfree := (Only.releaseSpared (F := [.gangs]) (by simp) c).sameBut s (raiseEvent 0 6 0 0 c 0 0 s log).2
  refine ⟨after s (releaseSpared c s (raiseEvent 0 6 0 0 c 0 0 s log).2).2,
    spareSubstitution_goes hc hl ((if_neg (by simp [hw])).trans (if_neg (by simp [hspare]))), ?_, ?_, ?_, ?_⟩
  · rw [hfree.cluster (by decide), hevent.cluster (by decide)]
    simp [log, hclusters, hc]
  · rw [hfree.dev (by decide), hevent.dev (by decide)]
    rfl
  · unfold State.lastHeld
    rw [hfree.part (by decide)]
    exact lastHeld_raiseEvent hs (by omega) ..
  · refine sameBut_trans (t := after s log) ?_ (sameBut_trans (hevent.mono (by simp)) (hfree.mono (by simp)))
    simp [SameBut, log]

theorem spareSubstitution_idle (h : (s.cluster c).lost = true) : Idle "SPARE_SUBSTITUTION" (execSpareSubstitution c s) :=
  idle_event (by simp [h])

end

/-! ### DIE_TO_DIE_PORT_FAILURE -/

section
variable {s : State}

/-- The command that poisonBound leaves. -/
def Bound.poisoned (b : Bound) : Bound :=
  { b with state := .poisoned, asks := none, buffer := [], badBytes := [], sent := if b.isCopy then b.count else b.sent }

theorem run_poisonBound {log : List Effect} {g n : Nat} {b : Bound} (hb : (after s log).bound g n = some b) :
    (poisonBound g n s log).2 =
      .wg g (((after s log).wg g).setMark n { ((after s log).wg g).mark n with bound := some b.poisoned }) :: log := by
  unfold poisonBound modBound
  rw [run_bind_now, hb]
  rfl

theorem run_poisonBound_none {log : List Effect} {g n : Nat} (hb : (after s log).bound g n = none) : (poisonBound g n s log).2 = log := by
  unfold poisonBound modBound
  rw [run_bind_now, hb]
  rfl

theorem bound_poisonBound {log : List Effect} {g n : Nat} (h : g < (after s log).wgs.length) (g' n' : Nat) :
    (after s (poisonBound g n s log).2).bound g' n' =
      if g' = g ∧ n' = n then ((after s log).bound g n).map Bound.poisoned else (after s log).bound g' n' := by
  cases hb : (after s log).bound g n with
  | none =>
    rw [run_poisonBound_none hb]
    split
    · next heq => rw [heq.1, heq.2, hb]; rfl
    · rfl
  | some b =>
    rw [run_poisonBound hb, after_cons]
    exact bound_apply_setMark h n _ g' n'

theorem wgs_length_poisonBound (g n : Nat) (log : List Effect) :
    (after s (poisonBound g n s log).2).wgs.length = (after s log).wgs.length := by
  cases hb : (after s log).bound g n with
  | none => rw [run_poisonBound_none hb]
  | some b => rw [run_poisonBound hb, after_cons, wgs_apply_wg, List.length_set]

/-- Of N workgroups one has a command at a watermark, its region armed or not as said, in a state that Q admits. -/
def State.hasBound (t : State) (N g n : Nat) (armed : Bool) (Q : CopyState → Prop) : Prop :=
  t.wgs.length = N ∧ ∃ b, t.bound g n = some b ∧ b.armed = armed ∧ Q b.state

theorem hasBound_poisonBound {log : List Effect} {N g n g' n' : Nat} {armed : Bool} {Q R : CopyState → Prop} (hN : g' < N)
    (h : (after s log).hasBound N g n armed Q) (hpoisoned : (g = g' ∧ n = n') → R .poisoned) (hother : ¬ (g = g' ∧ n = n') → ∀ x, Q x → R x) :
    (after s (poisonBound g' n' s log).2).hasBound N g n armed R := by
  obtain ⟨hlen, b, hb, harmed, hq⟩ := h
  refine ⟨(wgs_length_poisonBound ..).trans hlen, ?_⟩
  rw [bound_poisonBound (hlen.symm ▸ hN)]
  split
  · next heq =>
    rw [← heq.1, ← heq.2, hb]
    exact ⟨b.poisoned, rfl, harmed, hpoisoned heq⟩
  · next hne => exact ⟨b, hb, harmed, hother hne _ hq⟩

theorem keeps_hasBound_poisonBound {N g n g' n' : Nat} {armed : Bool} {Q : CopyState → Prop} (hN : g' < N) (hQ : Q .poisoned) :
    Keeps (State.hasBound · N g n armed Q) (poisonBound g' n') := fun _ _ h =>
  hasBound_poisonBound hN h (fun _ => hQ) fun _ _ hx => hx

theorem mem_bounds {t : State} {x : Nat × Nat × Bound} : x ∈ t.bounds ↔ x.1 < t.wgs.length ∧ x.2.1 < 16 ∧ t.bound x.1 x.2.1 = some x.2.2 := by
  obtain ⟨g, n, b⟩ := x
  simp only [State.bounds, List.mem_flatMap, List.mem_range, List.mem_filterMap]
  constructor
  · rintro ⟨i, hi, j, hj, hx⟩
    split at hx
    · next b' hb' =>
      simp only [Option.some.injEq, Prod.mk.injEq] at hx
      obtain ⟨rfl, rfl, rfl⟩ := hx
      exact ⟨hi, hj, hb'⟩
    · cases hx
  · rintro ⟨hi, hj, hb⟩
    refine ⟨g, hi, n, hj, ?_⟩
    have hb' : ((t.wg g).marks.getD n Watermark.start).bound = some b := hb
    rw [hb']

/-- The ports of two dies towards each other are down. -/
def portLog (s : State) (d1 d2 : Nat) : List Effect :=
  let s1 := Effect.apply s (.die d1 { s.die d1 with ports := (s.die d1).ports.set d2 false })
  [.die d2 { s1.die d2 with ports := (s1.die d2).ports.set d1 false },
    .die d1 { s.die d1 with ports := (s.die d1).ports.set d2 false }]

/-- The copies that a failed port poisons. -/
def poisonCrossing (t : State) : Act Unit :=
  each t.bounds fun (g, n, b) =>
    if (b.state == .issued || b.state == .landing || b.state == .frozen) && t.crossesFailed (t.wg g) b then poisonBound g n
    else pure ()

theorem Only.poisonCrossing (t : State) : Only [.wgs] (Machine.poisonCrossing t) :=
  Only.each fun _ => Only.ite (Only.poisonBound (by simp) _ _) (Only.pure _)

theorem poisonCrossing_poisons {t : State} {log : List Effect} {g n : Nat} {b : Bound} (ht : after s log = t) (hg : g < t.wgs.length)
    (hn : n < 16) (hb : t.bound g n = some b) (hstate : b.state = .issued ∨ b.state = .landing ∨ b.state = .frozen)
    (hcross : t.crossesFailed (t.wg g) b = true) :
    (after s (poisonCrossing t s log).2).hasBound t.wgs.length g n b.armed (· = .poisoned) := by
  have hkeep (Q : CopyState → Prop) (hQ : Q .poisoned) : ∀ x ∈ t.bounds, Keeps (State.hasBound · t.wgs.length g n b.armed Q)
      (if (x.2.2.state == .issued || x.2.2.state == .landing || x.2.2.state == .frozen) && t.crossesFailed (t.wg x.1) x.2.2
        then poisonBound x.1 x.2.1 else pure ()) := fun x hx =>
    Keeps.ite (keeps_hasBound_poisonBound (mem_bounds.mp hx).1 hQ) (Keeps.pure _)
  refine each_reaches (P := (State.hasBound · t.wgs.length g n b.armed (· = .poisoned))) (x := (g, n, b)) (mem_bounds.mpr ⟨hg, hn, hb⟩)
    (hkeep (fun _ => True) trivial) (hkeep (· = .poisoned) rfl)
    (fun s' log' h => ?_) s log ⟨congrArg (·.wgs.length) ht, b, by rw [ht]; exact hb, rfl, trivial⟩
  have hcond : ((b.state == .issued || b.state == .landing || b.state == .frozen) && t.crossesFailed (t.wg g) b) = true := by
    rcases hstate with h | h | h <;> simp [h, hcross]
  have hrun := hasBound_poisonBound (s := s') (R := (· = .poisoned)) hg h (fun _ => rfl) fun hne => absurd ⟨rfl, rfl⟩ hne
  rwa [if_pos hcond]

theorem dieToDiePortFailure_clause {d1 d2 : Nat} (hs : s.sized) (h1 : d1 < 4) (h2 : d2 < 4) (hne : d1 ≠ d2)
    (hports : ∀ d < 4, (s.die d).ports.length = 4) : Happens (execDieToDiePortFailure d1 d2 s) fun t =>
      (t.die d1).ports.getD d2 true = false ∧ (t.die d2).ports.getD d1 true = false ∧ SameBut [.dies, .wgs] s t ∧
        ∀ g n b, g < s.wgs.length → n < 16 → s.bound g n = some b → b.state = .issued ∨ b.state = .landing ∨ b.state = .frozen →
          State.crossesFailed { s with dies := t.dies } (s.wg g) b = true →
            ∃ b', t.bound g n = some b' ∧ b'.state = .poisoned ∧ b'.armed = b.armed := by
  obtain ⟨-, -, -, hdies, -⟩ := hs
  let log := portLog s d1 d2
  have hok : (decide (d1 < 4) && decide (d2 < 4) && d1 != d2) = true := by simp [h1, h2, hne]
  have hframe := (Only.poisonCrossing (after s log)).sameBut s log
  refine ⟨after s (poisonCrossing (after s log) s log).2, event_eq hok _, ?_, ?_, ?_, fun g n b hg hn hb hstate hcross => ?_⟩
  · rw [hframe.die (by decide)]
    have := hports d1 h1
    simp [log, portLog, hdies, h1, h2, hne, this]
  · rw [hframe.die (by decide)]
    have := hports d2 h2
    simp [log, portLog, hdies, h1, h2, hne.symm, this]
  · refine sameBut_trans (t := after s log) ?_ (hframe.mono (by simp))
    simp [SameBut, log, portLog]
  · rw [hframe.dies (by decide)] at hcross
    obtain ⟨-, b', hb', harmed, hstate'⟩ := poisonCrossing_poisons (log := log) rfl hg hn hb hstate hcross
    exact ⟨b', hb', hstate', harmed⟩

theorem dieToDiePortFailure_idle (s : State) {d1 d2 : Nat} (h : d1 = d2) :
    Idle "DIE_TO_DIE_PORT_FAILURE" (execDieToDiePortFailure d1 d2 s) := by
  subst h
  exact idle_event (by simp)

end

/-- Settles O58, clause by clause: each event in the branch that its guard names. -/
theorem errorsAndReset : Obligations.ErrorsAndReset := by
  intro s v row c pa loc d1 d2 reg lane el w p line unit g n seg hs V event
  refine ⟨⟨resetState s, rfl, rfl, rfl, rfl, rfl, rfl, rfl, rfl, rfl, rfl, rfl, rfl, rfl, rfl, rfl, rfl, rfl, rfl, rfl, rfl, rfl, rfl⟩,
    fun hv => correctedError_clause hs hv, fun hv h => rowRemapDone_clause hs hv h, fun h => rowRemapDone_idle h,
    fun h => uncorrectable_dram hs h, fun h => uncorrectable_sram hs h, uncorrectable_vreg hs c reg lane, uncorrectable_acc hs c reg el,
    fun h => uncorrectable_pred hs h p, fun x hc hx hu => uncorrectable_loft hs hc hx hu,
    fun b hg _ hb hcopy hhit => ?_, fun hc hl => ⟨fun hg ht => ?_, fun hg hseats => ?_⟩,
    fun h => spareSubstitution_idle h, fun h1 h2 hne hports => ?_, fun h => dieToDiePortFailure_idle s h⟩
  · obtain ⟨t, hrun, ⟨b', hb', hbuffer, hbad⟩, hevent, hsame⟩ := uncorrectable_landing hs hg hb hcopy hhit
    exact ⟨t, hrun, b', hb', hbuffer, hbad, hevent, hsame⟩
  · exact spareSubstitution_preempts hs hc hl (by simp [State.spareWaits, hg, ht])
  · have hw : s.spareWaits c = false := by
      unfold State.spareWaits
      rw [hseats, Bool.or_false]
      rcases hg with h | h <;> simp [h]
    exact ⟨fun h => spareSubstitution_uses hs hc hl hw h, fun h => spareSubstitution_loses hs hc hl hw h⟩
  · obtain ⟨t, hrun, hp1, hp2, hsame, hpoisons⟩ := dieToDiePortFailure_clause hs h1 h2 hne hports
    exact ⟨t, hrun, hp1, hp2, hsame, fun b => hpoisons g n b⟩

end Sys2Proof.Machine
end

section
/-! # Reads of the newest bytes, cells put into sparse maps, and traps owed

What the engines, the sequencers and the core share: an access that goes past no write reads memory as it is, a list of cells put into a
sparse map reads back, and a program whose only writes of memory's field are to the record of its past leaves the bytes alone. -/
namespace Sys2Proof.Machine

/-! ### Cells put into a sparse map -/

/-- The map after writing a list of cells, the first first. -/
def sparsePut {w : Nat} (m : List (Nat × BitVec w)) (l : List (Nat × BitVec w)) : List (Nat × BitVec w) :=
  l.foldl (fun m p => sparseSet m p.1 p.2) m

section
variable {w : Nat} {m : List (Nat × BitVec w)}

theorem sparseGet_put_of_notMem (hm : sparseWf 0 m = true) {l : List (Nat × BitVec w)} {a : Nat} (ha : a ∉ l.map (·.1)) :
    sparseGet (sparsePut m l) a = sparseGet m a := by
  induction l generalizing m with
  | nil => rfl
  | cons p l ih =>
    simp only [List.map_cons, List.mem_cons, not_or] at ha
    calc sparseGet (sparsePut m (p :: l)) a = sparseGet (sparseSet m p.1 p.2) a := ih (sparseWf_set hm (Nat.zero_le _) _) ha.2
      _ = sparseGet m a := by rw [sparseGet_set hm, if_neg ha.1]

theorem sparseGet_put_of_mem (hm : sparseWf 0 m = true) {l : List (Nat × BitVec w)} (hn : (l.map (·.1)).Nodup) {p : Nat × BitVec w}
    (hp : p ∈ l) : sparseGet (sparsePut m l) p.1 = p.2 := by
  induction l generalizing m with
  | nil => cases hp
  | cons q l ih =>
    simp only [List.map_cons, List.nodup_cons] at hn
    have hq := sparseWf_set hm (Nat.zero_le q.1) q.2
    rcases List.mem_cons.mp hp with rfl | hp
    · calc sparseGet (sparsePut m (p :: l)) p.1 = sparseGet (sparseSet m p.1 p.2) p.1 := sparseGet_put_of_notMem hq hn.1
        _ = p.2 := by rw [sparseGet_set hm, if_pos rfl]
    · exact ih hq hn.2 hp

end

theorem accs_applyAll_acc (l : List (Nat × W32)) (s : State) : (applyAll s (l.map fun p => .acc p.1 p.2)).accs = sparsePut s.accs l := by
  induction l generalizing s with
  | nil => rfl
  | cons p l ih => exact ih _

theorem vregs_applyAll_vreg (l : List (Nat × W32)) (s : State) :
    (applyAll s (l.map fun p => .vreg p.1 p.2)).vregs = sparsePut s.vregs l := by
  induction l generalizing s with
  | nil => rfl
  | cons p l ih => exact ih _

theorem mem_applyAll_mem (l : List (Nat × Byte)) (s : State) : (applyAll s (putCells l)).mem = sparsePut s.mem l := by
  induction l generalizing s with
  | nil => rfl
  | cons p l ih => exact ih _

/-! ### Reads of the newest bytes -/

theorem look_newest (v : Visibility) (byte : Nat → Byte) (a : Actor) (locs : List Nat) : (v.look byte a 0 locs).1 = locs.map byte := rfl

@[simp] theorem picks_noted (v : Visibility) (a : Actor) (locs : List Nat) (got : List MemWrite) : (v.noted a locs got).picks = v.picks := rfl
@[simp] theorem picks_edge (v : Visibility) (ys : List MemAgent) (f : MemWrite → Option Paths) : (v.edge ys f).picks = v.picks := rfl
@[simp] theorem picks_learn (v : Visibility) (a : Actor) : (v.learn a).picks = v.picks := by
  unfold Visibility.learn
  split <;> rfl

/-- What reading one more unit adds to the bytes, the releases and the record. -/
def State.readUnit (s : State) (a : Actor) (acc : List (List Byte) × List Release × Visibility) (u : List Nat) :
    List (List Byte) × List Release × Visibility :=
  let x := s.vis.look s.byte a (acc.2.2.picks.headD 0) u
  (acc.1 ++ [x.1], acc.2.1 ++ Machine.headsOf x.2, { acc.2.2 with picks := acc.2.2.picks.tail }.noted a u x.2)

theorem readUnits_eq (s : State) (a : Actor) (units : List (List Nat)) : s.readUnits a units =
    let r := units.foldl (s.readUnit a) ([], [], s.vis)
    (r.1, r.2.1, r.2.2.learn a) := rfl

theorem readUnit_newest (s : State) (a : Actor) {acc : List (List Byte) × List Release × Visibility} (h : acc.2.2.picks = []) (u : List Nat) :
    (s.readUnit a acc u).1 = acc.1 ++ [u.map s.byte] ∧ (s.readUnit a acc u).2.2.picks = [] := by
  unfold State.readUnit
  rw [h]
  exact ⟨rfl, rfl⟩

theorem foldl_readUnit_newest (s : State) (a : Actor) {acc : List (List Byte) × List Release × Visibility} (h : acc.2.2.picks = [])
    (units : List (List Nat)) : (units.foldl (s.readUnit a) acc).1 = acc.1 ++ units.map (·.map s.byte) ∧
      (units.foldl (s.readUnit a) acc).2.2.picks = [] := by
  induction units generalizing acc with
  | nil => exact ⟨(List.append_nil _).symm, h⟩
  | cons u us ih =>
    obtain ⟨hbytes, hpicks⟩ := readUnit_newest s a h u
    obtain ⟨h1, h2⟩ := ih hpicks
    refine ⟨h1.trans ?_, h2⟩
    rw [hbytes, List.map_cons, List.append_assoc]
    rfl

/-- An access reads the newest bytes where no choice is open. -/
theorem readUnits_newest {s : State} (h : s.vis.picks = []) (a : Actor) (units : List (List Nat)) :
    (s.readUnits a units).1 = units.map (·.map s.byte) ∧ (s.readUnits a units).2.2.picks = [] := by
  obtain ⟨h1, h2⟩ := foldl_readUnit_newest s a (acc := ([], [], s.vis)) h units
  rw [readUnits_eq]
  exact ⟨h1, (picks_learn _ _).trans h2⟩

theorem readUnits_single_newest {s : State} (h : s.vis.picks.headD 0 = 0) (a : Actor) (locs : List Nat) :
    (s.readUnits a [locs]).1 = [locs.map s.byte] ∧ (s.readUnits a [locs]).2.2.picks = s.vis.picks.tail := by
  rw [readUnits_single, h, look_newest]
  exact ⟨rfl, by simp⟩

/-- A state that has read its own bytes sees itself. -/
theorem seen_self (s : State) (locs : List Nat) : s.seen (locs.zip (locs.map s.byte)) = s := by
  have hfold (ls : List Nat) : (ls.zip (ls.map s.byte)).foldl
      (fun m c => if sparseGet m c.1 == c.2 then m else sparseSet m c.1 c.2) s.mem = s.mem := by
    induction ls with
    | nil => rfl
    | cons l ls ih => simpa [State.byte] using ih
  unfold State.seen
  rw [hfold]

/-! ### Memory that a program leaves alone -/

/-- The program writes no byte of memory: of that field, only the record of its past. -/
def KeepsMem {α : Type} (a : Act α) : Prop := ∀ s log, (after s (a s log).2).mem = (after s log).mem

theorem KeepsMem.of_only {F : List Field} {α : Type} {a : Act α} (h : Only F a) (hF : Field.mem ∉ F) : KeepsMem a :=
  fun s log => (h.sameBut s log).mem hF
theorem KeepsMem.bind {α β : Type} {a : Act α} {f : α → Act β} (ha : KeepsMem a) (hf : ∀ x, KeepsMem (f x)) : KeepsMem (a >>= f) :=
  fun s log => (hf _ s _).trans (ha s log)
theorem KeepsMem.pure {α : Type} (x : α) : KeepsMem (pure x : Act α) := fun _ _ => rfl
theorem KeepsMem.now : KeepsMem now := fun _ _ => rfl
theorem KeepsMem.setVis (v : Visibility) : KeepsMem (Machine.setVis v) := fun s log => by
  rw [run_setVis, after_cons, mem_apply_vis]
theorem KeepsMem.tallySpad (locs : List Nat) : KeepsMem (Machine.tallySpad locs) :=
  .of_only (Only.tallySpad (F := [.clusters]) (by simp) locs) (by decide)
theorem KeepsMem.readBy (a : Actor) (units : List (List Nat)) : KeepsMem (Machine.readBy a units) :=
  .bind .now fun _ => .bind (.setVis _) fun _ => .bind (.tallySpad _) fun _ => .pure _

/-! ### Traps owed -/

theorem run_oweTrap {s : State} {log : List Effect} {k : Nat} (h : ((after s log).ctx k).status ≠ .ended) (r : TrapRecord) :
    (oweTrap k none r s log).2 = .ctx k { (after s log).ctx k with
      pending := ((after s log).ctx k).pending ++ [{ record := r, seq := ((after s log).ctx k).evSeq, wave := none }],
      evSeq := ((after s log).ctx k).evSeq + 1 } :: log := by
  have hn : ¬ (((after s log).ctx k).status == .ended && !(after s log).pausing (ctxCluster k)) = true := by
    rw [Bool.and_eq_true, beq_iff_eq]
    exact fun hc => h hc.1
  unfold oweTrap
  rw [run_bind_now]
  exact congrArg (fun a : Act Unit => (a s log).2) (if_neg hn)

end Sys2Proof.Machine
end

section
/-! # The matrix engine -/
namespace Sys2Proof.Machine

/-! ### What the engine reads of the state -/

/-- Two states that the engine reads alike: memory, the accumulators and the workgroups with their gangs. -/
structure SameTiles (s t : State) : Prop where
  mem : t.mem = s.mem
  accs : t.accs = s.accs
  wgs : t.wgs = s.wgs
  gangs : t.gangs = s.gangs

theorem SameTiles.of_sameBut {F : List Field} {s t : State} (h : SameBut F s t) (hm : t.mem = s.mem) (ha : Field.accs ∉ F)
    (hw : Field.wgs ∉ F) (hg : Field.gangs ∉ F) : SameTiles s t := ⟨hm, h.accs ha, h.wgs hw, h.gangs hg⟩

section
variable {s t : State} (h : SameTiles s t)
include h

theorem SameTiles.byte : t.byte = s.byte := funext fun a => by simp only [State.byte, h.mem]
theorem SameTiles.wg : t.wg = s.wg := funext fun g => by simp only [State.wg, h.wgs]
theorem SameTiles.gang : t.gang = s.gang := funext fun g => by simp only [State.gang, h.gangs]
theorem SameTiles.tileLoc : t.tileLoc = s.tileLoc := funext fun w => funext fun a => by
  simp only [State.tileLoc, State.place, h.wg, h.gang]
theorem SameTiles.tileLocs : t.tileLocs = s.tileLocs := funext fun w => funext fun l => by
  simp only [State.tileLocs, h.tileLoc]
theorem SameTiles.tileRead : t.tileRead = s.tileRead := funext fun w => funext fun a => funext fun n => by
  simp only [State.tileRead, h.tileLoc, h.byte]
theorem SameTiles.operandVal : t.operandVal = s.operandVal := by
  unfold State.operandVal
  rw [h.tileRead]
theorem SameTiles.rowScale : t.rowScale = s.rowScale := by
  unfold State.rowScale
  rw [h.tileRead]
theorem SameTiles.blockScale : t.blockScale = s.blockScale := by
  unfold State.blockScale
  rw [h.tileRead]
theorem SameTiles.stepElems : t.stepElems = s.stepElems := by
  unfold State.stepElems
  rw [h.operandVal, h.rowScale, h.blockScale, h.accs]
theorem SameTiles.drainBytes : t.drainBytes = s.drainBytes := by
  unfold State.drainBytes
  rw [h.tileRead, h.tileLocs, h.accs]
theorem SameTiles.bounds : t.bounds = s.bounds := by
  unfold State.bounds
  rw [h.wgs, h.wg]
theorem SameTiles.landing : t.landing = s.landing := funext fun l => by
  unfold State.landing
  rw [h.bounds]

theorem SameTiles.matrixPoison (hd : t.badDram = s.badDram) (hr : t.badSram = s.badSram) (ha : t.badAccs = s.badAccs) :
    t.matrixPoison = s.matrixPoison := by
  have hp : t.poisoned = s.poisoned := funext fun l => by simp only [State.poisoned, hd, hr]
  unfold State.matrixPoison
  rw [h.landing, h.tileLoc, hp, hd, hr, ha]

end

/-! ### A command's grant and its end -/

section
variable {s : State} {log : List Effect} {g : Nat} {q : MatrixCmd}

/-- The cluster of a workgroup has granted its engine to it. -/
def State.grantTo (t : State) (g : Nat) : Effect := .cluster (t.wg g).cluster { t.cluster (t.wg g).cluster with lastWg := g }

/-- What a grant does: the rotation moves on, and a command that begins sees what the one before it did. -/
theorem run_grantMatrix (s : State) (log : List Effect) (g : Nat) (q : MatrixCmd) : (grantMatrix g q s log).2 =
    if q.started then (after s log).grantTo g :: log
    else (after s log).grantTo g :: .vis ((after s log).fullEdge [.matrix g (q.num - 1).toNat] [q.agent g]) :: log := by
  unfold grantMatrix
  rw [run_bind_now]
  cases q.started <;> simp [State.grantTo]

theorem mem_grantMatrix (s : State) (log : List Effect) (g : Nat) (q : MatrixCmd) :
    (after s (grantMatrix g q s log).2).mem = (after s log).mem := by
  rw [run_grantMatrix]
  split <;> simp [State.grantTo, State.fullEdge]

theorem picks_grantMatrix (s : State) (log : List Effect) (g : Nat) (q : MatrixCmd) :
    (after s (grantMatrix g q s log).2).vis.picks = (after s log).vis.picks := by
  rw [run_grantMatrix]
  split <;> simp [State.grantTo, State.fullEdge]

/-- The workgroup whose head command has ended. -/
def Workgroup.matrixEnded (w : Workgroup) (q : MatrixCmd) : Workgroup := { w with mqueue := w.mqueue.tail, mdone := q.num }

/-- What the end of a command does: its release, and the queue moves on. -/
theorem run_completeMatrix (s : State) (log : List Effect) (g : Nat) (q : MatrixCmd) : (completeMatrix g q s log).2 =
    .wg g (((after s log).wg g).matrixEnded q) :: match q.release with
      | some c => .vis ((after s log).commandRelease (q.agent g) c) :: log
      | none => log := by
  unfold completeMatrix
  cases q.release <;> simp [Workgroup.matrixEnded]

theorem mem_completeMatrix (s : State) (log : List Effect) (g : Nat) (q : MatrixCmd) :
    (after s (completeMatrix g q s log).2).mem = (after s log).mem := by
  rw [run_completeMatrix]
  cases q.release <;> simp

theorem wg_completeMatrix (hg : g < (after s log).wgs.length) (q : MatrixCmd) :
    (after s (completeMatrix g q s log).2).wg g = ((after s log).wg g).matrixEnded q := by
  rw [run_completeMatrix, after_cons, wg_apply_wg, if_pos]
  cases q.release <;> simp [hg]

theorem mem_readTile (s : State) (log : List Effect) (g : Nat) (q : MatrixCmd) (units : List (List Word)) :
    (after s (readTile g q units s log).2).mem = (after s log).mem :=
  KeepsMem.bind .now (fun _ => .bind (.readBy _ _) fun _ => .bind .now fun _ => .pure _) s log

/-- What a command sees that reads the newest bytes is the state as it is. -/
theorem seen_readTile {units : List (List Word)} (h : (after s log).vis.picks = [] ∨ (after s log).vis.picks.headD 0 = 0 ∧ units.length = 1) :
    (readTile g q units s log).1 = after s (readTile g q units s log).2 := by
  have hbytes : ((after s log).readUnits (q.actor g) (units.map ((after s log).tileLocs ((after s log).wg g)))).1
      = (units.map ((after s log).tileLocs ((after s log).wg g))).map (·.map (after s log).byte) := by
    rcases h with h | ⟨h, hlen⟩
    · exact (readUnits_newest h _ _).1
    · obtain ⟨u, rfl⟩ := List.length_eq_one_iff.mp hlen
      exact (readUnits_single_newest h _ _).1
  have hseen : (readTile g q units s log).1 = (after s (readTile g q units s log).2).seen
      ((units.map ((after s log).tileLocs ((after s log).wg g))).flatten.zip
        ((after s log).readUnits (q.actor g) (units.map ((after s log).tileLocs ((after s log).wg g)))).1.flatten) := rfl
  have hmem : (after s log).byte = (after s (readTile g q units s log).2).byte :=
    funext fun a => (byte_of_mem (mem_readTile s log g q units) a).symm
  rw [hseen, hbytes, ← List.map_flatten, hmem]
  exact seen_self _ _

end

/-! ### Elements written and cleared -/

section
variable {s : State} {log : List Effect}

theorem accs_writeAccs (l : List (Nat × W32)) : (after s (writeAccs l s log).2).accs = sparsePut (after s log).accs l := by
  unfold writeAccs
  rw [run_bind, run_emits, run_bind_now, run_ite]
  split <;> simp [accs_applyAll_acc]

theorem badAccs_applyAll_acc (l : List (Nat × W32)) (t : State) : (applyAll t (l.map fun p => .acc p.1 p.2)).badAccs = t.badAccs := by
  induction l generalizing t with
  | nil => rfl
  | cons p l ih => exact ih _

theorem mem_badAccs_writeAccs (l : List (Nat × W32)) (key : Nat) :
    key ∈ (after s (writeAccs l s log).2).badAccs ↔ key ∈ (after s log).badAccs ∧ key ∉ l.map (·.1) := by
  have hput : (after s ((l.map fun p => Effect.acc p.1 p.2).reverse ++ log)).badAccs = (after s log).badAccs := by
    rw [after_append, badAccs_applyAll_acc]
  unfold writeAccs
  rw [run_bind, run_emits, run_bind_now, run_ite, hput]
  split
  · next hnone =>
    rw [run_pure, hput, List.isEmpty_iff.mp hnone]
    simp
  · rw [run_emit, after_cons, badAccs_apply_badAccs, List.mem_filter, Bool.not_eq_true', List.any_eq_false]
    exact and_congr_right fun _ => ⟨fun h hk => (by
      obtain ⟨p, hp, rfl⟩ := List.mem_map.mp hk
      exact h p hp (beq_self_eq_true _)), fun h p hp hk => h (List.mem_map.mpr ⟨p, hp, beq_iff_eq.mp hk⟩)⟩

theorem accs_clearAcc (w : Workgroup) (n : Nat) : (after s (clearAcc w n s log).2).accs =
    sparseClear (after s log).accs (w.accKey n 0 0) (w.accKey n 0 0 + 2 ^ 14) := by
  unfold clearAcc
  rw [run_bind, run_emit, run_bind_now, run_ite]
  split <;> simp

theorem badAccs_clearAcc (w : Workgroup) (n : Nat) : (after s (clearAcc w n s log).2).badAccs =
    (after s log).badAccs.filter fun k => k < w.accKey n 0 0 || w.accKey n 0 0 + 2 ^ 14 ≤ k := by
  unfold clearAcc
  rw [run_bind, run_emit, run_bind_now, run_ite]
  split
  · next hnone =>
    have hnone : (after s log).badAccs = [] := by simpa using hnone
    simp [hnone]
  · simp

end

/-! ### The elements of a step -/

theorem zip_map_self {α β : Type} (l : List α) (f : α → β) : l.zip (l.map f) = l.map fun x => (x, f x) := by
  induction l with
  | nil => rfl
  | cons x l ih => simp [ih]

/-- The operands of the products of an element. -/
def State.stepPairs (s : State) (w : Workgroup) (q : MatrixCmd) (i c : Nat) : List (FVal × FVal) :=
  ((List.range q.tA.cols).map (s.operandVal w q.tA true i)).zip ((List.range q.tA.cols).map (s.operandVal w q.tB false c))

theorem stepPairs_eq (s : State) (w : Workgroup) (q : MatrixCmd) (i c : Nat) : s.stepPairs w q i c =
    (List.range q.tA.cols).map fun k => (s.operandVal w q.tA true i k, s.operandVal w q.tB false c k) := List.zip_map' ..

/-- One element of the accumulator after the next step. -/
def State.stepElem (s : State) (w : Workgroup) (q : MatrixCmd) (i c : Nat) : W32 :=
  let old := (sparseGet s.accs (w.accKey q.op.acc i c)).toNat
  let ks := kstepOf q.tA q.tB
  let blk (t : Tile) (k : Nat) : Nat := if t.blk = 0 then 0 else t.block ks q.done k
  BitVec.ofNat 32 <|
    if q.kind == .i32 then intElem32 (q.tA.sat || q.tA.fmt == 7) old (s.stepPairs w q i c)
    else floatElem32 q.compat (tileFmt q.tA.fmt) (tileFmt q.tB.fmt) old
      (((List.range q.tA.cols).zip (s.stepPairs w q i c)).map fun p => ((blk q.tA p.1, blk q.tB p.1), p.2))
      (s.blockScale w q.tA i) (s.blockScale w q.tB c) (s.rowScale w q.tA i) (s.rowScale w q.tB c)

theorem stepElems_eq (s : State) (w : Workgroup) (q : MatrixCmd) : s.stepElems w q =
    (List.range q.tA.rows).flatMap fun i => (List.range q.tB.cols).map fun c => (w.accKey q.op.acc i c, s.stepElem w q i c) := by
  unfold State.stepElems
  simp only [zip_map_self, List.flatMap_map, List.map_map]
  rfl

/-- The keys of the elements of an accumulator that a tile covers. -/
def Workgroup.accKeys (w : Workgroup) (a rows cols : Nat) : List Nat :=
  (List.range rows).flatMap fun i => (List.range cols).map fun c => w.accKey a i c

theorem stepElems_keys (s : State) (w : Workgroup) (q : MatrixCmd) :
    (s.stepElems w q).map (·.1) = w.accKeys q.op.acc q.tA.rows q.tB.cols := by
  rw [stepElems_eq, List.map_flatMap]
  simp only [List.map_map]
  rfl

theorem nodup_accKeys (w : Workgroup) (a : Nat) {rows cols : Nat} (hc : cols ≤ 128) : (w.accKeys a rows cols).Nodup := by
  refine List.nodup_flatMap.mpr ⟨fun i _ => List.nodup_range.map fun c d h => ?_, List.nodup_range.pairwise_of_forall_ne fun i _ j _ hij => ?_⟩
  · simp only [Workgroup.accKey, Machine.accKey] at h
    omega
  · intro key hi hj
    obtain ⟨c, hc', rfl⟩ := List.mem_map.mp hi
    obtain ⟨d, hd', h⟩ := List.mem_map.mp hj
    have hc' := List.mem_range.mp hc'
    have hd' := List.mem_range.mp hd'
    simp only [Workgroup.accKey, Machine.accKey] at h
    omega

theorem asInt_toNat (x : W32) : asInt 32 false x.toNat = x.toInt := by
  have hx : x.toNat < 2 ^ 32 := x.isLt
  have hdiv : x.toNat / 2 ^ 31 = if 2 * x.toNat < 2 ^ 32 then 0 else 1 := by
    split <;> omega
  rw [BitVec.toInt_eq_toNat_cond]
  simp only [asInt, bitAt, Nat.mod_eq_of_lt hx, Bool.not_false, Bool.true_and, hdiv]
  split <;> simp

theorem ofNat_wrap (x : Int) : BitVec.ofNat 32 (wrap 32 x) = BitVec.ofInt 32 x := by
  refine BitVec.eq_of_toNat_eq ?_
  rw [BitVec.toNat_ofNat, BitVec.toNat_ofInt]
  exact Nat.mod_eq_of_lt (by unfold wrap; omega)

theorem ofNat_intElem32 (sat : Bool) (old : W32) (pairs : List (FVal × FVal)) : BitVec.ofNat 32 (intElem32 sat old.toNat pairs) =
    let new := old.toInt + (pairs.map fun p => p.1.dy.m * p.2.dy.m).sum
    BitVec.ofInt 32 (if sat then max (-2 ^ 31) (min (2 ^ 31 - 1) new) else new) := by
  unfold intElem32
  rw [ofNat_wrap, asInt_toNat]
  rfl

/-! ### MATRIX_STEP -/

section
variable {s : State} {g : Nat} {q : MatrixCmd} {m : MloopArgs}

/-- The state in which a step is taken: an MLOOP that clears begins with a zero accumulator. -/
def clearsFirst (q : MatrixCmd) (m : MloopArgs) : Bool := m.clear && !q.started

/-- What the grant and the clear leave behind. -/
def stepLog (s : State) (g : Nat) (q : MatrixCmd) (m : MloopArgs) : List Effect :=
  ((if clearsFirst q m then clearAcc (s.wg g) q.op.acc else pure ()) s (grantMatrix g q s []).2).2

/-- A step without poison. -/
def takeStep (g : Nat) (q : MatrixCmd) (m : MloopArgs) (w : Workgroup) : Act Unit := do
  let seen ← readTile g q q.reads
  writeAccs (seen.stepElems w q)
  modCluster w.cluster fun c => c.tally (kindMatrix ((stepRow q.tA.fmt q.tB.fmt).getD 0)) 1
  if q.left ≤ 1 then completeMatrix g q
  else modWg g fun w => { w with mqueue := q.stepped m :: w.mqueue.tail }

/-- A program that reads the state after two steps, the second on a condition. -/
theorem run_if_then_now (a c : Act Unit) (b : Bool) (f : State → Act Unit) (s : State) (log : List Effect) :
    (do
      a
      if b then c else pure ()
      f (← now) : Act Unit) s log =
      f (after s ((if b then c else pure ()) s (a s log).2).2) s ((if b then c else pure ()) s (a s log).2).2 := by
  cases b <;> rfl

theorem matrixStep_run (hq : s.matrixHead g = some q) (hm : q.op = .mloop m) : execMatrixStep g s =
    .next (after s ((match (after s (stepLog s g q m)).matrixPoison (s.wg g) q.addrs true
        ((s.wg g).accKeys q.op.acc q.tA.rows q.tB.cols) with
      | some (cause, a) => poisonMatrix g q 1 cause a
      | none => takeStep g q m (s.wg g)) s (stepLog s g q m)).2) := by
  have hok : isMloopHead s g = true := by simp [isMloopHead, hq, hm]
  unfold execMatrixStep
  rw [event_eq hok]
  simp only [hq, hm]
  rw [← hm]
  exact congrArg (fun r : Unit × List Effect => Host.Outcome.next (after s r.2)) (run_if_then_now (grantMatrix g q)
    (clearAcc (s.wg g) q.op.acc) (m.clear && !q.started) (fun t => match t.matrixPoison (s.wg g) q.addrs true
        ((s.wg g).accKeys q.op.acc q.tA.rows q.tB.cols) with
      | some (cause, a) => poisonMatrix g q 1 cause a
      | none => takeStep g q m (s.wg g)) s [])

/-- The machine as an MLOOP finds it that clears its accumulator first. -/
def State.cleared (s : State) (g : Nat) (q : MatrixCmd) (m : MloopArgs) : State :=
  let lo := (s.wg g).accKey q.op.acc 0 0
  if m.clear = true ∧ q.started = false then
    { s with accs := sparseClear s.accs lo (lo + 2 ^ 14), badAccs := s.badAccs.filter fun k => k < lo || lo + 2 ^ 14 ≤ k }
  else s

theorem sameBut_grantMatrix (s : State) (log : List Effect) (g : Nat) (q : MatrixCmd) :
    SameBut [.mem, .clusters] (after s log) (after s (grantMatrix g q s log).2) :=
  (Only.grantMatrix (by simp) (by simp) g q).sameBut s log

theorem sameBut_stepLog (s : State) (g : Nat) (q : MatrixCmd) (m : MloopArgs) :
    SameBut [.clusters, .accs, .badAccs, .mem] s (after s (stepLog s g q m)) :=
  sameBut_trans ((sameBut_grantMatrix s [] g q).mono (by simp))
    ((Only.ite (Only.clearAcc (by simp) (by simp) _ _) (Only.pure _)).sameBut s _)

theorem vis_stepLog (s : State) (g : Nat) (q : MatrixCmd) (m : MloopArgs) :
    (after s (stepLog s g q m)).mem = s.mem ∧ (after s (stepLog s g q m)).vis.picks = s.vis.picks := by
  have hframe : SameBut [.badAccs, .accs] (after s (grantMatrix g q s []).2) (after s (stepLog s g q m)) :=
    (Only.ite (Only.clearAcc (by simp) (by simp) _ _) (Only.pure _)).sameBut s _
  rw [hframe.mem (by decide), hframe.vis (by decide)]
  exact ⟨mem_grantMatrix s [] g q, picks_grantMatrix s [] g q⟩

theorem accs_stepLog (s : State) (g : Nat) (q : MatrixCmd) (m : MloopArgs) :
    (after s (stepLog s g q m)).accs = (s.cleared g q m).accs ∧ (after s (stepLog s g q m)).badAccs = (s.cleared g q m).badAccs := by
  have hgrant := sameBut_grantMatrix s [] g q
  unfold stepLog clearsFirst State.cleared
  by_cases hc : m.clear = true ∧ q.started = false
  · rw [if_pos hc, if_pos (by simp [hc])]
    rw [accs_clearAcc, badAccs_clearAcc, hgrant.accs (by decide), hgrant.badAccs (by decide)]
    exact ⟨rfl, rfl⟩
  · rw [if_neg hc, if_neg (by simpa using hc)]
    exact ⟨hgrant.accs (by decide), hgrant.badAccs (by decide)⟩

theorem sameTiles_stepLog (s : State) (g : Nat) (q : MatrixCmd) (m : MloopArgs) :
    SameTiles (s.cleared g q m) (after s (stepLog s g q m)) := by
  have hframe := sameBut_stepLog s g q m
  obtain ⟨hmem, -⟩ := vis_stepLog s g q m
  obtain ⟨haccs, -⟩ := accs_stepLog s g q m
  have hc : (s.cleared g q m).mem = s.mem ∧ (s.cleared g q m).wgs = s.wgs ∧ (s.cleared g q m).gangs = s.gangs := by
    unfold State.cleared
    dsimp only
    split <;> exact ⟨rfl, rfl, rfl⟩
  obtain ⟨h1, h2, h3⟩ := hc
  exact ⟨hmem.trans h1.symm, haccs, (hframe.wgs (by decide)).trans h2.symm, (hframe.gangs (by decide)).trans h3.symm⟩

theorem matrixPoison_stepLog (s : State) (g : Nat) (q : MatrixCmd) (m : MloopArgs) :
    (after s (stepLog s g q m)).matrixPoison = (s.cleared g q m).matrixPoison := by
  have hframe := sameBut_stepLog s g q m
  have hc : (s.cleared g q m).badDram = s.badDram ∧ (s.cleared g q m).badSram = s.badSram := by
    unfold State.cleared
    dsimp only
    split <;> exact ⟨rfl, rfl⟩
  exact (sameTiles_stepLog s g q m).matrixPoison ((hframe.badDram (by decide)).trans hc.1.symm)
    ((hframe.badSram (by decide)).trans hc.2.symm) (accs_stepLog s g q m).2

theorem wf_cleared (h : s.canonical) : sparseWf 0 (s.cleared g q m).accs = true := by
  obtain ⟨-, -, haccs⟩ := h
  unfold State.cleared
  dsimp only
  split
  · exact sparseWf_clear haccs
  · exact haccs

/-- The workgroup after a step of the MLOOP at its head. -/
def Workgroup.stepped (w : Workgroup) (q : MatrixCmd) (m : MloopArgs) : Workgroup :=
  if q.left ≤ 1 then w.matrixEnded q else { w with mqueue := q.stepped m :: w.mqueue.tail }

/-- How a step ends: the command with it, or it stays at the head. -/
def endStep (g : Nat) (q : MatrixCmd) (m : MloopArgs) : Act Unit :=
  if q.left ≤ 1 then completeMatrix g q else modWg g fun w => { w with mqueue := q.stepped m :: w.mqueue.tail }

theorem sameBut_endStep (s : State) (log : List Effect) (g : Nat) (q : MatrixCmd) (m : MloopArgs) :
    SameBut [.mem, .wgs] (after s log) (after s (endStep g q m s log).2) :=
  (Only.ite (Only.completeMatrix (by simp) (by simp) g q) (Only.modWg (by simp) _ _)).sameBut s log

theorem mem_endStep (s : State) (log : List Effect) (g : Nat) (q : MatrixCmd) (m : MloopArgs) :
    (after s (endStep g q m s log).2).mem = (after s log).mem := by
  unfold endStep
  split
  · exact mem_completeMatrix s log g q
  · exact ((Only.modWg (F := [.wgs]) (by simp) g _).sameBut s log).mem (by decide)

theorem wg_endStep {log : List Effect} (hg : g < (after s log).wgs.length) (q : MatrixCmd) (m : MloopArgs) :
    (after s (endStep g q m s log).2).wg g = ((after s log).wg g).stepped q m := by
  unfold endStep Workgroup.stepped
  split
  · exact wg_completeMatrix hg q
  · rw [run_modWg, after_cons, wg_apply_wg, if_pos ⟨rfl, hg⟩]

theorem takeStep_spec {log : List Effect} (hg : g < (after s log).wgs.length) (hp : (after s log).vis.picks = []) :
    let u := after s log
    let w := u.wg g
    let t := after s (takeStep g q m w s log).2
    SameBut [.clusters, .wgs, .accs, .badAccs, .mem] u t ∧ t.mem = u.mem ∧ t.accs = sparsePut u.accs (u.stepElems w q) ∧
      (∀ key, key ∈ t.badAccs ↔ key ∈ u.badAccs ∧ key ∉ w.accKeys q.op.acc q.tA.rows q.tB.cols) ∧ t.wg g = w.stepped q m := by
  intro u w t
  let log1 := (readTile g q q.reads s log).2
  let log2 := (writeAccs (u.stepElems w q) s log1).2
  let log3 := (modCluster w.cluster (fun c => c.tally (kindMatrix ((stepRow q.tA.fmt q.tB.fmt).getD 0)) 1) s log2).2
  have h1 : SameBut [.mem, .clusters] u (after s log1) := (Only.readTile (by simp) (by simp) g q q.reads).sameBut s log
  have hm1 : (after s log1).mem = u.mem := mem_readTile s log g q q.reads
  have hseen : ((readTile g q q.reads s log).1).stepElems w q = u.stepElems w q := by
    rw [seen_readTile (.inl hp)]
    exact congrFun (congrFun (SameTiles.of_sameBut h1 hm1 (by decide) (by decide) (by decide)).stepElems w) q
  have ht : t = after s (endStep g q m s log3).2 := by
    simp only [t]
    unfold takeStep
    rw [run_bind, hseen]
    rfl
  have h2 : SameBut [.badAccs, .accs] (after s log1) (after s log2) := (Only.writeAccs (by simp) (by simp) _).sameBut s log1
  have h3 : SameBut [.clusters] (after s log2) (after s log3) := (Only.modCluster (by simp) _ _).sameBut s log2
  have h4 := sameBut_endStep s log3 g q m
  have hw : (after s log3).wg = u.wg := by rw [h3.wg (by decide), h2.wg (by decide), h1.wg (by decide)]
  have hlen : g < (after s log3).wgs.length := by rwa [h3.wgs (by decide), h2.wgs (by decide), h1.wgs (by decide)]
  rw [ht]
  refine ⟨sameBut_trans (h1.mono (by simp)) (sameBut_trans (h2.mono (by simp)) (sameBut_trans (h3.mono (by simp)) (h4.mono (by simp)))),
    ?_, ?_, fun key => ?_, ?_⟩
  · rw [mem_endStep, h3.mem (by decide), h2.mem (by decide), hm1]
  · rw [h4.accs (by decide), h3.accs (by decide), accs_writeAccs, h1.accs (by decide)]
  · rw [h4.badAccs (by decide), h3.badAccs (by decide), mem_badAccs_writeAccs, h1.badAccs (by decide), stepElems_keys]
  · rw [wg_endStep hlen, hw]

/-- A command that stops on poison ends, and its role is owed the trap. -/
theorem poisonMatrix_spec {log : List Effect} {k op6 cause : Nat} {a : Word} (hg : g < (after s log).wgs.length)
    (hrole : ((after s log).wg g).ctxs[q.role]? = some k) (hk : k < (after s log).ctxs.length) (hs : ((after s log).ctx k).status ≠ .ended) :
    let u := after s log
    let t := after s (poisonMatrix g q op6 cause a s log).2
    SameBut [.mem, .wgs, .ctxs] u t ∧ t.mem = u.mem ∧ t.wg g = (u.wg g).matrixEnded q ∧ (t.ctx k).pending = (u.ctx k).pending ++
      [{ record := .of cause a (BitVec.ofNat 64 (op6 + q.op.acc * 256)) q.pc, seq := (u.ctx k).evSeq, wave := none }] := by
  intro u t
  let log1 := (completeMatrix g q s log).2
  let r : TrapRecord := .of cause a (BitVec.ofNat 64 (op6 + q.op.acc * 256)) q.pc
  have h1 : SameBut [.mem, .wgs] u (after s log1) := (Only.completeMatrix (by simp) (by simp) g q).sameBut s log
  have hwg : (after s log1).wg g = (u.wg g).matrixEnded q := wg_completeMatrix hg q
  have hctx : (after s log1).ctx = u.ctx := h1.ctx (by decide)
  have ht : t = after s (oweTrap k none r s log1).2 := by
    have hr : ((after s log1).wg g).ctxs[q.role]? = some k := by rw [hwg]; exact hrole
    simp only [t]
    unfold poisonMatrix
    rw [run_bind, run_bind_now, hr]
    rfl
  have howe := run_oweTrap (s := s) (log := log1) (k := k) (by rw [hctx]; exact hs) r
  rw [ht, howe, after_cons]
  refine ⟨sameBut_trans (h1.mono (by simp)) (sameBut_apply (by simp) _), ?_, hwg, ?_⟩
  · exact mem_completeMatrix s log g q
  · rw [ctx_apply_ctx, if_pos ⟨rfl, by rwa [h1.ctxs (by decide)]⟩, hctx]

theorem matrixStep_steps (hs : s.canonical) (hg : g < s.wgs.length) (hq : s.matrixHead g = some q) (hm : q.op = .mloop m) (hb : q.tB.cols ≤ 128)
    (hpoison : (s.cleared g q m).matrixPoison (s.wg g) q.addrs true ((s.wg g).accKeys q.op.acc q.tA.rows q.tB.cols) = none)
    (hp : s.vis.picks = []) : Happens (execMatrixStep g s) fun t =>
      t.wg g = (s.wg g).stepped q m ∧ SameBut [.clusters, .wgs, .accs, .badAccs, .mem] s t ∧ t.mem = s.mem ∧
        (∀ p ∈ (s.cleared g q m).stepElems (s.wg g) q, sparseGet t.accs p.1 = p.2) ∧
        (∀ key, key ∉ (s.wg g).accKeys q.op.acc q.tA.rows q.tB.cols → sparseGet t.accs key = sparseGet (s.cleared g q m).accs key) ∧
        (∀ key, key ∈ t.badAccs ↔ key ∈ (s.cleared g q m).badAccs ∧ key ∉ (s.wg g).accKeys q.op.acc q.tA.rows q.tB.cols) := by
  have hframe := sameBut_stepLog s g q m
  have hwg : (after s (stepLog s g q m)).wg g = s.wg g := congrFun (hframe.wg (by decide)) g
  obtain ⟨hmem, hpicks⟩ := vis_stepLog s g q m
  obtain ⟨haccs, hbad⟩ := accs_stepLog s g q m
  have helems := (sameTiles_stepLog s g q m).stepElems
  obtain ⟨h1, h2, h3, h4, h5⟩ := takeStep_spec (s := s) (g := g) (q := q) (m := m) (log := stepLog s g q m)
    (by rwa [hframe.wgs (by decide)]) (hpicks.trans hp)
  rw [hwg] at h1 h2 h3 h4 h5
  rw [haccs, helems] at h3
  rw [hbad] at h4
  have hkeys := stepElems_keys (s.cleared g q m) (s.wg g) q
  refine ⟨_, ?_, h5, sameBut_trans (hframe.mono (by simp)) h1, h2.trans hmem, fun p hp => ?_, fun key hk => ?_, h4⟩
  · rw [matrixStep_run hq hm, matrixPoison_stepLog, hpoison]
  · rw [h3]
    exact sparseGet_put_of_mem (wf_cleared hs) (hkeys ▸ nodup_accKeys _ _ hb) hp
  · rw [h3]
    exact sparseGet_put_of_notMem (wf_cleared hs) (hkeys ▸ hk)

theorem stepElem_i32 (hk : q.kind = .i32) (i c : Nat) : (s.cleared g q m).stepElem (s.wg g) q i c =
    let old := (sparseGet (s.cleared g q m).accs ((s.wg g).accKey q.op.acc i c)).toInt
    let new := old + ((List.range q.tA.cols).map fun n =>
      (s.operandVal (s.wg g) q.tA true i n).dy.m * (s.operandVal (s.wg g) q.tB false c n).dy.m).sum
    BitVec.ofInt 32 (if q.tA.sat = true ∨ q.tA.fmt = 7 then max (-2 ^ 31) (min (2 ^ 31 - 1) new) else new) := by
  have hvals : (s.cleared g q m).operandVal = s.operandVal := by
    unfold State.cleared
    dsimp only
    split <;> rfl
  have hkind : (q.kind == AccKind.i32) = true := by rw [hk]; decide
  unfold State.stepElem
  dsimp only
  rw [if_pos hkind, ofNat_intElem32, stepPairs_eq, hvals, List.map_map]
  simp only [Bool.or_eq_true, beq_iff_eq]
  rfl

theorem matrixStep_poisoned (hg : g < s.wgs.length) (hq : s.matrixHead g = some q) (hm : q.op = .mloop m) {cause k : Nat} {a : Word}
    (hpoison : (s.cleared g q m).matrixPoison (s.wg g) q.addrs true ((s.wg g).accKeys q.op.acc q.tA.rows q.tB.cols) = some (cause, a))
    (hrole : (s.wg g).ctxs[q.role]? = some k) (hk : k < s.ctxs.length) (hst : (s.ctx k).status ≠ .ended) :
    Happens (execMatrixStep g s) fun t => t.wg g = (s.wg g).matrixEnded q ∧
      (t.ctx k).pending = (s.ctx k).pending ++
        [{ record := .of cause a (BitVec.ofNat 64 (1 + q.op.acc * 256)) q.pc, seq := (s.ctx k).evSeq, wave := none }] ∧
      SameBut [.clusters, .wgs, .accs, .badAccs, .ctxs, .mem] s t ∧ t.mem = s.mem ∧ t.accs = (s.cleared g q m).accs ∧
      t.badAccs = (s.cleared g q m).badAccs := by
  have hframe := sameBut_stepLog s g q m
  have hwg : (after s (stepLog s g q m)).wg g = s.wg g := congrFun (hframe.wg (by decide)) g
  have hctx : (after s (stepLog s g q m)).ctx = s.ctx := hframe.ctx (by decide)
  obtain ⟨hmem, -⟩ := vis_stepLog s g q m
  obtain ⟨haccs, hbad⟩ := accs_stepLog s g q m
  obtain ⟨h1, h2, h3, h4⟩ := poisonMatrix_spec (s := s) (g := g) (q := q) (log := stepLog s g q m) (op6 := 1) (cause := cause) (a := a)
    (by rwa [hframe.wgs (by decide)]) (by rwa [hwg]) (by rwa [hframe.ctxs (by decide)]) (by rwa [hctx])
  rw [hwg] at h3
  rw [hctx] at h4
  refine ⟨_, ?_, h3, h4, sameBut_trans (hframe.mono (by simp)) (h1.mono (by simp)), h2.trans hmem, (h1.accs (by decide)).trans haccs,
    (h1.badAccs (by decide)).trans hbad⟩
  rw [matrixStep_run hq hm, matrixPoison_stepLog, hpoison]

end

/-! ### Writes of the newest bytes -/

section
variable {s : State} {log : List Effect}

theorem sparsePut_append {w : Nat} (m l k : List (Nat × BitVec w)) : sparsePut m (l ++ k) = sparsePut (sparsePut m l) k :=
  List.foldl_append

theorem mem_settleWrite (locs : List Nat) (r : List (Nat × Byte) × Visibility) :
    (after s (settleWrite locs r s log).2).mem = sparsePut (after s log).mem r.1 ∧ (after s (settleWrite locs r s log).2).vis = r.2 := by
  have htally := (Only.tallySpad (F := [.clusters]) (by simp) locs).sameBut s log
  have hclear := (Only.clearPoison (F := [.badDram, .badSram]) (by simp) (by simp) locs).sameBut s
    (.vis r.2 :: (putCells r.1).reverse ++ (tallySpad locs s log).2)
  refine ⟨(hclear.mem (by decide)).trans ?_, (hclear.vis (by decide)).trans ?_⟩
  · rw [List.cons_append, after_cons, mem_apply_vis, after_append, mem_applyAll_mem, htally.mem (by decide)]
  · rw [List.cons_append, after_cons]
    rfl

theorem mem_writeBy_newest (h : (after s log).vis.picks = []) (a : Actor) (cells : List (Nat × Byte)) :
    (after s (writeBy a [cells] s log).2).mem = sparsePut (after s log).mem cells ∧ (after s (writeBy a [cells] s log).2).vis.picks = [] := by
  obtain ⟨h1, h2⟩ := mem_settleWrite (s := s) (log := log) ([cells].flatMap fun u => u.map (·.1)) ((after s log).writeUnits a [cells])
  rw [(writeUnits_single_newest _ a cells h).1] at h1
  refine ⟨h1, (congrArg Visibility.picks h2).trans ?_⟩
  rw [State.writeUnits, picks_learn]
  simp [Visibility.write, h, place_zero, Visibility.insert]

theorem mem_each_writeBy_newest (h : (after s log).vis.picks = []) (a : Actor) (units : List (List (Nat × Byte))) :
    (after s (each units (fun u => writeBy a [u]) s log).2).mem = sparsePut (after s log).mem units.flatten := by
  induction units generalizing log with
  | nil => rfl
  | cons u us ih =>
    obtain ⟨hmem, hpicks⟩ := mem_writeBy_newest h a u
    have hrun : (each (u :: us) (fun u => writeBy a [u]) s log).2 = (each us (fun u => writeBy a [u]) s (writeBy a [u] s log).2).2 := rfl
    rw [hrun, ih hpicks, hmem, List.flatten_cons, sparsePut_append]

theorem flatten_chunks {α : Type} {n : Nat} (hn : 0 < n) (l : List α) : (chunks n l).flatten = l := by
  have htake (k : Nat) : ((List.range k).map fun i => (l.drop (i * n)).take n).flatten = l.take (k * n) := by
    induction k with
    | zero => simp
    | succ k ih => rw [List.range_succ, List.map_append, List.flatten_append, ih, Nat.succ_mul, List.take_add]; simp
  have hlen : l.length ≤ (l.length + n - 1) / n * n := by
    have hdiv := Nat.div_add_mod (l.length + n - 1) n
    have hmod := Nat.mod_lt (l.length + n - 1) hn
    rw [Nat.mul_comm]
    omega
  unfold chunks
  rw [Nat.max_eq_left hn, htake, List.take_of_length_le hlen]

theorem lastCells_of_nodup {cells : List (Nat × Byte)} (h : (cells.map (·.1)).Nodup) : lastCells cells = cells := by
  induction cells with
  | nil => rfl
  | cons c cells ih =>
    simp only [List.map_cons, List.nodup_cons] at h
    have hnot : ¬ (cells.any (·.1 == c.1)) = true := by
      rw [List.any_eq_true]
      rintro ⟨d, hd, hc⟩
      exact h.1 (List.mem_map.mpr ⟨d, hd, beq_iff_eq.mp hc⟩)
    rw [lastCells, if_neg hnot, ih h.2]

end

theorem tileElemBytes_pos (fmt : Nat) : 0 < tileElemBytes fmt := by
  unfold tileElemBytes
  split <;> decide

/-! ### MDRAIN_EXECUTE -/

section
variable {s : State} {g : Nat} {q : MatrixCmd} {m : MdrainArgs}

/-- The drain puts its bytes into memory. -/
theorem mem_drainTile {log : List Effect} (hn : (((after s log).drainBytes ((after s log).wg g) q m).map (·.1)).Nodup)
    (hp : m.addOn = true ∨ (after s log).vis.picks = []) : (after s (drainTile g q m s log).2).mem =
      sparsePut (after s log).mem ((after s log).drainBytes ((after s log).wg g) q m) := by
  unfold drainTile
  rw [run_bind_now, run_ite]
  split
  · let log0 : List Effect := .vis { (after s log).vis with picks := 0 :: (after s log).vis.picks } :: log
    let log1 := (readTile g q [q.addrs] s log0).2
    have h0 : SameBut [.mem] (after s log) (after s log0) := by
      simp only [log0, after_cons]
      exact sameBut_apply (by simp) _
    have hm0 : (after s log0).mem = (after s log).mem := by simp only [log0, after_cons, mem_apply_vis]
    have hp0 : (after s log0).vis.picks.headD 0 = 0 := by simp [log0]
    have h1 : SameBut [.mem, .clusters] (after s log0) (after s log1) := (Only.readTile (by simp) (by simp) g q [q.addrs]).sameBut s log0
    have hm1 : (after s log1).mem = (after s log).mem := (mem_readTile s log0 g q [q.addrs]).trans hm0
    have hsame := SameTiles.of_sameBut (sameBut_trans (h0.mono (by simp)) h1) hm1 (by decide) (by decide) (by decide)
    have hseen : (readTile g q [q.addrs] s log0).1 = after s log1 := seen_readTile (.inr ⟨hp0, rfl⟩)
    rw [run_bind, run_modVis, run_bind, hseen, hsame.drainBytes, lastCells_of_nodup hn]
    unfold writeUnder
    rw [run_bind_now, (mem_settleWrite _ _).1, (insert_on_top ..).1, hm1]
  · next hadd =>
    have hpicks := hp.resolve_left hadd
    rw [run_bind_now, run_bind, (Only.clearPoison (F := [.badDram, .badSram]) (by simp) (by simp) _).sameBut s _ |>.mem (by decide),
      mem_each_writeBy_newest hpicks, flatten_chunks (tileElemBytes_pos _)]

theorem mdrainExecute_run (hq : s.matrixHead g = some q) (hm : q.op = .mdrain m) : execMdrainExecute g s =
    .next (after s ((match s.matrixPoison (s.wg g) q.addrs m.addOn ((s.wg g).accKeys q.op.acc q.tA.rows q.tA.cols) with
      | some (cause, a) => poisonMatrix g q 2 cause a
      | none => drainTile g q m >>= fun _ => completeMatrix g q) s (grantMatrix g q s []).2).2) := by
  have hok : isMdrainHead s g = true := by simp [isMdrainHead, hq, hm]
  unfold execMdrainExecute
  rw [event_eq hok]
  simp only [hq, hm]
  rw [← hm]
  rfl

theorem sameTiles_grantMatrix (s : State) (g : Nat) (q : MatrixCmd) : SameTiles s (after s (grantMatrix g q s []).2) :=
  .of_sameBut (sameBut_grantMatrix s [] g q) (mem_grantMatrix s [] g q) (by decide) (by decide) (by decide)

theorem mdrainExecute_drains (hs : s.canonical) (hg : g < s.wgs.length) (hq : s.matrixHead g = some q) (hm : q.op = .mdrain m)
    (hpoison : s.matrixPoison (s.wg g) q.addrs m.addOn ((s.wg g).accKeys q.op.acc q.tA.rows q.tA.cols) = none)
    (hn : ((s.drainBytes (s.wg g) q m).map (·.1)).Nodup) (hp : m.addOn = true ∨ s.vis.picks = []) :
    Happens (execMdrainExecute g s) fun t => t.wg g = (s.wg g).matrixEnded q ∧
      SameBut [.clusters, .wgs, .mem, .badDram, .badSram] s t ∧ (∀ p ∈ s.drainBytes (s.wg g) q m, t.byte p.1 = p.2) ∧
      ∀ l, l ∉ (s.drainBytes (s.wg g) q m).map (·.1) → t.byte l = s.byte l := by
  let log1 := (grantMatrix g q s []).2
  let log2 := (drainTile g q m s log1).2
  have h1 := sameBut_grantMatrix s [] g q
  have h2 : SameBut [.mem, .badDram, .badSram, .clusters] (after s log1) (after s log2) :=
    (Only.drainTile (by simp) (by simp) (by simp) (by simp) g q m).sameBut s log1
  have h3 : SameBut [.mem, .wgs] (after s log2) (after s (completeMatrix g q s log2).2) :=
    (Only.completeMatrix (by simp) (by simp) g q).sameBut s log2
  have hcells : (after s log1).drainBytes ((after s log1).wg g) q m = s.drainBytes (s.wg g) q m := by
    rw [(sameTiles_grantMatrix s g q).drainBytes, h1.wg (by decide)]
    rfl
  have hmem : (after s (completeMatrix g q s log2).2).mem = sparsePut s.mem (s.drainBytes (s.wg g) q m) := by
    rw [mem_completeMatrix, mem_drainTile (by rwa [hcells]) (hp.imp_right (picks_grantMatrix s [] g q).trans), hcells]
    exact congrArg (sparsePut · _) (mem_grantMatrix s [] g q)
  refine ⟨after s (completeMatrix g q s log2).2, ?_, ?_, ?_, fun p hp => ?_, fun l hl => ?_⟩
  · rw [mdrainExecute_run hq hm, hpoison]
    rfl
  · rw [wg_completeMatrix (by rwa [h2.wgs (by decide), h1.wgs (by decide)]), h2.wg (by decide), h1.wg (by decide)]
    rfl
  · exact sameBut_trans (h1.mono (by simp)) (sameBut_trans (h2.mono (by simp)) (h3.mono (by simp)))
  · rw [State.byte, hmem, sparseGet_put_of_mem hs.1 hn hp]
  · rw [State.byte, hmem, sparseGet_put_of_notMem hs.1 hl]
    rfl

theorem mdrainExecute_poisoned (hg : g < s.wgs.length) (hq : s.matrixHead g = some q) (hm : q.op = .mdrain m) {cause k : Nat} {a : Word}
    (hpoison : s.matrixPoison (s.wg g) q.addrs m.addOn ((s.wg g).accKeys q.op.acc q.tA.rows q.tA.cols) = some (cause, a))
    (hrole : (s.wg g).ctxs[q.role]? = some k) (hk : k < s.ctxs.length) (hst : (s.ctx k).status ≠ .ended) :
    Happens (execMdrainExecute g s) fun t => t.wg g = (s.wg g).matrixEnded q ∧
      (t.ctx k).pending = (s.ctx k).pending ++
        [{ record := .of cause a (BitVec.ofNat 64 (2 + q.op.acc * 256)) q.pc, seq := (s.ctx k).evSeq, wave := none }] ∧
      SameBut [.clusters, .wgs, .ctxs, .mem] s t ∧ t.mem = s.mem := by
  have hframe := sameBut_grantMatrix s [] g q
  have hwg : (after s (grantMatrix g q s []).2).wg g = s.wg g := congrFun (hframe.wg (by decide)) g
  have hctx : (after s (grantMatrix g q s []).2).ctx = s.ctx := hframe.ctx (by decide)
  obtain ⟨h1, h2, h3, h4⟩ := poisonMatrix_spec (s := s) (g := g) (q := q) (log := (grantMatrix g q s []).2) (op6 := 2) (cause := cause)
    (a := a) (by rwa [hframe.wgs (by decide)]) (by rwa [hwg]) (by rwa [hframe.ctxs (by decide)]) (by rwa [hctx])
  rw [hwg] at h3
  rw [hctx] at h4
  refine ⟨_, ?_, h3, h4, sameBut_trans (hframe.mono (by simp)) (h1.mono (by simp)), h2.trans (mem_grantMatrix s [] g q)⟩
  rw [mdrainExecute_run hq hm, hpoison]

end

/-! ### MCLR_EXECUTE -/

section
variable {s : State} {g : Nat} {q : MatrixCmd}

theorem mclrExecute_clears (hg : g < s.wgs.length) (hq : s.matrixHead g = some q) {n : Nat} (hm : q.op = .mclr n) :
    Happens (execMclrExecute g s) fun t => t.wg g = (s.wg g).matrixEnded q ∧
      SameBut [.clusters, .wgs, .accs, .badAccs, .mem] s t ∧ t.mem = s.mem ∧
      t.accs = sparseClear s.accs ((s.wg g).accKey q.op.acc 0 0) ((s.wg g).accKey q.op.acc 0 0 + 2 ^ 14) := by
  let log1 := (grantMatrix g q s []).2
  let log2 := (clearAcc (s.wg g) q.op.acc s log1).2
  have h1 := sameBut_grantMatrix s [] g q
  have h2 : SameBut [.badAccs, .accs] (after s log1) (after s log2) := (Only.clearAcc (by simp) (by simp) _ _).sameBut s log1
  have h3 : SameBut [.mem, .wgs] (after s log2) (after s (completeMatrix g q s log2).2) :=
    (Only.completeMatrix (by simp) (by simp) g q).sameBut s log2
  refine ⟨after s (completeMatrix g q s log2).2, ?_, ?_, ?_, ?_, ?_⟩
  · have hok : isMclrHead s g = true := by simp [isMclrHead, hq, hm]
    unfold execMclrExecute
    rw [event_eq hok]
    simp only [hq]
    rfl
  · rw [wg_completeMatrix (by rwa [h2.wgs (by decide), h1.wgs (by decide)]), h2.wg (by decide), h1.wg (by decide)]
    rfl
  · exact sameBut_trans (h1.mono (by simp)) (sameBut_trans (h2.mono (by simp)) (h3.mono (by simp)))
  · rw [mem_completeMatrix, h2.mem (by decide)]
    exact mem_grantMatrix s [] g q
  · rw [h3.accs (by decide), accs_clearAcc, h1.accs (by decide)]
    rfl

/-! ### A head command of another kind -/

theorem matrixStep_idle (hq : s.matrixHead g = some q) (h : ∀ m, q.op ≠ .mloop m) : Idle "MATRIX_STEP" (execMatrixStep g s) := by
  refine idle_event ?_
  cases hop : q.op with
  | mloop m => exact absurd hop (h m)
  | mdrain | mclr => simp [isMloopHead, hq, hop]

theorem mdrainExecute_idle (hq : s.matrixHead g = some q) (h : ∀ m, q.op ≠ .mdrain m) : Idle "MDRAIN_EXECUTE" (execMdrainExecute g s) := by
  refine idle_event ?_
  cases hop : q.op with
  | mdrain m => exact absurd hop (h m)
  | mloop | mclr => simp [isMdrainHead, hq, hop]

theorem mclrExecute_idle (hq : s.matrixHead g = some q) (h : ∀ n, q.op ≠ .mclr n) : Idle "MCLR_EXECUTE" (execMclrExecute g s) := by
  refine idle_event ?_
  cases hop : q.op with
  | mclr n => exact absurd hop (h n)
  | mloop | mdrain => simp [isMclrHead, hq, hop]

end

/-- Settles O46: each command by what its grant reads, writes and ends. -/
theorem matrixEngine : Obligations.MatrixEngine := by
  intro s g q hs hg hq w lo ended owed
  refine ⟨fun m hm _ hb => ?_, fun m hm => ?_, fun n hm => ?_, matrixStep_idle hq, mdrainExecute_idle hq,
    mclrExecute_idle hq⟩
  · refine ⟨fun hpoison hp => ?_, fun cause a k hpoison hrole hk hst => ?_⟩
    · obtain ⟨t, hrun, hwg, hframe, hmem, helems, hother, hbad⟩ := matrixStep_steps hs hg hq hm hb hpoison hp
      refine ⟨t, hrun, ?_, hframe, hmem, helems, hother, hbad, fun hk i hi c hc => ?_⟩
      · unfold Workgroup.stepped at hwg
        split at hwg
        · next hleft =>
          rw [if_pos hleft]
          exact ⟨congrArg Workgroup.mqueue hwg, congrArg Workgroup.mdone hwg⟩
        · next hleft =>
          rw [if_neg hleft]
          exact ⟨congrArg Workgroup.mqueue hwg, (congrArg Workgroup.mdone hwg :)⟩
      · have hmemb : (w.accKey q.op.acc i c, (s.cleared g q m).stepElem w q i c) ∈ (s.cleared g q m).stepElems w q := by
          rw [stepElems_eq]
          exact List.mem_flatMap.mpr ⟨i, List.mem_range.mpr hi, List.mem_map.mpr ⟨c, List.mem_range.mpr hc, rfl⟩⟩
        exact (helems _ hmemb).trans (stepElem_i32 hk i c)
    · obtain ⟨t, hrun, hwg, howed, hframe, hmem, haccs, hbad⟩ := matrixStep_poisoned hg hq hm hpoison hrole hk hst
      exact ⟨t, hrun, ⟨congrArg Workgroup.mqueue hwg, congrArg Workgroup.mdone hwg⟩, howed, hframe, hmem, haccs, hbad⟩
  · refine ⟨fun hpoison hn hp => ?_, fun cause a k hpoison hrole hk hst => ?_⟩
    · obtain ⟨t, hrun, hwg, hframe, hbytes, hother⟩ := mdrainExecute_drains hs hg hq hm hpoison hn hp
      exact ⟨t, hrun, ⟨congrArg Workgroup.mqueue hwg, congrArg Workgroup.mdone hwg⟩, hframe, hbytes, hother⟩
    · obtain ⟨t, hrun, hwg, howed, hframe, hmem⟩ := mdrainExecute_poisoned hg hq hm hpoison hrole hk hst
      exact ⟨t, hrun, ⟨congrArg Workgroup.mqueue hwg, congrArg Workgroup.mdone hwg⟩, howed, hframe, hmem⟩
  · obtain ⟨t, hrun, hwg, hframe, hmem, haccs⟩ := mclrExecute_clears hg hq hm
    refine ⟨t, hrun, ⟨congrArg Workgroup.mqueue hwg, congrArg Workgroup.mdone hwg⟩, hframe, hmem, fun key => ?_⟩
    rw [haccs]
    exact sparseGet_clear ..

end Sys2Proof.Machine
end

section
/-! # A loft fill that reaches a gang's barriers

A loft line that holds poison stops the replay of the context that waits for it, and the end of a replay lets the context's role leave its
barriers once its workgroup names an ENDED context for that role. The statement speaks of every state with tables of their sizes; in
one whose workgroup names another context for the role, the role leaves a gang barrier, and the gang changes. -/
namespace Sys2Proof.Machine

/-- A gang barrier that two roles still owe. -/
def crossedBarrier : Barrier := { phases := 0, arrived := 0, perPhase := 2 }

/-- Context 0 waits for the loft line of fill 0, at a poisoned location; its workgroup names the ENDED context 1 for the role of both. -/
def crossedRoles : State :=
  { State.reset with
    badDram := [0]
    ctxs := State.reset.ctxs.set 1 { Context.free with status := .ended }
    clusters := State.reset.clusters.set 0 { Cluster.reset 0 with
      loftFills := [{ ctxid := 0, line := 0, pa := 0, waiter := some 0, hint := .default }] }
    wgs := [{ Workgroup.blank with ctxs := [1], header := { Header.blank with gangReq := true, gbars := 1 } }]
    gangs := [{ Gang.blank with gbars := [crossedBarrier] }] }

/-- The gang barrier once the role of the ENDED context has left it. -/
theorem crossedRoles_leaves : (match execLoftLineFill 0 0 crossedRoles with
    | .next t => (t.gang 0).gbars
    | _ => []) = [{ phases := 0, arrived := 0, perPhase := 1 }] := by
  rfl

theorem sized_crossedRoles : crossedRoles.sized := by
  obtain ⟨hctxs, hwaves, hclusters, htables⟩ := sized_reset
  exact ⟨List.length_set.trans hctxs, hwaves, List.length_set.trans hclusters, htables⟩

/-- Refutes O45: the poisoned loft fill of `crossedRoles` changes a gang, which its frame says stays. -/
theorem not_cacheFillsAndWalks : ¬ Obligations.CacheFillsAndWalks := by
  intro h
  obtain ⟨-, -, -, -, -, hloft, -⟩ := h crossedRoles 0 0 0 0 sized_crossedRoles
  obtain ⟨t, hrun, -, -, hframe⟩ := (hloft _ 0 0 (by decide) rfl rfl rfl rfl (by decide)).2 rfl (by decide)
  have hleft := crossedRoles_leaves
  rw [show execLoftLineFill 0 0 crossedRoles = .next t from hrun] at hleft
  have hsame : (t.gang 0).gbars = [crossedBarrier] := by
    rw [hframe.gang (by decide)]
    rfl
  exact absurd (hsame.symm.trans hleft) (by decide)

end Sys2Proof.Machine
end

section
/-! # Requests of the host and of other packages, and completions -/
namespace Sys2Proof.Machine

/-! ### Spans cut into pieces -/

/-- The pieces of a span at 2 KiB units hold its bytes. -/
theorem sum_cutSpan (a n : Nat) : ((cutSpan 2048 a n).map (·.2)).sum = n := by
  have hprefix (k : Nat) (hk : k ≤ (a % 2048 + n + 2048 - 1) / 2048) :
      ((List.range k).map fun i => min (a + n) ((a / 2048 + i + 1) * 2048) - max a ((a / 2048 + i) * 2048)).sum =
        min (a + n) (max a ((a / 2048 + k) * 2048)) - a := by
    induction k with
    | zero => simp; omega
    | succ k ih =>
      rw [List.range_succ, List.map_append, List.sum_append, ih (by omega)]
      simp only [List.map_cons, List.map_nil, List.sum_cons, List.sum_nil]
      omega
  have hall := hprefix _ le_rfl
  unfold cutSpan
  rw [List.map_map]
  refine Eq.trans ?_ (hall.trans (by omega))
  rfl

@[simp] theorem length_locRange (loc n : Nat) : (locRange loc n).length = n := by
  simp [locRange]

theorem length_requestLocs {s : State} {part : Nat} {need : Need} {a n : Nat} {locs : List Nat} (h : s.requestLocs part need a n = some locs) :
    locs.length = n := by
  unfold State.requestLocs at h
  dsimp only at h
  split at h
  · cases h
  · cases h
    rw [List.length_flatMap]
    simp only [length_locRange, zip_map_self, List.map_map]
    exact sum_cutSpan a n

/-! ### Performing a request -/

section
variable {s : State} {part : Nat} {a : HostAcc}

/-- The locations of a request that the tables admit. -/
def State.placesOf (s : State) (part : Nat) (a : HostAcc) : Option (List Nat) :=
  s.requestLocs part (accNeed a) (accSpan a).1 (accSpan a).2

theorem performRequest_refused {log : List Effect} (h : (after s log).placesOf part a = none ∨ accLegal a = false) :
    performRequest part a s log = ((), log) := by
  unfold performRequest
  rw [run_bind_now]
  cases hp : (after s log).placesOf part a with
  | none =>
    unfold State.placesOf at hp
    rw [hp]
    rfl
  | some locs =>
    have hlegal := h.resolve_left (by rw [hp]; simp)
    unfold State.placesOf at hp
    rw [hp]
    dsimp only
    rw [hlegal]
    rfl

/-- The lines of a request stand in the L2 of their die. -/
def touchLines (locs : List Nat) : Act Unit := each ((locs.map (· / 128 * 128)).dedup) fun l => touchL2 l .default

theorem sameBut_touchLines (locs : List Nat) (s : State) (log : List Effect) :
    SameBut [.dies] (after s log) (after s (touchLines locs s log).2) :=
  (Only.each fun _ => Only.touchL2 (by simp) _ _).sameBut s log

theorem performRequest_run {log : List Effect} {locs : List Nat} (hp : (after s log).placesOf part a = some locs) (hl : accLegal a = true) :
    performRequest part a s log = (match accResult a ((after s log).readLocs locs) with
      | some b => writeLocs locs b
      | none => pure ()) s (touchLines locs s log).2 := by
  unfold State.placesOf at hp
  unfold performRequest
  rw [run_bind_now, hp]
  dsimp only
  rw [hl]
  rfl

/-- What a performed request leaves in memory. -/
def State.requestDone (s t : State) (a : HostAcc) (locs : List Nat) : Prop :=
  match a with
  | .read _ _ => t.mem = s.mem
  | .write _ bs => ∀ i < bs.length, t.byte (locs.getD i 0) = bs.getD i 0
  | .fetchAdd _ n v => t.readLocs locs = (s.readLocs locs + v.toNat) % 2 ^ (8 * n)
  | .swap _ n v => t.readLocs locs = v.toNat % 2 ^ (8 * n)
  | .cas _ n e v => t.readLocs locs = if s.readLocs locs = e.toNat % 2 ^ (8 * n) then v.toNat % 2 ^ (8 * n) else s.readLocs locs

/-- Bytes written to distinct locations: each stands at its own, and every other location keeps its byte. -/
theorem readLocs_writeLocs {log : List Effect} (h : (after s log).canonical) {locs : List Nat} {bytes : List Byte} (hn : locs.Nodup)
    (hl : bytes.length = locs.length) : (after s (writeLocs locs bytes s log).2).readLocs locs = leNat bytes := by
  unfold State.readLocs
  refine congrArg leNat (List.ext_getElem (by simp [hl]) fun i h1 h2 => ?_)
  rw [List.getElem_map, byte_writeLocs_getElem h hn hl (by simpa using h1)]
  exact List.getD_eq_getElem _ _ h2

theorem leNat_leBytes_bits (n x : Nat) : leNat (leBytes n x) = x % 2 ^ (8 * n) := by
  rw [Sys2Proof.Laws.RoundTrip.leNat_leBytes, Nat.pow_mul]

theorem performRequest_done {log : List Effect} {locs : List Nat} (hc : (after s log).canonical) (hp : (after s log).placesOf part a = some locs)
    (hl : accLegal a = true) (hn : locs.Nodup) :
    let t := after s (performRequest part a s log).2
    (∀ l, l ∉ locs → t.byte l = (after s log).byte l) ∧ (after s log).requestDone t a locs := by
  have hlen : locs.length = (accSpan a).2 := length_requestLocs hp
  have htouch := sameBut_touchLines locs s log
  have hmem : (after s (touchLines locs s log).2).mem = (after s log).mem := htouch.mem (by decide)
  have hcanon : (after s (touchLines locs s log).2).canonical := canonical_run (Only.each fun _ => Only.touchL2 (F := [.dies]) (by simp) _ _) hc
  have hread : (after s (touchLines locs s log).2).readLocs = (after s log).readLocs := htouch.readLocs (by decide)
  have hout (bytes : List Byte) (l : Nat) (h : l ∉ locs) :
      (after s (writeLocs locs bytes s (touchLines locs s log).2).2).byte l = (after s log).byte l :=
    (byte_writeLocs_of_notMem hcanon bytes h).trans (byte_of_mem hmem l)
  rw [performRequest_run hp hl]
  cases a with
  | read o n => exact ⟨fun l _ => byte_of_mem hmem l, hmem⟩
  | write o bs =>
    refine ⟨hout bs, fun i hi => ?_⟩
    have hi' : i < locs.length := hlen.symm ▸ hi
    rw [List.getD_eq_getElem _ _ hi']
    exact byte_writeLocs_getElem hcanon hn hlen.symm hi'
  | fetchAdd o n v =>
    exact ⟨hout _, (readLocs_writeLocs hcanon hn (by rw [Sys2Proof.Laws.RoundTrip.leBytes_length, hlen]; rfl)).trans (leNat_leBytes_bits ..)⟩
  | swap o n v =>
    exact ⟨hout _, (readLocs_writeLocs hcanon hn (by rw [Sys2Proof.Laws.RoundTrip.leBytes_length, hlen]; rfl)).trans (leNat_leBytes_bits ..)⟩
  | cas o n e v =>
    unfold accResult State.requestDone
    dsimp only
    split
    · exact ⟨hout _, (readLocs_writeLocs hcanon hn (by rw [Sys2Proof.Laws.RoundTrip.leBytes_length, hlen]; rfl)).trans (leNat_leBytes_bits ..)⟩
    · exact ⟨fun l _ => byte_of_mem hmem l, congrFun hread locs⟩

end

/-! ### What a performed request leaves and answers -/

section
variable {s : State} {part : Nat} {a : HostAcc}

/-- A request that the tables admit is performed; one that they refuse changes nothing but its completion and its link. -/
def State.performs (s : State) (part : Nat) (a : HostAcc) (t : State) : Prop :=
  (s.placesOf part a = none ∨ accLegal a = false → SameBut [.dev, .links] s t) ∧
  ∀ locs, s.placesOf part a = some locs → locs.Nodup → accLegal a = true →
    SameBut [.mem, .badDram, .badSram, .dies, .dev, .links] s t ∧ (∀ l, l ∉ locs → t.byte l = s.byte l) ∧ s.requestDone t a locs

theorem State.requestDone_of_mem {s t u : State} {locs : List Nat} (h : s.requestDone t a locs) (hm : u.mem = t.mem) : s.requestDone u a locs := by
  have hb : u.byte = t.byte := funext fun l => byte_of_mem hm l
  have hr : u.readLocs = t.readLocs := funext fun ls => by simp only [State.readLocs, hb]
  cases a with
  | read o n => exact hm.trans h
  | write o bs => exact fun i hi => (congrFun hb _).trans (h i hi)
  | fetchAdd o n v => exact (congrFun hr _).trans h
  | swap o n v => exact (congrFun hr _).trans h
  | cas o n e v => exact (congrFun hr _).trans h

/-- What follows a request touches the device and the links only. -/
theorem performs_performRequest (hc : s.canonical) (t : State) (h : SameBut [.dev, .links] (after s (performRequest part a s []).2) t) :
    s.performs part a t := by
  have hmem : t.mem = (after s (performRequest part a s []).2).mem := h.mem (by decide)
  refine ⟨fun hr => ?_, fun locs hp hn hl => ?_⟩
  · rw [performRequest_refused (log := []) hr] at h
    exact h
  · obtain ⟨hout, hdone⟩ := performRequest_done (log := []) hc hp hl hn
    exact ⟨sameBut_trans ((Only.performRequest (F := [.mem, .badDram, .badSram, .dies, .dev, .links]) (by simp) (by simp) (by simp) (by simp) part a).sameBut s [])
      (h.mono (by simp)), fun l hl => (byte_of_mem hmem l).trans (hout l hl), State.requestDone_of_mem hdone hmem⟩

theorem sameBut_performRequest (s : State) (part : Nat) (a : HostAcc) :
    SameBut [.mem, .badDram, .badSram, .dies] s (after s (performRequest part a s []).2) :=
  (Only.performRequest (by simp) (by simp) (by simp) (by simp) part a).sameBut s []

/-! ### HOST_BAR2_ACCESS -/

/-- The device with the completion of a function's request. -/
def Device.withReply (d : Device) (func : Nat) (st : ReplyStatus) (bytes : List Byte) : Device :=
  { d with reply := some { func := func, status := st, bytes := bytes, failures := d.failures } }

theorem run_replyTo (func : Nat) (st : ReplyStatus) (bytes : List Byte) (s : State) (log : List Effect) :
    replyTo func st bytes s log = ((), .dev ((after s log).dev.withReply func st bytes) :: log) := rfl

/-- A host request fits its packet (R410). -/
def requestFits : HostAcc → Prop
  | .read _ n => n ≤ 4096
  | .write _ bs => bs.length ≤ 512
  | _ => True

theorem accFits_iff (a : HostAcc) : accFits a = true ↔ requestFits a := by
  cases a <;> simp [accFits, requestFits]

variable {f p : Nat}

theorem hostBar2Access_goes (hf : requestFits a) (hb : s.dev.partOf f = some p) (hh : s.requestHeld p a = false) :
    execHostBar2Access f a s = .next (after s ((if dramEnd < (accSpan a).1 + (accSpan a).2 then
        replyTo f .unsupported (accReply a (List.replicate (accSpan a).2 0xFF))
      else do
        performRequest p a
        if accPosted a then pure () else replyTo f (s.requestReply p a).1 (s.requestReply p a).2 : Act Unit) s []).2) := by
  unfold execHostBar2Access
  rw [event_eq (by simp [(accFits_iff a).2 hf, hb, hh])]
  unfold forPart
  rw [run_bind_now, after_nil, hb]

/-- The device after a performed request of the host. -/
def State.devAnswered (s : State) (f p : Nat) (a : HostAcc) : Device :=
  match a with
  | .write _ _ => s.dev
  | _ => s.dev.withReply f (s.requestReply p a).1 (s.requestReply p a).2

theorem hostBar2Access_performed (hs : s.canonical) (hf : requestFits a) (hb : s.dev.partOf f = some p) (hh : s.requestHeld p a = false)
    (hspan : (accSpan a).1 + (accSpan a).2 ≤ dramEnd) :
    Happens (execHostBar2Access f a s) fun t => s.performs p a t ∧ t.links = s.links ∧ t.dev = s.devAnswered f p a := by
  have hframe := sameBut_performRequest s p a
  have hdev := hframe.dev (by decide)
  have hlinks := hframe.links (by decide)
  rw [hostBar2Access_goes hf hb hh, if_neg (by omega)]
  refine ⟨_, rfl, ?_⟩
  cases a with
  | write o bs => exact ⟨performs_performRequest hs _ (sameBut_refl ..), hlinks, hdev⟩
  | _ =>
    rw [run_bind, if_neg (by simp [accPosted]), run_replyTo, after_cons]
    refine ⟨performs_performRequest hs _ (sameBut_apply (by simp [Effect.writes]) _), hlinks, ?_⟩
    rw [dev_apply_dev, hdev]
    rfl

theorem hostBar2Access_above (hf : requestFits a) (hb : s.dev.partOf f = some p) (hh : s.requestHeld p a = false)
    (hspan : dramEnd < (accSpan a).1 + (accSpan a).2) :
    Happens (execHostBar2Access f a s) fun t => t = { s with dev := s.dev.withReply f .unsupported (accReply a (List.replicate (accSpan a).2 0xFF)) } := by
  rw [hostBar2Access_goes hf hb hh, if_pos hspan]
  exact ⟨_, rfl, rfl⟩

theorem hostBar2Access_unbound (hf : requestFits a) (hb : s.dev.partOf f = none) :
    Happens (execHostBar2Access f a s) fun t => t = { s with dev := s.dev.withReply f .unsupported [] } := by
  refine happens_event (by simp [(accFits_iff a).2 hf, hb]) ?_
  unfold forPart
  rw [run_bind_now, after_nil, hb]
  rfl

theorem hostBar2Access_idle (h : ¬ requestFits a ∨ s.dev.partOf f = some p ∧ s.requestHeld p a = true) :
    Idle "HOST_BAR2_ACCESS" (execHostBar2Access f a s) := by
  refine idle_event ?_
  rcases h with h | ⟨hb, hh⟩
  · rw [Bool.eq_false_iff.2 fun hf => h ((accFits_iff a).1 hf), Bool.false_and]
  · simp [hb, hh]

end


/-! ### Routes to another package (R417) -/

section
variable {s : State} {p u l : Nat}

theorem mem_routeLinks {st : LinkStatus} (h : l ∈ s.routeLinks p st) :
    (s.link l).status = st ∧ l < 16 ∧ ∃ m, (p, m) ∈ s.dev.routes ∧ m.getLsbD l = true := by
  unfold State.routeLinks at h
  simp only [List.mem_filter, List.mem_range, Bool.and_eq_true, beq_iff_eq] at h
  obtain ⟨hl, hmask, hstatus⟩ := h
  refine ⟨hstatus, hl, ?_⟩
  split at hmask
  · next r hr =>
    have hp : r.1 = p := by simpa using List.find?_some hr
    exact ⟨r.2, hp ▸ List.mem_of_find?_eq_some hr, hmask⟩
  · simp at hmask

theorem routeLink_facts (h : s.routeLink p u = some l) :
    (s.link l).status = .up ∧ l < 16 ∧ ∃ m, (p, m) ∈ s.dev.routes ∧ m.getLsbD l = true :=
  mem_routeLinks (List.mem_of_getElem? h)

/-- Traffic for a package that is reached has a link for each of its units. -/
theorem routeLink_of_leaves (h : s.packageWay p = .leaves) (u : Nat) : ∃ l, s.routeLink p u = some l := by
  have hup : s.routeLinks p .up ≠ [] := fun he => by
    unfold State.packageWay at h
    rw [he] at h
    revert h
    cases (s.routeLinks p .retraining).isEmpty <;> simp
  have hpos := List.length_pos_of_ne_nil hup
  have hlt : Config.routeHash u % max (s.routeLinks p .up).length 1 < (s.routeLinks p .up).length := by
    rw [max_eq_left hpos]
    exact Nat.mod_lt _ hpos
  exact ⟨_, List.getElem?_eq_getElem hlt⟩

theorem routeLink_congr {t : State} (hd : t.dev = s.dev) (hl : ∀ j, (t.link j).status = (s.link j).status) : t.routeLink = s.routeLink := by
  funext p u
  simp only [State.routeLink, State.routeLinks, hd, hl]

/-- A span within one 4 KiB unit is one piece. -/
theorem cutSpan_within {a n unit : Nat} (hn : 0 < n) (h : a % unit + n ≤ unit) : cutSpan unit a n = [(a, n)] := by
  have hunit : 0 < unit := by omega
  have hcount : (a % unit + n + unit - 1) / unit = 1 := by
    rw [Nat.div_eq_iff hunit]
    omega
  have hlo : a / unit * unit ≤ a := Nat.div_mul_le_self ..
  have hhi : a + n ≤ (a / unit + 1) * unit := by
    have := Nat.div_add_mod a unit
    rw [Nat.add_mul, Nat.one_mul, Nat.mul_comm]
    omega
  unfold cutSpan
  rw [hcount]
  simp [max_eq_left hlo, min_eq_left hhi]

theorem accPart_whole (a : HostAcc) : accPart a (accSpan a) = a := by
  cases a <;> simp [accPart, accSpan]

end

/-! ### REMOTE_REQUEST (R417) -/

section
variable {s : State} {link package : Nat} {a : HostAcc}

/-- A link takes a unit for another package. -/
def State.linkSent (s : State) (l p u : Nat) : Effect := .link l { s.link l with sent := some (p, u) }

theorem forward_within (hs : s.sized) (hw : s.packageWay package = .leaves) (hn : 0 < (accSpan a).2)
    (hu : (accSpan a).1 % 4096 + (accSpan a).2 ≤ 4096) :
    ∃ l, s.routeLink package ((accSpan a).1 / 4096) = some l ∧
      (after s (forward package a s []).2).link l = { s.link l with sent := some (package, (accSpan a).1 / 4096), passed := some a } ∧
      ∀ j, j ≠ l → (after s (forward package a s []).2).link j = s.link j := by
  obtain ⟨l, hl⟩ := routeLink_of_leaves hw ((accSpan a).1 / 4096)
  obtain ⟨-, -, -, -, -, -, -, hlinks⟩ := hs
  have hlen : l < s.links.length := hlinks ▸ (routeLink_facts hl).2.1
  let sent := s.linkSent l package ((accSpan a).1 / 4096)
  have hsend : sendFar package (accSpan a).1 s [] = ((), [sent]) := by
    unfold sendFar
    rw [run_bind_now, after_nil, hl]
    rfl
  have hstatus (j : Nat) : ((sent.apply s).link j).status = (s.link j).status := by
    simp only [sent, State.linkSent, link_apply_link]
    split <;> simp_all
  have hroute : (sent.apply s).routeLink package ((accSpan a).1 / 4096) = some l :=
    (congrFun (congrFun (routeLink_congr (s := s) (t := sent.apply s) rfl hstatus) package) _).trans hl
  have hrun : (forward package a s []).2 = [.link l { (sent.apply s).link l with passed := some a }, sent] := by
    unfold forward
    rw [cutSpan_within hn hu]
    unfold each
    rw [run_bind, run_bind, hsend]
    rw [run_bind_now, after_cons, after_nil]
    dsimp only
    rw [hroute]
    dsimp only
    rw [run_modLink]
    exact congrArg (fun b => [Effect.link l { (sent.apply s).link l with passed := some b }, sent]) (accPart_whole a)
  have hlink (j : Nat) : (after s (forward package a s []).2).link j =
      if j = l then { s.link l with sent := some (package, (accSpan a).1 / 4096), passed := some a } else s.link j := by
    rw [hrun]
    simp only [after_cons, after_nil, link_apply_link, sent, State.linkSent, links_apply_link, List.length_set]
    split <;> simp_all
  exact ⟨l, hl, (hlink l).trans (if_pos rfl), fun j hj => (hlink j).trans (if_neg hj)⟩

/-- A request of another package is performed and answered by its link. -/
theorem remoteRequest_performed (hs : s.sized) (hc : s.canonical) (hlink : link < 16) (hup : (s.link link).status = .up)
    (hp : package = s.dev.package) (hh : s.requestHeld (s.link link).part a = false) :
    Happens (execRemoteRequest link package a s) fun t => s.performs (s.link link).part a t ∧ t.dev = s.dev ∧
      (∀ j, j ≠ link → t.link j = s.link j) ∧ t.link link = { s.link link with
        answer := some ((s.requestReply (s.link link).part a).1 == .done, (s.requestReply (s.link link).part a).2) } := by
  have hframe := sameBut_performRequest s (s.link link).part a
  have hlinks := hframe.link (by decide)
  obtain ⟨-, -, -, -, -, -, -, hlen⟩ := sized_after hs (performRequest (s.link link).part a s []).2
  refine happens_event (by rw [hup, if_pos hp, hh]; rfl) ?_
  rw [if_pos hp, run_bind, run_modLink, after_cons, hlinks]
  refine ⟨performs_performRequest hc _ (sameBut_apply (by simp [Effect.writes]) _), hframe.dev (by decide), fun j hj => ?_, ?_⟩
  · rw [link_apply_link, if_neg (by simp [hj]), hlinks]
  · rw [link_apply_link, if_pos ⟨rfl, by omega⟩]

theorem remoteRequest_forwarded (hs : s.sized) (hup : (s.link link).status = .up) (hp : package ≠ s.dev.package)
    (hw : s.packageWay package = .leaves) : Happens (execRemoteRequest link package a s) fun t => SameBut [.links] s t ∧
      (0 < (accSpan a).2 → (accSpan a).1 % 4096 + (accSpan a).2 ≤ 4096 → ∃ l, s.routeLink package ((accSpan a).1 / 4096) = some l ∧
        t.link l = { s.link l with sent := some (package, (accSpan a).1 / 4096), passed := some a } ∧ ∀ j, j ≠ l → t.link j = s.link j) := by
  refine happens_event (by rw [hup, if_neg hp, hw]; rfl) ?_
  rw [if_neg hp, if_pos hw]
  exact ⟨(Only.forward (by simp) package a).sameBut s [], forward_within hs hw⟩

theorem remoteRequest_fails (hs : s.sized) (hlink : link < 16) (hup : (s.link link).status = .up) (hp : package ≠ s.dev.package)
    (hw : s.packageWay package = .fails) : Happens (execRemoteRequest link package a s) fun t => SameBut [.links] s t ∧
      t.link link = { s.link link with answer := some (false, []) } ∧ ∀ j, j ≠ link → t.link j = s.link j := by
  obtain ⟨-, -, -, -, -, -, -, hlen⟩ := hs
  refine happens_event (by rw [hup, if_neg hp, hw]; rfl) ?_
  rw [if_neg hp, if_neg (by simp [hw]), run_modLink, after_cons, after_nil]
  refine ⟨sameBut_apply (by simp [Effect.writes]) s, ?_, fun j hj => ?_⟩
  · rw [link_apply_link, if_pos ⟨rfl, by omega⟩]
  · rw [link_apply_link, if_neg (by simp [hj])]

theorem remoteRequest_idle (h : (s.link link).status ≠ .up ∨ package = s.dev.package ∧ s.requestHeld (s.link link).part a = true ∨
    package ≠ s.dev.package ∧ s.packageWay package = .waits) : Idle "REMOTE_REQUEST" (execRemoteRequest link package a s) := by
  refine idle_event ?_
  rcases h with h | ⟨hp, hh⟩ | ⟨hp, hw⟩
  · rw [beq_false_of_ne h, Bool.false_and]
  · rw [if_pos hp, hh, Bool.not_true, Bool.and_false]
  · rw [if_neg hp, hw]
    exact Bool.and_false _

end


/-! ### Units of memory -/

theorem flatten_wordUnits {α : Type} (key : α → Nat) (l : List α) : (wordUnits key l).flatten = l := by
  induction l with
  | nil => rfl
  | cons x l ih =>
    unfold wordUnits
    split
    · next h => rw [h] at ih; rw [← ih]; rfl
    · next u us h =>
      rw [h] at ih
      rw [← ih]
      cases u with
      | nil => rfl
      | cons y u =>
        dsimp only
        split <;> rfl

theorem readBy_newest {s : State} {log : List Effect} (h : (after s log).vis.picks = []) (a : Actor) (units : List (List Nat)) :
    (readBy a units s log).1.1 = units.map (·.map (after s log).byte) :=
  (readUnits_newest h a units).1

/-- The bytes of an access, word by word, where no choice is open. -/
theorem readWords_newest {s : State} {log : List Effect} (h : (after s log).vis.picks = []) (a : Actor) (locs : List Nat) :
    (readBy a (wordUnits id locs) s log).1.1.flatten = locs.map (after s log).byte := by
  rw [readBy_newest h, ← List.map_flatten, flatten_wordUnits]

/-! ### Completions for a context -/

section
variable {s : State} {k : Nat} {ok : Bool}

/-- The device once a request has gone out to the host for a context. -/
def State.asking (s : State) (ctxid : Nat) : Device := { s.dev with requester := s.dev.functionOf (s.dctx ctxid).desc.part }

/-- The completion of a far request is that of the agent, behind the requester ID of a request to the host. -/
theorem hostCompletion_run {w : Agent} (h : s.awaitsFar w = true) :
    execHostCompletion w ok s = .next (after s (completeAgent w ok s [.dev (s.asking (s.agentCtxid w))]).2) := event_eq h _

theorem remoteCompletion_run {w : Agent} (h : s.awaitsFar w = true) :
    execRemoteCompletion w ok s = .next (after s (completeAgent w ok s []).2) := event_eq h _

theorem completion_idle {w : Agent} (h : s.awaitsFar w = false) :
    Idle "HOST_COMPLETION" (execHostCompletion w ok s) ∧ Idle "REMOTE_COMPLETION" (execRemoteCompletion w ok s) :=
  ⟨idle_event h, idle_event h⟩

theorem awaitsFar_context (hst : (s.ctx k).status = .stalled .host) (hr : (s.ctx k).reply = none) : s.awaitsFar (.context k) = true := by
  simp [State.awaitsFar, hst, hr]

theorem awaitsFar_fetch {fl : Fill} (h : s.hostFetch k = some fl) : s.awaitsFar (.context k) = true := by
  simp [State.awaitsFar, h]

theorem run_completeContext {log : List Effect} (h : (after s log).hostFetch k = none) :
    completeAgent (.context k) ok s log = ((), .ctx k { (after s log).ctx k with reply := some ok } :: log) := by
  unfold completeAgent
  rw [run_bind_now]
  dsimp only
  rw [h]
  rfl

/-- Only context k has its answer. -/
def State.toldContext (s : State) (k : Nat) (ok : Bool) (t : State) : Prop :=
  (∀ j, j ≠ k → t.ctx j = s.ctx j) ∧ t.ctx k = { s.ctx k with reply := some ok }

theorem toldContext_apply (hk : k < s.ctxs.length) (ok : Bool) : s.toldContext k ok (Effect.apply s (.ctx k { s.ctx k with reply := some ok })) := by
  refine ⟨fun j hj => ?_, ?_⟩
  · rw [ctx_apply_ctx, if_neg (by simp [hj])]
  · rw [ctx_apply_ctx, if_pos ⟨rfl, hk⟩]

theorem completion_context (hs : s.sized) (hk : k < 512) (hst : (s.ctx k).status = .stalled .host) (hr : (s.ctx k).reply = none)
    (hf : s.hostFetch k = none) :
    (Happens (execHostCompletion (.context k) ok s) fun t => SameBut [.ctxs, .dev] s t ∧ s.toldContext k ok t ∧ t.dev = s.asking (s.ctx k).ctxid) ∧
      Happens (execRemoteCompletion (.context k) ok s) fun t => SameBut [.ctxs] s t ∧ s.toldContext k ok t := by
  obtain ⟨hctxs, -⟩ := hs
  have hlen : k < s.ctxs.length := by omega
  have hw := awaitsFar_context hst hr
  refine ⟨⟨_, hostCompletion_run hw, ?_⟩, ⟨_, remoteCompletion_run hw, ?_⟩⟩
  · rw [run_completeContext (log := [.dev (s.asking (s.agentCtxid (.context k)))]) hf]
    exact ⟨by simp [SameBut], toldContext_apply (s := Effect.apply s (.dev (s.asking (s.ctx k).ctxid))) hlen ok, rfl⟩
  · rw [run_completeContext (log := []) hf]
    exact ⟨by simp [SameBut], toldContext_apply hlen ok⟩

/-- Context k has taken its line of code, which no cache keeps. -/
def State.toldFetch (s : State) (k : Nat) (fl : Fill) (ok : Bool) (t : State) : Prop :=
  SameBut [.ctxs, .clusters, .dev] s t ∧ (∀ j, j ≠ k → t.ctx j = s.ctx j) ∧
    (∀ j < 32, t.cluster j = if j = k / 16 then { s.cluster j with icFills := (s.cluster j).icFills.filter (· != fl) } else s.cluster j) ∧
    t.ctx k = { s.ctx k with fetched := (fl.line, if ok = true then .bytes ((locRange fl.pa 64).map s.byte) else .refused) :: (s.ctx k).fetched }

theorem toldFetch_completeFetch {log : List Effect} (hs : s.sized) (hk : k < 512) (h : SameBut [.dev] s (after s log)) (fl : Fill) :
    s.toldFetch k fl ok (after s (completeFetch k fl ok s log).2) := by
  obtain ⟨hctxs, -, hclusters, -⟩ := sized_after hs log
  have hctx := h.ctx (by decide)
  have hcluster := h.cluster (by decide)
  have hbyte := h.byte (by decide)
  unfold completeFetch
  rw [run_bind_now, run_bind, run_modCluster, run_modCtx, after_cons, after_cons, ctx_apply (by rfl), hbyte, hctx, hcluster]
  refine ⟨sameBut_trans (h.mono (by simp)) (sameBut_trans (sameBut_apply (by simp [Effect.writes]) _) (sameBut_apply (by simp [Effect.writes]) _)),
    fun j hj => ?_, fun j hj => ?_, ?_⟩
  · rw [ctx_apply_ctx, if_neg (by simp [hj]), ctx_apply (by rfl), hctx]
  · rw [cluster_apply (by rfl), cluster_apply_cluster, hcluster]
    by_cases hjk : j = k / 16
    · rw [if_pos hjk, if_pos ⟨hjk, by simp only [ctxCluster]; omega⟩, hjk]
      rfl
    · rw [if_neg hjk, if_neg fun hc => hjk hc.1]
  · rw [ctx_apply_ctx, if_pos ⟨rfl, by rw [ctxs_length_apply]; omega⟩]

theorem run_completeHostFetch {log : List Effect} {fl : Fill} (h : (after s log).hostFetch k = some fl) :
    completeAgent (.context k) ok s log = completeFetch k fl ok s log := by
  unfold completeAgent
  rw [run_bind_now]
  dsimp only
  rw [h]

theorem completion_fetch {fl : Fill} (hs : s.sized) (hk : k < 512) (hf : s.hostFetch k = some fl) :
    Happens (execHostCompletion (.context k) ok s) (s.toldFetch k fl ok) ∧
      Happens (execRemoteCompletion (.context k) ok s) (s.toldFetch k fl ok) := by
  have hw := awaitsFar_fetch hf
  refine ⟨⟨_, hostCompletion_run hw, ?_⟩, ⟨_, remoteCompletion_run hw, ?_⟩⟩
  · rw [run_completeHostFetch (log := [.dev (s.asking (s.agentCtxid (.context k)))]) hf]
    exact toldFetch_completeFetch hs hk (by simp [SameBut]) fl
  · rw [run_completeHostFetch (log := []) hf]
    exact toldFetch_completeFetch hs hk (sameBut_refl ..) fl

end

/-! ### Completions for a wave -/

section
variable {s : State} {v : Nat} {x : StreamWord} {ok : Bool}

/-- Only wave v has its answer, for the word at its head. -/
def State.toldWave (s : State) (v : Nat) (x : StreamWord) (ok : Bool) (t : State) : Prop :=
  (∀ u, u ≠ v → t.wave u = s.wave u) ∧ t.wave v = { s.wave v with reply := some (x.handler, ok) }

theorem toldWave_apply (hv : v < s.waves.length) (x : StreamWord) (ok : Bool) :
    s.toldWave v x ok (Effect.apply s (.wave v { s.wave v with reply := some (x.handler, ok) })) := by
  refine ⟨fun u hu => ?_, ?_⟩
  · rw [wave_apply_wave, if_neg (by simp [hu])]
  · rw [wave_apply_wave, if_pos ⟨rfl, hv⟩]

theorem run_completeWave {log : List Effect} (h : ((after s log).wave v).head = some x) :
    completeAgent (.wave v) ok s log = ((), .wave v { (after s log).wave v with reply := some (x.handler, ok) } :: log) := by
  unfold completeAgent
  rw [run_bind_now]
  dsimp only
  rw [run_modWave, h]
  rfl

theorem completion_wave (hs : s.sized) (hv : v < 1024) (hw : s.awaitsFar (.wave v) = true) (hx : (s.wave v).head = some x) :
    (Happens (execHostCompletion (.wave v) ok s) fun t => SameBut [.waves, .dev] s t ∧ s.toldWave v x ok t ∧
        t.dev = s.asking (s.wg (s.wave v).wg).ctxid) ∧
      Happens (execRemoteCompletion (.wave v) ok s) fun t => SameBut [.waves] s t ∧ s.toldWave v x ok t := by
  obtain ⟨-, hwaves, -⟩ := hs
  have hlen : v < s.waves.length := by omega
  refine ⟨⟨_, hostCompletion_run hw, ?_⟩, ⟨_, remoteCompletion_run hw, ?_⟩⟩
  · rw [run_completeWave (log := [.dev (s.asking (s.agentCtxid (.wave v)))]) hx]
    exact ⟨by simp [SameBut], toldWave_apply (s := Effect.apply s (.dev (s.asking (s.agentCtxid (.wave v))))) hlen x ok, rfl⟩
  · rw [run_completeWave (log := []) hx]
    exact ⟨by simp [SameBut], toldWave_apply hlen x ok⟩

end

/-! ### Completions for a copy -/

section
variable {s : State} {log : List Effect} {g n : Nat} {b : Bound}

theorem bound_setBound (hg : g < (after s log).wgs.length) (o : Option Bound) (g' n' : Nat) :
    (after s (setBound g n o s log).2).bound g' n' = if g' = g ∧ n' = n then o else (after s log).bound g' n' := by
  unfold setBound
  rw [run_modWg, after_cons]
  exact bound_apply_setMark hg n o g' n'

theorem wgs_length_setBound (g n : Nat) (o : Option Bound) : (after s (setBound g n o s log).2).wgs.length = (after s log).wgs.length := by
  unfold setBound
  rw [run_modWg, after_cons, wgs_apply_wg, List.length_set]

/-- What a copy asked for fails: its command is poisoned. -/
theorem completeFar_fails (hg : g < (after s log).wgs.length) (hb : (after s log).bound g n = some b) :
    ∃ b', (after s (completeFar g n false s log).2).bound g n = some b' ∧ b'.state = .poisoned ∧ b'.asks = none := by
  let log1 := (setBound g n (some { b with asks := none }) s log).2
  have hb1 : (after s log1).bound g n = some { b with asks := none } := (bound_setBound hg _ g n).trans (if_pos ⟨rfl, rfl⟩)
  have hrun : (completeFar g n false s log).2 = (poisonBound g n s log1).2 := by
    unfold completeFar
    rw [run_bind_now, hb]
    rfl
  have hg1 : g < (after s log1).wgs.length := (wgs_length_setBound g n _).symm ▸ hg
  refine ⟨Bound.poisoned { b with asks := none }, ?_, rfl, rfl⟩
  rw [hrun, bound_poisonBound hg1, if_pos ⟨rfl, rfl⟩, hb1]
  rfl

/-- The command with a read unit at the end of its buffer. -/
def Bound.taking (b : Bound) (w : Workgroup) (i k : Nat) (read : List (Byte × Bool)) : Bound :=
  { b with
    buffer := b.buffer ++ read.map (·.1)
    badBytes := b.badBytes ++ ((List.range read.length).filter fun i => (read.map (·.2)).getD i false).map (i + ·)
    sent := b.sent + k
    srcf := b.srcf || (b.sent + k == b.srcLen && !b.overlaps w) }

/-- The bytes of a unit with their poison, as one access of the command reads them. -/
def State.unitRead (t : State) (g : Nat) (b : Bound) (i : Nat) (ls : List Nat) (bytes : List (List Byte)) : List (Byte × Bool) :=
  b.landing (t.wg g) i (bytes.flatten.zip (ls.map fun l => t.poisoned [l]))

theorem takeUnits_run (hb : (after s log).bound g n = some b) (i k : Nat) (ls : List Nat) (xs : List (Xlated × List Nat)) :
    let r := readBy (b.actor g) (wordUnits id ls) s log
    takeUnits g n [(i, k, .ok ls xs)] s log = settleCopy ((after s log).wg g).cluster b false xs s
      (setBound g n (some (b.taking ((after s log).wg g) i k ((after s log).unitRead g b i ls r.1.1))) s r.2).2 := by
  unfold takeUnits each
  rw [run_bind]
  dsimp only
  rw [run_bind_now, hb]
  rfl

/-- A unit that is read goes to the end of the command's buffer. -/
theorem takeUnits_reads (hg : g < (after s log).wgs.length) (hb : (after s log).bound g n = some b) (hp : (after s log).vis.picks = [])
    (ho : b.overlaps ((after s log).wg g) = false) (i k : Nat) (ls : List Nat) (xs : List (Xlated × List Nat)) :
    ∃ b', (after s (takeUnits g n [(i, k, .ok ls xs)] s log).2).bound g n = some b' ∧ b'.asks = b.asks ∧
      b'.buffer = b.buffer ++ ls.map (after s log).byte ∧ b'.sent = b.sent + k := by
  let r := readBy (b.actor g) (wordUnits id ls) s log
  let b' := b.taking ((after s log).wg g) i k ((after s log).unitRead g b i ls r.1.1)
  have hread : SameBut [.mem, .clusters] (after s log) (after s r.2) := (Only.readBy (by simp) (by simp) _ _).sameBut s log
  have hsettle := (Only.settleCopy (F := [.dev, .mem, .badDram, .badSram, .clusters, .dies, .links]) (by simp) (by simp) (by simp) (by simp)
    (by simp) (by simp) (by simp) ((after s log).wg g).cluster b false xs).sameBut s (setBound g n (some b') s r.2).2
  have hbytes : ((after s log).unitRead g b i ls r.1.1).map (·.1) = ls.map (after s log).byte := by
    have hflat : r.1.1.flatten = ls.map (after s log).byte := readWords_newest hp _ ls
    unfold State.unitRead Bound.landing
    rw [ho, if_neg (by simp), hflat]
    exact List.map_fst_zip (by simp)
  refine ⟨b', ?_, rfl, congrArg (b.buffer ++ ·) hbytes, rfl⟩
  rw [takeUnits_run hb, State.bound, hsettle.wg (by decide)]
  exact (bound_setBound ((hread.wgs (by decide)).symm ▸ hg) _ g n).trans (if_pos ⟨rfl, rfl⟩)

theorem completeFar_reads (hg : g < (after s log).wgs.length) (hb : (after s log).bound g n = some b) (ha : b.asks = some false)
    (hp : (after s log).vis.picks = []) (ho : b.overlaps ((after s log).wg g) = false) {i k : Nat} {ls : List Nat} {xs : List (Xlated × List Nat)}
    (hu : ((after s log).nextUnits ((after s log).wg g) b).head? = some (i, k, .ok ls xs)) :
    ∃ b', (after s (completeFar g n true s log).2).bound g n = some b' ∧ b'.asks = none ∧
      b'.buffer = b.buffer ++ ls.map (after s log).byte ∧ b'.sent = b.sent + k := by
  let b1 : Bound := { b with asks := none }
  let log1 := (setBound g n (some b1) s log).2
  have hb1 : (after s log1).bound g n = some b1 := (bound_setBound hg _ g n).trans (if_pos ⟨rfl, rfl⟩)
  have hframe : SameBut [.wgs] (after s log) (after s log1) := (Only.setBound (by simp) g n _).sameBut s log
  have hrun : completeFar g n true s log = takeUnits g n [(i, k, .ok ls xs)] s log1 := by
    unfold completeFar
    rw [run_bind_now, hb]
    dsimp only
    rw [ha, hu]
    rfl
  have hw : (after s log1).wg g = ((after s log).wg g).setMark n { ((after s log).wg g).mark n with bound := some b1 } := by
    simp only [log1, setBound, run_modWg, after_cons, wg_apply_wg, hg, and_self, if_true]
  have ho1 : b1.overlaps ((after s log1).wg g) = false := by
    rw [hw]
    exact ho
  have hg1 : g < (after s log1).wgs.length := (wgs_length_setBound g n _).symm ▸ hg
  rw [hrun]
  obtain ⟨b', hb', hasks, hbuffer, hsent⟩ := takeUnits_reads hg1 hb1 (by rw [hframe.vis (by decide)]; exact hp) ho1 i k ls xs
  exact ⟨b', hb', hasks, by rw [hbuffer, hframe.byte (by decide)], hsent⟩

/-- No access of a command looks at the requester ID of the last request to the host. -/
theorem nextUnits_asking (s : State) (ctxid : Nat) (w : Workgroup) (b : Bound) :
    (Effect.apply s (.dev (s.asking ctxid))).nextUnits w b = s.nextUnits w b := rfl

theorem awaitsFar_copy (hb : s.bound g n = some b) (ha : b.asks.isSome = true) : s.awaitsFar (.copy g n) = true := by
  simp [State.awaitsFar, hb, ha]

theorem run_completeCopy (g n : Nat) (ok : Bool) (s : State) (log : List Effect) :
    completeAgent (.copy g n) ok s log = completeFar g n ok s log := by
  unfold completeAgent
  rw [run_bind_now]

theorem completion_copy_fails (hg : g < s.wgs.length) (hb : s.bound g n = some b) (ha : b.asks.isSome = true) :
    (Happens (execHostCompletion (.copy g n) false s) fun t => ∃ b', t.bound g n = some b' ∧ b'.state = .poisoned ∧ b'.asks = none) ∧
      Happens (execRemoteCompletion (.copy g n) false s) fun t => ∃ b', t.bound g n = some b' ∧ b'.state = .poisoned ∧ b'.asks = none := by
  have hw := awaitsFar_copy hb ha
  rw [hostCompletion_run hw, remoteCompletion_run hw, run_completeCopy, run_completeCopy]
  exact ⟨⟨_, rfl, completeFar_fails (log := [.dev (s.asking (s.agentCtxid (.copy g n)))]) hg hb⟩, ⟨_, rfl, completeFar_fails (log := []) hg hb⟩⟩

theorem completion_copy_reads (hg : g < s.wgs.length) (hb : s.bound g n = some b) (ha : b.asks = some false) (hp : s.vis.picks = [])
    (ho : b.overlaps (s.wg g) = false) {i k : Nat} {ls : List Nat} {xs : List (Xlated × List Nat)}
    (hu : (s.nextUnits (s.wg g) b).head? = some (i, k, .ok ls xs)) :
    let read (t : State) : Prop := ∃ b', t.bound g n = some b' ∧ b'.asks = none ∧ b'.buffer = b.buffer ++ ls.map s.byte ∧ b'.sent = b.sent + k
    Happens (execHostCompletion (.copy g n) true s) read ∧ Happens (execRemoteCompletion (.copy g n) true s) read := by
  have hw := awaitsFar_copy hb (by rw [ha]; rfl)
  rw [hostCompletion_run hw, remoteCompletion_run hw, run_completeCopy, run_completeCopy]
  exact ⟨⟨_, rfl, completeFar_reads (log := [.dev (s.asking (s.agentCtxid (.copy g n)))]) hg hb ha hp ho
      ((congrArg List.head? (nextUnits_asking s _ _ b)).trans hu)⟩, ⟨_, rfl, completeFar_reads (log := []) hg hb ha hp ho hu⟩⟩

end

/-- Settles O56: a request is performed as the tables admit it, one for another package goes by its route, and a completion reaches the
agent that waits for it. -/
theorem requestsAndCompletions : Obligations.RequestsAndCompletions := by
  intro s f p link package a ok hs hc
  refine ⟨fun hf hb hh => ⟨hostBar2Access_performed hc hf hb hh, hostBar2Access_above hf hb hh⟩, hostBar2Access_unbound,
    hostBar2Access_idle, fun hlink hup => ⟨remoteRequest_performed hs hc hlink hup, remoteRequest_forwarded hs hup,
      remoteRequest_fails hs hlink hup⟩, fun u l => routeLink_facts, remoteRequest_idle, fun k hk => completion_context hs hk,
    fun k fl hk => completion_fetch hs hk, fun v x hv => completion_wave hs hv,
    fun g n b hg _ hb ha => ⟨(completion_copy_fails hg hb ha).1, (completion_copy_fails hg hb ha).2,
      fun i k ls xs ha hp ho => completion_copy_reads hg hb ha hp ho⟩, fun w => completion_idle⟩

end Sys2Proof.Machine
end

section
/-! # Spills and reloads of the register window -/
namespace Sys2Proof.Machine

/-! ### Programs that put cells into memory -/

/-- The program writes exactly these cells, the first first. -/
def Puts {α : Type} (a : Act α) (cells : List (Nat × Byte)) : Prop :=
  ∀ s log, (after s (a s log).2).mem = sparsePut (after s log).mem cells

theorem Puts.pure {α : Type} (x : α) : Puts (pure x : Act α) [] := fun _ _ => rfl

theorem Puts.bind {α β : Type} {a : Act α} {f : α → Act β} {l k : List (Nat × Byte)} (ha : Puts a l) (hf : ∀ x, Puts (f x) k) :
    Puts (a >>= f) (l ++ k) := fun s log => by
  rw [run_bind, hf, ha, sparsePut_append]

theorem Puts.each {α : Type} {l : List α} {f : α → Act Unit} {cells : α → List (Nat × Byte)} (h : ∀ x ∈ l, Puts (f x) (cells x)) :
    Puts (each l f) (l.flatMap cells) := by
  induction l with
  | nil => exact .pure ()
  | cons x l ih =>
    rw [List.flatMap_cons]
    exact .bind (h x List.mem_cons_self) fun _ => ih fun y hy => h y (List.mem_cons_of_mem x hy)

theorem newest_cells (s : State) (x : MemAgent) (locs : List Nat) (bytes : List Byte) : (s.newest x locs bytes).1 = locs.zip bytes := by
  have hfold (units : List (List (Nat × Byte))) (acc : List (Nat × Byte) × Visibility) :
      (units.foldl (fun acc u =>
        let r := acc.2.insert s.byte { agent := x, path := pathScl, family := x } {} [] u
        (acc.1 ++ r.1, r.2)) acc).1 = acc.1 ++ units.flatten := by
    induction units generalizing acc with
    | nil => simp
    | cons u us ih =>
      rw [List.foldl_cons, ih]
      dsimp only
      rw [(insert_on_top ..).1, List.flatten_cons, List.append_assoc]
  unfold State.newest
  rw [hfold, List.nil_append, flatten_wordUnits]

theorem Puts.writeNewest (x : MemAgent) (locs : List Nat) (bytes : List Byte) : Puts (Machine.writeNewest x locs bytes) (locs.zip bytes) :=
  fun s log => by
    unfold Machine.writeNewest
    rw [run_bind_now, (mem_settleWrite ..).1, newest_cells]

/-- Bytes of which each stands at its location are read back as their number. -/
theorem readLocs_of_cells {t : State} {locs : List Nat} {bytes : List Byte} (hlen : bytes.length = locs.length)
    (h : ∀ p ∈ locs.zip bytes, t.byte p.1 = p.2) : t.readLocs locs = leNat bytes := by
  unfold State.readLocs
  refine congrArg leNat (List.ext_getElem (by simp [hlen]) fun i h1 h2 => ?_)
  have hi : i < (locs.zip bytes).length := by simp only [List.length_map] at h1; simp [h1, h2]
  simpa using h _ (List.getElem_mem hi)

/-- Part i of what is joined from parts of one size. -/
theorem drop_take_flatMap {α β : Type} {n : Nat} {f : α → List β} (hf : ∀ x, (f x).length = n) {l : List α} {i : Nat} (hi : i < l.length) :
    ((l.flatMap f).drop (n * i)).take n = f l[i] := by
  induction l generalizing i with
  | nil => simp at hi
  | cons x l ih =>
    rw [List.flatMap_cons]
    cases i with
    | zero => simp [← hf x]
    | succ i =>
      rw [List.drop_append, List.drop_eq_nil_of_le (by rw [hf]; exact Nat.le_mul_of_pos_right n i.succ_pos), List.nil_append, hf,
        Nat.mul_succ, Nat.add_sub_cancel]
      exact ih (Nat.lt_of_succ_lt_succ hi)

theorem leNat_leBytes_word (x : W32) : leNat (leBytes 4 x.toNat) = x.toNat := by
  rw [Sys2Proof.Laws.RoundTrip.leNat_leBytes, Nat.mod_eq_of_lt]
  exact x.isLt

/-! ### The job that a transfer has at its sequencer -/

section
variable {s : State}

/-- A log whose only effect is on the jobs that wait at cluster c's spill sequencer. -/
def State.Queued (s : State) (c : Nat) (log : List Effect) : Prop :=
  log = [] ∨ ∃ jobs, log = [.cluster c { s.cluster c with spillq := jobs }]

theorem State.Queued.sameBut {c : Nat} {log : List Effect} (h : s.Queued c log) : SameBut [.clusters] s (after s log) := by
  rcases h with rfl | ⟨jobs, rfl⟩ <;> simp [SameBut]

/-- A walk looks at no cluster. -/
theorem walkFor_apply_cluster (c : Nat) (x : Cluster) : (Effect.apply s (.cluster c x)).walkFor = s.walkFor := rfl

/-- A cluster whose TLB stays as it was. -/
theorem tlb_apply_cluster {c : Nat} {x : Cluster} (hx : x.tlb = (s.cluster c).tlb) (k : Nat) :
    ((Effect.apply s (.cluster c x)).cluster k).tlb = (s.cluster k).tlb := by
  rw [cluster_apply_cluster]
  split
  · next h => rw [h.1, hx]
  · rfl

theorem translateNow_apply_cluster {c : Nat} {x : Cluster} (hx : x.tlb = (s.cluster c).tlb) :
    (Effect.apply s (.cluster c x)).translateNow = s.translateNow := by
  funext k ctxid va a user
  simp only [State.translateNow, State.translateWith, State.tlbHit, tlb_apply_cluster hx, walkFor_apply_cluster]
  rfl

theorem superLocs_apply_cluster {c : Nat} {x : Cluster} (hx : x.tlb = (s.cluster c).tlb) :
    (Effect.apply s (.cluster c x)).superLocs = s.superLocs := by
  funext k ctxid va n a checked
  simp only [State.superLocs, translateNow_apply_cluster hx]
  rfl

theorem State.Queued.rowLocs {c : Nat} {log : List Effect} (h : s.Queued c log) : (after s log).rowLocs = s.rowLocs := by
  rcases h with rfl | ⟨jobs, rfl⟩
  · rfl
  · have hlocs := superLocs_apply_cluster (s := s) (c := c) (x := { s.cluster c with spillq := jobs }) rfl
    funext v a rows
    simp only [after_cons, after_nil, State.rowLocs, hlocs]
    rfl

theorem State.Queued.transferRows {c : Nat} {log : List Effect} (h : s.Queued c log) : (after s log).transferRows = s.transferRows := by
  rcases h with rfl | ⟨jobs, rfl⟩ <;> rfl

/-- The sequencer is free for a job, or at it. -/
def State.hasTurn (s : State) (c : Nat) (j : SpillJob) : Prop := (s.cluster c).spillq = [] ∨ (s.cluster c).spillq.head? = some j

theorem spillTurn_of_hasTurn {c : Nat} {j : SpillJob} (h : s.hasTurn c j) : s.spillTurn c j = true := by
  unfold State.spillTurn
  rcases h with h | h <;> simp [h]

theorem withSpill_runs {c : Nat} {j : SpillJob} (h : s.hasTurn c j) (run : Act Unit) :
    ∃ log, s.Queued c log ∧ withSpill c j run s [] = run s log := by
  have hrun : ((s.cluster c).spillq.isEmpty || (s.cluster c).spillq.head? == some j) = true := by
    rcases h with h | h <;> simp [h]
  unfold withSpill
  rw [run_bind_now, after_nil]
  cases hc : (s.cluster c).spillq.contains j with
  | true =>
    refine ⟨[], .inl rfl, ?_⟩
    rw [if_pos rfl, if_pos hrun]
  | false =>
    refine ⟨[.cluster c { s.cluster c with spillq := (s.cluster c).spillq ++ [j] }], .inr ⟨_, rfl⟩, ?_⟩
    rw [if_neg (by simp), if_pos hrun]
    rfl

/-- A job behind others waits. -/
theorem withSpill_waits {c : Nat} {j : SpillJob} (hq : (s.cluster c).spillq ≠ []) (hj : j ∉ (s.cluster c).spillq) (run : Act Unit) :
    withSpill c j run s [] = ((), [.cluster c { s.cluster c with spillq := (s.cluster c).spillq ++ [j] }]) := by
  have hne : ¬ ((s.cluster c).spillq.isEmpty || (s.cluster c).spillq.head? == some j) = true := by
    cases hl : (s.cluster c).spillq with
    | nil => exact absurd hl hq
    | cons x l =>
      rw [hl] at hj
      simp only [List.mem_cons, not_or] at hj
      simp [Ne.symm hj.1]
  unfold withSpill
  rw [run_bind_now, after_nil, if_neg (by simpa using hj), if_neg hne]
  rfl

end

/-! ### A transfer that can proceed -/

section
variable {s : State} {v lo hi : Nat} {rest : List StreamItem}

/-- Nothing is ahead of a wave's stream. -/
structure State.Quiet (s : State) (v : Nat) : Prop where
  status : (s.wave v).status = .live
  flight : (s.wave v).flight = []
  half : (s.wave v).half = none
  issue : s.mayIssue v = true

theorem State.Quiet.transfer_eq (h : s.Quiet v) : s.transfer v = match (s.wave v).stream with
    | .spill lo hi e :: _ => some (.spill lo hi e)
    | .reload lo hi e :: _ => some (.reload lo hi e)
    | _ => none := by
  obtain ⟨hstatus, hflight, hhalf, hissue⟩ := h
  unfold State.transfer
  simp only [hstatus, hflight, hhalf, hissue]
  rfl

theorem State.Quiet.transfer_spill (h : s.Quiet v) {e : Option (Nat × Nat × Nat)} (hst : (s.wave v).stream = .spill lo hi e :: rest) :
    s.transfer v = some (.spill lo hi e) := by
  rw [h.transfer_eq, hst]

theorem State.Quiet.transfer_reload (h : s.Quiet v) {e : Option Nat} (hst : (s.wave v).stream = .reload lo hi e :: rest) :
    s.transfer v = some (.reload lo hi e) := by
  rw [h.transfer_eq, hst]

theorem windowSpill_goes {e : Option (Nat × Nat × Nat)} (ht : s.transfer v = some (.spill lo hi e))
    (hr : s.rowsReady v .spill (s.transferRows v lo hi (e.map (·.1))) = true) (hturn : s.spillTurn (waveCluster v) (.window v) = true) :
    execWindowSpill v s = .next (after s (withSpill (waveCluster v) (.window v) (runSpill v lo hi e) s []).2) := by
  have hdue : (s.spillDue v && s.spillTurn (waveCluster v) (.window v)) = true := by
    rw [State.spillDue, ht, hturn, Bool.and_true]
    exact hr
  unfold execWindowSpill
  rw [event_eq hdue, ht]

theorem windowReload_goes {e : Option Nat} (ht : s.transfer v = some (.reload lo hi e))
    (hr : s.rowsReady v .reload (s.transferRows v lo hi e) = true) (hturn : s.spillTurn (waveCluster v) (.window v) = true) :
    execWindowReload v s = .next (after s (withSpill (waveCluster v) (.window v) (runReload v lo hi e) s []).2) := by
  have hdue : (s.reloadDue v && s.spillTurn (waveCluster v) (.window v)) = true := by
    rw [State.reloadDue, ht, hturn, Bool.and_true]
    exact hr
  unfold execWindowReload
  rw [event_eq hdue, ht]

theorem windowSpill_idle (h : s.spillDue v = false ∨ s.spillTurn (waveCluster v) (.window v) = false) :
    Idle "WINDOW_SPILL" (execWindowSpill v s) := by
  refine idle_event ?_
  rcases h with h | h <;> simp [h]

theorem windowReload_idle (h : s.reloadDue v = false ∨ s.spillTurn (waveCluster v) (.window v) = false) :
    Idle "WINDOW_RELOAD" (execWindowReload v s) := by
  refine idle_event ?_
  rcases h with h | h <;> simp [h]

theorem not_spillDue {e : Option (Nat × Nat × Nat)} (ht : s.transfer v = some (.spill lo hi e))
    (hr : ¬ s.rowsReady v .spill (s.transferRows v lo hi (e.map (·.1))) = true) : s.spillDue v = false := by
  rw [State.spillDue, ht]
  exact Bool.eq_false_iff.2 hr

theorem not_reloadDue {e : Option Nat} (ht : s.transfer v = some (.reload lo hi e))
    (hr : ¬ s.rowsReady v .reload (s.transferRows v lo hi e) = true) : s.reloadDue v = false := by
  rw [State.reloadDue, ht]
  exact Bool.eq_false_iff.2 hr

/-- A job that stands in the sequencer behind another is not in its turn. -/
theorem not_spillTurn {c : Nat} {j : SpillJob} (hh : (s.cluster c).spillq.head? ≠ some j) (hm : j ∈ (s.cluster c).spillq) :
    s.spillTurn c j = false := by
  unfold State.spillTurn
  simp [hh, hm]

/-! ### The head of the stream goes -/

theorem wave_popTransfer {log : List Effect} (hv : v < (after s log).waves.length) :
    (after s (popTransfer v s log).2).wave v = { (after s log).wave v with stream := ((after s log).wave v).stream.tail } := by
  unfold popTransfer
  rw [run_bind, run_modWave]
  have hend := (Only.endSpill (F := [.clusters]) (by simp) (waveCluster v) (.window v)).sameBut s
    (.wave v { (after s log).wave v with stream := ((after s log).wave v).stream.tail } :: log)
  rw [hend.wave (by decide), after_cons, wave_apply_wave, if_pos ⟨rfl, hv⟩]

/-! ### A spill -/

/-- What a register's row receives. -/
def State.rowBytes (s : State) (v n : Nat) : List Byte :=
  (rowKeys (waveCluster v) (s.wave v) n).flatMap fun k => leBytes 4 (sparseGet s.vregs k).toNat

theorem Puts.spillRow (hb : s.badRegs = []) (r : Nat × List Nat) : Puts (Machine.spillRow v s r) (r.2.zip (s.rowBytes v r.1)) := by
  rw [← List.append_nil (r.2.zip _)]
  unfold Machine.spillRow
  refine .bind (.writeNewest _ _ _) fun _ => ?_
  rw [hb]
  simp only [List.contains_nil, List.filter_false, List.isEmpty_nil, if_true]
  exact .pure ()

/-- The program between the head of the stream and the rows: the marks in the pages and the lines in the L2. -/
def beforeRows (v : Nat) (s : State) (a : Access) (rows : List (Nat × Nat × Nat)) (found : List (Nat × List Nat)) : Act Unit := do
  usePages (waveCluster v) (s.wg (s.wave v).wg).ctxid (rows.map (·.2.1)) a
  touchSticky v a rows found

theorem Only.beforeRows (v : Nat) (s : State) (a : Access) (rows : List (Nat × Nat × Nat)) (found : List (Nat × List Nat)) :
    Only [.dev, .mem, .badDram, .badSram, .clusters, .dies, .links] (Machine.beforeRows v s a rows found) :=
  .bind (.usePages (by simp) (by simp) (by simp) (by simp) (by simp) (by simp) (by simp) _ _ _ _) fun _ => .touchSticky (by simp) _ _ _ _

/-- What a spill writes: its registers, row by row, then its stack entry. -/
def spillRows (v : Nat) (s : State) (e : Option (Nat × Nat × Nat)) (found : List (Nat × List Nat)) : Act Unit := do
  each (registersOf found) (spillRow v s)
  match e with
  | some (_, base, frame) =>
    writeNewest (.spill (waveCluster v)) (entryBytes found) (leBytes 8 (base % 2 ^ 32 + frame % 2 ^ 16 * 2 ^ 32))
  | none => pure ()

/-- The bytes of a stack entry. -/
def stackEntryBytes : Option (Nat × Nat × Nat) → List Byte
  | some (_, base, frame) => leBytes 8 (base % 2 ^ 32 + frame % 2 ^ 16 * 2 ^ 32)
  | none => []

theorem Puts.spillRows (hb : s.badRegs = []) (e : Option (Nat × Nat × Nat)) (found : List (Nat × List Nat)) :
    Puts (Machine.spillRows v s e found)
      ((registersOf found).flatMap (fun r => r.2.zip (s.rowBytes v r.1)) ++ (entryBytes found).zip (stackEntryBytes e)) := by
  refine .bind (.each fun r _ => .spillRow hb r) fun _ => ?_
  match e with
  | some (_, base, frame) => exact .writeNewest _ _ _
  | none =>
    rw [stackEntryBytes, List.zip_nil_right]
    exact .pure ()

theorem Only.spillRows (v : Nat) (s : State) (e : Option (Nat × Nat × Nat)) (found : List (Nat × List Nat)) :
    Only [.mem, .badDram, .badSram, .clusters] (Machine.spillRows v s e found) := by
  refine .bind (.each fun r => .spillRow (by simp) (by simp) (by simp) (by simp) _ _ _) fun _ => ?_
  match e with
  | some (_, base, frame) => exact Only.writeNewest (by simp) (by simp) (by simp) (by simp) _ _ _
  | none => exact .pure _

theorem runSpill_run {log : List Effect} {e : Option (Nat × Nat × Nat)} {found : List (Nat × List Nat)}
    (h : (after s log).rowLocs v .spill ((after s log).transferRows v lo hi (e.map (·.1))) = .ok found) :
    (runSpill v lo hi e s log).2 = (spillRows v (after s log) e found s
      (beforeRows v (after s log) .spill ((after s log).transferRows v lo hi (e.map (·.1))) found s (popTransfer v s log).2).2).2 := by
  unfold runSpill
  rw [run_bind_now, h]
  rfl

/-- The cells that a spill puts into memory. -/
def State.spillCells (s : State) (v : Nat) (e : Option (Nat × Nat × Nat)) (found : List (Nat × List Nat)) : List (Nat × Byte) :=
  (registersOf found).flatMap (fun r => r.2.zip (s.rowBytes v r.1)) ++ (entryBytes found).zip (stackEntryBytes e)

theorem windowSpill_spills {e : Option (Nat × Nat × Nat)} {found : List (Nat × List Nat)} (hs : s.canonical) (hv : v < s.waves.length)
    (hq : s.Quiet v) (hturn : s.hasTurn (waveCluster v) (.window v)) (hst : (s.wave v).stream = .spill lo hi e :: rest)
    (hrows : s.rowLocs v .spill (s.transferRows v lo hi (e.map (·.1))) = .ok found)
    (hr : s.rowsReady v .spill (s.transferRows v lo hi (e.map (·.1))) = true) (hb : s.badRegs = []) :
    ∃ t m, execWindowSpill v s = .next t ∧ t.wave v = { s.wave v with stream := rest } ∧
      SameBut [.mem, .badDram, .badSram, .waves, .clusters, .dies, .dev, .links] s t ∧
      sparseWf 0 m = true ∧ t.mem = sparsePut m (s.spillCells v e found) := by
  obtain ⟨log, hlog, hrun⟩ := withSpill_runs hturn (runSpill v lo hi e)
  have h0 := hlog.sameBut
  let log1 := (popTransfer v s log).2
  let log2 := (beforeRows v (after s log) .spill (s.transferRows v lo hi (e.map (·.1))) found s log1).2
  let log3 := (spillRows v (after s log) e found s log2).2
  have h1 : SameBut [.waves, .clusters] (after s log) (after s log1) := (Only.popTransfer (by simp) (by simp) v).sameBut s log
  have h2 : SameBut [.dev, .mem, .badDram, .badSram, .clusters, .dies, .links] (after s log1) (after s log2) :=
    (Only.beforeRows v (after s log) .spill _ found).sameBut s log1
  have h3 : SameBut [.mem, .badDram, .badSram, .clusters] (after s log2) (after s log3) :=
    (Only.spillRows v (after s log) e found).sameBut s log2
  have hgoes : execWindowSpill v s = .next (after s log3) := by
    rw [windowSpill_goes (hq.transfer_spill hst) hr (spillTurn_of_hasTurn hturn), hrun, runSpill_run (by rw [hlog.rowLocs, hlog.transferRows]; exact hrows),
      hlog.transferRows]
  have hcanon : (after s log2).canonical := canonical_run (Only.beforeRows v (after s log) .spill _ found) (canonical_run (Only.popTransfer (F := [.waves, .clusters]) (by simp) (by simp) v)
    (canonical_applyAll _ hs))
  have hcells : (after s log).spillCells v e found = s.spillCells v e found := by
    unfold State.spillCells State.rowBytes
    rw [h0.wave (by decide), h0.vregs (by decide)]
  refine ⟨_, (after s log2).mem, hgoes, ?_, sameBut_trans (h0.mono (by simp)) (sameBut_trans (h1.mono (by simp))
    (sameBut_trans (h2.mono (by simp)) (h3.mono (by simp)))), hcanon.1, ?_⟩
  · rw [h3.wave (by decide), h2.wave (by decide), wave_popTransfer (by rw [waves_length_after]; exact hv), h0.wave (by decide), hst]
    rfl
  · exact (Puts.spillRows ((h0.badRegs (by decide)).trans hb) e found s log2).trans (congrArg _ hcells)

/-! ### What a spill has written -/

theorem entryBytes_perm (found : List (Nat × List Nat)) :
    ((registersOf found).flatMap (·.2) ++ entryBytes found).Perm (found.flatMap (·.2)) := by
  have hnot : (found.filter fun r => decide (2 ^ 63 ≤ r.1)) = found.filter fun r => ! decide (r.1 < 2 ^ 63) := by
    refine List.filter_congr fun r _ => ?_
    rw [← decide_not, decide_eq_decide]
    omega
  unfold entryBytes registersOf
  rw [hnot, ← List.flatMap_append]
  exact (List.filter_append_perm _ found).flatMap_right _

theorem map_fst_zip_sublist {α β : Type} (l : List α) (k : List β) : ((l.zip k).map (·.1)).Sublist l := by
  induction l generalizing k with
  | nil => simp
  | cons x l ih => cases k with
    | nil => simp
    | cons y k => simpa using ih k

theorem nodup_spillCells (s : State) (v : Nat) (e : Option (Nat × Nat × Nat)) {found : List (Nat × List Nat)} (hn : (found.flatMap (·.2)).Nodup) :
    ((s.spillCells v e found).map (·.1)).Nodup := by
  refine ((entryBytes_perm found).nodup_iff.2 hn).sublist ?_
  unfold State.spillCells
  rw [List.map_append, List.map_flatMap]
  refine .append ?_ (map_fst_zip_sublist ..)
  induction registersOf found with
  | nil => simp
  | cons r rs ih => simpa only [List.flatMap_cons] using (map_fst_zip_sublist ..).append ih

variable {e : Option (Nat × Nat × Nat)} {found : List (Nat × List Nat)} {t : State} {m : List (Nat × Byte)}

theorem byte_of_spillCells (hm : sparseWf 0 m = true) (ht : t.mem = sparsePut m (s.spillCells v e found)) (hn : (found.flatMap (·.2)).Nodup)
    {p : Nat × Byte} (hp : p ∈ s.spillCells v e found) : t.byte p.1 = p.2 := by
  unfold State.byte
  rw [ht]
  exact sparseGet_put_of_mem hm (nodup_spillCells s v e hn) hp

/-- Each lane's element of a spilled register stands in its row. -/
theorem readLocs_spilled (hm : sparseWf 0 m = true) (ht : t.mem = sparsePut m (s.spillCells v e found)) (hn : (found.flatMap (·.2)).Nodup)
    {r : Nat × List Nat} (hr : r ∈ found) (hreg : r.1 < 2 ^ 63) (hlen : r.2.length = 256) {l : Nat} (hl : l < 64) :
    t.readLocs ((r.2.drop (4 * l)).take 4) = (sparseGet s.vregs (regKey (waveCluster v) (s.wave v) r.1 0 l)).toNat := by
  have hbytes : ((s.rowBytes v r.1).drop (4 * l)).take 4 =
      leBytes 4 (sparseGet s.vregs (regKey (waveCluster v) (s.wave v) r.1 0 l)).toNat := by
    unfold State.rowBytes
    rw [drop_take_flatMap (n := 4) (fun k => Sys2Proof.Laws.RoundTrip.leBytes_length ..) (i := l) (by simpa [rowKeys] using hl)]
    simp [rowKeys]
  rw [← leNat_leBytes_word, ← hbytes]
  refine readLocs_of_cells (by rw [hbytes, Sys2Proof.Laws.RoundTrip.leBytes_length]; simp; omega) fun p hp => ?_
  refine byte_of_spillCells hm ht hn (List.mem_append_left _ (List.mem_flatMap.2 ⟨r, ?_, ?_⟩))
  · exact List.mem_filter.2 ⟨hr, by simpa using hreg⟩
  · rw [List.zip_eq_zipWith, ← List.take_zipWith, ← List.drop_zipWith, ← List.zip_eq_zipWith] at hp
    exact List.mem_of_mem_drop (List.mem_of_mem_take hp)

/-- The stack entry stands behind the registers. -/
theorem readLocs_stackEntry {k base frame : Nat} (he : e = some (k, base, frame)) (hm : sparseWf 0 m = true)
    (ht : t.mem = sparsePut m (s.spillCells v e found)) (hn : (found.flatMap (·.2)).Nodup) (hlen : (entryBytes found).length = 8) :
    t.readLocs (entryBytes found) = base % 2 ^ 32 + frame % 2 ^ 16 * 2 ^ 32 := by
  have hnum : leNat (stackEntryBytes e) = base % 2 ^ 32 + frame % 2 ^ 16 * 2 ^ 32 := by
    rw [he, stackEntryBytes, Sys2Proof.Laws.RoundTrip.leNat_leBytes]
    omega
  rw [← hnum]
  refine readLocs_of_cells (by rw [he, stackEntryBytes, Sys2Proof.Laws.RoundTrip.leBytes_length, hlen]) fun p hp => ?_
  exact byte_of_spillCells hm ht hn (List.mem_append_right _ hp)

end


/-! ### Programs that load registers -/

/-- The program writes exactly these elements, the first first. -/
def Loads {α : Type} (a : Act α) (cells : List (Nat × W32)) : Prop :=
  ∀ s log, (after s (a s log).2).vregs = sparsePut (after s log).vregs cells

theorem Loads.of_only {F : List Field} {α : Type} {a : Act α} (h : Only F a) (hF : Field.vregs ∉ F) : Loads a [] :=
  fun s log => (h.sameBut s log).vregs hF

theorem Loads.bind {α β : Type} {a : Act α} {f : α → Act β} {l k : List (Nat × W32)} (ha : Loads a l) (hf : ∀ x, Loads (f x) k) :
    Loads (a >>= f) (l ++ k) := fun s log => by
  rw [run_bind, hf, ha, sparsePut_append]

theorem Loads.each {α : Type} {l : List α} {f : α → Act Unit} {cells : α → List (Nat × W32)} (h : ∀ x ∈ l, Loads (f x) (cells x)) :
    Loads (each l f) (l.flatMap cells) := by
  induction l with
  | nil => exact .of_only (F := []) (.pure ()) (by simp)
  | cons x l ih =>
    rw [List.flatMap_cons]
    exact .bind (h x List.mem_cons_self) fun _ => ih fun y hy => h y (List.mem_cons_of_mem x hy)

theorem Loads.emits (l : List (Nat × W32)) : Loads (Machine.emits (l.map fun p => .vreg p.1 p.2)) l := fun s log => by
  rw [run_emits, after_append, vregs_applyAll_vreg]

/-! ### A reload -/

section
variable {s : State} {v lo hi : Nat} {rest : List StreamItem}

/-- The elements that a row of memory gives a register. -/
def State.rowCells (s : State) (v : Nat) (r : Nat × List Nat) : List (Nat × W32) :=
  (List.range 64).map fun l => ((rowKeys (waveCluster v) (s.wave v) r.1).getD l 0, BitVec.ofNat 32 (s.readLocs ((r.2.drop (4 * l)).take 4)))

theorem Loads.reloadRow (s : State) (v : Nat) (r : Nat × List Nat) : Loads (Machine.reloadRow v s r) (s.rowCells v r) := by
  have hemits : Loads (Machine.emits ((List.range 64).map fun l =>
      .vreg ((rowKeys (waveCluster v) (s.wave v) r.1).getD l 0) (BitVec.ofNat 32 (s.readLocs ((r.2.drop (4 * l)).take 4))))) (s.rowCells v r) := by
    have h := Loads.emits (s.rowCells v r)
    rw [State.rowCells, List.map_map] at h
    exact h
  rw [← List.append_nil (s.rowCells v r)]
  unfold Machine.reloadRow
  refine .bind hemits fun _ => .of_only (F := [.badRegs]) (.bind .now fun t => ?_) (by decide)
  split
  · exact .pure ()
  · exact .emit (by simp [Effect.writes])

/-- What a reload writes: its registers, row by row, then the stack entry for the WLEAVE that waits. -/
def reloadRows (v : Nat) (s : State) (e : Option Nat) (found : List (Nat × List Nat)) : Act Unit := do
  each (registersOf found) (reloadRow v s)
  match e with
  | some k => modCtx (s.wave v).owner fun x =>
      { x with win := x.win.gotEntry (s.rowVa v (8 * (k - 16))) (s.poisoned (entryBytes found)) (s.readLocs (entryBytes found)) }
  | none => pure ()

theorem Only.reloadRows (v : Nat) (s : State) (e : Option Nat) (found : List (Nat × List Nat)) :
    Only [.badRegs, .vregs, .ctxs] (Machine.reloadRows v s e found) := by
  refine .bind (.each fun r => .reloadRow (by simp) (by simp) _ _ _) fun _ => ?_
  match e with
  | some k => exact .modCtx (by simp) _ _
  | none => exact .pure _

theorem Loads.reloadRows (v : Nat) (s : State) (e : Option Nat) (found : List (Nat × List Nat)) :
    Loads (Machine.reloadRows v s e found) ((registersOf found).flatMap (s.rowCells v)) := by
  rw [← List.append_nil (List.flatMap ..)]
  refine .bind (.each fun r _ => .reloadRow s v r) fun _ => .of_only (F := [.ctxs]) ?_ (by decide)
  match e with
  | some k => exact .modCtx (by simp) _ _
  | none => exact .pure _

theorem runReload_run {log : List Effect} {e : Option Nat} {found : List (Nat × List Nat)}
    (h : (after s log).rowLocs v .reload ((after s log).transferRows v lo hi e) = .ok found) :
    (runReload v lo hi e s log).2 = (reloadRows v (after s log) e found s
      (beforeRows v (after s log) .reload ((after s log).transferRows v lo hi e) found s (popTransfer v s log).2).2).2 := by
  unfold runReload
  rw [run_bind_now, h]
  rfl

/-- A reload looks at no cluster. -/
theorem reloadRows_congr {t : State} (h : SameBut [.clusters] s t) (e : Option Nat) (found : List (Nat × List Nat)) :
    reloadRows v t e found = reloadRows v s e found := by
  have hpoisoned : t.poisoned = s.poisoned := by
    funext ls
    simp only [State.poisoned, h.badDram (by decide), h.badSram (by decide)]
  have hrow : reloadRow v t = reloadRow v s := by
    funext r
    simp only [reloadRow, h.wave (by decide), h.readLocs (by decide), hpoisoned]
  simp only [reloadRows, hrow, State.rowVa, h.wave (by decide), h.wg (by decide), h.readLocs (by decide), hpoisoned]

/-- A context whose window has got its stack entry. -/
def State.entryTo (s : State) (v k : Nat) (found : List (Nat × List Nat)) (x : Context) : Context :=
  { x with win := x.win.gotEntry (s.rowVa v (8 * (k - 16))) (s.poisoned (entryBytes found)) (s.readLocs (entryBytes found)) }

theorem windowReload_reloads {e : Option Nat} {found : List (Nat × List Nat)} (hv : v < s.waves.length)
    (hq : s.Quiet v) (hturn : s.hasTurn (waveCluster v) (.window v)) (hst : (s.wave v).stream = .reload lo hi e :: rest)
    (hrows : s.rowLocs v .reload (s.transferRows v lo hi e) = .ok found)
    (hr : s.rowsReady v .reload (s.transferRows v lo hi e) = true) :
    ∃ t, execWindowReload v s = .next t ∧ t.wave v = { s.wave v with stream := rest } ∧
      t.vregs = sparsePut s.vregs ((registersOf found).flatMap (s.rowCells v)) ∧
      ∀ k, e = some k → (s.wave v).owner < s.ctxs.length → t.ctx (s.wave v).owner = s.entryTo v k found (s.ctx (s.wave v).owner) := by
  obtain ⟨log, hlog, hrun⟩ := withSpill_runs hturn (runReload v lo hi e)
  have h0 := hlog.sameBut
  let log1 := (popTransfer v s log).2
  let log2 := (beforeRows v (after s log) .reload (s.transferRows v lo hi e) found s log1).2
  let log3 := (reloadRows v s e found s log2).2
  have h1 : SameBut [.waves, .clusters] (after s log) (after s log1) := (Only.popTransfer (by simp) (by simp) v).sameBut s log
  have h2 : SameBut [.dev, .mem, .badDram, .badSram, .clusters, .dies, .links] (after s log1) (after s log2) :=
    (Only.beforeRows v (after s log) .reload _ found).sameBut s log1
  have h3 : SameBut [.badRegs, .vregs, .ctxs] (after s log2) (after s log3) := (Only.reloadRows v s e found).sameBut s log2
  have hgoes : execWindowReload v s = .next (after s log3) := by
    rw [windowReload_goes (hq.transfer_reload hst) hr (spillTurn_of_hasTurn hturn), hrun,
      runReload_run (by rw [hlog.rowLocs, hlog.transferRows]; exact hrows), hlog.transferRows, reloadRows_congr h0]
  refine ⟨_, hgoes, ?_, ?_, ?_⟩
  · rw [h3.wave (by decide), h2.wave (by decide), wave_popTransfer (by rw [waves_length_after]; exact hv), h0.wave (by decide), hst]
    rfl
  · refine (Loads.reloadRows v s e found s log2).trans ?_
    rw [h2.vregs (by decide), h1.vregs (by decide), h0.vregs (by decide)]
  · rintro k rfl hlt
    let log4 := (each (registersOf found) (reloadRow v s) s log2).2
    have h4 : SameBut [.badRegs, .vregs] (after s log2) (after s log4) :=
      (Only.each fun r => Only.reloadRow (by simp) (by simp) _ _ _).sameBut s log2
    have hctx : (after s log4).ctx = s.ctx := by
      rw [h4.ctx (by decide), h2.ctx (by decide), h1.ctx (by decide), h0.ctx (by decide)]
    have hlog3 : log3 = .ctx (s.wave v).owner (s.entryTo v k found ((after s log4).ctx (s.wave v).owner)) :: log4 := rfl
    rw [hlog3, after_cons, ctx_apply_ctx, if_pos ⟨rfl, by rw [ctxs_length_after]; exact hlt⟩, hctx]

/-! ### The registers that a reload names -/

theorem rowLocs_numbers {a : Access} {rows : List (Nat × Nat × Nat)} {found : List (Nat × List Nat)} (h : s.rowLocs v a rows = .ok found) :
    found.map (·.1) = rows.map (·.1) := by
  induction rows generalizing found with
  | nil =>
    cases h
    rfl
  | cons r rows ih =>
    have hcons : s.rowLocs v a (r :: rows) = match s.superLocs (waveCluster v) (s.wg (s.wave v).wg).ctxid r.2.1 r.2.2 a true with
        | .error f => .error (r.1, r.2.1, f)
        | .ok ls => match s.rowLocs v a rows with
          | .error e => .error e
          | .ok t => .ok ((r.1, ls) :: t) := rfl
    rw [hcons] at h
    split at h
    · cases h
    · split at h
      · cases h
      · next t ht =>
        cases h
        rw [List.map_cons, List.map_cons, ih ht]

theorem numbers_registers {a : Access} {found : List (Nat × List Nat)} (h : s.rowLocs v a (s.transferRows v lo hi none) = .ok found) :
    found.map (·.1) = registerRows lo hi := by
  rw [rowLocs_numbers h, State.transferRows, List.append_nil, List.map_map]
  exact List.map_id _

/-- Two numbers of a window do not share a register. -/
theorem mod_inj_of_window {W n n' : Nat} (hn : lo ≤ n ∧ n < hi) (hn' : lo ≤ n' ∧ n' < hi) (hw : hi - lo ≤ W) (h : n % W = n' % W) : n = n' := by
  have hle {a b : Nat} (hab : a ≤ b) (hlo : lo ≤ a) (hhi : b < hi) (h : a % W = b % W) : a = b := by
    have hdvd : W ∣ b - a := (Nat.modEq_iff_dvd' hab).1 h
    have hzero := Nat.eq_zero_of_dvd_of_lt hdvd (by omega)
    omega
  rcases Nat.le_total n n' with hab | hab
  · exact hle hab hn.1 hn'.2 h
  · exact (hle hab hn'.1 hn.2 h.symm).symm

theorem regKey_inj {c n n' l l' : Nat} {w : Wave} (hn : lo ≤ n ∧ n < hi) (hn' : lo ≤ n' ∧ n' < hi) (hw : hi - lo ≤ w.width) (hl : l < 64)
    (hl' : l' < 64) (h : regKey c w n 0 l = regKey c w n' 0 l') : n = n' ∧ l = l' := by
  have hmax : max w.width 1 = w.width := by omega
  unfold regKey at h
  rw [hmax, Nat.add_zero, Nat.add_zero] at h
  exact ⟨mod_inj_of_window hn hn' hw (by omega), by omega⟩

theorem fst_rowCells (r : Nat × List Nat) : (s.rowCells v r).map (·.1) = (List.range 64).map (regKey (waveCluster v) (s.wave v) r.1 0) := by
  unfold State.rowCells
  rw [List.map_map]
  refine List.map_congr_left fun l hl => ?_
  have hl := List.mem_range.1 hl
  simp [rowKeys, hl]

theorem nodup_reloadCells {found : List (Nat × List Nat)} (h : found.map (·.1) = registerRows lo hi) (hw : hi - lo ≤ (s.wave v).width) :
    (((registersOf found).flatMap (s.rowCells v)).map (·.1)).Nodup := by
  have hrange {r : Nat × List Nat} (hr : r ∈ found) : lo ≤ r.1 ∧ r.1 < hi := by
    have hmem : r.1 ∈ registerRows lo hi := h ▸ List.mem_map_of_mem hr
    obtain ⟨i, hi', heq⟩ := List.mem_map.1 hmem
    have := List.mem_range.1 hi'
    omega
  have hdistinct : (found.map (·.1)).Nodup := by
    rw [h]
    exact List.nodup_range.map fun a b hab => Nat.add_left_cancel hab
  rw [List.map_flatMap]
  simp only [fst_rowCells]
  refine List.nodup_flatMap.2 ⟨fun r hr => ?_, ?_⟩
  · have hr := hrange (List.mem_of_mem_filter hr)
    exact List.nodup_range.map_on fun a ha b hb hab => (regKey_inj hr hr hw (List.mem_range.1 ha) (List.mem_range.1 hb) hab).2
  · have hpair : (registersOf found).Pairwise (fun a b => a.1 ≠ b.1) := (List.pairwise_map.1 hdistinct).sublist List.filter_sublist
    refine hpair.imp_of_mem fun {a b} ha hb hne key hka hkb => ?_
    obtain ⟨i, hi', rfl⟩ := List.mem_map.1 hka
    obtain ⟨j, hj, heq⟩ := List.mem_map.1 hkb
    exact hne (regKey_inj (hrange (List.mem_of_mem_filter ha)) (hrange (List.mem_of_mem_filter hb)) hw (List.mem_range.1 hi')
      (List.mem_range.1 hj) heq.symm).1

/-- Each lane's element of a reloaded register is what stood in its row. -/
theorem sparseGet_reloaded {found : List (Nat × List Nat)} {m : List (Nat × W32)} (hm : sparseWf 0 s.vregs = true)
    (ht : m = sparsePut s.vregs ((registersOf found).flatMap (s.rowCells v))) (h : found.map (·.1) = registerRows lo hi)
    (hw : hi - lo ≤ (s.wave v).width) {r : Nat × List Nat} (hr : r ∈ found) (hreg : r.1 < 2 ^ 63) {l : Nat} (hl : l < 64) :
    sparseGet m (regKey (waveCluster v) (s.wave v) r.1 0 l) = BitVec.ofNat 32 (s.readLocs ((r.2.drop (4 * l)).take 4)) := by
  have hcell : (regKey (waveCluster v) (s.wave v) r.1 0 l, BitVec.ofNat 32 (s.readLocs ((r.2.drop (4 * l)).take 4))) ∈
      (registersOf found).flatMap (s.rowCells v) := by
    refine List.mem_flatMap.2 ⟨r, List.mem_filter.2 ⟨hr, by simpa using hreg⟩, List.mem_map.2 ⟨l, List.mem_range.2 hl, ?_⟩⟩
    simp [rowKeys, hl]
  rw [ht]
  exact sparseGet_put_of_mem hm (nodup_reloadCells h hw) hcell

/-! ### A transfer that fails, and one that waits -/

theorem wave_faultTransfer {log : List Effect} (hv : v < (after s log).waves.length) (source access code va : Nat) (f : XFail) :
    let t := after s (faultTransfer v source access code va f s log).2
    t.wave v = { (after s log).wave v with status := .faulted } ∧ t.vregs = (after s log).vregs := by
  let log1 : List Effect := .wave v { (after s log).wave v with status := .faulted } :: log
  let w := (after s log1).wave v
  let x := (after s log1).wg w.wg
  have hraise := (Only.raiseFault (F := [.dev, .mem, .badDram, .badSram, .clusters, .dies, .parts, .links, .devs]) (by simp) (by simp)
    (by simp) (by simp) (by simp) (by simp) (by simp) (by simp) (by simp) x.ctxid (.spill w.wg w.wix)
    { source := source, kind := f.recorded, access := access, lvl := f.lvl, role := ((after s log1).ctx w.owner).role, index := w.wix,
      va := va, wgid := x.wgid, extra := code }).sameBut s log1
  refine ⟨(congrFun (hraise.wave (by decide)) v).trans ?_, (hraise.vregs (by decide)).trans ?_⟩
  · rw [after_cons, wave_apply_wave, if_pos ⟨rfl, hv⟩]
  · rw [after_cons, vregs_apply (by rfl)]

theorem windowSpill_faults {e : Nat × Nat × XFail} (hv : v < s.waves.length) (hq : s.Quiet v) (hturn : s.hasTurn (waveCluster v) (.window v))
    (hst : (s.wave v).stream = .spill lo hi none :: rest) (hrows : s.rowLocs v .spill (s.transferRows v lo hi none) = .error e)
    (hr : s.rowsReady v .spill (s.transferRows v lo hi none) = true) :
    ∃ t, execWindowSpill v s = .next t ∧ (t.wave v).status = .faulted ∧ (t.wave v).stream = (s.wave v).stream ∧ t.vregs = s.vregs := by
  obtain ⟨log, hlog, hrun⟩ := withSpill_runs hturn (runSpill v lo hi none)
  have h0 := hlog.sameBut
  have hfault : runSpill v lo hi none s log = faultTransfer v 4 1 e.1 e.2.1 e.2.2 s log := by
    unfold runSpill
    rw [run_bind_now, hlog.rowLocs, hlog.transferRows, Option.map_none, hrows]
  obtain ⟨hwave, hvregs⟩ := wave_faultTransfer (s := s) (log := log) (by rw [waves_length_after]; exact hv) 4 1 e.1 e.2.1 e.2.2
  rw [h0.wave (by decide)] at hwave
  refine ⟨_, windowSpill_goes (hq.transfer_spill hst) hr (spillTurn_of_hasTurn hturn), ?_⟩
  rw [hrun, hfault, hwave, hvregs, h0.vregs (by decide)]
  exact ⟨rfl, rfl, rfl⟩

theorem windowReload_faults {e : Nat × Nat × XFail} (hv : v < s.waves.length) (hq : s.Quiet v) (hturn : s.hasTurn (waveCluster v) (.window v))
    (hst : (s.wave v).stream = .reload lo hi none :: rest) (hrows : s.rowLocs v .reload (s.transferRows v lo hi none) = .error e)
    (hr : s.rowsReady v .reload (s.transferRows v lo hi none) = true) :
    ∃ t, execWindowReload v s = .next t ∧ (t.wave v).status = .faulted ∧ (t.wave v).stream = (s.wave v).stream ∧ t.vregs = s.vregs := by
  obtain ⟨log, hlog, hrun⟩ := withSpill_runs hturn (runReload v lo hi none)
  have h0 := hlog.sameBut
  have hfault : runReload v lo hi none s log = faultTransfer v 5 0 e.1 e.2.1 e.2.2 s log := by
    unfold runReload
    rw [run_bind_now, hlog.rowLocs, hlog.transferRows, hrows]
  obtain ⟨hwave, hvregs⟩ := wave_faultTransfer (s := s) (log := log) (by rw [waves_length_after]; exact hv) 5 0 e.1 e.2.1 e.2.2
  rw [h0.wave (by decide)] at hwave
  refine ⟨_, windowReload_goes (hq.transfer_reload hst) hr (spillTurn_of_hasTurn hturn), ?_⟩
  rw [hrun, hfault, hwave, hvregs, h0.vregs (by decide)]
  exact ⟨rfl, rfl, rfl⟩

theorem windowSpill_waits {e : Option (Nat × Nat × Nat)} (hc : waveCluster v < s.clusters.length)
    (hjobs : (s.cluster (waveCluster v)).spillq ≠ []) (hj : .window v ∉ (s.cluster (waveCluster v)).spillq) (ht : s.transfer v = some (.spill lo hi e))
    (hr : s.rowsReady v .spill (s.transferRows v lo hi (e.map (·.1))) = true) :
    ∃ t, execWindowSpill v s = .next t ∧ SameBut [.clusters] s t ∧
      (t.cluster (waveCluster v)).spillq = (s.cluster (waveCluster v)).spillq ++ [.window v] := by
  have hturn : s.spillTurn (waveCluster v) (.window v) = true := by
    unfold State.spillTurn
    simp [hj]
  refine ⟨_, windowSpill_goes ht hr hturn, ?_⟩
  rw [withSpill_waits hjobs hj, after_cons, after_nil]
  refine ⟨sameBut_apply (by simp [Effect.writes]) s, ?_⟩
  rw [cluster_apply_cluster, if_pos ⟨rfl, hc⟩]

theorem rowsReady_of_calm (h : s.calm = true) (a : Access) (rows : List (Nat × Nat × Nat)) : s.rowsReady v a rows = true := by
  unfold State.rowsReady
  rw [h, Bool.true_or]

theorem noTransfer_idle (h : s.transfer v = none ∨ (s.cluster (waveCluster v)).spillq.head? ≠ some (.window v) ∧
    .window v ∈ (s.cluster (waveCluster v)).spillq) :
    Idle "WINDOW_SPILL" (execWindowSpill v s) ∧ Idle "WINDOW_RELOAD" (execWindowReload v s) := by
  rcases h with h | ⟨hh, hm⟩
  · exact ⟨windowSpill_idle (.inl (by rw [State.spillDue, h])), windowReload_idle (.inl (by rw [State.reloadDue, h]))⟩
  · exact ⟨windowSpill_idle (.inr (not_spillTurn hh hm)), windowReload_idle (.inr (not_spillTurn hh hm))⟩

theorem gotEntry_popPending {w : Window} (h : w.popPending = true) (va : Nat) (bad : Bool) (x : Nat) :
    (bad = false → w.gotEntry va bad x = { w with popRead := some (x % 2 ^ 32, x / 2 ^ 32 % 2 ^ 16) }) ∧
      (bad = true → w.gotEntry va bad x = { w with popBad := some (BitVec.ofNat 64 va) }) := by
  unfold Window.gotEntry
  rw [h]
  exact ⟨fun hb => by rw [hb]; rfl, fun hb => by rw [hb]; rfl⟩

end

/-- Settles O43: a transfer at the head of a quiet stream moves its registers and its stack entry in its turn at the sequencer, faults where
a row does not translate, and waits for a held row or for the jobs before it. -/
theorem windowTransfers : Obligations.WindowTransfers := by
  intro s v lo hi rest hv hs
  dsimp only
  intro hstatus hflight hhalf hissue
  have hq : s.Quiet v := ⟨hstatus, hflight, hhalf, hissue⟩
  refine ⟨fun hcalm a e => rowsReady_of_calm hcalm .., fun e rows hturn hst hrows hr hb hhi hn => ?_, fun rows hturn hst hrows hr hw => ?_,
    fun k rows hturn hst hrows hr hlt hpop => ?_, fun e hturn hst hrows hr => windowSpill_faults hv hq hturn hst hrows hr,
    fun e hturn hst hrows hr => windowReload_faults hv hq hturn hst hrows hr,
    fun rows hc hjobs hj hst _ hr => windowSpill_waits hc hjobs hj (hq.transfer_spill hst) hr,
    fun e hst hr => windowSpill_idle (.inl (not_spillDue (hq.transfer_spill hst) hr)),
    fun e hst hr => windowReload_idle (.inl (not_reloadDue (hq.transfer_reload hst) hr)), noTransfer_idle⟩
  · obtain ⟨t, m, hnext, hwave, hframe, hm, hmem⟩ := windowSpill_spills hs hv hq hturn hst hrows hr hb
    exact ⟨t, hnext, hwave, hframe.vregs (by decide), hframe, fun r hmr hreg hlen l hl => readLocs_spilled hm hmem hn hmr hreg hlen hl,
      fun k base frame he hlen => readLocs_stackEntry he hm hmem hn hlen⟩
  · obtain ⟨t, hnext, hwave, hvregs, -⟩ := windowReload_reloads hv hq hturn hst hrows hr
    exact ⟨t, hnext, hwave, fun r hmr hreg l hl => sparseGet_reloaded hs.2.1 hvregs (numbers_registers hrows) hw hmr hreg hl⟩
  · obtain ⟨t, hnext, hwave, -, hctx⟩ := windowReload_reloads hv hq hturn hst hrows hr
    obtain ⟨hclean, hbad⟩ := gotEntry_popPending hpop (s.rowVa v (8 * (k - 16))) (s.poisoned (entryBytes rows)) (s.readLocs (entryBytes rows))
    have hwin := congrArg Context.win (hctx k rfl hlt)
    exact ⟨t, hnext, hwave, fun h => hwin.trans (hclean h), fun h => hwin.trans (hbad h)⟩

end Sys2Proof.Machine
end

section
/-! # Queue words, node words and the batch timer -/
namespace Sys2Proof.Machine

/-! ### A context's queues and nodes -/

section
variable {s : State} {log : List Effect} {id : Nat}

/-- The entry of a live context. -/
theorem devIx_lt {i : Nat} (h : s.devIx id = some i) : i < s.devs.length := (List.findIdx?_eq_some_iff_getElem.1 h).1

/-- A change of a context that keeps its CTXID and its status is found there again. -/
theorem dctx_modDctx {f : DevCtx → DevCtx} {i : Nat} (h : (after s log).devIx id = some i)
    (hid : ∀ d, (f d).desc.ctxid = d.desc.ctxid ∧ (f d).status = d.status) :
    (after s (modDctx id f s log).2).dctx id = f ((after s log).dctx id) := by
  have hlt := devIx_lt h
  have hix : (Effect.apply (after s log) (.devCtx i (f ((after s log).devAt i)))).devIx id = some i := by
    unfold State.devIx at h ⊢
    rw [devs_apply_devCtx]
    obtain ⟨hi, hfound, hfirst⟩ := List.findIdx?_eq_some_iff_getElem.1 h
    refine List.findIdx?_eq_some_iff_getElem.2 ⟨by rw [List.length_set]; exact hi, ?_, fun j hj => ?_⟩
    · rw [List.getElem_set_self, State.devAt, List.getD_eq_getElem _ _ hi, (hid _).1, (hid _).2]
      exact hfound
    · rw [List.getElem_set_ne (by omega)]
      exact hfirst j hj
  have hat : (Effect.apply (after s log) (.devCtx i (f ((after s log).devAt i)))).devAt i = f ((after s log).devAt i) := by
    rw [devAt_apply_devCtx, if_pos ⟨rfl, hlt⟩]
  rw [run_modDctx, h]
  dsimp only
  rw [after_cons, State.dctx, hix]
  dsimp only
  rw [hat, State.dctx, h]

theorem devIx_of_queue {n : Nat} {q : Queue} (h : (s.dctx id).queue n = some q) : ∃ i, s.devIx id = some i := by
  cases hi : s.devIx id with
  | some i => exact ⟨i, rfl⟩
  | none =>
    rw [State.dctx, hi] at h
    cases h

theorem devIx_of_node {n : Nat} {nd : Node} (h : (s.dctx id).node n = some nd) : ∃ i, s.devIx id = some i := by
  cases hi : s.devIx id with
  | some i => exact ⟨i, rfl⟩
  | none =>
    rw [State.dctx, hi] at h
    cases h

theorem find?_map_of {α : Type} {l : List α} {p : α → Bool} {f : α → α} {x : α} (h : l.find? p = some x) (hf : ∀ y, p y = true → p (f y) = true) :
    (l.map fun y => if p y then f y else y).find? p = some (f x) := by
  induction l with
  | nil => cases h
  | cons y l ih =>
    rw [List.map_cons, List.find?_cons]
    cases hy : p y with
    | true =>
      rw [List.find?_cons, hy] at h
      cases h
      simp [hy, hf]
    | false =>
      rw [List.find?_cons, hy] at h
      simpa [hy] using ih h

theorem queue_num {d : DevCtx} {n : Nat} {q : Queue} (h : d.queue n = some q) : q.num = n := by
  have := List.find?_some h
  simp only [Bool.and_eq_true, beq_iff_eq] at this
  exact this.1

theorem node_handle {d : DevCtx} {n : Nat} {nd : Node} (h : d.node n = some nd) : nd.handle = n := by
  simpa using List.find?_some h

/-- A queue that changes and keeps its number and its status is found there again. -/
theorem queue_modQueue {n : Nat} {q : Queue} {f : Queue → Queue} (h : ((after s log).dctx id).queue n = some q)
    (hf : ∀ q, (f q).num = q.num ∧ (f q).status = q.status) :
    ((after s (modQueue id n f s log).2).dctx id).queue n = some (f q) := by
  obtain ⟨i, hi⟩ := devIx_of_queue h
  unfold modQueue
  rw [dctx_modDctx hi]
  · exact find?_map_of h fun q hq => by rw [(hf q).1, (hf q).2]; exact hq
  · exact fun d => ⟨rfl, rfl⟩

theorem node_modNode {n : Nat} {nd : Node} {f : Node → Node} (h : ((after s log).dctx id).node n = some nd) (hf : ∀ x, (f x).handle = x.handle) :
    ((after s (modNode id n f s log).2).dctx id).node n = some (f nd) := by
  obtain ⟨i, hi⟩ := devIx_of_node h
  unfold modNode
  rw [dctx_modDctx hi]
  · exact find?_map_of h fun q hq => by rw [hf q]; exact hq
  · exact fun d => ⟨rfl, rfl⟩

end

/-! ### Writes of the core -/

section
variable {s : State} {log : List Effect} {id va : Nat} {bytes : List Byte}

theorem coreWrite_run {locs : List Nat} (h : (after s log).superLocs 0 id va bytes.length .store false = .ok locs) :
    (coreWrite id va bytes s log).2 =
      (writeNewest .core locs bytes s (usePages 0 id ((List.range bytes.length).map (va + ·)) .store s log).2).2 := by
  unfold coreWrite
  rw [run_bind_now, h]
  rfl

theorem length_superLocs {cluster n : Nat} {a : Access} {checked : Bool} {locs : List Nat}
    (h : s.superLocs cluster id va n a checked = .ok locs) : locs.length = n := by
  have hfold (l : List Nat) (step : Nat → Except XFail Nat) (ls : List Nat) (h : l.foldr (fun i acc =>
      match step i with
      | .error f => .error f
      | .ok l => match acc with
        | .error f => .error f
        | .ok ls => .ok (l :: ls)) (.ok []) = (.ok ls : Except XFail (List Nat))) : ls.length = l.length := by
    induction l generalizing ls with
    | nil =>
      cases h
      rfl
    | cons i l ih =>
      rw [List.foldr_cons] at h
      split at h
      · cases h
      · split at h
        · cases h
        · next t ht =>
          cases h
          exact congrArg (· + 1) (ih t ht)
  exact (hfold _ _ _ h).trans List.length_range

/-- What the core writes stands there. -/
theorem byte_coreWrite (hc : (after s log).canonical) {locs : List Nat}
    (h : (after s log).superLocs 0 id va bytes.length .store false = .ok locs) (hn : locs.Nodup) {i : Nat} (hi : i < bytes.length) :
    (after s (coreWrite id va bytes s log).2).byte (locs.getD i 0) = bytes.getD i 0 := by
  have hlen := length_superLocs h
  have hcanon : (after s (usePages 0 id ((List.range bytes.length).map (va + ·)) .store s log).2).canonical :=
    canonical_run (Only.usePages (F := [.dev, .mem, .badDram, .badSram, .clusters, .dies, .links]) (by simp) (by simp) (by simp) (by simp)
      (by simp) (by simp) (by simp) _ _ _ _) hc
  have hmem : (locs[i], bytes[i]) ∈ locs.zip bytes := by
    have hz : i < (locs.zip bytes).length := by simp [hlen, hi]
    simpa using List.getElem_mem hz
  rw [coreWrite_run h, List.getD_eq_getElem _ _ (by omega), List.getD_eq_getElem _ _ hi, State.byte, Puts.writeNewest]
  exact sparseGet_put_of_mem hcanon.1 (hn.sublist (map_fst_zip_sublist ..)) hmem

end

/-! ### A word of a context that goes on -/

/-- What a word that reaches memory and the queues may change. -/
abbrev queueFields : List Field := [.ctxs, .mem, .badDram, .badSram, .devs, .dev, .links, .clusters, .dies]

section
variable {s : State}

/-- The word answers v in d and steps on; its context is otherwise as it was but for the replies that it has used. -/
def State.Gives (s : State) (d : Reg) (v : Word) (r : Result) (P : State → Prop) : Prop :=
  ∃ t, r = .next t ∧ SameBut queueFields s t ∧ (∀ j, j ≠ s.curCtx → t.ctx j = s.ctx j) ∧ t.cur.rd d = (if d = 0 then 0 else v) ∧
    KeepsRegs d s.cur t.cur ∧ t.cur.pc = s.pcNow + 4 ∧ P t

/-- So far a word has changed no context but the reply of its own. -/
structure State.Going (s : State) (log : List Effect) : Prop where
  frame : SameBut queueFields s (after s log)
  others : ∀ j, j ≠ s.curCtx → (after s log).ctx j = s.ctx j
  mine : ∃ b, (after s log).ctx s.curCtx = { s.cur with reply := b }

theorem State.Going.start (s : State) : s.Going [] := ⟨sameBut_refl .., fun _ _ => rfl, s.cur.reply, rfl⟩

theorem State.Going.then {log : List Effect} {α : Type} {a : Act α} {F : List Field} (h : s.Going log) (ha : Only F a)
    (hF : ∀ f ∈ F, f ∈ queueFields) (hctx : Field.ctxs ∉ F) : s.Going (a s log).2 := by
  have hsame := ha.sameBut s log
  have hc := hsame.ctx hctx
  refine ⟨sameBut_trans h.frame (hsame.mono hF), ?_, ?_⟩
  · rw [hc]
    exact h.others
  · rw [hc]
    exact h.mine

theorem rd_withBank (c : Context) (l : List Word) (r : Reg) : Context.rd { c with bank := l } r =
    if r.toNat = 0 then 0 else if c.inBank r.toNat = true then l.getD (r.toNat - 24) 0 else c.s.getD r.toNat 0 := rfl

theorem rd_withFile (c : Context) (l : List Word) (r : Reg) : Context.rd { c with s := l } r =
    if r.toNat = 0 then 0 else if c.inBank r.toNat = true then c.bank.getD (r.toNat - 24) 0 else l.getD r.toNat 0 := rfl

theorem inBank_ge {c : Context} {n : Nat} (h : c.inBank n = true) : 24 ≤ n := by
  simp only [Context.inBank, Bool.and_eq_true, decide_eq_true_eq] at h
  exact h.2

section
variable {c : Context} {d : Reg} {v : Word}

theorem wr_zero (h : d.toNat = 0) : c.wr d v = c := by simp [Context.wr, h]
theorem wr_bank (hn : d.toNat ≠ 0) (hb : c.inBank d.toNat = true) : c.wr d v = { c with bank := putAt 0 c.bank (d.toNat - 24) v } := by
  simp [Context.wr, hn, hb]
theorem wr_file (hn : d.toNat ≠ 0) (hb : c.inBank d.toNat = false) : c.wr d v = { c with s := putAt 0 c.s d.toNat v } := by
  simp [Context.wr, hn, hb]

theorem toNat_zero_iff (d : Reg) : d.toNat = 0 ↔ d = 0 := by bv_omega

theorem rd_wr_self (c : Context) (d : Reg) (v : Word) : (c.wr d v).rd d = if d = 0 then 0 else v := by
  by_cases hn : d.toNat = 0
  · rw [wr_zero hn, if_pos ((toNat_zero_iff d).1 hn), Context.rd]
    exact if_pos hn
  · rw [if_neg fun h => hn ((toNat_zero_iff d).2 h)]
    cases hb : c.inBank d.toNat with
    | true => rw [wr_bank hn hb, rd_withBank, if_neg hn, if_pos hb, getD_putAt, if_pos rfl]
    | false => rw [wr_file hn hb, rd_withFile, if_neg hn, if_neg (by simp [hb]), getD_putAt, if_pos rfl]

theorem keepsRegs_wr (c : Context) (d : Reg) (v : Word) : KeepsRegs d c (c.wr d v) := by
  by_cases hn : d.toNat = 0
  · rw [wr_zero hn]
    exact ⟨fun _ _ => rfl, fun _ _ => rfl, fun _ _ => rfl⟩
  · cases hb : c.inBank d.toNat with
    | true =>
      have hge := inBank_ge hb
      rw [wr_bank hn hb]
      refine ⟨fun r hr => ?_, fun _ _ => rfl, fun n h => ?_⟩
      · have hne : r.toNat ≠ d.toNat := fun h => hr (BitVec.eq_of_toNat_eq h)
        rw [rd_withBank, getD_putAt, Context.rd]
        split
        · rfl
        · split
          · next hbr => rw [if_neg (by have := inBank_ge hbr; omega)]
          · rfl
      · have hne : n ≠ d.toNat - 24 := by
          rcases h with h | h
          · omega
          · exact absurd (hb.symm.trans h) (by simp)
        rw [getD_putAt, if_neg hne]
    | false =>
      rw [wr_file hn hb]
      refine ⟨fun r hr => ?_, fun n h => ?_, fun _ _ => rfl⟩
      · have hne : r.toNat ≠ d.toNat := fun h => hr (BitVec.eq_of_toNat_eq h)
        rw [rd_withFile, getD_putAt, if_neg hne]
        rfl
      · have hne : n ≠ d.toNat := h.resolve_right (by simp [hb])
        rw [getD_putAt, if_neg hne]

theorem pc_wr (c : Context) (d : Reg) (v : Word) : (c.wr d v).pc = c.pc := by
  unfold Context.wr
  dsimp only
  split
  · rfl
  · split <;> rfl

end

theorem gives_finish (hs : Acting s) {log : List Effect} (hg : s.Going log) {d : Reg} {v : Word} {r : Result} {P : State → Prop}
    (hr : r = .next (after s (finish d v 4 s log).2)) (hP : P (after s (finish d v 4 s log).2)) : s.Gives d v r P := by
  obtain ⟨hframe, hothers, b, hmine⟩ := hg
  have hcur : (after s log).curCtx = s.curCtx := hframe.curCtx (by decide)
  have hrun : after s (finish d v 4 s log).2 = Effect.apply (after s log) (.ctx s.curCtx (({ s.cur with reply := b }.wr d v).adv 4)) := by
    rw [run_finish, hcur, hmine, after_cons]
  have hctx (j : Nat) : (after s (finish d v 4 s log).2).ctx j = if j = s.curCtx then ({ s.cur with reply := b }.wr d v).adv 4 else s.ctx j := by
    rw [hrun, ctx_apply_ctx]
    by_cases hj : j = s.curCtx
    · rw [if_pos hj, if_pos ⟨hj, by rw [ctxs_length_after]; exact hs⟩]
    · rw [if_neg hj, if_neg fun h => hj h.1, hothers j hj]
  have hnow : (after s (finish d v 4 s log).2).cur = ({ s.cur with reply := b }.wr d v).adv 4 := by
    have hc : (after s (finish d v 4 s log).2).curCtx = s.curCtx := by
      rw [hrun]
      exact hcur
    rw [State.cur, hc, hctx, if_pos rfl]
  refine ⟨_, hr, ?_, fun j hj => (hctx j).trans (if_neg hj), ?_, ?_, ?_, hP⟩
  · rw [hrun]
    exact sameBut_trans hframe (sameBut_apply (by simp [Effect.writes]) _)
  · rw [hnow]
    exact rd_wr_self ..
  · rw [hnow]
    exact keepsRegs_wr { s.cur with reply := b } d v
  · rw [hnow]
    exact congrArg (· + 4) (pc_wr ..)

end

/-! ### The access of a word that needs no walk -/

/-- The translation of an access stands in a TLB. -/
def settled (y : Option Xlated) : Prop := ∀ z, y = some z → z.walked = false

section
variable {s : State} {k : Nat} {y : Option Xlated}

/-- What such an access leaves behind: its request to the host or to another package, and its entry as the most recently used. -/
theorem only_useXlated_settled {z : Xlated} (hz : z.walked = false) (cluster : Nat) (write : Bool) :
    Only [.dev, .links, .clusters, .dies] (useXlated cluster z write false) := by
  have hinstall : Only [.dev, .links, .clusters, .dies] (installTlb cluster z.entry true) := .installTlb (by simp) (by simp) _ _ _
  unfold useXlated
  simp only [hz, Bool.not_false, if_true]
  split
  · exact .bind (.askHost (by simp) _) fun _ => hinstall
  · split
    · exact .bind (.sendFar (by simp) _ _) fun _ => hinstall
    · exact hinstall

/-- The translation's part of an access. -/
def useAccess (k : Nat) (y : Option Xlated) (write : Bool) : Act Unit :=
  match y with
  | some x => useXlated (ctxCluster k) x write false
  | none => pure ()

theorem only_useAccess (hy : settled y) (write : Bool) : Only [.dev, .links, .clusters, .dies] (useAccess k y write) := by
  unfold useAccess
  cases y with
  | none => exact .pure ()
  | some z => exact only_useXlated_settled (hy z rfl) (ctxCluster k) write

theorem run_settleAccess (k : Nat) (y : Option Xlated) (write : Bool) (s : State) (log : List Effect) :
    settleAccess k y write s log = (do
      useAccess k y write
      let c := (← now).ctx k
      if c.reply.isSome then setCtx k { c with reply := none } else pure () : Act Unit) s log := by
  cases y <;> rfl

/-- After an access that needs no walk the word's context has used its replies, and memory is as it was. -/
theorem settleAccess_going (hs : Acting s) (hy : settled y) (write : Bool) :
    s.Going (settleAccess s.curCtx y write s []).2 ∧
      SameBut [.dev, .links, .clusters, .dies, .ctxs] s (after s (settleAccess s.curCtx y write s []).2) := by
  let log := (useAccess s.curCtx y write s []).2
  have huse : SameBut [.dev, .links, .clusters, .dies] s (after s log) := (only_useAccess hy write).sameBut s []
  have hgoing : s.Going log := (State.Going.start s).then (only_useAccess hy write) (by simp) (by decide)
  rw [run_settleAccess, run_bind, run_bind_now, run_ite]
  split
  · have hctx : (after s log).ctx s.curCtx = s.cur := congrFun (huse.ctx (by decide)) _
    rw [run_setCtx, hctx]
    have heffect := sameBut_apply (F := [.ctxs]) (e := .ctx s.curCtx { s.cur with reply := none }) (by simp [Effect.writes]) (after s log)
    refine ⟨⟨?_, fun j hj => ?_, none, ?_⟩, ?_⟩
    · rw [after_cons]
      exact sameBut_trans hgoing.frame (heffect.mono (by simp))
    · rw [after_cons, ctx_apply_ctx, if_neg fun h => hj h.1]
      exact hgoing.others j hj
    · rw [after_cons, ctx_apply_ctx, if_pos ⟨rfl, by rw [ctxs_length_after]; exact hs⟩]
    · rw [after_cons]
      exact sameBut_trans (huse.mono (by simp)) (heffect.mono (by simp))
  · exact ⟨hgoing, huse.mono (by simp)⟩

end

/-! ### The record that a word reads -/

section
variable {s : State} {a : Actor}

theorem undo_filter (ws : List MemWrite) (l : Nat) (b : Byte) : undo (ws.filter (·.touches [l])) l b = undo ws l b := by
  induction ws generalizing b with
  | nil => rfl
  | cons w ws ih =>
    have hcons (b : Byte) (us : List MemWrite) : undo (w :: us) l b = undo us l (match w.cells.find? (·.1 == l) with
      | some c => c.2.2
      | none => b) := rfl
    cases hw : w.touches [l] with
    | true => rw [List.filter_cons_of_pos (p := fun w : MemWrite => w.touches [l]) hw, hcons, hcons, ih]
    | false =>
      have hnone : w.cells.find? (·.1 == l) = none := by
        rw [List.find?_eq_none]
        intro c hc
        have hall : ∀ c ∈ w.cells, ¬ c.1 = l := by simpa [MemWrite.touches] using hw
        simpa using hall c hc
      rw [List.filter_cons_of_neg (p := fun w : MemWrite => w.touches [l]) (by simp [hw]), ih, hcons, hnone]

/-- What a wide access goes past is, at each of its bytes, something that an access of that byte may go past. -/
theorem past_byte (v : Visibility) {locs : List Nat} {l : Nat} (hl : l ∈ locs) (n : Nat) :
    ∃ m, ((v.past a locs).take n).filter (·.touches [l]) = (v.past a [l]).take m := by
  have htouch (w : MemWrite) (h : w.touches [l] = true) : w.touches locs = true := by
    unfold MemWrite.touches at h ⊢
    rw [List.any_eq_true] at h ⊢
    obtain ⟨c, hc, hcl⟩ := h
    have hcl : c.1 = l := by simpa using hcl
    exact ⟨c, hc, by simpa [hcl] using hl⟩
  have hbinds (w : MemWrite) (h : w.binds a locs = false) : w.binds a [l] = false := by
    unfold MemWrite.binds at h ⊢
    rw [Bool.or_eq_false_iff] at h ⊢
    refine ⟨h.1, ?_⟩
    simp only [List.any_eq_false] at h ⊢
    intro r hr hread
    refine h.2 r hr ?_
    rw [Bool.and_eq_true] at hread ⊢
    refine ⟨hread.1, List.any_eq_true.2 ⟨l, hl, ?_⟩⟩
    simpa using hread.2
  let all := v.writes.filter (·.touches locs)
  have hfilter : all.filter (·.touches [l]) = v.writes.filter (·.touches [l]) := by
    rw [List.filter_filter]
    refine List.filter_congr fun w _ => ?_
    cases hw : w.touches [l] with
    | true => simp [htouch w hw]
    | false => simp
  have hprefix : ((v.past a locs).take n).filter (·.touches [l]) <+: v.writes.filter (·.touches [l]) :=
    hfilter ▸ ((List.take_prefix ..).trans (List.takeWhile_prefix _)).filter _
  obtain ⟨rest, hrest⟩ := hprefix
  have hfree : ∀ w ∈ ((v.past a locs).take n).filter (·.touches [l]), (! w.binds a [l]) = true := by
    intro w hw
    have hpast := List.mem_of_mem_take (List.mem_of_mem_filter hw)
    have hb := List.mem_takeWhile_imp hpast
    rw [hbinds w (by simpa using hb)]
    rfl
  refine ⟨(((v.past a locs).take n).filter (·.touches [l])).length, ?_⟩
  refine List.prefix_iff_eq_take.1 ?_
  unfold Visibility.past
  rw [← hrest, List.takeWhile_append_of_pos hfree]
  exact List.prefix_append ..

/-- Each byte of a record is one that the word may read. -/
theorem mayRead_byte (s : State) (a : Actor) {u : List Nat} {l : Nat} (hl : l ∈ u) (n : Nat) :
    s.mayRead a [l] (undo ((s.vis.past a u).take n) l (s.byte l)).toNat := by
  obtain ⟨m, hm⟩ := past_byte (a := a) s.vis hl n
  refine ⟨m, ?_⟩
  rw [List.map_cons, List.map_nil, ← hm, undo_filter]
  simp [leNat]

/-- Bytes that an access of these locations may read. -/
def State.readsOf (s : State) (a : Actor) (locs : List Nat) (bytes : List Byte) : Prop :=
  List.Forall₂ (fun l b => s.mayRead a [l] b.toNat) locs bytes

theorem readsOf_look (s : State) (a : Actor) (n : Nat) (u : List Nat) : s.readsOf a u (s.vis.look s.byte a n u).1 := by
  have hsub (us : List Nat) (h : ∀ l ∈ us, l ∈ u) :
      s.readsOf a us (us.map fun l => undo ((s.vis.past a u).take n) l (s.byte l)) := by
    induction us with
    | nil => exact .nil
    | cons l us ih => exact .cons (mayRead_byte s a (h l List.mem_cons_self) n) (ih fun x hx => h x (List.mem_cons_of_mem l hx))
  exact hsub u fun _ h => h

theorem readsOf_readUnits (s : State) (a : Actor) (units : List (List Nat)) : s.readsOf a units.flatten (s.readUnits a units).1.flatten := by
  have hfold (units : List (List Nat)) (acc : List (List Byte) × List Release × Visibility) :
      ∃ bs, s.readsOf a units.flatten bs ∧ (units.foldl (s.readUnit a) acc).1.flatten = acc.1.flatten ++ bs := by
    induction units generalizing acc with
    | nil => exact ⟨[], .nil, by simp⟩
    | cons u us ih =>
      obtain ⟨bs, hbs, heq⟩ := ih (s.readUnit a acc u)
      refine ⟨(s.vis.look s.byte a (acc.2.2.picks.headD 0) u).1 ++ bs, ?_, ?_⟩
      · rw [List.flatten_cons]
        exact List.rel_append (readsOf_look s a _ u) hbs
      · rw [List.foldl_cons, heq]
        simp [State.readUnit]
  obtain ⟨bs, hbs, heq⟩ := hfold units ([], [], s.vis)
  rw [readUnits_eq]
  exact (heq.trans (List.nil_append bs)) ▸ hbs

end


/-! ### The right and the queue of a word -/

section
variable {s : State} {d a : Reg} {qn : BitVec 8} {i : Instr} {body : Queue → Act Unit} {q : Queue}

/-- A queue word traps without the queue right, and is illegal for a queue that its context has not created. -/
def State.queueGate (s : State) (qn : BitVec 8) (i : Instr) (body : Queue → Act Unit) : Act Unit :=
  if !s.cur.hasRight 2 then trapNow (rightsRecord 2)
  else match s.queueOf qn with
    | none => illegal i
    | some q => body q

theorem queueGate_denied (h : s.cur.hasRight 2 = false) : s.queueGate qn i body = trapNow (rightsRecord 2) := by
  rw [State.queueGate, h]
  rfl

theorem queueGate_missing (h : s.cur.hasRight 2 = true) (hq : (s.dctx s.cur.ctxid).queue qn.toNat = none) : s.queueGate qn i body = illegal i := by
  have hof : s.queueOf qn = none := hq
  rw [State.queueGate, h, hof]
  rfl

theorem queueGate_open (h : s.cur.hasRight 2 = true) (hq : (s.dctx s.cur.ctxid).queue qn.toNat = some q) : s.queueGate qn i body = body q := by
  have hof : s.queueOf qn = some q := hq
  rw [State.queueGate, h, hof]
  rfl

/-- A word that waits changes nothing but its context's state. -/
theorem becomes_stall (hs : Acting s) (why : StallReason) : Becomes s (s.cur.stall why) (commit (stallCur why) s) := becomes_setCtx hs _

theorem gives_at_once (hs : Acting s) (d : Reg) (v : Word) : s.Gives d v (commit (finish d v) s) fun t => t.devs = s.devs :=
  gives_finish hs (.start s) rfl rfl

/-! ### QPUSH (R322) -/

/-- The stamp of a word. -/
def State.stampNow (s : State) : Stamp := { wg := s.cur.wg, role := s.cur.role, count := s.cur.issued }

/-- A queue with a record at its tail: in the ring, or published at its counter. -/
def Queue.pushed (q : Queue) (rec_ : List Byte) (st : Option Stamp) (time : Nat) (task : Option Nat) : Queue :=
  match task with
  | some n => q.pass.publish n rec_ st time
  | none => q.append st time

/-- What becomes of the record that a QPUSH has read. -/
def State.pushInto (s : State) (d : Reg) (q : Queue) (rec_ : List Byte) : Act Unit :=
  if (q.taskCounter rec_).any fun n => (q.counter n).task.isSome then finish d 2
  else if q.full then finish d 0
  else do
    coreWrite s.cur.ctxid (q.slotVa q.tail) rec_
    modQueue s.cur.ctxid q.num fun q' => q'.pushed rec_ (some s.stampNow) s.dev.time (q.taskCounter rec_)
    finish d 1

/-- A QPUSH to a queue of its context. -/
def State.pushBody (s : State) (d a : Reg) (q : Queue) : Act Unit :=
  match s.genAccess s.curCtx (s.rd a) 64 64 .load true with
  | .trap r => trapNow r
  | .wait why => stallCur why
  | .ok locs x =>
    if !q.full && s.superHeld 0 s.cur.ctxid (q.slotVa q.tail) 64 .store then stallCur .held
    else do
      settleAccess s.curCtx x false
      let r ← readBy (s.scalarActor s.curCtx) (wordUnits id locs)
      s.pushInto d q r.1.flatten

theorem execQpush_eq (d a : Reg) (qn : BitVec 8) (s : State) :
    execQpush d a qn s = commit (s.queueGate qn (.qpush d a qn) (s.pushBody d a)) s := rfl

variable {locs : List Nat} {y : Option Xlated}

/-- The log of a QPUSH once it has read its record, and the record. -/
def State.pushRead (s : State) (locs : List Nat) (y : Option Xlated) : (List (List Byte) × List Release) × List Effect :=
  readBy (s.scalarActor s.curCtx) (wordUnits id locs) s (settleAccess s.curCtx y false s []).2
def State.pushRecord (s : State) (locs : List Nat) (y : Option Xlated) : List Byte := (s.pushRead locs y).1.1.flatten

theorem execQpush_held (hr : s.cur.hasRight 2 = true) (hq : (s.dctx s.cur.ctxid).queue qn.toNat = some q)
    (hg : s.genAccess s.curCtx (s.rd a) 64 64 .load true = .ok locs y) (hfull : q.full = false)
    (hfree : ¬ s.superHeld 0 s.cur.ctxid (q.slotVa q.tail) 64 .store = false) : execQpush d a qn s = commit (stallCur .held) s := by
  rw [execQpush_eq, queueGate_open hr hq, State.pushBody, hg]
  dsimp only
  rw [hfull, if_pos (by simpa using hfree)]

theorem execQpush_goes (hr : s.cur.hasRight 2 = true) (hq : (s.dctx s.cur.ctxid).queue qn.toNat = some q)
    (hg : s.genAccess s.curCtx (s.rd a) 64 64 .load true = .ok locs y)
    (hfree : q.full = true ∨ s.superHeld 0 s.cur.ctxid (q.slotVa q.tail) 64 .store = false) :
    execQpush d a qn s = .next (after s (s.pushInto d q (s.pushRecord locs y) s (s.pushRead locs y).2).2) := by
  have hgo : ¬ (!q.full && s.superHeld 0 s.cur.ctxid (q.slotVa q.tail) 64 .store) = true := by
    rcases hfree with h | h <;> simp [h]
  rw [execQpush_eq, queueGate_open hr hq, State.pushBody, hg]
  dsimp only
  rw [if_neg hgo]
  rfl

/-- Reading its record a QPUSH changes no context's registers and no memory. -/
theorem pushRead_going (hs : Acting s) (hy : settled y) (locs : List Nat) :
    s.Going (s.pushRead locs y).2 ∧ SameBut [.mem, .dev, .links, .clusters, .dies, .ctxs] s (after s (s.pushRead locs y).2) := by
  obtain ⟨hgoing, hsame⟩ := settleAccess_going hs hy false
  have hread : Only [.mem, .clusters] (readBy (s.scalarActor s.curCtx) (wordUnits id locs)) := .readBy (by simp) (by simp) _ _
  exact ⟨hgoing.then hread (by simp) (by decide), sameBut_trans (hsame.mono (by simp)) ((hread.sameBut s _).mono (by simp))⟩

theorem pushRecord_newest (hs : Acting s) (hy : settled y) (hquiet : s.vis.picks = []) : s.pushRecord locs y = locs.map s.byte := by
  obtain ⟨-, hsame⟩ := settleAccess_going hs hy false
  have hread := readWords_newest (s := s) (log := (settleAccess s.curCtx y false s []).2) (by rw [hsame.vis (by decide)]; exact hquiet)
    (s.scalarActor s.curCtx) locs
  exact hread.trans (by rw [hsame.byte (by decide)])

theorem readsOf_pushRecord (hs : Acting s) (hy : settled y) : s.readsOf (s.scalarActor s.curCtx) locs (s.pushRecord locs y) := by
  obtain ⟨-, hsame⟩ := settleAccess_going hs hy false
  have h := readsOf_readUnits (after s (settleAccess s.curCtx y false s []).2) (s.scalarActor s.curCtx) (wordUnits id locs)
  rw [flatten_wordUnits] at h
  have hmay : (after s (settleAccess s.curCtx y false s []).2).mayRead = s.mayRead := by
    funext x ls v
    simp only [State.mayRead, hsame.vis (by decide), hsame.byte (by decide)]
  unfold State.readsOf at h ⊢
  rw [hmay] at h
  exact h

end


/-! ### What moves no translation -/

section
variable {s : State}

/-- The program changes nothing that a supervisor's translation looks at. -/
def KeepsLocs {α : Type} (a : Act α) : Prop := ∀ s log, (after s (a s log).2).superLocs = (after s log).superLocs

theorem KeepsLocs.bind {α β : Type} {a : Act α} {f : α → Act β} (ha : KeepsLocs a) (hf : ∀ x, KeepsLocs (f x)) : KeepsLocs (a >>= f) :=
  fun s log => (hf _ s _).trans (ha s log)
theorem KeepsLocs.pure {α : Type} (x : α) : KeepsLocs (pure x : Act α) := fun _ _ => rfl
theorem KeepsLocs.now : KeepsLocs now := fun _ _ => rfl
theorem KeepsLocs.each {α : Type} {l : List α} {f : α → Act Unit} (h : ∀ x, KeepsLocs (f x)) : KeepsLocs (each l f) := by
  induction l with
  | nil => exact .pure ()
  | cons x l ih => exact .bind (h x) fun _ => ih
theorem KeepsLocs.setVis (v : Visibility) : KeepsLocs (Machine.setVis v) := fun s log => by
  rw [run_setVis, after_cons]
  rfl
theorem KeepsLocs.setCtx (k : Nat) (c : Context) : KeepsLocs (Machine.setCtx k c) := fun s log => by
  rw [run_setCtx, after_cons]
  rfl
theorem KeepsLocs.modCluster {c : Nat} {f : Cluster → Cluster} (h : ∀ x, (f x).tlb = x.tlb) : KeepsLocs (Machine.modCluster c f) :=
  fun s log => by
    rw [run_modCluster, after_cons, superLocs_apply_cluster (h _)]
theorem KeepsLocs.tallySpad (locs : List Nat) : KeepsLocs (Machine.tallySpad locs) := .each fun _ => .modCluster fun _ => rfl
theorem KeepsLocs.readBy (a : Actor) (units : List (List Nat)) : KeepsLocs (Machine.readBy a units) :=
  .bind .now fun _ => .bind (.setVis _) fun _ => .bind (.tallySpad _) fun _ => .pure _

theorem KeepsLocs.settleAccess_none (k : Nat) (write : Bool) : KeepsLocs (Machine.settleAccess k none write) := by
  unfold Machine.settleAccess
  refine .bind .now fun t => ?_
  dsimp only
  split
  · exact .setCtx _ _
  · exact .pure _

theorem superLocs_pushRead (locs : List Nat) : (after s (s.pushRead locs none).2).superLocs = s.superLocs :=
  (KeepsLocs.readBy _ _ s _).trans (KeepsLocs.settleAccess_none s.curCtx false s [])

end

/-! ### The size of an access -/

/-- An access that goes on has as many locations as bytes. -/
def GenAccess.OfSize (n : Nat) (r : GenAccess) : Prop := ∀ locs y, r = .ok locs y → locs.length = n

section
variable {n : Nat}

theorem ofSize_trap (r : TrapRecord) : GenAccess.OfSize n (.trap r) := fun _ _ h => by cases h
theorem ofSize_wait (why : StallReason) : GenAccess.OfSize n (.wait why) := fun _ _ h => by cases h
theorem ofSize_ok (loc : Nat) (y : Option Xlated) : GenAccess.OfSize n (.ok (locRange loc n) y) := fun _ _ h => by
  cases h
  exact length_locRange ..
theorem ofSize_ite {c : Prop} [Decidable c] {a b : GenAccess} (ha : a.OfSize n) (hb : b.OfSize n) : GenAccess.OfSize n (if c then a else b) := by
  split
  · exact ha
  · exact hb

theorem ofSize_genAccess (s : State) (k : Nat) (addr : Word) (n align : Nat) (a : Access) (consumes : Bool) :
    (s.genAccess k addr n align a consumes).OfSize n := by
  have hsettle (loc : Nat) (y : Option Xlated) : GenAccess.OfSize n (match s.landing (locRange loc n) with
      | .poisoned => .trap (accessRecord 12 addr 5)
      | .held => .wait .landing
      | .clear =>
        if s.held (locRange loc n) then .wait .held
        else if consumes && s.poisoned (locRange loc n) then .trap (accessRecord 18 addr 5) else .ok (locRange loc n) y) := by
    split
    · exact ofSize_trap _
    · exact ofSize_wait _
    · exact ofSize_ite (ofSize_wait _) (ofSize_ite (ofSize_trap _) (ofSize_ok _ _))
  unfold State.genAccess
  refine ofSize_ite (ofSize_trap _) ?_
  split
  · exact ofSize_trap _
  · exact ofSize_trap _
  · exact ofSize_ite (hsettle _ _) (ofSize_trap _)
  · split
    · exact ofSize_ite (ofSize_wait _) (ofSize_ite (ofSize_trap _) (ofSize_trap _))
    · split
      · exact ofSize_trap _
      · refine ofSize_ite (ofSize_trap _) (ofSize_ite (ofSize_trap _) (ofSize_ite (ofSize_wait _) (ofSize_ite (ofSize_ok _ _) (ofSize_ite ?_ (hsettle _ _)))))
        split
        · exact ofSize_ok _ _
        · exact ofSize_trap _
        · exact ofSize_wait _

theorem length_genAccess {s : State} {k : Nat} {addr : Word} {align : Nat} {a : Access} {consumes : Bool} {locs : List Nat} {y : Option Xlated}
    (h : s.genAccess k addr n align a consumes = .ok locs y) : locs.length = n := ofSize_genAccess s k addr n align a consumes locs y h

end


/-! ### Counters and what they release (R325) -/

section
variable {q : Queue} {n time : Nat} {rec_ : List Byte} {st : Option Stamp}

theorem num_counter (q : Queue) (n : Nat) : (q.counter n).num = n := by
  unfold Queue.counter
  split
  · next c h => simpa using List.find?_some h
  · rfl

/-- A queue after one of its counters has been settled, with what that released. -/
def Queue.settledAs (q : Queue) (c : Counter) (released : List TaskHead) : Queue := { q.setCounter c with tasks := q.tasks ++ released }

theorem counter_settledAs {c : Counter} (h : c.num = n) (released : List TaskHead) : (q.settledAs c released).counter n = c := by
  unfold Queue.counter Queue.settledAs Queue.setCounter
  dsimp only
  rw [List.find?_cons_of_pos (by simp [h])]

/-- A record that waits at a counter that is not at 0. -/
theorem settle_waits {c : Counter} {u : List Byte × Option Stamp} (ht : c.task = some u) (hv : c.value ≠ 0) (hn : c.next = []) :
    q.settle c time = q.settledAs c [] := by
  obtain ⟨num, value, task, next, rels⟩ := c
  cases (show task = some u from ht)
  cases (show next = [] from hn)
  have hne : ¬ value = 0#32 := hv
  simp [Queue.settle, Counter.settle, Queue.settledAs, hne]

theorem settle_releases {c : Counter} {b : List Byte} {u : Option Stamp} (ht : c.task = some (b, u)) (hv : c.value = 0) (hn : c.next = []) :
    q.settle c time = q.settledAs { c with task := none, rels := [] } [{ bytes := b, stamp := u, rels := c.rels, since := time, launch := none }] := by
  obtain ⟨num, value, task, next, rels⟩ := c
  cases (show task = some (b, u) from ht)
  cases (show next = [] from hn)
  cases (show value = 0 from hv)
  rfl

theorem settle_idle {c : Counter} (ht : c.task = none) (hn : c.next = []) : q.settle c time = q.settledAs c [] := by
  obtain ⟨num, value, task, next, rels⟩ := c
  cases (show task = none from ht)
  cases (show next = [] from hn)
  rfl

theorem publish_settles (ht : (q.counter n).task = none) : q.publish n rec_ st time = q.settle ((q.counter n).publish rec_ st) time := by
  unfold Queue.publish
  simp [ht]

theorem kept_publish (q : Queue) (n : Nat) (rec_ : List Byte) (st : Option Stamp) (time : Nat) :
    (q.publish n rec_ st time).num = q.num ∧ (q.publish n rec_ st time).status = q.status := by
  unfold Queue.publish
  dsimp only
  split <;> exact ⟨rfl, rfl⟩

theorem kept_pushed (q : Queue) (rec_ : List Byte) (st : Option Stamp) (time : Nat) (task : Option Nat) :
    (q.pushed rec_ st time task).num = q.num ∧ (q.pushed rec_ st time task).status = q.status := by
  cases task with
  | none => exact ⟨rfl, rfl⟩
  | some n => exact kept_publish q.pass n rec_ st time

/-- A publication at a counter without a record, and what a counter that has none to come releases. -/
theorem counters_release (q : Queue) (n time : Nat) (rec_ : List Byte) (st : Option Stamp) :
    let C := q.counter n
    let value := C.value + BitVec.ofNat 32 (field rec_ 0x2C 4)
    let p := q.publish n rec_ st time
    (C.task = none → C.next = [] → value ≠ 0 → p.tasks = q.tasks ∧ (p.counter n).value = value ∧ (p.counter n).task = some (rec_, st)) ∧
    (C.task = none → C.next = [] → value = 0 → (p.counter n).value = 0 ∧ (p.counter n).task = none ∧
      p.tasks = q.tasks ++ [{ bytes := rec_, stamp := st, rels := C.rels, since := time, launch := none }]) ∧
    ∀ C' : Counter, C'.next = [] → let r := q.settle C' time
      (C'.value = 0 → ∀ b u, C'.task = some (b, u) →
        r.tasks = q.tasks ++ [{ bytes := b, stamp := u, rels := C'.rels, since := time, launch := none }]) ∧
      (C'.task = none ∨ C'.value ≠ 0 → r.tasks = q.tasks ∧ (r.counter C'.num).value = C'.value) := by
  have hnum : ((q.counter n).publish rec_ st).num = n := num_counter q n
  refine ⟨fun ht hn hv => ?_, fun ht hn hv => ?_, fun C' hn => ⟨fun hv b u ht => ?_, fun h => ?_⟩⟩
  · rw [publish_settles ht, settle_waits (c := (q.counter n).publish rec_ st) (u := (rec_, st)) rfl hv hn, counter_settledAs hnum]
    exact ⟨List.append_nil _, rfl, rfl⟩
  · rw [publish_settles ht, settle_releases (c := (q.counter n).publish rec_ st) (b := rec_) (u := st) rfl hv hn,
      counter_settledAs (c := { (q.counter n).publish rec_ st with task := none, rels := [] }) hnum]
    exact ⟨hv, rfl, rfl⟩
  · rw [settle_releases ht hv hn]
    rfl
  · have hr : q.settle C' time = q.settledAs C' [] := by
      cases ht : C'.task with
      | none => exact settle_idle ht hn
      | some u => exact settle_waits ht (h.resolve_left (by simp [ht])) hn
    rw [hr, counter_settledAs rfl]
    exact ⟨List.append_nil _, rfl⟩

end


/-! ### What a QPUSH answers -/

section
variable {s : State} {d a : Reg} {qn : BitVec 8} {q : Queue} {locs : List Nat} {y : Option Xlated}

theorem length_pushRecord (hs : Acting s) (hy : settled y) : (s.pushRecord locs y).length = locs.length :=
  (readsOf_pushRecord hs hy).length_eq.symm

theorem devs_pushRead (hs : Acting s) (hy : settled y) : (after s (s.pushRead locs y).2).devs = s.devs :=
  (pushRead_going hs hy locs).2.devs (by decide)

theorem finish_devs (d : Reg) (v : Word) (s : State) (log : List Effect) : (after s (finish d v 4 s log).2).devs = (after s log).devs :=
  ((Only.finish (F := [.ctxs]) (by simp) d v 4).sameBut s log).devs (by decide)

/-- A QPUSH that goes on. -/
structure State.Pushes (s : State) (a : Reg) (qn : BitVec 8) (q : Queue) (locs : List Nat) (y : Option Xlated) : Prop where
  acting : Acting s
  right : s.cur.hasRight 2 = true
  queue : (s.dctx s.cur.ctxid).queue qn.toNat = some q
  access : s.genAccess s.curCtx (s.rd a) 64 64 .load true = .ok locs y
  settled : settled y

theorem qpush_pending (h : s.Pushes a qn q locs y) (hfree : q.full = true ∨ s.superHeld 0 s.cur.ctxid (q.slotVa q.tail) 64 .store = false)
    (hp : ∃ j, q.taskCounter (s.pushRecord locs y) = some j ∧ (q.counter j).task.isSome = true) :
    s.Gives d 2 (execQpush d a qn s) fun t => t.devs = s.devs := by
  obtain ⟨j, hj, htask⟩ := hp
  have hrun : s.pushInto d q (s.pushRecord locs y) = finish d 2 := by
    rw [State.pushInto, hj]
    exact if_pos htask
  refine gives_finish h.acting (pushRead_going h.acting h.settled locs).1 (v := 2) ?_ ((finish_devs ..).trans (devs_pushRead h.acting h.settled))
  rw [execQpush_goes h.right h.queue h.access hfree, hrun]

theorem not_pending (h : ¬ ∃ j, q.taskCounter (s.pushRecord locs y) = some j ∧ (q.counter j).task.isSome = true) :
    ¬ ((q.taskCounter (s.pushRecord locs y)).any fun n => (q.counter n).task.isSome) = true := by
  rw [Option.any_eq_true]
  exact h

theorem qpush_full (h : s.Pushes a qn q locs y)
    (hp : ¬ ∃ j, q.taskCounter (s.pushRecord locs y) = some j ∧ (q.counter j).task.isSome = true) (hfull : q.full = true) :
    s.Gives d 0 (execQpush d a qn s) fun t => t.devs = s.devs := by
  have hrun : s.pushInto d q (s.pushRecord locs y) = finish d 0 := by
    rw [State.pushInto, if_neg (not_pending hp), if_pos hfull]
  refine gives_finish h.acting (pushRead_going h.acting h.settled locs).1 (v := 0) ?_ ((finish_devs ..).trans (devs_pushRead h.acting h.settled))
  rw [execQpush_goes h.right h.queue h.access (.inl hfull), hrun]

/-- The bytes of a record stand in a slot of the ring. -/
def State.inSlot (s t : State) (q : Queue) (y : Option Xlated) (rec_ : List Byte) : Prop :=
  y = none → ∀ ls, s.superLocs 0 s.cur.ctxid (q.slotVa q.tail) 64 .store false = .ok ls → ls.Nodup → ∀ i < 64, t.byte (ls.getD i 0) = rec_.getD i 0

theorem qpush_enters (h : s.Pushes a qn q locs y) (hc : s.canonical)
    (hp : ¬ ∃ j, q.taskCounter (s.pushRecord locs y) = some j ∧ (q.counter j).task.isSome = true) (hfull : q.full = false)
    (hfree : s.superHeld 0 s.cur.ctxid (q.slotVa q.tail) 64 .store = false) :
    s.Gives d 1 (execQpush d a qn s) fun t => (t.dctx s.cur.ctxid).queue qn.toNat =
        some (q.pushed (s.pushRecord locs y) (some s.stampNow) s.dev.time (q.taskCounter (s.pushRecord locs y))) ∧
      s.inSlot t q y (s.pushRecord locs y) := by
  let rec_ := s.pushRecord locs y
  let log1 := (s.pushRead locs y).2
  let log2 := (coreWrite s.cur.ctxid (q.slotVa q.tail) rec_ s log1).2
  let log3 := (modQueue s.cur.ctxid q.num (fun q' => q'.pushed rec_ (some s.stampNow) s.dev.time (q.taskCounter rec_)) s log2).2
  have hwrite : Only [.dev, .mem, .badDram, .badSram, .clusters, .dies, .links] (coreWrite s.cur.ctxid (q.slotVa q.tail) rec_) :=
    .coreWrite (by simp) (by simp) (by simp) (by simp) (by simp) (by simp) (by simp) _ _ _
  have hmod : Only [.devs] (modQueue s.cur.ctxid q.num fun q' => q'.pushed rec_ (some s.stampNow) s.dev.time (q.taskCounter rec_)) :=
    .modQueue (by simp) _ _ _
  have hfin : SameBut [.ctxs] (after s log3) (after s (finish d 1 4 s log3).2) := (Only.finish (by simp) d 1 4).sameBut s log3
  obtain ⟨hgoing, hsame⟩ := pushRead_going h.acting h.settled locs
  have hlen : rec_.length = 64 := (length_pushRecord h.acting h.settled).trans (length_genAccess h.access)
  have hgoing3 : s.Going log3 := (hgoing.then hwrite (by simp) (by decide)).then hmod (by simp) (by decide)
  have hrun : s.pushInto d q rec_ s log1 = finish d 1 4 s log3 := by
    rw [State.pushInto, if_neg (not_pending hp), if_neg (by simp [hfull])]
    rfl
  refine gives_finish h.acting hgoing3 (v := 1) ?_ ⟨?_, fun hy ls hls hn i hi => ?_⟩
  · rw [execQpush_goes h.right h.queue h.access (.inr hfree)]
    exact congrArg (fun x : Unit × List Effect => Host.Outcome.next (after s x.2)) hrun
  · have hq2 : ((after s log2).dctx s.cur.ctxid).queue q.num = some q := by
      rw [(hwrite.sameBut s log1).dctx (by decide), hsame.dctx (by decide), queue_num h.queue]
      exact h.queue
    rw [hfin.dctx (by decide), ← queue_num h.queue]
    exact queue_modQueue hq2 fun q' => kept_pushed q' ..
  · subst hy
    have hls1 : (after s log1).superLocs 0 s.cur.ctxid (q.slotVa q.tail) rec_.length .store false = .ok ls := by
      rw [superLocs_pushRead, hlen]
      exact hls
    rw [hfin.byte (by decide), (hmod.sameBut s log2).byte (by decide)]
    exact byte_coreWrite (canonical_applyAll _ hc) hls1 hn (by omega)

end


end Sys2Proof.Machine
end

section
/-! # The record of the past under a stamp's edge and under writes -/
namespace Sys2Proof.Machine

/-! ### What an agent sees only grows -/

/-- The same write, visible to at least as many agents on at least as many paths. -/
structure MemWrite.Grows (w u : MemWrite) : Prop where
  agent : u.agent = w.agent
  path : u.path = w.path
  family : u.family = w.family
  num : u.num = w.num
  before : ∀ x, w.before x = true → u.before x = true
  paths : ∀ x p, (w.pathsOf x).getLsbD p = true → (u.pathsOf x).getLsbD p = true

theorem MemWrite.Grows.refl (w : MemWrite) : w.Grows w := ⟨rfl, rfl, rfl, rfl, fun _ h => h, fun _ _ h => h⟩
theorem MemWrite.Grows.trans {w u z : MemWrite} (h : w.Grows u) (k : u.Grows z) : w.Grows z :=
  ⟨k.agent.trans h.agent, k.path.trans h.path, k.family.trans h.family, k.num.trans h.num, fun x hx => k.before x (h.before x hx),
    fun x p hp => k.paths x p (h.paths x p hp)⟩

theorem before_iff (w : MemWrite) (x : MemAgent) : w.before x = true ↔ w.agent = x ∨ ∃ e ∈ w.seen, e.1 = x := by
  simp [MemWrite.before]

theorem pathsOf_iff (w : MemWrite) (x : MemAgent) (p : Nat) : (w.pathsOf x).getLsbD p = true ↔
    (w.agent = x ∧ (onePath w.path).getLsbD p = true) ∨ ∃ e ∈ w.seen, e.1 = x ∧ e.2.getLsbD p = true := by
  rw [pathsOf_getLsbD]
  simp

/-- A write that is shown to x is before x's later accesses, on the paths given. -/
theorem shown (w : MemWrite) (x : MemAgent) (ps : Paths) :
    (w.show x ps).before x = true ∧ ∀ p, ps.getLsbD p = true → ((w.show x ps).pathsOf x).getLsbD p = true := by
  unfold MemWrite.show
  split
  · next h =>
    rw [Bool.and_eq_true, beq_iff_eq] at h
    refine ⟨h.2, fun p hp => ?_⟩
    rw [← h.1, BitVec.getLsbD_or, hp, Bool.or_true]
  · refine ⟨(before_iff ..).2 (.inr ⟨_, List.mem_cons_self, rfl⟩), fun p hp => ?_⟩
    exact (pathsOf_iff ..).2 (.inr ⟨_, List.mem_cons_self, rfl, by rw [BitVec.getLsbD_or, hp, Bool.or_true]⟩)

theorem grows_show (w : MemWrite) (x : MemAgent) (ps : Paths) : w.Grows (w.show x ps) := by
  unfold MemWrite.show
  split
  · exact .refl w
  · have hseen {e : MemAgent × Paths} (he : e ∈ w.seen) (hx : e.1 ≠ x) : e ∈ (x, w.pathsOf x ||| ps) :: w.seen.filter (·.1 != x) :=
      List.mem_cons_of_mem _ (List.mem_filter.2 ⟨he, by simpa using hx⟩)
    refine ⟨rfl, rfl, rfl, rfl, fun y hy => ?_, fun y p hp => ?_⟩
    · rw [before_iff] at hy ⊢
      rcases hy with hy | ⟨e, he, hy⟩
      · exact .inl hy
      · by_cases hx : e.1 = x
        · exact .inr ⟨_, List.mem_cons_self, hx.symm.trans hy⟩
        · exact .inr ⟨e, hseen he hx, hy⟩
    · by_cases hx : y = x
      · subst hx
        exact (pathsOf_iff ..).2 (.inr ⟨_, List.mem_cons_self, rfl, by rw [BitVec.getLsbD_or, hp, Bool.true_or]⟩)
      · rw [pathsOf_iff] at hp ⊢
        rcases hp with hp | ⟨e, he, hy, hp⟩
        · exact .inl hp
        · exact .inr ⟨e, hseen he fun h => hx (hy.symm.trans h), hy, hp⟩

theorem grows_shows (ys : List MemAgent) (ps : Paths) (w : MemWrite) : w.Grows (ys.foldl (fun w y => w.show y ps) w) := by
  induction ys generalizing w with
  | nil => exact .refl w
  | cons y ys ih => exact (grows_show w y ps).trans (ih _)

theorem grows_edgeOn (ys : List MemAgent) (f : MemWrite → Option Paths) (w : MemWrite) : w.Grows (edgeOn ys f w) := by
  unfold edgeOn
  split
  · exact grows_shows ys _ w
  · exact .refl w

theorem mem_raise {above : List MemWrite} {cells : List (Nat × Byte)} {u : MemWrite} (h : u ∈ raise above cells) : ∃ w ∈ above, w.Grows u := by
  induction above with
  | nil => cases h
  | cons w ws ih =>
    rw [raise, List.mem_cons] at h
    rcases h with rfl | h
    · exact ⟨w, List.mem_cons_self, rfl, rfl, rfl, rfl, fun _ h => h, fun _ _ h => h⟩
    · obtain ⟨z, hz, hg⟩ := ih h
      exact ⟨z, List.mem_cons_of_mem _ hz, hg⟩

/-- After a write each record is one that was there, or the write's own. -/
theorem mem_insert {v : Visibility} {byte : Nat → Byte} {a : Actor} {o : WriteOrder} {above : List MemWrite} {cells : List (Nat × Byte)}
    {u : MemWrite} (h : u ∈ (v.insert byte a o above cells).2.writes) : u.num = a.num ∨ ∃ w ∈ v.writes, w.Grows u := by
  unfold Visibility.insert at h
  dsimp only at h
  have hput {z : MemWrite} (hz : z ∈ v.writes.map fun u => match (raise (v.writes.filter fun w => above.any (·.id == w.id)) cells).find? (·.id == u.id) with
      | some r => r
      | none => u) : ∃ w ∈ v.writes, w.Grows z := by
    obtain ⟨w, hw, rfl⟩ := List.mem_map.1 hz
    split
    · next r hr =>
      obtain ⟨x, hx, hg⟩ := mem_raise (List.mem_of_find?_eq_some hr)
      exact ⟨x, List.mem_of_mem_filter hx, hg⟩
    · exact ⟨w, hw, .refl w⟩
  rw [List.mem_append, List.mem_cons] at h
  rcases h with h | rfl | h
  · exact .inr (hput (List.mem_of_mem_take h))
  · exact .inl rfl
  · exact .inr (hput (List.mem_of_mem_drop h))

theorem mem_learn {v : Visibility} {a : Actor} {u : MemWrite} (h : u ∈ (v.learn a).writes) : ∃ w ∈ v.writes, w.Grows u := by
  unfold Visibility.learn at h
  split at h
  · exact ⟨u, h, .refl u⟩
  · rw [edge_writes] at h
    obtain ⟨w, hw, rfl⟩ := List.mem_map.1 h
    exact ⟨w, hw, grows_edgeOn ..⟩

/-- The counted writes of a stamp's producer happen before the accesses of x, on its scalar and its load/store path. -/
def Visibility.counts (v : Visibility) (p : Stamp) (x : MemAgent) : Prop :=
  ∀ w ∈ v.writes, w.family = .role p.wg p.role → 0 < w.num → w.num ≤ p.count → w.path ≤ 1 →
    w.before x = true ∧ (w.pathsOf x).getLsbD pathLs = true ∧ (w.pathsOf x).getLsbD pathScl = true

/-- What grows stays counted; a write without a number is not counted. -/
theorem Visibility.counts.mono {v v' : Visibility} {p : Stamp} {x : MemAgent} (h : v.counts p x)
    (hw : ∀ u ∈ v'.writes, u.num = 0 ∨ ∃ w ∈ v.writes, w.Grows u) : v'.counts p x := by
  intro u hu hfam hpos hle hpath
  obtain ⟨w, hw, hg⟩ := (hw u hu).resolve_left (by omega)
  obtain ⟨h1, h2, h3⟩ := h w hw (hg.family.symm.trans hfam) (by rw [← hg.num]; exact hpos) (by rw [← hg.num]; exact hle) (by rw [← hg.path]; exact hpath)
  exact ⟨hg.before _ h1, hg.paths _ _ h2, hg.paths _ _ h3⟩

/-- A counted write of a stamp's producer (R319). -/
def MemWrite.countedBy (w : MemWrite) (p : Stamp) : Bool := w.family == .role p.wg p.role && w.num != 0 && w.num ≤ p.count && w.path ≤ 1

/-- The paths on which the edge of a stamp carries a write. -/
def State.stampPaths (s : State) (p : Stamp) (w : MemWrite) : Option Paths :=
  let own := s.vis.writes.filter (·.countedBy p)
  if w.countedBy p then some (onePath pathLs ||| onePath pathScl)
  else if own.any (·.prior.contains w.id) then some (own.foldl (fun ps u => ps ||| w.pathsOf u.agent) 0) else none

theorem stampEdge_writes (s : State) (p : Stamp) (ys : List MemAgent) :
    (s.stampEdge p ys).writes = s.vis.writes.map (edgeOn ys (s.stampPaths p)) := rfl

theorem edgeOn_counted {s : State} {p : Stamp} {w : MemWrite} (h : w.countedBy p = true) (x : MemAgent) :
    edgeOn [x] (s.stampPaths p) w = w.show x (onePath pathLs ||| onePath pathScl) := by
  have hpaths : s.stampPaths p w = some (onePath pathLs ||| onePath pathScl) := if_pos h
  rw [edgeOn, hpaths]
  rfl

theorem counts_stampEdge (s : State) (p : Stamp) (x : MemAgent) : (s.stampEdge p [x]).counts p x := by
  intro u hu hfam hpos hle hpath
  rw [stampEdge_writes] at hu
  obtain ⟨w, -, rfl⟩ := List.mem_map.1 hu
  have hg := grows_edgeOn [x] (s.stampPaths p) w
  rw [hg.family] at hfam
  rw [hg.num] at hpos hle
  rw [hg.path] at hpath
  have hcounted : w.countedBy p = true := by
    have hne : w.num ≠ 0 := by omega
    simp [MemWrite.countedBy, hfam, hle, hpath, hne]
  rw [edgeOn_counted hcounted]
  obtain ⟨hb, hp⟩ := shown w x (onePath pathLs ||| onePath pathScl)
  exact ⟨hb, hp pathLs (by decide), hp pathScl (by decide)⟩

theorem counts_write {v : Visibility} {p : Stamp} {x : MemAgent} {a : Actor} (ha : a.num = 0) (h : v.counts p x) (byte : Nat → Byte)
    (cells : List (Nat × Byte)) : (v.write byte a cells).2.counts p x :=
  h.mono fun _ hu => (mem_insert hu).imp_left (·.trans ha)

theorem counts_writeUnits {s : State} {p : Stamp} {x : MemAgent} {a : Actor} (ha : a.num = 0) (h : s.vis.counts p x)
    (units : List (List (Nat × Byte))) : (s.writeUnits a units).2.counts p x := by
  have hfold (acc : List (Nat × Byte) × Visibility) (hacc : acc.2.counts p x) : (units.foldl (fun acc u =>
      let r := acc.2.write s.byte a u
      (acc.1 ++ r.1, r.2)) acc).2.counts p x := by
    induction units generalizing acc with
    | nil => exact hacc
    | cons u us ih => exact ih _ (counts_write ha hacc s.byte u)
  exact (hfold ([], s.vis) h).mono fun u hu => .inr (mem_learn hu)

/-! ### What a write of an access puts into memory -/

/-- An access writes its cells, or of each unit those that no newer write covers. -/
theorem writeUnits_cells (s : State) (a : Actor) (units : List (List (Nat × Byte))) :
    (s.writeUnits a units).1.Sublist units.flatten ∧ (s.vis.picks = [] → (s.writeUnits a units).1 = units.flatten) := by
  have hfold (acc : List (Nat × Byte) × Visibility) : ∃ l, (units.foldl (fun acc u =>
      let r := acc.2.write s.byte a u
      (acc.1 ++ r.1, r.2)) acc).1 = acc.1 ++ l ∧ l.Sublist units.flatten ∧ (acc.2.picks = [] → l = units.flatten) := by
    induction units generalizing acc with
    | nil => exact ⟨[], (List.append_nil _).symm, .slnil, fun _ => rfl⟩
    | cons u us ih =>
      obtain ⟨l, hl, hsub, hnew⟩ := ih (acc.1 ++ (acc.2.write s.byte a u).1, (acc.2.write s.byte a u).2)
      refine ⟨(acc.2.write s.byte a u).1 ++ l, hl.trans (List.append_assoc ..), ?_, fun hp => ?_⟩
      · exact List.Sublist.append List.filter_sublist hsub
      · have hfirst : (acc.2.write s.byte a u).1 = u := by
          unfold Visibility.write
          rw [hp, List.headD_nil, place_zero]
          exact (insert_on_top ..).1
        have hpicks : (acc.2.write s.byte a u).2.picks = [] := by
          have : (acc.2.write s.byte a u).2.picks = acc.2.picks.tail := rfl
          rw [this, hp]
          rfl
        rw [hfirst, hnew hpicks]
        rfl
  obtain ⟨l, hl, hsub, hnew⟩ := hfold ([], s.vis)
  have hall : (s.writeUnits a units).1 = l := hl
  rw [hall]
  exact ⟨hsub, hnew⟩

/-- A write of one byte to each of some places: each holds its byte, or what it held where a newer write has covered it. -/
theorem byte_writeBy {s : State} {log : List Effect} (hc : (after s log).canonical) {a : Actor} {units : List (List (Nat × Byte))}
    (hn : (units.flatten.map (·.1)).Nodup) :
    (∀ p ∈ units.flatten, (after s (writeBy a units s log).2).byte p.1 = p.2 ∨
      ¬ (after s log).vis.picks = [] ∧ (after s (writeBy a units s log).2).byte p.1 = (after s log).byte p.1) ∧
    ∀ l, l ∉ units.flatten.map (·.1) → (after s (writeBy a units s log).2).byte l = (after s log).byte l := by
  obtain ⟨hmem, -⟩ := mem_settleWrite (s := s) (log := log) (units.flatMap fun u => u.map (·.1)) ((after s log).writeUnits a units)
  obtain ⟨hsub, hnew⟩ := writeUnits_cells (after s log) a units
  have hbyte (l : Nat) : (after s (writeBy a units s log).2).byte l = sparseGet (sparsePut (after s log).mem ((after s log).writeUnits a units).1) l :=
    congrArg (sparseGet · l) hmem
  have hkeys := hsub.map (·.1)
  refine ⟨fun p hp => ?_, fun l hl => ?_⟩
  · by_cases hw : p ∈ ((after s log).writeUnits a units).1
    · exact .inl ((hbyte p.1).trans (sparseGet_put_of_mem hc.1 (hn.sublist hkeys) hw))
    · refine .inr ⟨fun hq => hw ((hnew hq).symm ▸ hp), (hbyte p.1).trans (sparseGet_put_of_notMem hc.1 fun hmem => hw ?_)⟩
      obtain ⟨q, hq, hfst⟩ := List.mem_map.1 hmem
      have heq : q = p := List.inj_on_of_nodup_map hn (hsub.subset hq) hp hfst
      exact heq ▸ hq
  · exact (hbyte l).trans (sparseGet_put_of_notMem hc.1 fun hmem => hl (hkeys.subset hmem))

end Sys2Proof.Machine
end

section
/-! # QPOP -/
namespace Sys2Proof.Machine

section
variable {s : State} {d a : Reg} {qn : BitVec 8} {q : Queue} {locs : List Nat} {y : Option Xlated} {i : Nat} {st : Option Stamp}
  {rest : List (Nat × Option Stamp)}

/-! ### QPOP (R323) -/

/-- The producer's counted writes become visible to the context that pops its entry (R320). -/
def State.popEdge (s : State) (st : Option Stamp) : Act Unit :=
  match st with
  | some p => do setVis ((← now).stampEdge p [s.ctxAgent s.curCtx])
  | none => pure ()

/-- The words that a QPOP writes. -/
def State.popUnits (s : State) (q : Queue) (i : Nat) (locs : List Nat) : List (List (Nat × Byte)) :=
  wordUnits (·.1) (locs.zip (s.coreRead s.cur.ctxid (q.slotVa i) 64))

/-- A QPOP that takes entry i. -/
def State.popTake (s : State) (q : Queue) (i : Nat) (st : Option Stamp) (locs : List Nat) (y : Option Xlated) : Act Unit := do
  settleAccess s.curCtx y true
  s.popEdge st
  writeBy { s.scalarActor s.curCtx with num := 0 } (s.popUnits q i locs)
  modQueue s.cur.ctxid q.num fun q => (q.popHead s.dev.time).served

def State.popGo (s : State) (d : Reg) (q : Queue) (i : Nat) (st : Option Stamp) (locs : List Nat) (y : Option Xlated) : Act Unit := do
  s.popTake q i st locs y
  finish d 1

/-- A QPOP from a queue of its context. -/
def State.popBody (s : State) (d a : Reg) (qn : BitVec 8) (q : Queue) : Act Unit :=
  if !q.data then illegal (.qpop d a qn)
  else match q.held with
    | [] => finish d 0
    | (i, st) :: _ =>
      if q.status != .enabled then finish d 0
      else if !s.stampMet st then stallCur .queue
      else match s.genAccess s.curCtx (s.rd a) 64 64 .store false with
        | .trap r => trapNow r
        | .wait why => stallCur why
        | .ok locs x =>
          if s.superHeld 0 s.cur.ctxid (q.slotVa i) 64 .load then stallCur .held
          else if s.slotPoisoned s.cur.ctxid q i then trapNow (accessRecord 18 (BitVec.ofNat 64 (q.slotVa i)) 5)
          else s.popGo d q i st locs x

theorem popTake_run (s : State) (d : Reg) (q : Queue) (i : Nat) (st : Option Stamp) (locs : List Nat) (y : Option Xlated) :
    (do settleAccess s.curCtx y true
        match st with
          | some p => setVis ((← now).stampEdge p [s.ctxAgent s.curCtx])
          | none => pure ()
        writeBy { s.scalarActor s.curCtx with num := 0 } (s.popUnits q i locs)
        modQueue s.cur.ctxid q.num fun q => (q.popHead s.dev.time).served
        finish d 1 : Act Unit) = s.popGo d q i st locs y := by
  cases st <;> rfl

theorem execQpop_eq (d a : Reg) (qn : BitVec 8) (s : State) :
    execQpop d a qn s = commit (s.queueGate qn (.qpop d a qn) (s.popBody d a qn)) s := by
  unfold State.popBody
  simp only [← popTake_run]
  rfl

theorem popBody_launch (h : q.data = false) : s.popBody d a qn q = illegal (.qpop d a qn) := by
  rw [State.popBody, h]
  rfl

theorem popBody_empty (hd : q.data = true) (h : q.held = [] ∨ q.status ≠ .enabled) : s.popBody d a qn q = finish d 0 := by
  rw [State.popBody, if_neg (by simp [hd])]
  split
  · rfl
  · next i st rest hheld =>
    have hst : q.status ≠ .enabled := h.resolve_left (by simp [hheld])
    rw [if_pos (by simpa using hst)]

/-- An enabled data queue with entry i at its head. -/
structure Queue.HasHead (q : Queue) (i : Nat) (st : Option Stamp) : Prop where
  data : q.data = true
  enabled : q.status = .enabled
  head : q.held.head? = some (i, st)

theorem popBody_head (h : q.HasHead i st) : s.popBody d a qn q =
    if !s.stampMet st then stallCur .queue
    else match s.genAccess s.curCtx (s.rd a) 64 64 .store false with
      | .trap r => trapNow r
      | .wait why => stallCur why
      | .ok locs x =>
        if s.superHeld 0 s.cur.ctxid (q.slotVa i) 64 .load then stallCur .held
        else if s.slotPoisoned s.cur.ctxid q i then trapNow (accessRecord 18 (BitVec.ofNat 64 (q.slotVa i)) 5)
        else s.popGo d q i st locs x := by
  obtain ⟨hdata, henabled, hhead⟩ := h
  obtain ⟨rest, hheld⟩ : ∃ rest, q.held = (i, st) :: rest := List.head?_eq_some_iff.1 hhead
  rw [State.popBody, if_neg (by simp [hdata]), hheld]
  dsimp only
  rw [if_neg (by simp [henabled])]

theorem popBody_early (h : q.HasHead i st) (hm : s.stampMet st = false) : s.popBody d a qn q = stallCur .queue := by
  rw [popBody_head h, hm]
  rfl

theorem popBody_access (h : q.HasHead i st) (hm : s.stampMet st = true)
    (hg : s.genAccess s.curCtx (s.rd a) 64 64 .store false = .ok locs y) : s.popBody d a qn q =
    if s.superHeld 0 s.cur.ctxid (q.slotVa i) 64 .load then stallCur .held
    else if s.slotPoisoned s.cur.ctxid q i then trapNow (accessRecord 18 (BitVec.ofNat 64 (q.slotVa i)) 5)
    else s.popGo d q i st locs y := by
  rw [popBody_head h, if_neg (by simp [hm]), hg]

/-- A slot's bytes as the core reads them. -/
theorem length_coreRead (s : State) (ctxid va n : Nat) : (s.coreRead ctxid va n).length = n := by
  unfold State.coreRead
  split
  · next locs h => rw [List.length_map, length_superLocs h]
  · exact List.length_replicate ..

theorem flatten_popUnits (s : State) (q : Queue) (i : Nat) (locs : List Nat) :
    (s.popUnits q i locs).flatten = locs.zip (s.coreRead s.cur.ctxid (q.slotVa i) 64) := flatten_wordUnits ..

/-- The parts of what a QPOP does, one after the other. -/
def State.popSettled (s : State) (y : Option Xlated) : List Effect := (settleAccess s.curCtx y true s []).2
def State.popSeen (s : State) (st : Option Stamp) (y : Option Xlated) : List Effect := (s.popEdge st s (s.popSettled y)).2
def State.popWritten (s : State) (q : Queue) (i : Nat) (st : Option Stamp) (locs : List Nat) (y : Option Xlated) : List Effect :=
  (writeBy { s.scalarActor s.curCtx with num := 0 } (s.popUnits q i locs) s (s.popSeen st y)).2
def State.popped (s : State) (q : Queue) (i : Nat) (st : Option Stamp) (locs : List Nat) (y : Option Xlated) : List Effect :=
  (modQueue s.cur.ctxid q.num (fun q => (q.popHead s.dev.time).served) s (s.popWritten q i st locs y)).2

theorem only_popEdge (s : State) (st : Option Stamp) : Only [.mem] (s.popEdge st) := by
  cases st with
  | none => exact .pure ()
  | some p => exact .bind .now fun _ => .setVis (by simp) _

theorem only_popWrite (s : State) (q : Queue) (i : Nat) (locs : List Nat) :
    Only [.mem, .badDram, .badSram, .clusters] (writeBy { s.scalarActor s.curCtx with num := 0 } (s.popUnits q i locs)) :=
  .writeBy (by simp) (by simp) (by simp) (by simp) _ _

theorem popped_going (hs : Acting s) (hy : settled y) : s.Going (s.popped q i st locs y) :=
  (((settleAccess_going hs hy true).1.then (only_popEdge s st) (by simp) (by decide)).then (only_popWrite s q i locs) (by simp) (by decide)).then
    (Only.modQueue (F := [.devs]) (by simp) _ _ _) (by simp) (by decide)

/-- Before it writes, a QPOP has left the bytes of memory and the open choices as they were. -/
theorem popSeen_memory (hs : Acting s) (hy : settled y) : (after s (s.popSeen st y)).mem = s.mem ∧
    (after s (s.popSeen st y)).vis.picks = s.vis.picks := by
  have hsame := (settleAccess_going hs hy true).2
  cases st with
  | none => exact ⟨hsame.mem (by decide), congrArg Visibility.picks (hsame.vis (by decide))⟩
  | some p =>
    have hrun : s.popSeen (some p) y = .vis ((after s (s.popSettled y)).stampEdge p [s.ctxAgent s.curCtx]) :: s.popSettled y := rfl
    rw [hrun, after_cons, mem_apply_vis]
    exact ⟨hsame.mem (by decide), (congrArg Visibility.picks (hsame.vis (by decide)) : (after s (s.popSettled y)).vis.picks = s.vis.picks)⟩

theorem nodup_popUnits (hn : locs.Nodup) : ((s.popUnits q i locs).flatten.map (·.1)).Nodup := by
  rw [flatten_popUnits]
  exact hn.sublist (map_fst_zip_sublist ..)

/-- What a QPOP has written (R323). -/
theorem byte_popped (hs : Acting s) (hc : s.canonical) (hy : settled y) (hn : locs.Nodup) (hlen : locs.length = 64) :
    (∀ j < 64, (after s (s.popped q i st locs y)).byte (locs.getD j 0) = (s.coreRead s.cur.ctxid (q.slotVa i) 64).getD j 0 ∨
      ¬ s.vis.picks = [] ∧ (after s (s.popped q i st locs y)).byte (locs.getD j 0) = s.byte (locs.getD j 0)) ∧
    ∀ l, l ∉ locs → (after s (s.popped q i st locs y)).byte l = s.byte l := by
  obtain ⟨hmem, hpicks⟩ := popSeen_memory (st := st) hs hy
  have hkept (l : Nat) : (after s (s.popSeen st y)).byte l = s.byte l := byte_of_mem hmem l
  have hmod : (after s (s.popped q i st locs y)).byte = (after s (s.popWritten q i st locs y)).byte :=
    ((Only.modQueue (F := [.devs]) (by simp) _ _ _).sameBut s _).byte (by decide)
  obtain ⟨hin, hout⟩ := byte_writeBy (s := s) (log := s.popSeen st y) (canonical_applyAll _ hc) (a := { s.scalarActor s.curCtx with num := 0 })
    (nodup_popUnits (s := s) (q := q) (i := i) hn)
  have hcore := length_coreRead s s.cur.ctxid (q.slotVa i) 64
  rw [hmod]
  refine ⟨fun j hj => ?_, fun l hl => (hout l fun h => ?_).trans (hkept l)⟩
  · have hcell : (locs.getD j 0, (s.coreRead s.cur.ctxid (q.slotVa i) 64).getD j 0) ∈ (s.popUnits q i locs).flatten := by
      rw [flatten_popUnits, List.getD_eq_getElem _ _ (by omega), List.getD_eq_getElem _ _ (by omega)]
      have hz : j < (locs.zip (s.coreRead s.cur.ctxid (q.slotVa i) 64)).length := by simp [hlen, hcore, hj]
      simpa using List.getElem_mem hz
    have h := hin _ hcell
    rw [hpicks, hkept] at h
    exact h
  · rw [flatten_popUnits] at h
    exact hl ((map_fst_zip_sublist ..).subset h)

/-- The counted writes of the entry's producer are visible to the context (R320). -/
theorem counts_popped (p : Stamp) : (after s (s.popped q i (some p) locs y)).vis.counts p (s.ctxAgent s.curCtx) := by
  have hmod : (after s (s.popped q i (some p) locs y)).vis = (after s (s.popWritten q i (some p) locs y)).vis :=
    ((Only.modQueue (F := [.devs]) (by simp) _ _ _).sameBut s _).vis (by decide)
  have hwrite : (after s (s.popWritten q i (some p) locs y)).vis =
      ((after s (s.popSeen (some p) y)).writeUnits { s.scalarActor s.curCtx with num := 0 } (s.popUnits q i locs)).2 := (mem_settleWrite ..).2
  have hseen : (after s (s.popSeen (some p) y)).vis = (after s (s.popSettled y)).stampEdge p [s.ctxAgent s.curCtx] := by
    have hrun : s.popSeen (some p) y = .vis ((after s (s.popSettled y)).stampEdge p [s.ctxAgent s.curCtx]) :: s.popSettled y := rfl
    rw [hrun, after_cons]
    rfl
  rw [hmod, hwrite]
  refine counts_writeUnits rfl ?_ _
  rw [hseen]
  exact counts_stampEdge _ _ _

theorem queue_popped (hs : Acting s) (hy : settled y) (hq : (s.dctx s.cur.ctxid).queue qn.toNat = some q) :
    ((after s (s.popped q i st locs y)).dctx s.cur.ctxid).queue qn.toNat = some (q.popHead s.dev.time).served := by
  have hdctx : (after s (s.popWritten q i st locs y)).dctx = s.dctx := by
    have h1 := (only_popWrite s q i locs).sameBut s (s.popSeen st y)
    have h2 := (only_popEdge s st).sameBut s (s.popSettled y)
    have h3 := (settleAccess_going hs hy true).2
    exact (h1.dctx (by decide)).trans ((h2.dctx (by decide)).trans (h3.dctx (by decide)))
  have hq2 : ((after s (s.popWritten q i st locs y)).dctx s.cur.ctxid).queue q.num = some q := by
    rw [hdctx, queue_num hq]
    exact hq
  rw [← queue_num hq]
  exact queue_modQueue hq2 fun q' => ⟨rfl, rfl⟩

theorem qpop_takes (hs : Acting s) (hc : s.canonical) (hr : s.cur.hasRight 2 = true) (hq : (s.dctx s.cur.ctxid).queue qn.toNat = some q)
    (h : q.HasHead i st) (hm : s.stampMet st = true) (hg : s.genAccess s.curCtx (s.rd a) 64 64 .store false = .ok locs y) (hy : settled y)
    (hn : locs.Nodup) (hfree : s.superHeld 0 s.cur.ctxid (q.slotVa i) 64 .load = false) (hgood : s.slotPoisoned s.cur.ctxid q i = false) :
    s.Gives d 1 (execQpop d a qn s) fun t => (t.dctx s.cur.ctxid).queue qn.toNat = some (q.popHead s.dev.time).served ∧
      (∀ j < 64, t.byte (locs.getD j 0) = (s.coreRead s.cur.ctxid (q.slotVa i) 64).getD j 0 ∨
        ¬ s.vis.picks = [] ∧ t.byte (locs.getD j 0) = s.byte (locs.getD j 0)) ∧
      (∀ l, l ∉ locs → t.byte l = s.byte l) ∧ ∀ p, st = some p → t.vis.counts p (s.ctxAgent s.curCtx) := by
  have hfin : SameBut [.ctxs] (after s (s.popped q i st locs y)) (after s (finish d 1 4 s (s.popped q i st locs y)).2) :=
    (Only.finish (by simp) d 1 4).sameBut s _
  obtain ⟨hin, hout⟩ := byte_popped (q := q) (i := i) (st := st) hs hc hy hn (length_genAccess hg)
  refine gives_finish hs (popped_going (q := q) (i := i) (st := st) (locs := locs) hs hy) (v := 1) ?_ ⟨?_, ?_, ?_, ?_⟩
  · rw [execQpop_eq, queueGate_open hr hq, popBody_access h hm hg, if_neg (by simp [hfree]), if_neg (by simp [hgood])]
    rfl
  · rw [hfin.dctx (by decide)]
    exact queue_popped hs hy hq
  · rw [hfin.byte (by decide)]
    exact hin
  · rw [hfin.byte (by decide)]
    exact hout
  · rintro p rfl
    rw [hfin.vis (by decide)]
    exact counts_popped p

end
end Sys2Proof.Machine
end

section
/-! # QSIG and QSTAT -/
namespace Sys2Proof.Machine

section
variable {s : State} {d a : Reg} {qn : BitVec 8} {q : Queue}

/-! ### QSIG (R325) -/

/-- What a signal releases: the writes before it, at device scope. -/
def State.sigRelease (s : State) : Release :=
  { agent := s.ctxAgent s.curCtx, scope := .device, paths := allPaths, ids := s.vis.ids [s.ctxAgent s.curCtx] }

/-- A queue after a signal of one of its counters. -/
def State.signalled (s : State) (n : Nat) (q : Queue) : Queue :=
  q.settle { q.counter n with value := (q.counter n).value - 1, rels := (q.counter n).rels ++ [s.sigRelease] } s.dev.time

def State.sigBody (s : State) (d a : Reg) (qn : BitVec 8) (q : Queue) : Act Unit :=
  if 1024 ≤ (s.rd a).toNat then illegal (.qsig d a qn)
  else do
    modQueue s.cur.ctxid q.num fun q' =>
      q'.settle { q'.counter (s.rd a).toNat with
        value := (q.counter (s.rd a).toNat).value - 1, rels := (q'.counter (s.rd a).toNat).rels ++ [s.sigRelease] } s.dev.time
    finish d (((q.counter (s.rd a).toNat).value - 1).signExtend 64)

theorem execQsig_eq (d a : Reg) (qn : BitVec 8) (s : State) :
    execQsig d a qn s = commit (s.queueGate qn (.qsig d a qn) (s.sigBody d a qn)) s := rfl

theorem sigBody_outside (h : 1024 ≤ (s.rd a).toNat) : s.sigBody d a qn q = illegal (.qsig d a qn) := if_pos h

theorem qsig_counts (hs : Acting s) (hr : s.cur.hasRight 2 = true) (hq : (s.dctx s.cur.ctxid).queue qn.toNat = some q)
    (hx : (s.rd a).toNat < 1024) : s.Gives d (((q.counter (s.rd a).toNat).value - 1).signExtend 64) (execQsig d a qn s) fun t =>
      (t.dctx s.cur.ctxid).queue qn.toNat = some (s.signalled (s.rd a).toNat q) := by
  let f (q' : Queue) : Queue := q'.settle { q'.counter (s.rd a).toNat with
    value := (q.counter (s.rd a).toNat).value - 1, rels := (q'.counter (s.rd a).toNat).rels ++ [s.sigRelease] } s.dev.time
  let log := (modQueue s.cur.ctxid q.num f s []).2
  have hfin := (Only.finish (F := [.ctxs]) (by simp) d (((q.counter (s.rd a).toNat).value - 1).signExtend 64) 4).sameBut s log
  refine gives_finish hs ((State.Going.start s).then (Only.modQueue (F := [.devs]) (by simp) s.cur.ctxid q.num f) (by simp) (by decide)) ?_ ?_
  · rw [execQsig_eq, queueGate_open hr hq, State.sigBody, if_neg (by omega)]
    rfl
  · rw [hfin.dctx (by decide), ← queue_num hq]
    exact queue_modQueue (s := s) (log := []) (f := f) (by rw [queue_num hq]; exact hq) fun q' => ⟨rfl, rfl⟩

/-! ### QSTAT (R324) -/

theorem execQstat_eq (d a : Reg) (qn : BitVec 8) (s : State) :
    execQstat d a qn s = commit (s.queueGate qn (.qstat d a qn) fun q => finish d (s.queueWord s.cur.ctxid q (s.rd a).toNat)) s := rfl

theorem wr_parts (c : Context) (d : Reg) (v : Word) : c.wr d v = { c with s := (c.wr d v).s, bank := (c.wr d v).bank } := by
  unfold Context.wr
  dsimp only
  split
  · rfl
  · split <;> rfl

theorem wroteReg_adv (c : Context) (d : Reg) (v : Word) : WroteReg d v (c.pc + 4) c ((c.wr d v).adv 4) :=
  ⟨rd_wr_self c d v, keepsRegs_wr c d v, congrArg (Context.adv · 4) (wr_parts c d v)⟩

/-- A word whose only effect is its result. -/
theorem writesTo_finish (hs : Acting s) (d : Reg) (v : Word) : WritesTo s d v (s.pcNow + 4) (commit (finish d v) s) := by
  obtain ⟨t, ht, honly, hcur⟩ := becomes_setCtx hs ((s.cur.wr d v).adv 4)
  exact ⟨t, ht, honly, hcur ▸ wroteReg_adv s.cur d v⟩

theorem qstat_reads (hs : Acting s) (hr : s.cur.hasRight 2 = true) (hq : (s.dctx s.cur.ctxid).queue qn.toNat = some q) :
    WritesTo s d (s.queueWord s.cur.ctxid q (s.rd a).toNat) (s.pcNow + 4) (execQstat d a qn s) := by
  rw [execQstat_eq, queueGate_open hr hq]
  exact writesTo_finish hs ..

theorem b2n_le (b : Bool) : b2n b ≤ 1 := by cases b <;> decide

theorem code_lt (st : QueueStatus) : st.code < 8 := by cases st <;> decide

/-- Fields that fit stand side by side in a word. -/
theorem fields_of_word {disp current waits pri code held : Nat} (h1 : current ≤ 1) (h2 : waits ≤ 1) (h3 : pri ≤ 3) (h4 : code < 8) (h5 : held < 2 ^ 17) :
    let w : Word := BitVec.ofNat 64 (disp % 2 ^ 40 * 2 ^ 24 + current * 2 ^ 23 + waits * 2 ^ 22 + pri * 2 ^ 20 + code * 2 ^ 17 + held)
    w.toNat % 2 ^ 17 = held ∧ w.toNat / 2 ^ 17 % 8 = code ∧ w.toNat / 2 ^ 24 = disp % 2 ^ 40 := by
  have hlt : disp % 2 ^ 40 * 2 ^ 24 + current * 2 ^ 23 + waits * 2 ^ 22 + pri * 2 ^ 20 + code * 2 ^ 17 + held < 2 ^ 64 := by omega
  dsimp only
  rw [BitVec.toNat_ofNat, Nat.mod_eq_of_lt hlt]
  omega

/-- The fields of a queue's first status word (Table 13.6). -/
theorem queueWord_fields (ctxid : Nat) (h : q.held.length < 2 ^ 17) : (s.queueWord ctxid q 0).toNat % 2 ^ 17 = q.held.length ∧
    (s.queueWord ctxid q 0).toNat / 2 ^ 17 % 8 = q.status.code ∧ (s.queueWord ctxid q 0).toNat / 2 ^ 24 = q.disp % 2 ^ 40 := by
  have hpri : (if (q.data || q.held.isEmpty) = true then 0 else effPriority (s.headPriority ctxid q) q.headSince s.dev.time) ≤ 3 := by
    split
    · exact Nat.zero_le _
    · exact Nat.min_le_left ..
  unfold State.queueWord
  rw [if_pos rfl]
  exact fields_of_word (b2n_le _) (b2n_le _) hpri (code_lt q.status) h

end

end Sys2Proof.Machine
end

section
/-! # The node words and the batch timer -/
namespace Sys2Proof.Machine

/-! ### Sealing a batch (R326) -/

section
variable {s : State} {log : List Effect} {id h : Nat} {nd : Node} {b : Batch}

/-- A node whose open batch has been sealed. -/
def Node.sealWith (n : Node) (b : Batch) (time : Nat) : Node :=
  { n with opened := none, sealed := n.sealed ++ [b], headSince := if n.sealed.isEmpty then time else n.headSince }

/-- The head of a batch (Table 13.8). -/
def State.batchHead (s : State) (nd : Node) (b : Batch) : List Byte := layBytes [(b.count, 4), (nd.handle, 4), (s.dev.time, 8), (0, 48)]

theorem sealBatch_run (hn : ((after s log).dctx id).node h = some nd) (hb : nd.opened = some b) : (sealBatch id h s log).2 =
    (modNode id h (·.sealWith b (after s log).dev.time) s (coreWrite id (nd.slotVa b.slot) ((after s log).batchHead nd b) s log).2).2 := by
  unfold sealBatch
  rw [run_bind_now, hn]
  dsimp only
  rw [hb]
  rfl

/-- What the core's writes for a node may change. -/
abbrev writeFields : List Field := [.dev, .mem, .badDram, .badSram, .clusters, .dies, .links]
abbrev nodeFields : List Field := [.mem, .badDram, .badSram, .clusters, .dies, .devs, .dev, .links]

theorem sameBut_coreWrite (id va : Nat) (bytes : List Byte) (s : State) (log : List Effect) :
    SameBut writeFields (after s log) (after s (coreWrite id va bytes s log).2) :=
  (Only.coreWrite (by simp) (by simp) (by simp) (by simp) (by simp) (by simp) (by simp) id va bytes).sameBut s log
theorem sameBut_modNode (id h : Nat) (f : Node → Node) (s : State) (log : List Effect) :
    SameBut [.devs] (after s log) (after s (modNode id h f s log).2) := (Only.modNode (by simp) id h f).sameBut s log
theorem only_sealBatch (id h : Nat) : Only nodeFields (sealBatch id h) :=
  .sealBatch (by simp) (by simp) (by simp) (by simp) (by simp) (by simp) (by simp) (by simp) id h
theorem only_sealFull (id h : Nat) : Only nodeFields (sealFull id h) :=
  .sealFull (by simp) (by simp) (by simp) (by simp) (by simp) (by simp) (by simp) (by simp) id h

theorem node_sealBatch (hn : ((after s log).dctx id).node h = some nd) (hb : nd.opened = some b) :
    ((after s (sealBatch id h s log).2).dctx id).node h = some (nd.sealWith b (after s log).dev.time) := by
  rw [sealBatch_run hn hb]
  refine node_modNode ?_ fun x => rfl
  rw [(sameBut_coreWrite ..).dctx (by decide)]
  exact hn

/-- A batch with room stays open. -/
theorem sealFull_open (hn : ((after s log).dctx id).node h = some nd) (hb : nd.opened = some b) (hroom : b.count < nd.count) :
    (sealFull id h s log).2 = log := by
  have hno : ¬ (decide (nd.count ≤ b.count) && nd.maySeal && !(after s log).sealHeld id nd b) = true := by
    have : ¬ nd.count ≤ b.count := by omega
    simp [this]
  unfold sealFull
  rw [run_bind_now, hn]
  dsimp only
  rw [hb]
  exact congrArg (fun a : Act Unit => (a s log).2) (if_neg hno)

theorem sealFull_full (hn : ((after s log).dctx id).node h = some nd) (hb : nd.opened = some b) (hfull : nd.count ≤ b.count)
    (hmay : nd.maySeal = true) (hfree : (after s log).sealHeld id nd b = false) :
    (sealFull id h s log).2 = (sealBatch id h s log).2 := by
  have hyes : (decide (nd.count ≤ b.count) && nd.maySeal && !(after s log).sealHeld id nd b) = true := by
    simp [hfull, hmay, hfree]
  unfold sealFull
  rw [run_bind_now, hn]
  dsimp only
  rw [hb]
  exact congrArg (fun a : Act Unit => (a s log).2) (if_pos hyes)

theorem sealHeld_of_calm (hc : s.calm = true) (id : Nat) (nd : Node) (b : Batch) : s.sealHeld id nd b = false := by
  unfold State.sealHeld State.superHeld
  rw [hc]
  rfl

theorem calm_congr {F : List Field} {t : State} (h : SameBut F s t) (hv : Field.vaults ∉ F) (hr : Field.regs ∉ F) : t.calm = s.calm := by
  simp only [State.calm, h.vaults hv, h.regs hr]

/-! ### NODE_BATCH_TIMER (R326) -/

theorem nodeBatchTimer_seals (ht : s.timerDue id h = true) (hn : (s.dctx id).node h = some nd) (hb : nd.opened = some b) :
    Happens (execNodeBatchTimer id h s) fun t => (t.dctx id).node h = some (nd.sealWith b s.dev.time) ∧ SameBut nodeFields s t :=
  happens_event ht ⟨node_sealBatch (log := []) hn hb, (only_sealBatch id h).sameBut s []⟩

theorem nodeBatchTimer_idle (ht : s.timerDue id h = false) : Idle "NODE_BATCH_TIMER" (execNodeBatchTimer id h s) := idle_event ht

/-- A batch whose timer has run out has a head that can be written. -/
theorem sealHeld_of_timerDue (ht : s.timerDue id h = true) (hn : (s.dctx id).node h = some nd) (hb : nd.opened = some b) :
    s.sealHeld id nd b = false := by
  unfold State.timerDue at ht
  rw [hn] at ht
  dsimp only at ht
  rw [hb] at ht
  dsimp only at ht
  rw [Bool.and_eq_true] at ht
  simpa using ht.2

end

/-! ### NREC (R327) -/

section
variable {s : State} {m : NrecArgs} {nd : Node} {b : Batch}

/-- The batch that takes a record: the open one while it has room, or a new one in a free slot. -/
def State.roomIn (s : State) (nd : Node) : Option Batch :=
  match nd.opened with
  | some b => if b.count < nd.count then some b else none
  | none => nd.freeSlot.map fun i => { slot := i, count := 0, since := s.dev.time, stamps := [], rels := [] }

/-- The bytes of a record. -/
def State.nrecData (s : State) (m : NrecArgs) : List Byte :=
  (List.range (m.count.toNat + 1)).flatMap fun i => leBytes 8 (s.cur.rd (m.sD + BitVec.ofNat 5 i)).toNat

/-- What a record releases. -/
def State.nrecRels (s : State) (m : NrecArgs) : List Release :=
  if m.release then [{ agent := s.ctxAgent s.curCtx, scope := m.scope, paths := allPaths, ids := s.vis.ids [s.ctxAgent s.curCtx] }] else []

/-- A batch with one more record. -/
def State.filled (s : State) (m : NrecArgs) (b : Batch) : Batch :=
  { b with count := b.count + 1, rels := b.rels ++ s.nrecRels m, stamps := b.stamps ++ [s.stampNow] }

/-- A node with a record more in its open batch. -/
def State.nodeFilled (s : State) (m : NrecArgs) (b : Batch) (x : Node) : Node :=
  { x with opened := some (s.filled m b), slots := x.slots.set b.slot true }

/-- The record goes to its place. -/
def State.nrecWrite (s : State) (m : NrecArgs) (nd : Node) (b : Batch) : Act Unit := do
  coreWrite s.cur.ctxid (nd.slotVa b.slot + 64 + b.count * nd.size) (s.nrecData m)
  modNode s.cur.ctxid nd.handle (s.nodeFilled m b)

/-- The batch that has room takes the record. -/
def State.nrecGo (s : State) (m : NrecArgs) (nd : Node) (b : Batch) : Act Unit :=
  if s.superHeld 0 s.cur.ctxid (nd.slotVa b.slot) (64 + (b.count + 1) * nd.size) .store then stallCur .held
  else do
    s.nrecWrite m nd b
    sealFull s.cur.ctxid nd.handle
    finishNone 16

/-- An NREC behind the seal of a batch whose timer has run out. -/
def State.nrecRest (s : State) (m : NrecArgs) (nd : Node) : Act Unit := do
  let nd' := (((← now).dctx s.cur.ctxid).node nd.handle).getD nd
  match s.roomIn nd' with
  | none => stallCur .node
  | some b => s.nrecGo m nd' b

/-- A batch whose timer has run out is sealed before a record comes. -/
def State.sealsFirst (s : State) (nd : Node) : Act Unit :=
  if s.timerDue s.cur.ctxid nd.handle then sealBatch s.cur.ctxid nd.handle else pure ()

/-- An NREC for a node of its context. -/
def State.nrecBody (s : State) (m : NrecArgs) (nd : Node) : Act Unit :=
  if nd.dying || 8 * (m.count.toNat + 1) ≠ nd.size then illegal (.nrec m)
  else if nd.opened.any (s.sealHeld s.cur.ctxid nd) then stallCur .held
  else do
    s.sealsFirst nd
    s.nrecRest m nd

theorem execNrec_eq (m : NrecArgs) (s : State) : execNrec m s = commit (if !s.cur.hasRight 2 then trapNow (rightsRecord 2)
    else match (s.dctx s.cur.ctxid).node (s.cur.rd m.sN).toNat with
      | none => illegal (.nrec m)
      | some nd => s.nrecBody m nd) s := by
  have hbody (nd : Node) : s.nrecBody m nd = if nd.dying || 8 * (m.count.toNat + 1) ≠ nd.size then illegal (.nrec m)
      else if nd.opened.any (s.sealHeld s.cur.ctxid nd) then stallCur .held
      else if s.timerDue s.cur.ctxid nd.handle then (do sealBatch s.cur.ctxid nd.handle; s.nrecRest m nd) else s.nrecRest m nd := by
    unfold State.nrecBody State.sealsFirst
    cases s.timerDue s.cur.ctxid nd.handle <;> rfl
  simp only [hbody]
  rfl

end

/-! ### What an NREC leaves -/

section
variable {s : State} {m : NrecArgs} {nd : Node} {b : Batch}

/-- A word of a context's node that can be refused no more. -/
structure State.Records (s : State) (m : NrecArgs) (nd : Node) : Prop where
  acting : Acting s
  right : s.cur.hasRight 2 = true
  node : (s.dctx s.cur.ctxid).node (s.cur.rd m.sN).toNat = some nd
  lives : nd.dying = false
  size : 8 * (m.count.toNat + 1) = nd.size

theorem State.Records.found (h : s.Records m nd) : (s.dctx s.cur.ctxid).node nd.handle = some nd := by
  rw [node_handle h.node]
  exact h.node

theorem State.Records.exec_eq (h : s.Records m nd) : execNrec m s = commit (if nd.opened.any (s.sealHeld s.cur.ctxid nd) then stallCur .held
    else do
      s.sealsFirst nd
      s.nrecRest m nd) s := by
  have hno : ¬ (nd.dying || decide (8 * (m.count.toNat + 1) ≠ nd.size)) = true := by
    simp [h.lives, h.size]
  rw [execNrec_eq, if_neg (by simp [h.right]), h.node]
  dsimp only
  rw [State.nrecBody, if_neg hno]

theorem nrec_denied (hr : s.cur.hasRight 2 = false) : execNrec m s = commit (trapNow (rightsRecord 2)) s := by
  rw [execNrec_eq, hr]
  rfl

theorem nrec_missing (hr : s.cur.hasRight 2 = true) (hn : (s.dctx s.cur.ctxid).node (s.cur.rd m.sN).toNat = none) :
    execNrec m s = commit (illegal (.nrec m)) s := by
  rw [execNrec_eq, hr, hn]
  rfl

theorem nrec_held (h : s.Records m nd) (hb : nd.opened = some b) (hh : s.sealHeld s.cur.ctxid nd b = true) :
    execNrec m s = commit (stallCur .held) s := by
  rw [h.exec_eq, hb]
  exact congrArg (commit · s) (if_pos hh)

theorem any_opened_free (hh : ∀ o, nd.opened = some o → s.sealHeld s.cur.ctxid nd o = false) :
    ¬ nd.opened.any (s.sealHeld s.cur.ctxid nd) = true := by
  rw [Option.any_eq_true]
  rintro ⟨o, ho, hheld⟩
  rw [hh o ho] at hheld
  cases hheld

/-- Without a seal to come first, the record goes to the batch that has room. -/
theorem nrec_plain (h : s.Records m nd) (ht : s.timerDue s.cur.ctxid nd.handle = false)
    (hh : ∀ o, nd.opened = some o → s.sealHeld s.cur.ctxid nd o = false) : execNrec m s = commit (match s.roomIn nd with
      | none => stallCur .node
      | some b => s.nrecGo m nd b) s := by
  have hfirst : s.sealsFirst nd = pure () := if_neg (by simp [ht])
  rw [h.exec_eq, if_neg (any_opened_free hh), hfirst]
  have hrest : s.nrecRest m nd s [] = (match s.roomIn nd with
      | none => stallCur .node
      | some b => s.nrecGo m nd b) s [] := by
    unfold State.nrecRest
    rw [run_bind_now, after_nil, h.found]
    rfl
  exact congrArg (fun x : Unit × List Effect => Host.Outcome.next (after s x.2)) hrest

theorem roomIn_open (hb : nd.opened = some b) (hc : b.count < nd.count) : s.roomIn nd = some b := by
  rw [State.roomIn, hb]
  exact if_pos hc

theorem roomIn_full (hb : nd.opened = some b) (hc : nd.count ≤ b.count) : s.roomIn nd = none := by
  rw [State.roomIn, hb]
  exact if_neg (by omega)

theorem roomIn_new {i : Nat} (ho : nd.opened = none) (hf : nd.freeSlot = some i) :
    s.roomIn nd = some { slot := i, count := 0, since := s.dev.time, stamps := [], rels := [] } := by
  rw [State.roomIn, ho, hf]
  rfl

theorem nrec_full (h : s.Records m nd) (ht : s.timerDue s.cur.ctxid nd.handle = false) (hb : nd.opened = some b)
    (hh : s.sealHeld s.cur.ctxid nd b = false) (hc : nd.count ≤ b.count) : execNrec m s = commit (stallCur .node) s := by
  have hfree : ∀ o, nd.opened = some o → s.sealHeld s.cur.ctxid nd o = false := fun o ho => by
    cases hb.symm.trans ho
    exact hh
  rw [nrec_plain h ht hfree, roomIn_full hb hc]

/-! The record is written. -/

/-- The log of an NREC that has written its record. -/
def State.nrecWritten (s : State) (m : NrecArgs) (nd : Node) (b : Batch) (log : List Effect) : List Effect := (s.nrecWrite m nd b s log).2

theorem sameBut_nrecWritten (s : State) (m : NrecArgs) (nd : Node) (b : Batch) (log : List Effect) :
    SameBut nodeFields (after s log) (after s (s.nrecWritten m nd b log)) :=
  sameBut_trans ((sameBut_coreWrite ..).mono (by simp)) ((sameBut_modNode ..).mono (by simp))

theorem node_nrecWritten {log : List Effect} (hn : ((after s log).dctx s.cur.ctxid).node nd.handle = some nd) :
    ((after s (s.nrecWritten m nd b log)).dctx s.cur.ctxid).node nd.handle = some (s.nodeFilled m b nd) := by
  unfold State.nrecWritten State.nrecWrite
  rw [run_bind]
  refine node_modNode ?_ fun x => rfl
  rw [(sameBut_coreWrite ..).dctx (by decide)]
  exact hn

theorem length_nrecData (s : State) (m : NrecArgs) : (s.nrecData m).length = 8 * (m.count.toNat + 1) := by
  unfold State.nrecData
  rw [List.length_flatMap]
  simp [Sys2Proof.Laws.RoundTrip.leBytes_length, Nat.mul_comm]

theorem byte_nrecWritten (hc : s.canonical) {ls : List Nat}
    (hls : s.superLocs 0 s.cur.ctxid (nd.slotVa b.slot + 64 + b.count * nd.size) (8 * (m.count.toNat + 1)) .store false = .ok ls) (hn : ls.Nodup)
    {i : Nat} (hi : i < 8 * (m.count.toNat + 1)) :
    (after s (s.nrecWritten m nd b [])).byte (ls.getD i 0) = (s.nrecData m).getD i 0 := by
  have hlen := length_nrecData s m
  rw [State.nrecWritten, State.nrecWrite, run_bind, (sameBut_modNode ..).byte (by decide)]
  exact byte_coreWrite (s := s) (log := []) hc (by rw [hlen]; exact hls) hn (by omega)

/-- The log of an NREC once a batch that is full has been sealed. -/
def State.nrecSealed (s : State) (m : NrecArgs) (nd : Node) (b : Batch) (log : List Effect) : List Effect :=
  (sealFull s.cur.ctxid nd.handle s (s.nrecWritten m nd b log)).2

theorem nrecGo_run {log : List Effect}
    (hfree : s.superHeld 0 s.cur.ctxid (nd.slotVa b.slot) (64 + (b.count + 1) * nd.size) .store = false) :
    s.nrecGo m nd b s log = finishNone 16 s (s.nrecSealed m nd b log) := by
  unfold State.nrecGo State.nrecSealed State.nrecWritten
  rw [if_neg (by simp [hfree]), run_bind, run_bind]

/-- A word without a result steps on, whatever it has written. -/
theorem finishNone_steps (hs : Acting s) {log : List Effect} (h : SameBut nodeFields s (after s log)) (n : Nat) :
    SameBut queueFields s (after s (finishNone n s log).2) ∧ (after s (finishNone n s log).2).cur = stepped n s.cur ∧
      SameBut [.ctxs] (after s log) (after s (finishNone n s log).2) := by
  have hfin : SameBut [.ctxs] (after s log) (after s (finishNone n s log).2) := (Only.finishNone (by simp) n).sameBut s log
  refine ⟨sameBut_trans (h.mono (by simp)) (hfin.mono (by simp)), ?_, hfin⟩
  have hcur : (after s log).curCtx = s.curCtx := h.curCtx (by decide)
  rw [State.cur, hfin.curCtx (by decide), run_finishNone, hcur, after_cons, ctx_apply_ctx,
    if_pos ⟨rfl, by rw [ctxs_length_after]; exact hs⟩, h.ctx (by decide)]
  rfl

theorem nrecSealed_open {log : List Effect} (hn : ((after s log).dctx s.cur.ctxid).node nd.handle = some nd) (hc : b.count + 1 < nd.count) :
    s.nrecSealed m nd b log = s.nrecWritten m nd b log :=
  sealFull_open (node_nrecWritten hn) (b := s.filled m b) rfl hc

theorem node_nrecSealed_full (hn : (s.dctx s.cur.ctxid).node nd.handle = some nd) (hc : b.count + 1 = nd.count) (hcalm : s.calm = true)
    (hmay : (s.nodeFilled m b nd).maySeal = true) : ∃ time,
    ((after s (s.nrecSealed m nd b [])).dctx s.cur.ctxid).node nd.handle = some ((s.nodeFilled m b nd).sealWith (s.filled m b) time) := by
  have hnode := node_nrecWritten (s := s) (m := m) (b := b) (log := []) hn
  have hcalm' : (after s (s.nrecWritten m nd b [])).calm = true :=
    (calm_congr (sameBut_nrecWritten s m nd b []) (by decide) (by decide)).trans hcalm
  refine ⟨(after s (s.nrecWritten m nd b [])).dev.time, ?_⟩
  rw [State.nrecSealed, sealFull_full hnode (b := s.filled m b) rfl (Nat.le_of_eq hc.symm) hmay (sealHeld_of_calm hcalm' ..)]
  exact node_sealBatch hnode rfl

theorem sameBut_nrecSealed (s : State) (m : NrecArgs) (nd : Node) (b : Batch) (log : List Effect) :
    SameBut nodeFields (after s log) (after s (s.nrecSealed m nd b log)) :=
  sameBut_trans (sameBut_nrecWritten ..) ((only_sealFull _ _).sameBut s _)

/-- An NREC with room and without a seal to come first. -/
theorem nrec_records (h : s.Records m nd) (hc : s.canonical) (ht : s.timerDue s.cur.ctxid nd.handle = false)
    (hh : ∀ o, nd.opened = some o → s.sealHeld s.cur.ctxid nd o = false) (hroom : s.roomIn nd = some b)
    (hfree : s.superHeld 0 s.cur.ctxid (nd.slotVa b.slot) (64 + (b.count + 1) * nd.size) .store = false) :
    ∃ t, execNrec m s = .next t ∧ SameBut queueFields s t ∧ t.cur = stepped 16 s.cur ∧
      (b.count + 1 < nd.count → (t.dctx s.cur.ctxid).node nd.handle = some (s.nodeFilled m b nd) ∧
        ∀ ls, s.superLocs 0 s.cur.ctxid (nd.slotVa b.slot + 64 + b.count * nd.size) (8 * (m.count.toNat + 1)) .store false = .ok ls → ls.Nodup →
          ∀ i < 8 * (m.count.toNat + 1), t.byte (ls.getD i 0) = (s.nrecData m).getD i 0) ∧
      (b.count + 1 = nd.count → s.calm = true → (s.nodeFilled m b nd).maySeal = true →
        ∃ time, (t.dctx s.cur.ctxid).node nd.handle = some ((s.nodeFilled m b nd).sealWith (s.filled m b) time)) := by
  obtain ⟨hframe, hcur, hfin⟩ := finishNone_steps h.acting (sameBut_nrecSealed s m nd b []) 16
  refine ⟨_, ?_, hframe, hcur, fun hlt => ⟨?_, fun ls hls hn i hi => ?_⟩, fun heq hcalm hmay => ?_⟩
  · rw [nrec_plain h ht hh, hroom]
    exact congrArg (fun x : Unit × List Effect => Host.Outcome.next (after s x.2)) (nrecGo_run hfree)
  · rw [hfin.dctx (by decide), nrecSealed_open (log := []) h.found hlt]
    exact node_nrecWritten (log := []) h.found
  · rw [hfin.byte (by decide), nrecSealed_open (log := []) h.found hlt]
    exact byte_nrecWritten hc hls hn hi
  · rw [hfin.dctx (by decide)]
    exact node_nrecSealed_full h.found heq hcalm hmay

theorem nrec_noRoom (h : s.Records m nd) (ht : s.timerDue s.cur.ctxid nd.handle = false)
    (hh : ∀ o, nd.opened = some o → s.sealHeld s.cur.ctxid nd o = false) (hroom : s.roomIn nd = some b)
    (hfree : ¬ s.superHeld 0 s.cur.ctxid (nd.slotVa b.slot) (64 + (b.count + 1) * nd.size) .store = false) :
    execNrec m s = commit (stallCur .held) s := by
  rw [nrec_plain h ht hh, hroom]
  exact congrArg (commit · s) (if_pos (by simpa using hfree))

/-- A batch whose timer has run out is sealed first, and the record opens the next one. -/
theorem nrec_seals {i : Nat} (h : s.Records m nd) (ht : s.timerDue s.cur.ctxid nd.handle = true) (hb : nd.opened = some b)
    (hf : nd.freeSlot = some i) (hc : 1 < nd.count) (hfree : s.superHeld 0 s.cur.ctxid (nd.slotVa i) (64 + nd.size) .store = false) :
    ∃ t, execNrec m s = .next t ∧ SameBut queueFields s t ∧ t.cur = stepped 16 s.cur ∧ (t.dctx s.cur.ctxid).node nd.handle =
      some (s.nodeFilled m { slot := i, count := 0, since := s.dev.time, stamps := [], rels := [] } (nd.sealWith b s.dev.time)) := by
  let new : Batch := { slot := i, count := 0, since := s.dev.time, stamps := [], rels := [] }
  let log := (sealBatch s.cur.ctxid nd.handle s []).2
  have hh : ∀ o, nd.opened = some o → s.sealHeld s.cur.ctxid nd o = false := fun o ho => sealHeld_of_timerDue ht h.found ho
  have hseal : SameBut nodeFields s (after s log) := (only_sealBatch _ _).sameBut s []
  have hnode : ((after s log).dctx s.cur.ctxid).node (nd.sealWith b s.dev.time).handle = some (nd.sealWith b s.dev.time) :=
    node_sealBatch (log := []) h.found hb
  have hrun : s.nrecRest m nd s log = finishNone 16 s (s.nrecSealed m (nd.sealWith b s.dev.time) new log) := by
    have hgo : s.nrecRest m nd s log = s.nrecGo m (nd.sealWith b s.dev.time) new s log := by
      unfold State.nrecRest
      rw [run_bind_now, show ((after s log).dctx s.cur.ctxid).node nd.handle = some (nd.sealWith b s.dev.time) from hnode]
      dsimp only [Option.getD_some]
      rw [roomIn_new (nd := nd.sealWith b s.dev.time) rfl hf]
    rw [hgo]
    exact nrecGo_run (by rw [Nat.zero_add, Nat.one_mul]; exact hfree)
  obtain ⟨hframe, hcur, hfin⟩ := finishNone_steps h.acting
    (sameBut_trans hseal (sameBut_nrecSealed s m (nd.sealWith b s.dev.time) new log)) 16
  refine ⟨_, ?_, hframe, hcur, ?_⟩
  · have hfirst : s.sealsFirst nd = sealBatch s.cur.ctxid nd.handle := if_pos ht
    rw [h.exec_eq, if_neg (any_opened_free hh), hfirst]
    exact congrArg (fun x : Unit × List Effect => Host.Outcome.next (after s x.2)) hrun
  · rw [hfin.dctx (by decide), nrecSealed_open hnode (b := new) hc]
    exact node_nrecWritten hnode

end


end Sys2Proof.Machine
end

section
/-! # The queue words together -/
namespace Sys2Proof.Machine

section
variable {s : State} {d a : Reg} {qn : BitVec 8} {m : NrecArgs} {q : Queue} {nd : Node}

theorem queueWords_denied (hr : s.cur.hasRight 2 = false) :
    ∀ i ∈ [Instr.qpush d a qn, .qpop d a qn, .qsig d a qn, .qstat d a qn, .nrec m], exec i s = commit (trapNow (rightsRecord 2)) s := by
  simp only [List.forall_mem_cons, exec_qpush, exec_qpop, exec_qsig, exec_qstat, exec_nrec, execQpush_eq, execQpop_eq, execQsig_eq, execQstat_eq,
    queueGate_denied hr, nrec_denied hr]
  simp

theorem queueWords_missing (hr : s.cur.hasRight 2 = true) (hq : (s.dctx s.cur.ctxid).queue qn.toNat = none) :
    ∀ i ∈ [Instr.qpush d a qn, .qpop d a qn, .qsig d a qn, .qstat d a qn], exec i s = commit (illegal i) s := by
  simp only [List.forall_mem_cons, exec_qpush, exec_qpop, exec_qsig, exec_qstat, execQpush_eq, execQpop_eq, execQsig_eq, execQstat_eq,
    queueGate_missing hr hq]
  simp

theorem becomes_of_stall (hs : Acting s) {why : StallReason} {r : Result} (h : r = commit (stallCur why) s) : Becomes s (s.cur.stall why) r :=
  h ▸ becomes_stall hs why

/-! ### QPUSH -/

variable {locs : List Nat} {y : Option Xlated}

/-- The record waits at a counter that has one already. -/
def Queue.pending (q : Queue) (rec_ : List Byte) : Prop := ∃ j, q.taskCounter rec_ = some j ∧ (q.counter j).task.isSome = true

theorem mayRead_pushRecord (h : s.Pushes a qn q locs y) {i : Nat} (hi : i < 64) :
    s.mayRead (s.scalarActor s.curCtx) [locs.getD i 0] ((s.pushRecord locs y).getD i 0).toNat := by
  have hreads := readsOf_pushRecord (locs := locs) h.acting h.settled
  have hlocs := length_genAccess h.access
  have hlen := (length_pushRecord (locs := locs) h.acting h.settled).trans hlocs
  rw [List.getD_eq_getElem _ _ (by omega), List.getD_eq_getElem _ _ (by omega)]
  exact hreads.get (by omega) (by omega)

theorem qpush_stalls (h : s.Pushes a qn q locs y) (hfull : q.full = false)
    (hfree : ¬ s.superHeld 0 s.cur.ctxid (q.slotVa q.tail) 64 .store = false) : Becomes s (s.cur.stall .held) (execQpush d a qn s) :=
  becomes_of_stall h.acting (execQpush_held h.right h.queue h.access hfull hfree)

theorem qpush_appends (h : s.Pushes a qn q locs y) (hc : s.canonical) (ht : q.taskCounter (s.pushRecord locs y) = none) (hfull : q.full = false)
    (hfree : s.superHeld 0 s.cur.ctxid (q.slotVa q.tail) 64 .store = false) : s.Gives d 1 (execQpush d a qn s) fun t =>
      (t.dctx s.cur.ctxid).queue qn.toNat = some (q.append (some s.stampNow) s.dev.time) ∧ s.inSlot t q y (s.pushRecord locs y) := by
  have hp : ¬ q.pending (s.pushRecord locs y) := fun ⟨j, hj, _⟩ => by
    rw [ht] at hj
    cases hj
  have hgives := qpush_enters (d := d) h hc hp hfull hfree
  rw [ht] at hgives
  exact hgives

theorem qpush_publishes (h : s.Pushes a qn q locs y) (hc : s.canonical) {j : Nat} (ht : q.taskCounter (s.pushRecord locs y) = some j)
    (hj : (q.counter j).task = none) (hfull : q.full = false) (hfree : s.superHeld 0 s.cur.ctxid (q.slotVa q.tail) 64 .store = false) :
    s.Gives d 1 (execQpush d a qn s) fun t => (t.dctx s.cur.ctxid).queue qn.toNat =
      some (q.pass.publish j (s.pushRecord locs y) (some s.stampNow) s.dev.time) ∧ s.inSlot t q y (s.pushRecord locs y) := by
  have hp : ¬ q.pending (s.pushRecord locs y) := fun ⟨k, hk, htask⟩ => by
    cases ht.symm.trans hk
    rw [hj] at htask
    cases htask
  have hgives := qpush_enters (d := d) h hc hp hfull hfree
  rw [ht] at hgives
  exact hgives

/-! ### QPOP -/

section
variable {i : Nat} {st : Option Stamp} (hs : Acting s) (hr : s.cur.hasRight 2 = true) (hq : (s.dctx s.cur.ctxid).queue qn.toNat = some q)
include hr hq

theorem qpop_launch (h : q.data = false) : execQpop d a qn s = commit (illegal (.qpop d a qn)) s := by
  rw [execQpop_eq, queueGate_open hr hq, popBody_launch h]

theorem qpop_poisoned (h : q.HasHead i st) (hm : s.stampMet st = true) (hg : s.genAccess s.curCtx (s.rd a) 64 64 .store false = .ok locs y)
    (hfree : s.superHeld 0 s.cur.ctxid (q.slotVa i) 64 .load = false) (hbad : s.slotPoisoned s.cur.ctxid q i = true) :
    execQpop d a qn s = commit (trapNow (accessRecord 18 (BitVec.ofNat 64 (q.slotVa i)) 5)) s := by
  rw [execQpop_eq, queueGate_open hr hq, popBody_access h hm hg, if_neg (by simp [hfree]), if_pos hbad]

theorem qsig_outside (hx : 1024 ≤ (s.rd a).toNat) : execQsig d a qn s = commit (illegal (.qsig d a qn)) s := by
  rw [execQsig_eq, queueGate_open hr hq, sigBody_outside hx]

include hs

theorem qpop_empty (hd : q.data = true) (h : q.held = [] ∨ q.status ≠ .enabled) :
    s.Gives d 0 (execQpop d a qn s) fun t => t.devs = s.devs := by
  rw [execQpop_eq, queueGate_open hr hq, popBody_empty hd h]
  exact gives_at_once hs d 0

theorem qpop_early (h : q.HasHead i st) (hm : s.stampMet st = false) : Becomes s (s.cur.stall .queue) (execQpop d a qn s) :=
  becomes_of_stall hs (by rw [execQpop_eq, queueGate_open hr hq, popBody_early h hm])

theorem qpop_stalls (h : q.HasHead i st) (hm : s.stampMet st = true) (hg : s.genAccess s.curCtx (s.rd a) 64 64 .store false = .ok locs y)
    (hheld : s.superHeld 0 s.cur.ctxid (q.slotVa i) 64 .load = true) : Becomes s (s.cur.stall .held) (execQpop d a qn s) :=
  becomes_of_stall hs (by rw [execQpop_eq, queueGate_open hr hq, popBody_access h hm hg, if_pos hheld])

end

/-! ### NREC -/

theorem roomIn_of {b : Batch} (h : nd.opened = some b ∨
    ∃ i, nd.opened = none ∧ nd.freeSlot = some i ∧ b = { slot := i, count := 0, since := s.dev.time, stamps := [], rels := [] })
    (hc : b.count < nd.count) : s.roomIn nd = some b := by
  rcases h with hb | ⟨i, ho, hf, rfl⟩
  · exact roomIn_open hb hc
  · exact roomIn_new ho hf

end

/-- Settles O44: the queue words and NREC do what their branch of the queue, of its counter or of the node's open batch says, and the batch
timer seals the batch that is due. -/
theorem queueWords : Obligations.QueueWords := by
  refine ⟨fun s d a qn m hs hc => ⟨queueWords_denied, queueWords_missing, nrec_missing, fun q hr hq => ⟨fun locs y hg hy => ?_, qpop_launch hr hq,
    qpop_empty hs hr hq, fun i st rest hd hh he => ?_, qsig_outside hr hq, qsig_counts hs hr hq, qstat_reads hs hr hq, queueWord_fields _⟩,
    fun nd hr hn hl hsize => ?_⟩, counters_release, fun s c h => ⟨fun n b => nodeBatchTimer_seals, nodeBatchTimer_idle⟩⟩
  · have h : s.Pushes a qn q locs y := ⟨hs, hr, hq, hg, hy⟩
    exact ⟨s.pushRecord locs y, (length_pushRecord hs hy).trans (length_genAccess hg), pushRecord_newest hs hy, fun i => mayRead_pushRecord h,
      qpush_stalls h, fun hp hfree => qpush_pending h hfree hp, qpush_full h, qpush_appends h hc, fun j => qpush_publishes h hc⟩
  · have h : q.HasHead i st := ⟨hd, he, by rw [hh]; rfl⟩
    exact ⟨qpop_early hs hr hq h, fun locs y hm hg hy hnodup => ⟨qpop_stalls hs hr hq h hm hg, qpop_poisoned hr hq h hm hg,
      qpop_takes hs hc hr hq h hm hg hy hnodup⟩⟩
  · have h : s.Records m nd := ⟨hs, hr, hn, hl, hsize⟩
    refine ⟨fun b ht hb hh hroom => ⟨fun hfree => becomes_of_stall hs (nrec_noRoom h ht hh (roomIn_of hb hroom) hfree), fun hfree => ?_⟩,
      fun b hb hh => becomes_of_stall hs (nrec_held h hb hh), fun b i ht hb hf hcount hfree => ?_,
      fun b ht hb hh hcount => becomes_of_stall hs (nrec_full h ht hb hh hcount)⟩
    · obtain ⟨t, hnext, hframe, hcur, hopen, hfull⟩ := nrec_records h hc ht hh (roomIn_of hb hroom) hfree
      refine ⟨t, hnext, hframe, hcur, hopen, fun heq hcalm hmay => ?_⟩
      obtain ⟨time, hnode⟩ := hfull heq hcalm hmay
      exact ⟨_, hnode, rfl, rfl, rfl⟩
    · obtain ⟨t, hnext, hframe, hcur, hnode⟩ := nrec_seals h ht hb hf hcount hfree
      exact ⟨t, _, _, hnext, hframe, hcur, hnode, rfl, rfl, rfl, rfl, rfl, rfl⟩

end Sys2Proof.Machine
end

section
/-! # Lane words that issue -/
namespace Sys2Proof.Machine

/-! ### Masks of lanes -/

theorem mem_lanesOf {m : Word} {l : Nat} : l ∈ lanesOf m ↔ l < 64 ∧ m.getLsbD l = true := by
  simp [lanesOf]

theorem nodup_lanesOf (m : Word) : (lanesOf m).Nodup := List.nodup_range.filter _

theorem LaneIn.mem_on {i : LaneIn} {l : Nat} : l ∈ lanesOf i.active ↔ l < 64 ∧ i.on l = true := mem_lanesOf

theorem getLsbD_ofNat_two_pow (k l : Nat) : (BitVec.ofNat 64 (2 ^ k)).getLsbD l = (decide (l < 64) && decide (k = l)) := by
  rw [BitVec.getLsbD_ofNat, Nat.testBit_two_pow]

theorem getLsbD_foldl_or (ls : List Nat) (m : Word) (l : Nat) :
    (ls.foldl (fun m l => m ||| BitVec.ofNat 64 (2 ^ l)) m).getLsbD l = (m.getLsbD l || (decide (l < 64) && ls.contains l)) := by
  induction ls generalizing m with
  | nil => simp
  | cons k ls ih =>
    rw [List.foldl_cons, ih, BitVec.getLsbD_or, getLsbD_ofNat_two_pow, List.contains_cons, Bool.or_assoc, ← Bool.and_or_distrib_left]
    rw [Bool.beq_eq_decide_eq, decide_eq_decide.mpr (eq_comm (a := k))]

theorem getLsbD_maskOf (ls : List Nat) (l : Nat) : (maskOf ls).getLsbD l = (decide (l < 64) && ls.contains l) := by
  rw [maskOf, getLsbD_foldl_or, show (0 : Word).getLsbD l = false from BitVec.getLsbD_zero, Bool.false_or]

/-! ### The head that leaves its buffer -/

/-- The flight entry of a word that has issued. -/
def LaneIn.inFlight (i : LaneIn) (slots : Nat) (r : WordResult) (trap : Option TrapRecord) : Flight :=
  { entry := i.x, unit := i.unit, slots := slots, result := r, trap := trap, old := [] }

/-- The sources of the word name an empty latch entry, whose value is free. -/
def LaneIn.usesEmpty (i : LaneIn) : Bool :=
  ((formOf i.op i.lw).slots.zip (laneFields i.lw)).any fun p =>
    p.1.kind.vector && 768 ≤ p.2 && p.2 < 772 && (match i.hist[p.2 - 768]? with
      | some e => e.kind == .empty
      | none => false)

/-- The value of an empty entry that the word takes is one more free value (log entry 2). -/
def LaneIn.takesFree (i : LaneIn) : Act Unit :=
  if i.usesEmpty then modDevice fun d => { d with freeCount := d.freeCount + 1 } else pure ()

/-- What an issue leaves beside its wave: the free value used, the marks of the last issue, and the tallies of its cluster. -/
def LaneIn.marks (i : LaneIn) (w : Wave) : Act Unit := do
  i.takesFree
  modWg w.wg fun x => { x with lastWix := some w.wix }
  modCluster (waveCluster i.v) fun c =>
    let c := { c with lastLane := some w.wg }.tally kindLane c.pass
    if i.unit == .sfu || i.unit == .divide then c.tally kindSlow 1 else c

/-- The wave of a word, once its head has left: it waits as a first half, or goes on its way. -/
def LaneIn.place (i : LaneIn) (w : Wave) (fl : Flight) : Act Unit :=
  if i.lw.p then setWave i.v { w with half := some fl }
  else
    match w.half with
    | none => do
      setWave i.v w
      launch i.v [fl]
    | some f1 => do
      setWave i.v { w with half := none }
      launch i.v [{ f1 with trap := none }, { fl with trap := pairTrap f1.trap fl.trap }]

theorem run_issued (i : LaneIn) (slots : Nat) (r : WordResult) (trap : Option TrapRecord) (s : State) (log : List Effect) :
    issued i slots r trap s log =
      (do i.marks (((after s log).wave i.v).popped i)
          i.place (((after s log).wave i.v).popped i) (i.inFlight slots r trap)) s log := by
  have hw (w : Wave) : (let w := w.popHead i.x.handler
      let w := if i.lw.p then w else { w with failed := w.failed.filter (·.1 != i.x.handler), reply := w.reply.filter (·.1 != i.x.handler) }
      if i.lw.p then w else if i.x.handler then { w with hchain := i.lw.c } else { w with chain := i.lw.c }) = w.popped i := by
    cases hp : i.lw.p <;> cases hh : i.x.handler <;> simp [Wave.popHead, Wave.popped, hp, hh]
  rw [← hw]
  unfold issued
  rw [run_bind_now]
  by_cases hu : i.usesEmpty = true
  · refine (congrFun (congrFun (if_pos hu) s) log).trans ?_
    simp only [LaneIn.marks, LaneIn.takesFree, if_pos hu]
    rfl
  · refine (congrFun (congrFun (if_neg hu) s) log).trans ?_
    simp only [LaneIn.marks, LaneIn.takesFree, if_neg hu]
    rfl

theorem LaneIn.only_takesFree (i : LaneIn) {F : List Field} (h : Field.dev ∈ F) : Only F i.takesFree :=
  Only.ite (.modDevice h _) (.pure ())

theorem LaneIn.only_marks (i : LaneIn) (w : Wave) : Only [.dev, .wgs, .clusters] (i.marks w) :=
  .bind (i.only_takesFree (by decide)) fun _ => .bind (.modWg (by decide) _ _) fun _ => .modCluster (by decide) _ _

/-- A table with one entry replaced by its image. -/
theorem set_getD_eq_modify {α : Type} (l : List α) (k : Nat) (d : α) (f : α → α) : l.set k (f (l.getD k d)) = l.modify k f := by
  rw [List.modify_eq_set_getElem?, List.getD_eq_getElem?_getD]
  rcases Nat.lt_or_ge k l.length with h | h
  · simp [h]
  · simp [h, List.set_eq_of_length_le h]

theorem LaneIn.wgs_marks (i : LaneIn) (w : Wave) (s : State) (log : List Effect) :
    (after s (i.marks w s log).2).wgs = (after s log).wgs.modify w.wg fun x => { x with lastWix := some w.wix } := by
  have hfree : (after s (i.takesFree s log).2).wgs = (after s log).wgs :=
    ((i.only_takesFree (F := [.dev]) (by decide)).sameBut s log).wgs (by decide)
  rw [← set_getD_eq_modify _ _ Workgroup.blank, ← hfree]
  simp only [LaneIn.marks, run_bind, run_modWg, run_modCluster, after_cons, State.wg]
  rfl

end Sys2Proof.Machine
end

section
/-! # Words that wait in flight, and words that retire as they issue -/
namespace Sys2Proof.Machine

/-! ### One wave replaced -/

/-- Of the waves only v changes, and becomes w. -/
def SetsWave (s t : State) (v : Nat) (w : Wave) : Prop := t.waves = s.waves.set v w

theorem SetsWave.same {s t : State} {v : Nat} {w : Wave} (h : SetsWave s t v w) (hv : v < s.waves.length) : t.wave v = w := by
  rw [State.wave, h, getD_set, if_pos ⟨rfl, hv⟩]
theorem SetsWave.others {s t : State} {v : Nat} {w : Wave} (h : SetsWave s t v w) {u : Nat} (hu : u ≠ v) : t.wave u = s.wave u := by
  rw [State.wave, h, getD_set, if_neg fun hc => hu hc.1]
  rfl
theorem SetsWave.length {s t : State} {v : Nat} {w : Wave} (h : SetsWave s t v w) : t.waves.length = s.waves.length := by
  rw [h, List.length_set]
theorem SetsWave.trans {s t u : State} {v : Nat} {w x : Wave} (h : SetsWave s t v w) (k : SetsWave t u v x) : SetsWave s u v x := by
  rw [SetsWave, k, h, List.set_set]
theorem SetsWave.of_waves {s s' t : State} {v : Nat} {w : Wave} (h : SetsWave s t v w) (hs : s.waves = s'.waves) : SetsWave s' t v w :=
  Eq.trans h (by rw [hs])
theorem SetsWave.keep {s t u : State} {v : Nat} {w : Wave} (h : SetsWave s t v w) (hs : u.waves = t.waves) : SetsWave s u v w :=
  Eq.trans hs h

theorem setsWave_setWave (v : Nat) (w : Wave) (s : State) (log : List Effect) :
    SetsWave (after s log) (after s (setWave v w s log).2) v w := by
  rw [run_setWave, after_cons]
  rfl

/-! ### Words that wait -/

/-- The unit that a word in flight takes. -/
def Cluster.taken (c : Cluster) (v : Nat) (f : Flight) : Cluster :=
  match f.unit with
  | .sfu => { c with sfu := some v }
  | .divide => { c with divide := some v }
  | .memory => { c with slotsUsed := c.slotsUsed + f.slots }
  | _ => c

/-- Words that do not all retire as they issue. -/
def waitsBehind (w : Wave) (fls : List Flight) : Prop := (w.flight.isEmpty && fls.all (·.unit == .alu)) = false

theorem run_launch_waits {v : Nat} {fls : List Flight} {s : State} {log : List Effect} (h : waitsBehind ((after s log).wave v) fls) :
    launch v fls s log = (do
      setWave v { (after s log).wave v with flight := joinFlight ((after s log).wave v).flight fls }
      each fls fun f => modCluster (waveCluster v) (·.taken v f)) s log := by
  unfold launch
  rw [run_bind_now]
  refine (congrFun (congrFun (if_neg (by rw [show _ = false from h]; decide)) s) log).trans ?_
  rfl

theorem launch_waits {v : Nat} {fls : List Flight} {s : State} {log : List Effect} (h : waitsBehind ((after s log).wave v) fls) :
    SameBut [.waves, .clusters] (after s log) (after s (launch v fls s log).2) ∧
      SetsWave (after s log) (after s (launch v fls s log).2) v
        { (after s log).wave v with flight := joinFlight ((after s log).wave v).flight fls } := by
  rw [run_launch_waits h]
  have hunits (log : List Effect) :=
    (Only.each (F := [.clusters]) (l := fls) fun f => .modCluster (by decide) (waveCluster v) (·.taken v f)).sameBut s log
  exact ⟨sameBut_trans ((Only.setWave (by decide) v _).sameBut s log) ((hunits _).mono (by decide)),
    (setsWave_setWave v _ s log).keep ((hunits _).waves (by decide))⟩

/-! ### Words that retire -/

/-- The word is no vote, no counted write and no arrival. -/
def Flight.plain (f : Flight) : Prop := f.entry.vote = none ∧ f.entry.counted = none ∧ f.entry.bar = none

/-- Poison in registers that are written goes. -/
def clearBadRegs (bad : List Nat) (regs : List (Nat × W32)) : Act Unit :=
  if bad.isEmpty then pure () else emit (.badRegs (bad.filter fun k => !(regs.any fun p => p.1 == k)))

/-- The unit of a word that retires is free, unless another word of its wave holds it. -/
def Cluster.freed (c : Cluster) (busy : Bool) (f : Flight) : Cluster :=
  match f.unit with
  | .sfu => if busy then c else { c with sfu := none }
  | .divide => if busy then c else { c with divide := none }
  | .memory => { c with slotsUsed := c.slotsUsed - f.slots }
  | _ => c

/-- What a word writes as it retires. -/
def writesBack (v : Nat) (f : Flight) : Act Unit := do
  let s ← now
  emits (f.result.regs.map fun p => .vreg p.1 p.2)
  clearBadRegs s.badRegs f.result.regs
  modWave v fun w => w.write f.result f.entry.handler
  let busy := ((← now).wave v).flight.any (·.unit == f.unit)
  modCluster (waveCluster v) (·.freed busy f)

/-- The trap that a retired word raises. -/
def raisesTrap (v : Nat) : Option TrapRecord → Act Unit
  | some r => stopWave v r
  | none => pure ()

theorem run_retireOne {f : Flight} (h : f.plain) (v : Nat) (s : State) (log : List Effect) :
    retireOne v f s log = (do writesBack v f; raisesTrap v f.trap) s log := by
  obtain ⟨hv, hc, hb⟩ := h
  unfold retireOne
  rw [hv, hc, hb]
  by_cases hbad : (after s log).badRegs.isEmpty = true
  · have hclear : clearBadRegs (after s log).badRegs f.result.regs = pure () := if_pos hbad
    simp only [writesBack, run_bind, run_now, hclear]
    refine (congrFun (congrFun (if_pos hbad) s) _).trans ?_
    cases f.trap <;> rfl
  · have hclear : clearBadRegs (after s log).badRegs f.result.regs =
        emit (.badRegs ((after s log).badRegs.filter fun k => !(f.result.regs.any fun p => p.1 == k))) := if_neg hbad
    simp only [writesBack, run_bind, run_now, hclear]
    refine (congrFun (congrFun (if_neg hbad) s) _).trans ?_
    cases f.trap <;> rfl

theorem only_clearBadRegs (bad : List Nat) (regs : List (Nat × W32)) : Only [.badRegs] (clearBadRegs bad regs) :=
  .ite (.pure ()) (.emit (by simp))

theorem vregs_emits_vreg (l : List (Nat × W32)) (s : State) (log : List Effect) :
    (after s (emits (l.map fun p => .vreg p.1 p.2) s log).2).vregs = sparsePut (after s log).vregs l := by
  rw [run_emits, after_append, vregs_applyAll_vreg]

theorem only_emits_vreg (l : List (Nat × W32)) : Only [.vregs] (emits (l.map fun p => .vreg p.1 p.2)) :=
  .emits fun e he f hf => by
    obtain ⟨p, -, rfl⟩ := List.mem_map.mp he
    simpa using hf

/-- A word that has retired: its registers, and what its wave becomes. -/
structure WroteBack (s t : State) (v : Nat) (f : Flight) : Prop where
  frame : SameBut [.vregs, .badRegs, .waves, .clusters] s t
  wave : SetsWave s t v ((s.wave v).write f.result f.entry.handler)
  vregs : t.vregs = sparsePut s.vregs f.result.regs

theorem wroteBack_writesBack (v : Nat) (f : Flight) (s : State) (log : List Effect) :
    WroteBack (after s log) (after s (writesBack v f s log).2) v f := by
  let l1 := (emits (f.result.regs.map fun p => .vreg p.1 p.2) s log).2
  let l2 := (clearBadRegs (after s log).badRegs f.result.regs s l1).2
  let l3 := (modWave v (fun w => w.write f.result f.entry.handler) s l2).2
  let busy := ((after s l3).wave v).flight.any (·.unit == f.unit)
  have hrun : (writesBack v f s log).2 = (modCluster (waveCluster v) (·.freed busy f) s l3).2 := rfl
  have h1 := (only_emits_vreg f.result.regs).sameBut s log
  have h2 := (only_clearBadRegs (after s log).badRegs f.result.regs).sameBut s l1
  have h3 := (Only.modWave (F := [.waves]) (by decide) v fun w => w.write f.result f.entry.handler).sameBut s l2
  have h4 := (Only.modCluster (F := [.clusters]) (by decide) (waveCluster v) (·.freed busy f)).sameBut s l3
  have hw : (after s l2).waves = (after s log).waves := (h2.waves (by decide)).trans (h1.waves (by decide))
  rw [hrun]
  refine ⟨?_, ?_, ?_⟩
  · exact sameBut_trans (h1.mono (by decide)) (sameBut_trans (h2.mono (by decide)) (sameBut_trans (h3.mono (by decide)) (h4.mono (by decide))))
  · have hset : SetsWave (after s l2) (after s l3) v (((after s log).wave v).write f.result f.entry.handler) := by
      have hv : (after s l2).wave v = (after s log).wave v := by simp only [State.wave, hw]
      rw [← hv]
      exact setsWave_setWave v _ s l2
    exact (hset.of_waves hw).keep (h4.waves (by decide))
  · rw [h4.vregs (by decide), h3.vregs (by decide), h2.vregs (by decide)]
    exact vregs_emits_vreg f.result.regs s log

end Sys2Proof.Machine
end

section
/-! # Streams that stop -/
namespace Sys2Proof.Machine

section
variable {s : State} {log : List Effect} {k v : Nat} {r : TrapRecord}

/-- The owner has executed END, and no pause holds its trap: it halts at once (R434). -/
def State.haltsNow (s : State) (k : Nat) : Prop := (s.ctx k).status = .ended ∧ s.pausing (k / 16) = false

/-- The context with a trap of wave v owed to it. -/
def Context.owing (c : Context) (v : Nat) (r : TrapRecord) : Context :=
  { c with pending := c.pending ++ [{ record := r, seq := c.evSeq, wave := some v }], evSeq := c.evSeq + 1 }

theorem haltsNow_iff (s : State) (k : Nat) :
    ((s.ctx k).status == .ended && !s.pausing (ctxCluster k)) = true ↔ s.haltsNow k := by
  simp [State.haltsNow, ctxCluster]

theorem run_oweTrap_wave (h : ¬ (after s log).haltsNow k) (r : TrapRecord) : (oweTrap k (some v) r s log).2 =
    (modWave v (fun w => { w with stopSeq := some ((after s log).ctx k).evSeq }) s (.ctx k (((after s log).ctx k).owing v r) :: log)).2 := by
  unfold oweTrap
  rw [run_bind_now]
  exact congrArg (fun a : Act Unit => (a s log).2) (if_neg ((haltsNow_iff _ k).not.mpr h))

theorem run_oweTrap_halts (h : (after s log).haltsNow k) (wave : Option Nat) (r : TrapRecord) : (oweTrap k wave r s log).2 =
    (haltEnded k r s (.ctx k { (after s log).ctx k with evSeq := ((after s log).ctx k).evSeq + 1 } :: log)).2 := by
  unfold oweTrap
  rw [run_bind_now]
  exact congrArg (fun a : Act Unit => (a s log).2) (if_pos ((haltsNow_iff _ k).mpr h))

/-- The context as its halt leaves it: nothing of it changes but by the halt itself. -/
theorem haltEnded_leaves (k : Nat) (r : TrapRecord) (s : State) (log : List Effect) :
    SameBut [.ctxs, .parts, .gangs, .wgs] (after s log) (after s (haltEnded k r s log).2) ∧
      (∀ j, j ≠ k → (after s (haltEnded k r s log).2).ctx j = (after s log).ctx j) ∧
      (k < s.ctxs.length → (after s (haltEnded k r s log).2).ctx k = { (after s log).ctx k with
        status := .halted
        trap := { trapRegs ((after s log).ctx k).trap r.cause ((after s log).ctx k).pc true r with epc := ((after s log).ctx k).pc } }) := by
  have hsame (l : List Effect) :=
    (Only.haltEvent (F := [.parts, .wgs, .gangs]) (by decide) (by decide) (by decide) k).sameBut s l
  refine ⟨(Only.haltEnded (by decide) (by decide) (by decide) (by decide) k r).sameBut s log, fun j hj => ?_, fun hk => ?_⟩
  · refine (congrFun ((hsame _).ctx (by decide)) j).trans ?_
    simp [hj]
  · refine (congrFun ((hsame _).ctx (by decide)) k).trans ?_
    rw [after_cons, ctx_apply_ctx, if_pos ⟨rfl, by rw [ctxs_length_after]; exact hk⟩]
    rfl

theorem waves_after_ctx (s : State) (log : List Effect) (k : Nat) (c : Context) : (after s (.ctx k c :: log)).waves = (after s log).waves := by
  rw [after_cons, waves_apply (by rfl)]

end

/-- The wave of a stream that has stopped. -/
def Wave.halted (w : Wave) : Wave := { w with status := .stopped }

theorem setsWave_stopSeq {s : State} {log : List Effect} {v n : Nat} :
    SetsWave (after s log) (after s (modWave v (fun w => { w with stopSeq := some n }) s log).2) v
      { (after s log).wave v with stopSeq := some n } := setsWave_setWave v _ s log

/-- A stream that stops: its owner is owed the trap, or halts. -/
theorem stops_stopWave {s : State} {log : List Effect} {v : Nat} (hv : v < s.waves.length) (r : TrapRecord) :
    Stops (after s log) (after s (stopWave v r s log).2) v r := by
  let w := (after s log).wave v
  let k := w.owner
  let l1 : List Effect := .wave v w.halted :: log
  have hlen : v < (after s log).waves.length := by rwa [waves_length_after]
  have hset : SetsWave (after s log) (after s l1) v w.halted := setsWave_setWave v _ s log
  have h1 : SameBut [.waves] (after s log) (after s l1) := (Only.setWave (by decide) v w.halted).sameBut s log
  have hrun : (stopWave v r s log).2 = (oweTrap k (some v) r s l1).2 := by
    have howner : ((after s l1).wave v).owner = k := by rw [hset.same hlen]; rfl
    rw [← howner]
    rfl
  have hctx : (after s l1).ctx = (after s log).ctx := h1.ctx (by decide)
  have hpause : (after s l1).pausing (k / 16) = (after s log).pausing (k / 16) := by
    simp only [State.pausing, h1.reg (by decide), h1.cluster (by decide)]
  have hframe := (Only.stopWave (F := [.ctxs, .waves, .parts, .gangs, .wgs]) (by decide) (by decide) (by decide) (by decide) (by decide)
    v r).sameBut s log
  by_cases hh : (after s l1).haltsNow k
  · rw [run_oweTrap_halts hh] at hrun
    obtain ⟨hsame, hothers, hself⟩ := haltEnded_leaves k r s (.ctx k { (after s l1).ctx k with evSeq := ((after s l1).ctx k).evSeq + 1 } :: l1)
    rw [← hrun] at hsame hothers hself
    have hset' := hset.keep ((hsame.waves (by decide)).trans (waves_after_ctx ..))
    refine ⟨hframe, fun u hu => hset'.others hu, ?_, fun j hj => ?_, fun hlt hn => ?_, fun hlt _ _ => ?_⟩
    · rw [hset'.same hlen]
      rfl
    · rw [hothers j hj, after_cons, ctx_apply_ctx, if_neg fun hc => hj hc.1, hctx]
    · obtain ⟨he, hp⟩ := hh
      rw [hctx] at he
      rw [hpause] at hp
      rcases hn with hn | hn
      · exact absurd he hn
      · exact absurd (hp.symm.trans hn) (by decide)
    · have hlt' : k < s.ctxs.length := by rwa [ctxs_length_after] at hlt
      have hc := hself hlt'
      exact ⟨by rw [hc], by rw [hc]; rfl, by rw [hc]; rfl, by rw [hc]; rfl, by rw [hc]; rfl, by rw [hc]; rfl⟩
  · rw [run_oweTrap_wave hh] at hrun
    have hset2 := setsWave_stopSeq (s := s) (log := .ctx k (((after s l1).ctx k).owing v r) :: l1) (v := v) (n := ((after s l1).ctx k).evSeq)
    have h2 : SameBut [.waves] _ _ := (Only.modWave (by decide) v fun w : Wave => { w with stopSeq := some ((after s l1).ctx k).evSeq }).sameBut s
      (.ctx k (((after s l1).ctx k).owing v r) :: l1)
    rw [← hrun] at hset2 h2
    have hset' : SetsWave (after s log) (after s (stopWave v r s log).2) v { w.halted with stopSeq := some ((after s l1).ctx k).evSeq } := by
      have hw : (after s (.ctx k (((after s l1).ctx k).owing v r) :: l1)).wave v = w.halted := by
        rw [after_cons, wave_apply (by rfl)]
        exact hset.same hlen
      rw [hw] at hset2
      exact hset.trans (hset2.of_waves (waves_after_ctx ..))
    refine ⟨hframe, fun u hu => hset'.others hu, ?_, fun j hj => ?_, fun hlt _ => ?_, fun hlt he hp => ?_⟩
    · rw [hset'.same hlen]
      rfl
    · rw [h2.ctx (by decide), after_cons, ctx_apply_ctx, if_neg fun hc => hj hc.1, hctx]
    · have hlt' : k < (after s l1).ctxs.length := by rwa [ctxs_length_after] at hlt ⊢
      rw [h2.ctx (by decide), after_cons, ctx_apply_ctx, if_pos ⟨rfl, hlt'⟩, hctx]
      rfl
    · exact absurd ⟨by rw [hctx]; exact he, by rw [hpause]; exact hp⟩ hh

end Sys2Proof.Machine
end

section
/-! # Lane words as they leave their buffer -/
namespace Sys2Proof.Machine

/-- The first half of a pair as it goes with the second. -/
def Wave.waiting (w : Wave) : List Flight :=
  match w.half with
  | some f => [{ f with trap := none }]
  | none => []

/-- The word and all it goes with retire as it issues. -/
def LaneIn.quick (i : LaneIn) : Prop := i.lw.p = false ∧ i.w.flight = [] ∧ i.unit = .alu ∧ ∀ f ∈ i.w.half, f.unit = .alu

section
variable {i : LaneIn} {w : Wave} {fl : Flight}

theorem LaneIn.place_first (hp : i.lw.p = true) : i.place w fl = setWave i.v { w with half := some fl } := if_pos hp

theorem LaneIn.place_last (hp : i.lw.p = false) : i.place w fl = (do
    setWave i.v { w with half := none }
    launch i.v (w.waiting ++ [{ fl with trap := pairTrap (w.half.bind (·.trap)) fl.trap }])) := by
  refine (if_neg (by rw [hp]; decide)).trans ?_
  obtain ⟨half, hh⟩ : ∃ half, w.half = half := ⟨_, rfl⟩
  cases half with
  | some f => simp only [Wave.waiting, hh]; rfl
  | none =>
    have hw : { w with half := none } = w := by rw [← hh]
    have ht : pairTrap none fl.trap = fl.trap := by cases fl.trap <;> rfl
    simp only [Wave.waiting, hh, hw, Option.bind_none, ht, List.nil_append]

theorem LaneIn.quick_iff (hp : i.lw.p = false) (hu : fl.unit = i.unit) :
    i.quick ↔ (i.w.flight.isEmpty && (i.w.waiting ++ [fl]).all (·.unit == .alu)) = true := by
  obtain ⟨half, hh⟩ : ∃ half, i.w.half = half := ⟨_, rfl⟩
  cases half <;> simp [LaneIn.quick, hp, hh, Wave.waiting, hu, List.isEmpty_iff, and_comm]

theorem popped_half (w : Wave) (i : LaneIn) : (w.popped i).half = w.half := rfl
theorem popped_flight (w : Wave) (i : LaneIn) : (w.popped i).flight = w.flight := rfl
theorem popped_waiting (w : Wave) (i : LaneIn) : (w.popped i).waiting = w.waiting := rfl

end

/-- The state as an issue marks it. -/
theorem LaneIn.marked (i : LaneIn) (s : State) (log : List Effect) : let m := after s (i.marks (i.w.popped i) s log).2
    SameBut [.dev, .wgs, .clusters] (after s log) m ∧ m.waves = (after s log).waves ∧
      m.wgs = (after s log).wgs.modify i.w.wg fun x => { x with lastWix := some i.w.wix } := by
  have h := (i.only_marks (i.w.popped i)).sameBut s log
  exact ⟨h, h.waves (by decide), i.wgs_marks (i.w.popped i) s log⟩

section
variable {s : State} {log : List Effect} {i : LaneIn} (hv : i.v < s.waves.length) (hw : (after s log).wave i.v = i.w)
  (hc : (after s log).curWave = i.v)
include hv hw hc

/-- A word that does not retire as it issues waits as a first half, or stands in flight. -/
theorem laneFlies_issued (hq : ¬ i.quick) (slots : Nat) (r : WordResult) (trap : Option TrapRecord) :
    let t := after s (issued i slots r trap s log).2
    SameBut [.dev, .waves, .clusters, .wgs] (after s log) t ∧ LaneFlies (after s log) t i r trap := by
  intro t
  let l1 := (i.marks (i.w.popped i) s log).2
  obtain ⟨hm, hwaves, hwgs⟩ := i.marked s log
  have hrun : (issued i slots r trap s log).2 = (i.place (i.w.popped i) (i.inFlight slots r trap) s l1).2 := by
    rw [run_issued, hw]
    rfl
  have hmarks {t' : State} (h : SameBut [.waves, .clusters] (after s l1) t') : MarksIssue (after s log) t' i :=
    (h.wgs (by decide)).trans hwgs
  rcases Bool.eq_false_or_eq_true i.lw.p with hp | hp
  · rw [LaneIn.place_first hp] at hrun
    have hframe := (Only.setWave (F := [.waves, .clusters]) (by decide) i.v
      { i.w.popped i with half := some (i.inFlight slots r trap) }).sameBut s l1
    have hset := (setsWave_setWave i.v { i.w.popped i with half := some (i.inFlight slots r trap) } s l1).of_waves hwaves
    rw [← hrun] at hframe hset
    refine ⟨sameBut_trans (hm.mono (by decide)) (hframe.mono (by decide)), fun u hu => hset.others (hc ▸ hu), hmarks hframe,
      i.inFlight slots r trap, rfl, rfl, rfl, ?_⟩
    rw [if_pos hp, hc]
    exact ⟨hset.same (by rwa [waves_length_after]), rfl⟩
  · rw [LaneIn.place_last hp, popped_waiting, popped_half] at hrun
    let w1 : Wave := { i.w.popped i with half := none }
    let g : Flight := { i.inFlight slots r trap with trap := i.trapOf trap }
    let l2 : List Effect := (setWave i.v w1 s l1).2
    have hset1 := (setsWave_setWave i.v w1 s l1).of_waves hwaves
    have hw1 : (after s l2).wave i.v = w1 := hset1.same (by rwa [waves_length_after])
    have hwait : waitsBehind ((after s l2).wave i.v) (i.w.waiting ++ [g]) := by
      rw [hw1]
      exact Bool.eq_false_iff.mpr fun hall => hq ((LaneIn.quick_iff (fl := g) hp rfl).mpr hall)
    obtain ⟨hframe, hset2⟩ := launch_waits hwait
    have hset := hset1.trans hset2
    rw [hw1] at hset
    have hframe' := sameBut_trans (((Only.setWave (F := [.waves]) (by decide) i.v w1).sameBut s l1).mono (by decide)) hframe
    have hl : (issued i slots r trap s log).2 = (launch i.v (i.w.waiting ++ [g]) s l2).2 := hrun
    rw [← hl] at hset hframe'
    refine ⟨sameBut_trans (hm.mono (by decide)) (hframe'.mono (by decide)), fun u hu => hset.others (hc ▸ hu), hmarks hframe',
      g, rfl, rfl, rfl, ?_⟩
    rw [if_neg (by rw [hp]; decide), hc]
    exact ⟨hset.same (by rwa [waves_length_after]), rfl⟩

end

end Sys2Proof.Machine
end

section
/-! # Lane words that retire as they issue -/
namespace Sys2Proof.Machine

/-! ### Cells put into a sparse map -/

section
variable {w : Nat} {m : List (Nat × BitVec w)}

theorem sparseWf_put (hm : sparseWf 0 m = true) (l : List (Nat × BitVec w)) : sparseWf 0 (sparsePut m l) = true := by
  induction l generalizing m with
  | nil => exact hm
  | cons p l ih => exact ih (sparseWf_set hm (Nat.zero_le _) _)

/-- A cell whose key the list gives one value alone. -/
theorem sparseGet_put_of_only (hm : sparseWf 0 m = true) {l : List (Nat × BitVec w)} {p : Nat × BitVec w} (hp : p ∈ l)
    (h : ∀ q ∈ l, q.1 = p.1 → q = p) : sparseGet (sparsePut m l) p.1 = p.2 := by
  induction l generalizing m with
  | nil => cases hp
  | cons q l ih =>
    have hq := sparseWf_set hm (Nat.zero_le q.1) q.2
    by_cases hl : p ∈ l
    · exact ih hq hl fun x hx => h x (List.mem_cons_of_mem _ hx)
    · have hqp : p = q := (List.mem_cons.mp hp).resolve_right hl
      have hkey : p.1 ∉ l.map (·.1) := fun hc => by
        obtain ⟨x, hx, he⟩ := List.mem_map.mp hc
        exact hl (h x (List.mem_cons_of_mem _ hx) he ▸ hx)
      calc sparseGet (sparsePut m (q :: l)) p.1 = sparseGet (sparseSet m q.1 q.2) p.1 := sparseGet_put_of_notMem hq hkey
        _ = p.2 := by rw [sparseGet_set hm, if_pos (by rw [hqp]), hqp]

end

/-! ### What a word writes -/

section
variable (i : LaneIn) (o : LaneOut)

theorem mem_result_regs {p : Nat × W32} : p ∈ (i.result o).regs ↔
    ∃ r l, i.writesLane o r l ∧ p = (i.dstKey r l, BitVec.ofNat 32 (o.vals l / 2 ^ (32 * r))) := by
  by_cases hw : (writesVec i.op i.lw && !i.lw.s) = true
  · have hregs : (i.result o).regs = (lanesOf i.active).flatMap fun l => (List.range (o.width / 32)).map fun r =>
        (i.dstKey r l, BitVec.ofNat 32 (o.vals l / 2 ^ (32 * r))) := if_pos hw
    simp only [Bool.and_eq_true, Bool.not_eq_true'] at hw
    simp only [hregs, List.mem_flatMap, List.mem_map, LaneIn.mem_on, List.mem_range, LaneIn.writesLane]
    constructor
    · rintro ⟨l, ⟨hl, hon⟩, r, hr, rfl⟩
      exact ⟨r, l, ⟨hl, hon, hr, hw.1, hw.2⟩, rfl⟩
    · rintro ⟨r, l, ⟨hl, hon, hr, -, -⟩, rfl⟩
      exact ⟨l, ⟨hl, hon⟩, r, hr, rfl⟩
  · have hregs : (i.result o).regs = [] := if_neg hw
    simp only [hregs, List.not_mem_nil, false_iff]
    rintro ⟨r, l, ⟨-, -, -, h1, h2⟩, -⟩
    exact hw (by simp [h1, h2])

theorem mem_result_keys {key : Nat} : key ∈ (i.result o).regs.map (·.1) ↔ ∃ r l, i.writesLane o r l ∧ key = i.dstKey r l := by
  simp only [List.mem_map, mem_result_regs]
  constructor
  · rintro ⟨p, ⟨r, l, h, rfl⟩, rfl⟩
    exact ⟨r, l, h, rfl⟩
  · rintro ⟨r, l, h, rfl⟩
    exact ⟨_, ⟨r, l, h, rfl⟩, rfl⟩

theorem regKey_shift (c : Nat) (w : Wave) (base n l : Nat) : regKey c w base n l = regKey c w (base + n) 0 l := rfl

theorem dstKey_inj {r r' l l' : Nat} (hw : 4 ≤ i.w.width) (ho : o.width ≤ 128) (h : i.writesLane o r l) (h' : i.writesLane o r' l')
    (hk : i.dstKey r l = i.dstKey r' l') : r = r' ∧ l = l' := by
  obtain ⟨hl, -, hr, -, -⟩ := h
  obtain ⟨hl', -, hr', -, -⟩ := h'
  rw [LaneIn.dstKey, LaneIn.dstKey, regKey_shift, regKey_shift _ _ _ (_ + r')] at hk
  obtain ⟨hn, hlane⟩ := regKey_inj (lo := i.x.base + i.lw.dst.toNat) (hi := i.x.base + i.lw.dst.toNat + 4) (by omega) (by omega) (by omega)
    hl hl' hk
  exact ⟨by omega, hlane⟩

theorem sparseGet_result {m : List (Nat × W32)} (hm : sparseWf 0 m = true) (hw : 4 ≤ i.w.width) (ho : o.width ≤ 128) {r l : Nat}
    (h : i.writesLane o r l) :
    sparseGet (sparsePut m (i.result o).regs) (i.dstKey r l) = BitVec.ofNat 32 (o.vals l / 2 ^ (32 * r)) := by
  refine sparseGet_put_of_only hm (p := (i.dstKey r l, _)) ((mem_result_regs i o).mpr ⟨r, l, h, rfl⟩) fun q hq hk => ?_
  obtain ⟨r', l', h', rfl⟩ := (mem_result_regs i o).mp hq
  obtain ⟨rfl, rfl⟩ := dstKey_inj i o hw ho h' h hk
  rfl

theorem sparseGet_result_other {m : List (Nat × W32)} (hm : sparseWf 0 m = true) {key : Nat}
    (h : ∀ r l, i.writesLane o r l → key ≠ i.dstKey r l) : sparseGet (sparsePut m (i.result o).regs) key = sparseGet m key :=
  sparseGet_put_of_notMem hm fun hc => by
    obtain ⟨r, l, hwr, hk⟩ := (mem_result_keys i o).mp hc
    exact h r l hwr hk

theorem getLsbD_foldl_flags {α : Type} (f : α → Flags) (ls : List α) (x : Flags) (n : Nat) :
    (ls.foldl (fun x l => x ||| f l) x).getLsbD n = (x.getLsbD n || ls.any fun l => (f l).getLsbD n) := by
  induction ls generalizing x with
  | nil => simp
  | cons l ls ih => rw [List.foldl_cons, ih, BitVec.getLsbD_or, List.any_cons, Bool.or_assoc]

theorem getLsbD_result_flags (n : Nat) :
    (i.result o).flags.getLsbD n = (List.range 64).any fun l => i.on l && (o.flags l).getLsbD n := by
  refine (getLsbD_foldl_flags o.flags (lanesOf i.active) 0 n).trans ?_
  rw [show (0 : Flags).getLsbD n = false from BitVec.getLsbD_zero, Bool.false_or, lanesOf, List.any_filter]
  rfl

theorem result_latch_vals (ho : o.width ≠ 0) {l : Nat} (hl : l < 64) :
    (i.result o).latch.vals.getD l 0 = if i.on l then BitVec.ofNat 64 (o.vals l) else 0 := by
  have hvals : (i.result o).latch.vals = (perLane fun l => if i.on l then o.vals l else 0).map (BitVec.ofNat 64) := if_neg ho
  rw [hvals, perLane]
  by_cases h : i.on l = true <;> simp [hl, h]

/-- A predicate as a word writes it. -/
theorem getLsbD_merged (x active y : Word) (l : Nat) :
    ((x &&& ~~~ active) ||| (y &&& active)).getLsbD l = if active.getLsbD l then y.getLsbD l else x.getLsbD l := by
  by_cases hl : l < 64
  · rw [BitVec.getLsbD_or, BitVec.getLsbD_and, BitVec.getLsbD_and, BitVec.getLsbD_not]
    cases h : active.getLsbD l <;> simp [hl]
  · simp [BitVec.getLsbD_of_ge _ _ (Nat.le_of_not_lt hl)]

theorem write_preds_none (w : Wave) (ho : o.preds = []) (h : Bool) : (w.write (i.result o) h).preds = w.preds := by
  simp [Wave.write, LaneIn.result, ho]

theorem write_preds_one (w : Wave) {k : Nat} {f : Nat → Bool} (ho : o.preds = [(k, f)]) (h : Bool) :
    (w.write (i.result o) h).preds =
      putAt 0 w.preds k ((w.preds.getD k 0 &&& ~~~ i.active) ||| (maskOf ((lanesOf i.active).filter f) &&& i.active)) := by
  simp [Wave.write, LaneIn.result, ho]

theorem getLsbD_write_pred (w : Wave) {k l : Nat} {f : Nat → Bool} (ho : o.preds = [(k, f)]) (h : Bool) (hl : l < 64) :
    ((w.write (i.result o) h).preds.getD k 0).getLsbD l = if i.on l then f l else (w.preds.getD k 0).getLsbD l := by
  rw [write_preds_one i o w ho, getD_putAt, if_pos rfl, getLsbD_merged, getLsbD_maskOf]
  change (if i.on l = true then _ else _) = _
  by_cases hon : i.on l = true
  · have hmem : l ∈ lanesOf i.active := LaneIn.mem_on.mpr ⟨hl, hon⟩
    rw [if_pos hon, if_pos hon]
    cases hf : f l <;> simp [hl, hmem, hf]
  · rw [if_neg hon, if_neg hon]

end

/-! ### The word retires -/

theorem run_launch_quick {v : Nat} {fls : List Flight} {s : State} {log : List Effect}
    (h : (((after s log).wave v).flight.isEmpty && fls.all (·.unit == .alu)) = true) :
    launch v fls s log = each fls (retireOne v) s log := by
  unfold launch
  rw [run_bind_now]
  exact congrFun (congrFun (if_pos h) s) log

/-- The wave with what its first half and a word write, once the word has left its buffer. -/
def LaneIn.retired (i : LaneIn) (r : WordResult) : Wave :=
  Wave.write (i.w.waiting.foldl (fun w f => w.write f.result f.entry.handler) { i.w.popped i with half := none }) r i.x.handler

/-- The registers that the first half writes. -/
def Wave.firstRegs (w : Wave) : List (Nat × W32) :=
  match w.half with
  | some f => f.result.regs
  | none => []

section
variable {s : State} {log : List Effect} {i : LaneIn} {w : Wave}

/-- The first half and the word write, one behind the other. -/
theorem retires_both {g : Flight} (hv : i.v < s.waves.length) (hw : (after s log).wave i.v = w) (hg : g.plain)
    (hf : ∀ f ∈ i.w.half, f.plain) : ∃ l, (each (i.w.waiting ++ [g]) (retireOne i.v) s log).2 = (raisesTrap i.v g.trap s l).2 ∧
      SameBut [.vregs, .badRegs, .waves, .clusters] (after s log) (after s l) ∧
      SetsWave (after s log) (after s l) i.v
        (Wave.write (i.w.waiting.foldl (fun w f => w.write f.result f.entry.handler) w) g.result g.entry.handler) ∧
      (after s l).vregs = sparsePut (sparsePut (after s log).vregs i.w.firstRegs) g.result.regs := by
  obtain ⟨half, hh⟩ : ∃ half, i.w.half = half := ⟨_, rfl⟩
  cases half with
  | none =>
    refine ⟨(writesBack i.v g s log).2, ?_, ?_⟩
    · rw [Wave.waiting, hh, List.nil_append, each, run_bind, run_retireOne hg]
      rfl
    · obtain ⟨hframe, hwave, hvregs⟩ := wroteBack_writesBack i.v g s log
      rw [hw] at hwave
      rw [Wave.waiting, Wave.firstRegs, hh]
      exact ⟨hframe, hwave, hvregs⟩
  | some f =>
    have hfp : Flight.plain { f with trap := none } := hf f (by rw [hh]; rfl)
    let l1 := (writesBack i.v { f with trap := none } s log).2
    refine ⟨(writesBack i.v g s l1).2, ?_, ?_⟩
    · rw [Wave.waiting, hh, List.cons_append, List.nil_append, each, run_bind, run_retireOne hfp, each, run_bind, run_retireOne hg]
      rfl
    · obtain ⟨hframe, hwave, hvregs⟩ := wroteBack_writesBack i.v { f with trap := none } s log
      obtain ⟨hframe', hwave', hvregs'⟩ := wroteBack_writesBack i.v g s l1
      have hset := hwave.trans hwave'
      rw [hwave.same (by rwa [waves_length_after]), hw] at hset
      rw [Wave.waiting, Wave.firstRegs, hh]
      exact ⟨sameBut_trans hframe hframe', hset, by rw [hvregs', hvregs]⟩

/-- What an issue and the writes of the word leave, before its trap. -/
theorem quick_issued (hv : i.v < s.waves.length) (hw : (after s log).wave i.v = i.w) (hq : i.quick) (hx : (i.inFlight 0 emptyResult none).plain)
    (hf : ∀ f ∈ i.w.half, f.plain) (slots : Nat) (r : WordResult) (trap : Option TrapRecord) :
    ∃ l, (issued i slots r trap s log).2 = (raisesTrap i.v (i.trapOf trap) s l).2 ∧
      SameBut [.dev, .vregs, .badRegs, .waves, .clusters, .wgs] (after s log) (after s l) ∧
      SetsWave (after s log) (after s l) i.v (i.retired r) ∧ MarksIssue (after s log) (after s l) i ∧
      (after s l).vregs = sparsePut (sparsePut (after s log).vregs i.w.firstRegs) r.regs := by
  let l1 := (i.marks (i.w.popped i) s log).2
  obtain ⟨hm, hwaves, hwgs⟩ := i.marked s log
  let w1 : Wave := { i.w.popped i with half := none }
  let g : Flight := { i.inFlight slots r trap with trap := i.trapOf trap }
  let l2 : List Effect := (setWave i.v w1 s l1).2
  have hrun : (issued i slots r trap s log).2 = (launch i.v (i.w.waiting ++ [g]) s l2).2 := by
    rw [run_issued, hw]
    exact congrArg (fun a : Act Unit => (a s l1).2) (LaneIn.place_last hq.1)
  have hset1 := (setsWave_setWave i.v w1 s l1).of_waves hwaves
  have h1 := (Only.setWave (F := [.waves]) (by decide) i.v w1).sameBut s l1
  have hw1 : (after s l2).wave i.v = w1 := hset1.same (by rwa [waves_length_after])
  obtain ⟨l, hl, hframe, hset, hvregs⟩ := retires_both (g := g) hv hw1 hx hf
  refine ⟨l, ?_, ?_, hset1.trans hset, ?_, ?_⟩
  · rw [hrun, run_launch_quick (by rw [hw1]; exact (LaneIn.quick_iff (fl := g) hq.1 rfl).mp hq), hl]
  · exact sameBut_trans (hm.mono (by decide)) (sameBut_trans (h1.mono (by decide)) (hframe.mono (by decide)))
  · exact ((hframe.wgs (by decide)).trans (h1.wgs (by decide))).trans hwgs
  · rw [hvregs, h1.vregs (by decide), hm.vregs (by decide)]
    rfl

theorem laneDone_of_retired {s t : State} {o : LaneOut} (hc : s.curWave = i.v) (hv : i.v < s.waves.length) (hcan : sparseWf 0 s.vregs = true)
    (hwidth : 4 ≤ i.w.width) (ho : o.width ≤ 128) (hframe : SameBut [.dev, .vregs, .badRegs, .waves, .clusters, .wgs] s t)
    (hset : SetsWave s t i.v (i.retired (i.result o))) (hmarks : MarksIssue s t i)
    (hvregs : t.vregs = sparsePut (sparsePut s.vregs i.w.firstRegs) (i.result o).regs) : LaneDone s t i o := by
  have hwave : t.wave s.curWave = i.retired (i.result o) := hc ▸ hset.same hv
  have hb : ∃ b : Wave, i.retired (i.result o) = b.write (i.result o) i.x.handler ∧ b = { i.w.popped i with
      half := none, preds := i.w.withHalf.preds, badPreds := b.badPreds, wxf := i.w.withHalf.wxf, latch := i.w.withHalf.latch,
      hlatch := i.w.withHalf.hlatch } := by
    refine ⟨_, rfl, ?_⟩
    obtain ⟨half, hh⟩ : ∃ half, i.w.half = half := ⟨_, rfl⟩
    cases half <;> simp only [Wave.waiting, Wave.withHalf, hh] <;> rfl
  obtain ⟨b, hret, hb⟩ := hb
  have hwf := sparseWf_put hcan i.w.firstRegs
  refine ⟨hframe, fun u hu => hset.others (hc ▸ hu), hmarks, ?_, fun r l h => ?_, fun p hp honly hout => ?_, fun key hout hfirst => ?_,
    fun hp => ?_, fun k f hp => ⟨fun l hl => ?_, fun j hj => ?_⟩, fun n => ?_, (i.result o).latch, rfl, fun hz l hl => ?_, ?_⟩
  · rw [hwave, hret, hb]
    rfl
  · rw [hvregs]
    exact sparseGet_result i o hwf hwidth ho h
  · rw [hvregs, sparseGet_result_other i o hwf hout]
    exact sparseGet_put_of_only hcan hp honly
  · rw [hvregs, sparseGet_result_other i o hwf hout]
    exact sparseGet_put_of_notMem hcan fun hc => by
      obtain ⟨p, hp, he⟩ := List.mem_map.mp hc
      exact hfirst p hp he
  · rw [hwave, hret, write_preds_none i o b hp, hb]
  · rw [hwave, hret, getLsbD_write_pred i o b hp _ hl, hb]
  · rw [hwave, hret, write_preds_one i o b hp, getD_putAt, if_neg hj, hb]
  · rw [hwave, hret]
    refine (BitVec.getLsbD_or ..).trans ?_
    rw [getLsbD_result_flags, hb]
  · exact result_latch_vals i o hz hl
  · rw [hwave, hret, hb]
    cases i.x.handler <;> exact ⟨rfl, rfl⟩

end

end Sys2Proof.Machine
end

section
/-! # Words of the datapath act on their lanes -/
namespace Sys2Proof.Machine

section
variable {s : State} {op : Nat} {w : LaneWord} {i : LaneIn} {name : String}

theorem LaneHead.op_eq (h : LaneHead s op w i) : i.op = op := by
  obtain ⟨-, -, hat, ⟨x, hx, rfl⟩, -⟩ := h
  simp only [State.laneAt, hx, Bool.and_eq_true, beq_iff_eq] at hat
  exact hat.2.1

theorem LaneHead.lw_eq (h : LaneHead s op w i) : i.lw = w := by
  obtain ⟨-, -, hat, ⟨x, hx, rfl⟩, -⟩ := h
  simp only [State.laneAt, hx, Bool.and_eq_true, beq_iff_eq] at hat
  exact hat.2.2

theorem LaneHead.s_eq (h : LaneHead s op w i) : i.s = s := by
  obtain ⟨-, -, -, ⟨x, -, rfl⟩, -⟩ := h
  rfl

theorem LaneHead.v_eq (h : LaneHead s op w i) : i.v = s.curWave := by
  obtain ⟨-, -, -, ⟨x, -, rfl⟩, -⟩ := h
  rfl

theorem LaneHead.wave_eq (h : LaneHead s op w i) : s.wave i.v = i.w := by
  obtain ⟨-, -, -, ⟨x, -, rfl⟩, -⟩ := h
  rfl

theorem LaneHead.lt_waves (h : LaneHead s op w i) : i.v < s.waves.length := h.v_eq ▸ h.1

/-- No ERET holds the word back: it acts on the state as it stands. -/
theorem laneAct_eq (h : LaneHead s op w i) (f : LaneIn → Act Unit) : laneAct name op f w s = .next (after s (f i s []).2) := by
  obtain ⟨-, -, hat, ⟨x, hx, rfl⟩, -, -, -, -, -, -, -, hafter⟩ := h
  have hresume : resumeAfter s.curWave x.handler s [] = ((), []) := by
    unfold resumeAfter
    rw [run_bind_now, after_nil, show (s.wave s.curWave).after = none from hafter]
    rfl
  have hrun : (do resumeAfter s.curWave x.handler; f ((← now).laneIn s.curWave x)) s [] = f (s.laneIn s.curWave x) s [] := by
    rw [run_bind, hresume]
    rfl
  rw [laneAct, event_eq hat, hx]
  exact congrArg (fun p : Unit × List Effect => (.next (after s p.2) : Result)) hrun

theorem laneExec_eq (h : LaneHead s op w i) (f : LaneIn → LaneOut) :
    laneExec name op f w s = .next (after s (issued i 0 (i.result (f i)) (i.arith (f i) (i.result (f i))) s []).2) := by
  have hpoison : i.poisonLanes = 0 := by
    obtain ⟨-, -, -, -, hpoison, -⟩ := h
    exact hpoison
  refine (laneAct_eq h _).trans ?_
  exact congrArg (fun a : Act Unit => (.next (after s (a s []).2) : Result)) (if_neg (by simp [hpoison]))

/-- A word of the datapath, the special functions or the divide unit issues and does what its function says. -/
theorem laneActs_laneExec (h : LaneHead s op w i) (f : LaneIn → LaneOut) (ho : (f i).width ≤ 128) :
    LaneActs s i (f i) (laneExec name op f w s) := by
  have hv := h.lt_waves
  have hw : (after s []).wave i.v = i.w := h.wave_eq
  have hc : (after s []).curWave = i.v := h.v_eq.symm
  have hcopy := h
  obtain ⟨-, ⟨-, hcan, -⟩, -, -, -, -, hhalf, hvote, hcounted, hbar, hwidth, -⟩ := hcopy
  let own := i.arith (f i) (i.result (f i))
  refine ⟨_, laneExec_eq h f, ?_⟩
  by_cases hq : i.quick
  · refine (congrArg id (if_pos hq)).mpr ?_
    obtain ⟨l, hrun, hframe, hset, hmarks, hvregs⟩ := quick_issued hv hw hq ⟨hvote, hcounted, hbar⟩ hhalf 0 (i.result (f i)) own
    have hdone : LaneDone s (after s l) i (f i) := laneDone_of_retired hc hv hcan hwidth ho hframe hset hmarks hvregs
    rw [hrun]
    change match i.trapOf own with
      | none => _
      | some rec => _
    cases i.trapOf own with
    | none => exact hdone
    | some rec => exact ⟨after s l, hdone, h.v_eq ▸ stops_stopWave hv rec⟩
  · refine (congrArg id (if_neg hq)).mpr ?_
    exact laneFlies_issued hv hw hc hq 0 (i.result (f i)) own

end

end Sys2Proof.Machine
end

section
/-! # Elements of packed values -/
namespace Sys2Proof.Machine

/-! ### Words that write a value in each lane -/

theorem laneGives_laneExec {s : State} {op : Nat} {w : LaneWord} {name : String} {f : LaneIn → LaneOut} {width : LaneIn → Nat}
    {P : LaneIn → Nat → Nat → Flags → Prop} (hwidth : ∀ i, LaneHead s op w i → (f i).width = width i)
    (h128 : ∀ i, (f i).width ≤ 128) (hpreds : ∀ i, (f i).preds = [])
    (hP : ∀ i l, LaneHead s op w i → l < 64 → i.on l = true → P i l ((f i).vals l) ((f i).flags l)) :
    LaneGives s op w (laneExec name op f w s) width P :=
  fun i h => ⟨f i, hwidth i h, hpreds i, fun l hl hon => hP i l h hl hon, laneActs_laneExec h f (h128 i)⟩

theorem laneTells_laneExec {s : State} {op : Nat} {w : LaneWord} {name : String} {f : LaneIn → LaneOut} {p : LaneIn → Nat → Bool}
    {P : LaneIn → Nat → Bool → Flags → Prop} (hwidth : ∀ i, (f i).width = 0) (hpreds : ∀ i, (f i).preds = predDst i.lw (p i))
    (hP : ∀ i l, LaneHead s op w i → l < 64 → i.on l = true → P i l (p i l) ((f i).flags l)) :
    LaneTells s op w (laneExec name op f w s) P := by
  refine fun i h => ⟨f i, p i, hwidth i, ?_, fun l hl hon => hP i l h hl hon, laneActs_laneExec h f (by rw [hwidth]; decide)⟩
  rw [hpreds, h.lw_eq, predDst]
  exact if_congr (by simp) rfl rfl

/-! ### Elements -/

theorem toNat_elemOf (n x j : Nat) : (elemOf n x j).toNat = elem n x j := BitVec.toNat_ofNat ..

theorem bitAt_eq_testBit (x i : Nat) : bitAt x i = x.testBit i := by
  rw [bitAt, Nat.testBit_eq_decide_div_mod_eq]
  rfl

theorem asInt_toNat_eq {n : Nat} (hn : 0 < n) (u : Bool) (x : BitVec n) : asInt n u x.toNat = elemVal u x := by
  obtain ⟨k, rfl⟩ : ∃ k, n = k + 1 := ⟨n - 1, by omega⟩
  cases u with
  | true => simp [asInt, elemVal]
  | false =>
    have hmsb : bitAt x.toNat k = x.msb := by
      rw [bitAt_eq_testBit]
      rfl
    have hint : x.toInt = if x.msb = true then (x.toNat : Int) - (2 ^ (k + 1) : Nat) else x.toNat := BitVec.toInt_eq_msb_cond x
    simp [asInt, elemVal, hmsb, hint]

theorem asInt_eq {n : Nat} (hn : 0 < n) (u : Bool) (x : Nat) : asInt n u x = elemVal u (BitVec.ofNat n x) := by
  rw [← asInt_toNat_eq hn, BitVec.toNat_ofNat]
  simp [asInt]

theorem ofNat_wrap_eq (n : Nat) (x : Int) : BitVec.ofNat n (wrap n x) = BitVec.ofInt n x := by
  refine BitVec.eq_of_toNat_eq ?_
  rw [BitVec.toNat_ofNat, BitVec.toNat_ofInt]
  refine Nat.mod_eq_of_lt ?_
  have hpos : (0 : Int) < (2 ^ n : Nat) := by exact_mod_cast Nat.two_pow_pos n
  have := Int.emod_lt_of_pos x hpos
  have := Int.emod_nonneg x hpos.ne'
  unfold wrap
  omega

theorem intMin_eq (n : Nat) (u : Bool) : intMin n u = elemMin n u := by
  cases u <;> simp [intMin, elemMin]
theorem intMax_eq (n : Nat) (u : Bool) : intMax n u = elemMax n u := by
  cases u <;> simp [intMax, elemMax]

theorem elemMin_le_elemMax (n : Nat) (u : Bool) : elemMin n u ≤ elemMax n u := by
  have h1 : (0 : Int) < 2 ^ n := by positivity
  have h2 : (0 : Int) < 2 ^ (n - 1) := by positivity
  cases u <;> simp only [elemMin, elemMax, if_true, Bool.false_eq_true, if_false] <;> omega

theorem ofNat_narrow (n : Nat) (u sat : Bool) (x : Int) : BitVec.ofNat n (narrow n u sat x).1 =
    BitVec.ofInt n (if sat then max (elemMin n u) (min (elemMax n u) x) else x) := by
  cases sat <;> simp [narrow, ofNat_wrap_eq, clampInt, intMin_eq, intMax_eq]

theorem flags_narrow (n : Nat) (u sat : Bool) (x : Int) : (narrow n u sat x).2 =
    if sat = true ∧ (x < elemMin n u ∨ elemMax n u < x) then 0x40 else 0 := by
  have hle := elemMin_le_elemMax n u
  cases sat with
  | false => simp [narrow]
  | true =>
    have hclamp : max (elemMin n u) (min (elemMax n u) x) ≠ x ↔ x < elemMin n u ∨ elemMax n u < x := by omega
    simp only [narrow, clampInt, intMin_eq, intMax_eq, if_true, flagIf, bne_iff_ne, hclamp, true_and]
    rfl

theorem elemOf_pack (n : Nat) (xs : List Nat) {j : Nat} (hj : j < xs.length) : elemOf n (pack n xs) j = BitVec.ofNat n xs[j] := by
  induction xs generalizing j with
  | nil => simp at hj
  | cons x xs ih =>
    have hdiv : (x % 2 ^ n + 2 ^ n * pack n xs) / 2 ^ n = pack n xs := by
      rw [Nat.add_mul_div_left _ _ (Nat.two_pow_pos n), Nat.div_eq_of_lt (Nat.mod_lt _ (Nat.two_pow_pos n)), Nat.zero_add]
    cases j with
    | zero =>
      refine BitVec.eq_of_toNat_eq ?_
      simp [elemOf, pack]
    | succ j =>
      have hsucc : elemOf n (pack n (x :: xs)) (j + 1) = elemOf n (pack n xs) j := by
        rw [elemOf, elemOf, pack, Nat.mul_succ, Nat.add_comm (n * j), pow_add, ← Nat.div_div_eq_div_mul, hdiv]
      rw [hsucc, ih (by simpa using hj)]
      rfl

theorem elemOf_elemwise {w n : Nat} (f : Nat → Nat → Nat → Nat × Flags) (a b c : Nat) {j : Nat} (hj : j < n) :
    elemOf w (elemwise w n f a b c).1 j = BitVec.ofNat w (f (elem w a j) (elem w b j) (elem w c j)).1 := by
  refine (elemOf_pack w _ (by simpa using hj)).trans ?_
  simp

theorem getLsbD_elemwise {w n : Nat} (f : Nat → Nat → Nat → Nat × Flags) (a b c k : Nat) : (elemwise w n f a b c).2.getLsbD k =
    (List.range n).any fun j => (f (elem w a j) (elem w b j) (elem w c j)).2.getLsbD k := by
  refine (getLsbD_foldl_flags id _ 0 k).trans ?_
  rw [show (0 : Flags).getLsbD k = false from BitVec.getLsbD_zero, Bool.false_or, List.any_map, List.any_map]
  rfl

/-- Elements of a list that each raise the same flags or none. -/
theorem foldl_or_raises {α : Type} (l : List α) (p : α → Prop) [DecidablePred p] (x : Flags) :
    (l.map fun a => if p a then x else 0).foldl (· ||| ·) 0 = if ∃ a ∈ l, p a then x else 0 := by
  have hor (l : List α) (y : Flags) : (l.map fun a => if p a then x else 0).foldl (· ||| ·) y = y ||| if ∃ a ∈ l, p a then x else 0 := by
    induction l generalizing y with
    | nil => simp
    | cons a l ih =>
      rw [List.map_cons, List.foldl_cons, ih, BitVec.or_assoc]
      by_cases ha : p a <;> by_cases hl : ∃ b ∈ l, p b <;> simp [ha, hl]
  rw [hor]
  exact BitVec.zero_or

end Sys2Proof.Machine
end

section
/-! # The integer words -/
namespace Sys2Proof.Machine

theorem intElem_pos (m : Nat) : 0 < (intElem m).1 := by
  unfold intElem
  split <;> decide

theorem width_intTy_le (m : Nat) : (intTy m).width ≤ 128 := by
  unfold intTy
  split <;> decide

/-! ### Words that wrap or saturate -/

theorem laneGives_intWord {s : State} {op : Nat} {w : LaneWord} {name : String} {F : Int → Int → Int → Int}
    {f : Nat → Bool → Bool → Nat → Nat → Nat → Nat × Flags}
    (hf : ∀ n u sat a b c, f n u sat a b c = narrow n u sat (F (asInt n u a) (asInt n u b) (asInt n u c))) :
    LaneGives s op w (laneExec name op (intWord f) w s) (fun i => (intTy i.mod).width) fun i l v fl =>
      let n := (intElem i.mod).1
      let u := bitAt i.mod 2
      let sat := bitAt i.mod 3
      let val (x j : Nat) : Int := elemVal u (elemOf n x j)
      let exact (j : Nat) : Int := F (val (i.a (intTy i.mod) l) j) (val (i.b (intTy i.mod) l) j) (val (i.c (intTy i.mod) l) j)
      (∀ j < (intElem i.mod).2, elemOf n v j =
        BitVec.ofInt n (if sat then max (elemMin n u) (min (elemMax n u) (exact j)) else exact j)) ∧
      (fl = if sat = true ∧ ∃ j < (intElem i.mod).2, exact j < elemMin n u ∨ elemMax n u < exact j then 0x40 else 0) := by
  refine laneGives_laneExec (fun _ _ => rfl) (fun i => width_intTy_le i.mod) (fun _ => rfl) fun i l _ _ _ => ?_
  intro n u sat val exact
  have hval (x j : Nat) : asInt n u (elem n x j) = val x j := by
    rw [← toNat_elemOf]
    exact asInt_toNat_eq (intElem_pos i.mod) u _
  have helem (j : Nat) : f n u sat (elem n (i.a (intTy i.mod) l) j) (elem n (i.b (intTy i.mod) l) j) (elem n (i.c (intTy i.mod) l) j) =
      narrow n u sat (exact j) := by
    rw [hf, hval, hval, hval]
  refine ⟨fun j hj => ?_, ?_⟩
  · refine (elemOf_elemwise (f n u sat) _ _ _ hj).trans ?_
    rw [helem]
    exact ofNat_narrow n u sat (exact j)
  · calc ((intWord f i).flags l)
        = ((List.range (intElem i.mod).2).map fun j => if sat = true ∧ (exact j < elemMin n u ∨ elemMax n u < exact j) then 0x40
            else 0).foldl (· ||| ·) 0 := by
          simp only [intWord, elemwise, List.map_map]
          refine congrArg (List.foldl (· ||| ·) 0) (List.map_congr_left fun j _ => ?_)
          exact (congrArg Prod.snd (helem j)).trans (flags_narrow n u sat (exact j))
      _ = _ := by
          rw [foldl_or_raises]
          refine if_congr ?_ rfl rfl
          simp only [List.mem_range]
          exact ⟨fun ⟨j, hj, hs, hx⟩ => ⟨hs, j, hj, hx⟩, fun ⟨hs, j, hj, hx⟩ => ⟨j, hj, hs, hx⟩⟩

/-! ### Words without flags -/

theorem laneGives_quietOp {s : State} {op : Nat} {w : LaneWord} {name : String} {g : Nat → Bool → Nat → Nat → Nat}
    {F : (n : Nat) → Bool → BitVec n → BitVec n → BitVec n}
    (hg : ∀ n u (x y : BitVec n), 0 < n → BitVec.ofNat n (g n u x.toNat y.toNat) = F n u x y) :
    LaneGives s op w (laneExec name op (intWord (quietOp g)) w s) (fun i => (intTy i.mod).width) fun i l v f =>
      let n := (intElem i.mod).1
      f = 0 ∧ ∀ j < (intElem i.mod).2,
        elemOf n v j = F n (bitAt i.mod 2) (elemOf n (i.a (intTy i.mod) l) j) (elemOf n (i.b (intTy i.mod) l) j) := by
  refine laneGives_laneExec (fun _ _ => rfl) (fun i => width_intTy_le i.mod) (fun _ => rfl) fun i l _ _ _ => ?_
  intro n
  refine ⟨?_, fun j hj => ?_⟩
  · have hquiet : (elemwise n (intElem i.mod).2 (quietOp g n (bitAt i.mod 2) (bitAt i.mod 3)) (i.a (intTy i.mod) l) (i.b (intTy i.mod) l)
        (i.c (intTy i.mod) l)).2 = ((List.range (intElem i.mod).2).map fun _ => if False then 0 else 0).foldl (· ||| ·) 0 := by
      simp only [elemwise, List.map_map, if_false]
      rfl
    exact hquiet.trans ((foldl_or_raises _ _ _).trans (by simp))
  · refine (elemOf_elemwise _ _ _ _ hj).trans ?_
    rw [← hg n _ _ _ (intElem_pos i.mod), toNat_elemOf, toNat_elemOf]
    rfl

section
variable {n : Nat}

theorem ofNat_toNat_self (x : BitVec n) : BitVec.ofNat n x.toNat = x := by simp

theorem ofNat_mulhOp (u : Bool) (x y : BitVec n) (hn : 0 < n) :
    BitVec.ofNat n (mulhOp n u x.toNat y.toNat) = BitVec.ofInt n (elemVal u x * elemVal u y / 2 ^ n) := by
  rw [mulhOp, ofNat_wrap_eq, asInt_toNat_eq hn, asInt_toNat_eq hn]
  push_cast
  rfl

theorem ofNat_minOp (u : Bool) (x y : BitVec n) (hn : 0 < n) :
    BitVec.ofNat n (minOp n u x.toNat y.toNat) = if elemVal u x ≤ elemVal u y then x else y := by
  rw [minOp, asInt_toNat_eq hn, asInt_toNat_eq hn]
  split <;> exact ofNat_toNat_self _

theorem ofNat_maxOp (u : Bool) (x y : BitVec n) (hn : 0 < n) :
    BitVec.ofNat n (maxOp n u x.toNat y.toNat) = if elemVal u x ≤ elemVal u y then y else x := by
  rw [maxOp, asInt_toNat_eq hn, asInt_toNat_eq hn]
  split <;> exact ofNat_toNat_self _

theorem ofNat_absdOp (u : Bool) (x y : BitVec n) (hn : 0 < n) :
    BitVec.ofNat n (absdOp n u x.toNat y.toNat) = BitVec.ofNat n (elemVal u x - elemVal u y).natAbs := by
  rw [absdOp, asInt_toNat_eq hn, asInt_toNat_eq hn]
  exact BitVec.eq_of_toNat_eq (by simp)

theorem ofNat_andnOp (u : Bool) (x y : BitVec n) (_ : 0 < n) : BitVec.ofNat n (andnOp n u x.toNat y.toNat) = x &&& ~~~ y := by
  refine BitVec.eq_of_toNat_eq ?_
  have hlt := (x &&& ~~~ y).isLt
  rw [BitVec.toNat_and, BitVec.toNat_not] at hlt ⊢
  rw [BitVec.toNat_ofNat, andnOp, Nat.mod_eq_of_lt y.isLt]
  exact Nat.mod_eq_of_lt hlt

theorem ofNat_shlOp (u : Bool) (x y : BitVec n) (_ : 0 < n) : BitVec.ofNat n (shlOp n u x.toNat y.toNat) = x <<< (y.toNat % n) :=
  BitVec.eq_of_toNat_eq (by simp [shlOp, Nat.shiftLeft_eq])

theorem ofNat_shrOp (u : Bool) (x y : BitVec n) (hn : 0 < n) :
    BitVec.ofNat n (shrOp n u x.toNat y.toNat) = if u then x >>> (y.toNat % n) else x.sshiftRight (y.toNat % n) := by
  rw [shrOp, ofNat_wrap_eq, asInt_toNat_eq hn]
  cases u with
  | true =>
    refine BitVec.eq_of_toNat_eq ?_
    have hlt : x.toNat / 2 ^ (y.toNat % n) < 2 ^ n := Nat.lt_of_le_of_lt (Nat.div_le_self ..) x.isLt
    rw [if_pos rfl, BitVec.toNat_ushiftRight, Nat.shiftRight_eq_div_pow, elemVal, if_pos rfl, ← Int.natCast_ediv, BitVec.ofInt_natCast,
      BitVec.toNat_ofNat, Nat.mod_eq_of_lt hlt]
  | false =>
    rw [if_neg Bool.false_ne_true, ← BitVec.ofInt_toInt (x := x.sshiftRight _), BitVec.toInt_sshiftRight, Int.shiftRight_eq_div_pow]
    rfl

theorem ofNat_rotOp (u : Bool) (x y : BitVec n) (hn : 0 < n) :
    BitVec.ofNat n (rotOp n u x.toNat y.toNat) = x.rotateLeft (y.toNat % n) := by
  let k := y.toNat % n
  have hk : k < n := Nat.mod_lt _ hn
  have hsplit : 2 ^ n = 2 ^ (n - k) * 2 ^ k := by rw [← pow_add, Nat.sub_add_cancel hk.le]
  have hlow : x.toNat / 2 ^ (n - k) < 2 ^ k := Nat.div_lt_of_lt_mul (hsplit ▸ x.isLt)
  have hhigh : x.toNat * 2 ^ k % 2 ^ n = 2 ^ k * (x.toNat % 2 ^ (n - k)) := by
    rw [hsplit, Nat.mul_mod_mul_right, Nat.mul_comm]
  have hsum : 2 ^ k * (x.toNat % 2 ^ (n - k)) + x.toNat / 2 ^ (n - k) < 2 ^ n := by
    have : x.toNat % 2 ^ (n - k) + 1 ≤ 2 ^ (n - k) := Nat.mod_lt _ (Nat.two_pow_pos _)
    calc 2 ^ k * (x.toNat % 2 ^ (n - k)) + x.toNat / 2 ^ (n - k) < 2 ^ k * (x.toNat % 2 ^ (n - k)) + 2 ^ k := by omega
      _ = 2 ^ k * (x.toNat % 2 ^ (n - k) + 1) := by ring
      _ ≤ 2 ^ k * 2 ^ (n - k) := Nat.mul_le_mul_left _ this
      _ = 2 ^ n := by rw [hsplit, Nat.mul_comm]
  refine BitVec.eq_of_toNat_eq ?_
  have hrun : rotOp n u x.toNat y.toNat = (x.toNat * 2 ^ k % 2 ^ n + x.toNat / 2 ^ (n - k)) % 2 ^ n := (Nat.mod_add_mod ..).symm
  rw [BitVec.toNat_rotateLeft, Nat.mod_eq_of_lt hk, Nat.shiftLeft_eq, Nat.shiftRight_eq_div_pow, hhigh,
    ← Nat.two_pow_add_eq_or_of_lt hlow, BitVec.toNat_ofNat, hrun, hhigh, Nat.mod_mod, Nat.mod_eq_of_lt hsum]

theorem popcount_toNat (x : BitVec n) : popcount n x.toNat = ((List.range n).filter fun i => x.getLsbD i).length := by
  refine congrArg List.length (List.filter_congr fun i _ => ?_)
  exact bitAt_eq_testBit ..

theorem ctzFrom_eq (x : Nat) (k i : Nat) : ctzFrom x k i = ((List.range' i k).find? (x.testBit ·)).getD (i + k) := by
  induction k generalizing i with
  | zero => rfl
  | succ k ih =>
    rw [ctzFrom, List.range'_succ, bitAt_eq_testBit]
    by_cases h : x.testBit i = true
    · rw [if_pos h, List.find?_cons_of_pos h]
      rfl
    · rw [if_neg h, List.find?_cons_of_neg h, ih, Nat.add_assoc, Nat.add_comm 1 k]

theorem ctz_toNat (x : BitVec n) : ctz n x.toNat = ((List.range n).find? fun i => x.getLsbD i).getD n := by
  rw [ctz, ctzFrom_eq, List.range_eq_range', Nat.zero_add]
  rfl

theorem clz_toNat (x : BitVec n) : clz n x.toNat = ((List.range n).find? fun i => x.getMsbD i).getD n := by
  rw [clz, Nat.mod_eq_of_lt x.isLt]
  by_cases hx : x.toNat = 0
  · have hzero : x = 0 := BitVec.eq_of_toNat_eq hx
    have hnone : (List.range n).find? (fun i => x.getMsbD i) = none := List.find?_eq_none.mpr fun i _ => by
      simp [hzero]
    rw [if_pos hx, hnone, Option.getD_none]
  · have hlog : x.toNat.log2 < n := (Nat.log2_lt hx).mpr x.isLt
    have hsome : (List.range n).find? (fun i => x.getMsbD i) = some (n - 1 - x.toNat.log2) := by
      refine List.find?_range_eq_some.mpr ⟨?_, List.mem_range.mpr (by omega), fun j hj => ?_⟩
      · rw [BitVec.getMsbD_eq_getLsbD, show n - 1 - (n - 1 - x.toNat.log2) = x.toNat.log2 by omega]
        have := Nat.testBit_log2 hx
        simp only [BitVec.getLsbD, this, Bool.and_true, decide_eq_true_eq]
        omega
      · have hbit : x.toNat.testBit (n - 1 - j) = false :=
          Nat.testBit_eq_false_of_lt (Nat.lt_of_lt_of_le Nat.lt_log2_self (Nat.pow_le_pow_right (by decide) (by omega)))
        simp [BitVec.getMsbD_eq_getLsbD, BitVec.getLsbD, hbit]
    rw [if_neg hx, hsome, Option.getD_some]

theorem bitrev_succ (n x : Nat) : bitrev (n + 1) x = 2 * bitrev n x + b2n (x.testBit n) := by
  have hdouble : ((List.range n).map fun i => b2n (bitAt x i) * 2 ^ (n + 1 - 1 - i)).sum = 2 * bitrev n x := by
    rw [bitrev, ← List.sum_map_mul_left]
    refine congrArg List.sum (List.map_congr_left fun i hi => ?_)
    have hi := List.mem_range.mp hi
    rw [show n + 1 - 1 - i = (n - 1 - i) + 1 by omega, pow_succ]
    ring
  rw [bitrev, List.range_succ, List.map_append, List.sum_append, hdouble]
  simp [bitAt_eq_testBit]

theorem bitrev_congr {n x y : Nat} (h : ∀ i < n, x.testBit i = y.testBit i) : bitrev n x = bitrev n y := by
  refine congrArg List.sum (List.map_congr_left fun i hi => ?_)
  rw [bitAt_eq_testBit, bitAt_eq_testBit, h i (List.mem_range.mp hi)]

theorem toNat_reverse {n : Nat} (x : BitVec n) : x.reverse.toNat = bitrev n x.toNat := by
  induction n with
  | zero => simp [BitVec.of_length_zero, bitrev]
  | succ n ih =>
    have hlow : bitrev n (x.truncate n).toNat = bitrev n x.toNat :=
      bitrev_congr fun i hi => by simp [hi]
    rw [BitVec.reverse, BitVec.toNat_concat, ih, hlow, bitrev_succ]
    have hmsb : x.msb = x.toNat.testBit n := rfl
    rw [hmsb]
    cases x.toNat.testBit n <;> simp [b2n, Nat.mul_comm]

theorem ofNat_divOp (u : Bool) (x y : BitVec n) (_ : 0 < n) :
    BitVec.ofNat n (divOp n u x.toNat y.toNat) = if y = 0 then BitVec.allOnes n else BitVec.ofInt n ((elemVal u x).tdiv (elemVal u y)) := by
  cases u <;> simp only [divOp, elemVal, divU, divS, BitVec.ofNat_toNat, BitVec.setWidth_eq, if_true, Bool.false_eq_true, if_false]
  rfl

theorem ofNat_remOp (u : Bool) (x y : BitVec n) (_ : 0 < n) :
    BitVec.ofNat n (remOp n u x.toNat y.toNat) = if y = 0 then x else BitVec.ofInt n ((elemVal u x).tmod (elemVal u y)) := by
  cases u <;> simp only [remOp, elemVal, remU, remS, BitVec.ofNat_toNat, BitVec.setWidth_eq, if_true, Bool.false_eq_true, if_false]
  rfl

end

/-! ### The obligations -/

/-- Settles O31, from the element operations: each is `narrow` of its exact result. -/
theorem integerArithmeticWords : Obligations.IntegerArithmeticWords := by
  intro s w
  refine ⟨?_, ?_, ?_, ?_⟩
  · exact laneGives_intWord (f := addOp) (F := fun a b _ => a + b) fun _ _ _ _ _ _ => rfl
  · exact laneGives_intWord (f := subOp) (F := fun a b _ => a - b) fun _ _ _ _ _ _ => rfl
  · exact laneGives_intWord (f := mulOp) (F := fun a b _ => a * b) fun _ _ _ _ _ _ => rfl
  · exact laneGives_intWord (f := madOp) (F := fun a b c => a * b + c) fun _ _ _ _ _ _ => rfl

/-- Settles O32, from the element operations one by one. -/
theorem integerLogicWords : Obligations.IntegerLogicWords := by
  intro s w
  refine ⟨?_, ?_, ?_, ?_, ?_, ?_, ?_, ?_, ?_, ?_, ?_, ?_, ?_, ?_, ?_, ?_, ?_, ?_⟩
  · exact laneGives_quietOp fun _ => ofNat_mulhOp
  · exact laneGives_quietOp fun _ => ofNat_minOp
  · exact laneGives_quietOp fun _ => ofNat_maxOp
  · exact laneGives_quietOp fun _ => ofNat_absdOp
  · exact laneGives_quietOp (g := fun _ _ a b => a &&& b) (F := fun _ _ x y => x &&& y) fun _ _ x y _ => ofNat_toNat_self (x &&& y)
  · exact laneGives_quietOp (g := fun _ _ a b => a ||| b) (F := fun _ _ x y => x ||| y) fun _ _ x y _ => ofNat_toNat_self (x ||| y)
  · exact laneGives_quietOp (g := fun _ _ a b => a ^^^ b) (F := fun _ _ x y => x ^^^ y) fun _ _ x y _ => ofNat_toNat_self (x ^^^ y)
  · exact laneGives_quietOp fun _ => ofNat_andnOp
  · exact laneGives_quietOp fun _ => ofNat_shlOp
  · exact laneGives_quietOp fun _ => ofNat_shrOp
  · exact laneGives_quietOp fun _ => ofNat_rotOp
  · exact laneGives_quietOp (g := fun n _ a _ => popcount n a) fun n _ x _ _ => congrArg (BitVec.ofNat n) (popcount_toNat x)
  · exact laneGives_quietOp (g := fun n _ a _ => clz n a) fun n _ x _ _ => congrArg (BitVec.ofNat n) (clz_toNat x)
  · exact laneGives_quietOp (g := fun n _ a _ => ctz n a) fun n _ x _ _ => congrArg (BitVec.ofNat n) (ctz_toNat x)
  · exact laneGives_quietOp (g := fun n _ a _ => bitrev n a) (F := fun _ _ x _ => x.reverse) fun _ _ x _ _ =>
      toNat_reverse x ▸ ofNat_toNat_self x.reverse
  · exact laneGives_quietOp (g := fun _ _ a _ => a) (F := fun _ _ x _ => x) fun _ _ x _ _ => ofNat_toNat_self x
  · exact laneGives_quietOp fun _ => ofNat_divOp
  · exact laneGives_quietOp fun _ => ofNat_remOp

end Sys2Proof.Machine
end

section
/-! # Words that move or combine values between lanes -/
namespace Sys2Proof.Machine

/-! ### Integer operands fit their slot -/

theorem wrap_lt (n : Nat) (x : Int) : wrap n x < 2 ^ n := by
  have hpos : (0 : Int) < (2 ^ n : Nat) := by exact_mod_cast Nat.two_pow_pos n
  have := Int.emod_lt_of_pos x hpos
  unfold wrap
  omega

theorem floatConsts_lt : ∀ c ∈ floatConsts, c.1 < 2 ^ 32 ∧ c.2.1 < 2 ^ 64 := by decide

theorem getD_floatConsts_lt (k : Nat) :
    (floatConsts.getD k (0, 0, 0, 0)).1 < 2 ^ 32 ∧ (floatConsts.getD k (0, 0, 0, 0)).2.1 < 2 ^ 64 := by
  rcases Nat.lt_or_ge k floatConsts.length with hk | hk
  · rw [List.getD_eq_getElem _ _ hk]
    exact floatConsts_lt _ (List.getElem_mem hk)
  · rw [List.getD_eq_default _ _ hk]
    decide

theorem intConst_lt {ty : SlotTy} (h : ty = .i32 ∨ ty = .i64) (x : Int) : intConst ty x < 2 ^ ty.width := by
  rcases h with rfl | rfl <;> exact wrap_lt _ x

theorem floatConst_lt {ty : SlotTy} (h : ty = .i32 ∨ ty = .i64) (k : Nat) : floatConst ty k < 2 ^ ty.width := by
  rcases h with rfl | rfl
  · exact (getD_floatConsts_lt k).1
  · exact (getD_floatConsts_lt k).2

theorem width_of_int {ty : SlotTy} (h : ty = .i32 ∨ ty = .i64) : ty.width = 32 ∨ ty.width = 64 := by
  rcases h with rfl | rfl
  · exact .inl rfl
  · exact .inr rfl

theorem operand_lt (s : State) (cluster : Nat) (w : Wave) (hist : List Latch) (base code : Nat) (pay : Word) {ty : SlotTy}
    (h : ty = .i32 ∨ ty = .i64) (l : Nat) : s.operand cluster w hist base code pay ty l < 2 ^ ty.width := by
  have hpos := Nat.two_pow_pos ty.width
  have hreg (k : Nat) : (sparseGet s.vregs k).toNat < 2 ^ 32 := (sparseGet s.vregs k).isLt
  unfold State.operand
  split
  · have h1 := hreg (regKey cluster w base code l)
    have h2 := hreg (regKey cluster w base (code + 1) l)
    rcases width_of_int h with hn | hn
    · rw [if_neg (by omega), hn]
      exact h1
    · rw [if_pos hn, hn]
      omega
  split
  · split
    · split <;> exact Nat.mod_lt _ hpos
    · exact hpos
  split
  · have hb (b : Bool) : b2n b < 2 ^ ty.width := by
      have : b2n b ≤ 1 := by cases b <;> decide
      rcases width_of_int h with hn | hn <;> rw [hn] <;> omega
    exact hb _
  split
  · exact Nat.mod_lt _ hpos
  split
  · exact intConst_lt h _
  split
  · exact intConst_lt h _
  split
  · exact hpos
  split
  · exact Nat.mod_lt _ hpos
  split
  · exact intConst_lt h _
  split
  · exact intConst_lt h _
  · exact floatConst_lt h _

/-! ### Segments -/

theorem LaneIn.base_eq (i : LaneIn) (l : Nat) : i.base l = l / i.sw * i.sw := by
  have := Nat.div_add_mod' l i.sw
  unfold LaneIn.base
  omega

theorem LaneIn.base_le (i : LaneIn) (l : Nat) : i.base l ≤ l := Nat.sub_le ..

theorem LaneIn.sw_pos (i : LaneIn) : 0 < i.sw := Nat.lt_of_lt_of_le Nat.one_pos (Nat.le_max_right ..)

theorem rotated_lane {x k n : Nat} (hx : x < n) (hk : k < n) : (x + n - k) % n = if k ≤ x then x - k else x + n - k := by
  split
  · rw [show x + n - k = x - k + n by omega, Nat.add_mod_right, Nat.mod_eq_of_lt (by omega)]
  · exact Nat.mod_eq_of_lt (by omega)

/-! ### The last of a range that a test admits -/

theorem getLastD_filter_range {P : Nat → Bool} {k n : Nat} (hk : k < n) (hP : P k = true) (d : Nat) :
    let m := ((List.range n).filter P).getLastD d
    P m = true ∧ k ≤ m ∧ m < n ∧ ∀ q, m < q → q < n → P q = false := by
  induction n with
  | zero => omega
  | succ n ih =>
    rw [List.range_succ, List.filter_append]
    by_cases hn : P n = true
    · rw [List.filter_cons_of_pos hn, List.filter_nil, List.getLastD_concat]
      exact ⟨hn, by omega, by omega, fun q _ _ => by omega⟩
    · have hne : k ≠ n := fun hc => hn (hc ▸ hP)
      obtain ⟨h1, h2, h3, h4⟩ := ih (by omega)
      rw [List.filter_cons_of_neg hn, List.filter_nil, List.append_nil]
      refine ⟨h1, h2, by omega, fun q hq hq' => ?_⟩
      rcases Nat.lt_or_ge q n with hlt | hge
      · exact h4 q hq hlt
      · rw [show q = n by omega]
        exact Bool.not_eq_true _ ▸ hn

/-! ### Trees and blocks -/

section
variable {op t : Nat} {compat : Bool} {leaf : Nat → Option FRes}

/-- The values of the active lanes among the n from lo. -/
def leafVals (leaf : Nat → Option FRes) (lo n : Nat) : List Nat := (List.range n).filterMap fun k => (leaf (lo + k)).map (·.1)

theorem leafVals_add (leaf : Nat → Option FRes) (lo m n : Nat) : leafVals leaf lo (m + n) = leafVals leaf lo m ++ leafVals leaf (lo + m) n := by
  rw [leafVals, List.range_add, List.filterMap_append, List.filterMap_map]
  refine congrArg _ (List.filterMap_congr fun k _ => ?_)
  rw [Function.comp_apply, Nat.add_assoc]

/-- What holds of a leaf and of nodes joined holds of every node of the tree. -/
theorem treeNode_induct {R : List Nat → Option FRes → Prop} (hleaf : ∀ lo, R (leafVals leaf lo 1) (leaf lo))
    (hjoin : ∀ u v a b, R u a → R v b → R (u ++ v) (joinNodes op t compat a b)) (n lo : Nat) :
    R (leafVals leaf lo (2 ^ n)) (treeNode op t compat leaf n lo) := by
  induction n generalizing lo with
  | zero => exact hleaf lo
  | succ n ih =>
    rw [pow_succ, Nat.mul_two, leafVals_add]
    exact hjoin _ _ _ _ (ih lo) (ih (lo + 2 ^ n))

theorem blockLevel_spec {p j : Nat} (hp : p ≤ j) (hj : j < 64) : p % 2 ^ blockLevel p j = 0 ∧ p + 2 ^ blockLevel p j ≤ j + 1 ∧
    ¬ (p % 2 ^ (blockLevel p j + 1) = 0 ∧ p + 2 ^ (blockLevel p j + 1) ≤ j + 1) := by
  obtain ⟨hk, -, hlt, hlast⟩ := getLastD_filter_range (P := fun k => p % 2 ^ k = 0 && p + 2 ^ k ≤ j + 1) (k := 0) (n := 7) (by decide)
    (by simp [Nat.mod_one, hp]) 0
  simp only [Bool.and_eq_true, decide_eq_true_eq] at hk
  refine ⟨hk.1, hk.2, fun ⟨h1, h2⟩ => ?_⟩
  rcases Nat.lt_or_ge (blockLevel p j + 1) 7 with h | h
  · have := hlast (blockLevel p j + 1) (Nat.lt_succ_self _) h
    simp [h1, h2] at this
  · have : 2 ^ 7 ≤ 2 ^ (blockLevel p j + 1) := Nat.pow_le_pow_right (by decide) h
    omega

/-- The blocks that a scan of lanes p to j takes in n steps. -/
def scanBlocks (j : Nat) : Nat → Nat → List (Nat × Nat)
  | 0, _ => []
  | n + 1, p => if j < p then [] else (p, blockLevel p j) :: scanBlocks j n (p + 2 ^ blockLevel p j)

theorem scanBlocks_spec {j n p : Nat} (hj : j < 64) (hp : p ≤ j + 1) (hn : j + 1 ≤ p + n) : ScanBlocks p j (scanBlocks j n p) := by
  induction n generalizing p with
  | zero =>
    change p = j + 1
    omega
  | succ n ih =>
    unfold scanBlocks
    split
    · change p = j + 1
      omega
    · obtain ⟨h1, h2, h3⟩ := blockLevel_spec (p := p) (j := j) (by omega) hj
      have hpos := Nat.two_pow_pos (blockLevel p j)
      exact ⟨rfl, h1, h2, h3, ih h2 (by change j + 1 ≤ p + 2 ^ blockLevel p j + n; omega)⟩

theorem scanFrom_eq (j n p : Nat) (acc : Option FRes) : scanFrom op t compat leaf j n p acc =
    (scanBlocks j n p).foldl (fun acc b => joinNodes op t compat acc (treeNode op t compat leaf b.2 b.1)) acc := by
  induction n generalizing p acc with
  | zero => rfl
  | succ n ih =>
    unfold scanFrom scanBlocks
    split
    · rfl
    · rw [ih]
      rfl

/-- What holds of a leaf and of nodes joined holds of a scan. -/
theorem scan_induct {R : List Nat → Option FRes → Prop} (hleaf : ∀ lo, R (leafVals leaf lo 1) (leaf lo))
    (hjoin : ∀ u v a b, R u a → R v b → R (u ++ v) (joinNodes op t compat a b)) {j p : Nat} {blocks : List (Nat × Nat)}
    (h : ScanBlocks p j blocks) {u : List Nat} {acc : Option FRes} (hacc : R u acc) : R (u ++ leafVals leaf p (j + 1 - p))
      (blocks.foldl (fun acc b => joinNodes op t compat acc (treeNode op t compat leaf b.2 b.1)) acc) := by
  induction blocks generalizing p u acc with
  | nil =>
    have hp : p = j + 1 := h
    rw [hp, Nat.sub_self]
    simpa [leafVals] using hacc
  | cons b r ih =>
    obtain ⟨rfl, -, hle, -, hrest⟩ := h
    have hpos := Nat.two_pow_pos b.2
    rw [show j + 1 - b.1 = 2 ^ b.2 + (j + 1 - (b.1 + 2 ^ b.2)) by omega, leafVals_add, ← List.append_assoc]
    exact ih hrest (hjoin _ _ _ _ hacc (treeNode_induct hleaf hjoin b.2 b.1))

end

/-! ### Sums, and least and greatest values -/

/-- r is the sum of the values, to w bits. -/
def AddsUp (w : Nat) (vals : List Nat) (r : Option FRes) : Prop := r = if vals = [] then none else some (vals.sum % 2 ^ w, 0)

/-- r is a value that no other goes before. -/
def Leads (before : Nat → Nat → Prop) (vals : List Nat) (r : Option FRes) : Prop :=
  (r = none → vals = []) ∧ ∀ x, r = some x → x.2 = 0 ∧ ∀ y ∈ vals, before x.1 y

theorem addsUp_join {t : Nat} (ht : t < 4) {compat : Bool} {u v : List Nat} {a b : Option FRes} (ha : AddsUp (scanTy t).width u a)
    (hb : AddsUp (scanTy t).width v b) : AddsUp (scanTy t).width (u ++ v) (joinNodes 0 t compat a b) := by
  subst ha hb
  by_cases hu : u = [] <;> by_cases hv : v = [] <;> simp [AddsUp, joinNodes, combine, ht, hu, hv, Nat.add_mod]

theorem addsUp_leaf {i : LaneIn} (ht : i.mod % 8 < 4) (lo : Nat) : AddsUp (scanTy (i.mod % 8)).width (leafVals i.leaf lo 1) (i.leaf lo) := by
  have hty : scanTy (i.mod % 8) = .i32 ∨ scanTy (i.mod % 8) = .i64 := by
    interval_cases i.mod % 8 <;> simp [scanTy]
  have hlt : i.a (scanTy (i.mod % 8)) lo < 2 ^ (scanTy (i.mod % 8)).width := operand_lt _ _ _ _ _ _ _ hty _
  by_cases hon : i.on lo = true <;> simp [AddsUp, leafVals, LaneIn.leaf, hon, Nat.mod_eq_of_lt hlt]

section
variable {op t : Nat} {compat : Bool} {before : Nat → Nat → Prop}

theorem leads_join (htrans : ∀ x y z, before x y → before y z → before x z)
    (hcomb : ∀ x y, (combine op t compat x y).2 = 0 ∧ before (combine op t compat x y).1 x ∧ before (combine op t compat x y).1 y)
    {u v : List Nat} {a b : Option FRes} (ha : Leads before u a) (hb : Leads before v b) :
    Leads before (u ++ v) (joinNodes op t compat a b) := by
  obtain ⟨hanone, hasome⟩ := ha
  obtain ⟨hbnone, hbsome⟩ := hb
  cases a with
  | none =>
    rw [hanone rfl, List.nil_append]
    exact ⟨hbnone, hbsome⟩
  | some x =>
    obtain ⟨hx, hxu⟩ := hasome x rfl
    cases b with
    | none =>
      rw [hbnone rfl, List.append_nil]
      exact ⟨fun h => (nomatch h), fun r hr => hasome r hr⟩
    | some y =>
      obtain ⟨hy, hyv⟩ := hbsome y rfl
      obtain ⟨hflags, hcx, hcy⟩ := hcomb x.1 y.1
      refine ⟨fun h => (nomatch h), fun r hr => ?_⟩
      obtain rfl := Option.some.inj hr
      refine ⟨by simp [hx, hy, hflags], fun z hz => ?_⟩
      rcases List.mem_append.mp hz with hz | hz
      · exact htrans _ _ _ hcx (hxu z hz)
      · exact htrans _ _ _ hcy (hyv z hz)

theorem leads_leaf (hrefl : ∀ x, before x x) (i : LaneIn) (lo : Nat) : Leads before (leafVals i.leaf lo 1) (i.leaf lo) := by
  by_cases hon : i.on lo = true <;> simp [Leads, leafVals, LaneIn.leaf, hon, hrefl]

end

/-! ### The combination of the statement -/

/-- The value of an element of a combining word. -/
def scanVal (t x : Nat) : Int := elemVal (t % 2 == 1) (BitVec.ofNat (scanTy t).width x)

/-- Two values combined as R200 says: added, or the lesser or the greater of the two. -/
def scanCombine (i : LaneIn) (x y : Nat) : FRes :=
  let t := i.mod % 8
  let f := if t = 4 then f32 else f64
  let env := fenv .rne i.x.compat false
  if t < 4 then (if i.mod / 16 = 0 then (x + y) % 2 ^ (scanTy t).width
    else if i.mod / 16 = 1 then (if scanVal t x ≤ scanVal t y then x else y) else if scanVal t x ≤ scanVal t y then y else x, 0)
  else if i.mod / 16 = 0 then f.add env x y else f.minmax env (decide (i.mod / 16 ≠ 1)) x y

theorem scanTy_width_pos (t : Nat) : 0 < (scanTy t).width := by
  unfold scanTy
  split <;> decide

theorem asInt_scanVal (t x : Nat) : asInt (scanTy t).width (decide (t % 2 = 1)) x = scanVal t x := asInt_eq (scanTy_width_pos t) _ x

theorem combine_eq (i : LaneIn) : combine (i.mod / 16) (i.mod % 8) i.x.compat = scanCombine i := by
  funext x y
  obtain ⟨op, hop⟩ : ∃ op, i.mod / 16 = op := ⟨_, rfl⟩
  unfold combine scanCombine minOp maxOp
  simp only [hop, asInt_scanVal]
  match op with
  | 0 | 1 | op + 2 => split <;> simp

theorem joinNodes_eq (i : LaneIn) : joinNodes (i.mod / 16) (i.mod % 8) i.x.compat = joined (scanCombine i) := by
  funext a b
  rw [← combine_eq]
  cases a <;> cases b <;> rfl

theorem laneTree_treeNode (i : LaneIn) :
    LaneTree (scanCombine i) i.leaf (treeNode (i.mod / 16) (i.mod % 8) i.x.compat i.leaf) :=
  ⟨fun _ => rfl, fun n lo => by rw [← joinNodes_eq]; rfl⟩

theorem combine_min {i : LaneIn} (ht : i.mod % 8 < 4) (hop : i.mod / 16 = 1) (x y : Nat) :
    let r := combine (i.mod / 16) (i.mod % 8) i.x.compat x y
    r.2 = 0 ∧ scanVal (i.mod % 8) r.1 ≤ scanVal (i.mod % 8) x ∧ scanVal (i.mod % 8) r.1 ≤ scanVal (i.mod % 8) y := by
  have hcomb : combine (i.mod / 16) (i.mod % 8) i.x.compat x y = (if scanVal (i.mod % 8) x ≤ scanVal (i.mod % 8) y then x else y, 0) := by
    rw [combine_eq]
    simp [scanCombine, ht, hop]
  rw [hcomb]
  dsimp only
  split <;> exact ⟨rfl, by omega, by omega⟩

theorem combine_max {i : LaneIn} (ht : i.mod % 8 < 4) (hop : 2 ≤ i.mod / 16) (x y : Nat) :
    let r := combine (i.mod / 16) (i.mod % 8) i.x.compat x y
    r.2 = 0 ∧ scanVal (i.mod % 8) x ≤ scanVal (i.mod % 8) r.1 ∧ scanVal (i.mod % 8) y ≤ scanVal (i.mod % 8) r.1 := by
  have hcomb : combine (i.mod / 16) (i.mod % 8) i.x.compat x y = (if scanVal (i.mod % 8) x ≤ scanVal (i.mod % 8) y then y else x, 0) := by
    rw [combine_eq]
    simp [scanCombine, ht, show i.mod / 16 ≠ 0 by omega, show i.mod / 16 ≠ 1 by omega]
  rw [hcomb]
  dsimp only
  split <;> exact ⟨rfl, by omega, by omega⟩

/-! ### The start of a scan -/

theorem LaneIn.scanStart_plain {i : LaneIn} (h : bitAt i.mod 3 = false) (l : Nat) : i.scanStart l = i.base l := by
  unfold LaneIn.scanStart
  rw [h]
  rfl

theorem LaneIn.scanStart_bounds (i : LaneIn) (l : Nat) : i.base l ≤ i.scanStart l ∧ i.scanStart l ≤ l ∧
    (bitAt i.mod 3 = true → (i.scanStart l = i.base l ∨ i.b .i32 (i.scanStart l) = 1) ∧ ∀ q, i.scanStart l < q → q ≤ l → i.b .i32 q ≠ 1) := by
  have hb := i.base_le l
  rcases Bool.eq_false_or_eq_true (bitAt i.mod 3) with h | h
  · obtain ⟨h1, h2, h3, h4⟩ := getLastD_filter_range (P := fun k => k = i.base l || (i.base l ≤ k && i.b .i32 k = 1)) (k := i.base l)
      (n := l + 1) (by omega) (by simp) (i.base l)
    have hstart : i.scanStart l =
        ((List.range (l + 1)).filter fun k => k = i.base l || (i.base l ≤ k && i.b .i32 k = 1)).getLastD (i.base l) := by
      unfold LaneIn.scanStart
      exact if_pos h
    rw [← hstart] at h1 h2 h3 h4
    simp only [Bool.or_eq_true, Bool.and_eq_true, decide_eq_true_eq] at h1
    refine ⟨h2, by omega, fun _ => ⟨h1.imp_right fun h => h.2, fun q hq hl hone => ?_⟩⟩
    have := h4 q hq (by omega)
    simp [hone, show i.base l ≤ q by omega] at this
  · rw [LaneIn.scanStart_plain h]
    exact ⟨Nat.le_refl _, hb, fun hc => by rw [h] at hc; cases hc⟩

/-! ### The obligation -/

theorem width_scanTy_le (t : Nat) : (scanTy t).width ≤ 128 := by
  unfold scanTy
  split <;> decide

theorem width_crossTy_le (i : LaneIn) : i.crossTy.width ≤ 128 := by
  unfold LaneIn.crossTy
  split <;> decide

/-- The values of the active lanes, as the statement lists them. -/
theorem leafVals_leaf (i : LaneIn) (lo n : Nat) : leafVals i.leaf lo n =
    (List.range n).filterMap fun k => if i.on (lo + k) then some (i.a (scanTy (i.mod % 8)) (lo + k)) else none :=
  List.filterMap_congr fun k _ => by
    unfold LaneIn.leaf
    split <;> rfl

theorem leafVals_from (i : LaneIn) {lo l : Nat} (h : lo ≤ l) : leafVals i.leaf lo (l + 1 - lo) =
    (List.range (l + 1)).filterMap fun k => if lo ≤ k ∧ i.on k = true then some (i.a (scanTy (i.mod % 8)) k) else none := by
  have hbelow : (List.range lo).filterMap (fun k => if lo ≤ k ∧ i.on k = true then some (i.a (scanTy (i.mod % 8)) k) else none) = [] :=
    List.filterMap_eq_nil_iff.mpr fun k hk => if_neg fun hc => by
      have := List.mem_range.mp hk
      omega
  obtain ⟨n, hn⟩ := Nat.exists_eq_add_of_le (Nat.le_succ_of_le h)
  rw [leafVals_leaf, show l + 1 = lo + n from hn, Nat.add_sub_cancel_left, List.range_add, List.filterMap_append, hbelow, List.nil_append,
    List.filterMap_map]
  exact List.filterMap_congr fun k _ => by simp

section
variable {i : LaneIn} {vals : List Nat} {r : Option FRes}

theorem AddsUp.getD {n : Nat} (h : AddsUp n vals r) : r.getD (0, 0) = (vals.sum % 2 ^ n, 0) := by
  subst h
  by_cases hv : vals = [] <;> simp [hv]

theorem Leads.getD {before : Nat → Nat → Prop} (h : Leads before vals r) : (r.getD (0, 0)).2 = 0 ∧ ∀ y ∈ vals, before (r.getD (0, 0)).1 y := by
  obtain ⟨hnone, hsome⟩ := h
  cases r with
  | none => simp [hnone rfl]
  | some x => exact hsome x rfl

/-- The lesser, and the greater, of two values goes before them. -/
def notAbove (t x y : Nat) : Prop := scanVal t x ≤ scanVal t y
def notBelow (t x y : Nat) : Prop := scanVal t y ≤ scanVal t x

theorem leads_min (ht : i.mod % 8 < 4) (hop : i.mod / 16 = 1) (u v : List Nat) (a b : Option FRes) :
    Leads (notAbove (i.mod % 8)) u a → Leads (notAbove (i.mod % 8)) v b →
      Leads (notAbove (i.mod % 8)) (u ++ v) (joinNodes (i.mod / 16) (i.mod % 8) i.x.compat a b) :=
  leads_join (before := notAbove (i.mod % 8)) (fun _ _ _ => Int.le_trans) (combine_min ht hop)

theorem leads_max (ht : i.mod % 8 < 4) (hop : 2 ≤ i.mod / 16) (u v : List Nat) (a b : Option FRes) :
    Leads (notBelow (i.mod % 8)) u a → Leads (notBelow (i.mod % 8)) v b →
      Leads (notBelow (i.mod % 8)) (u ++ v) (joinNodes (i.mod / 16) (i.mod % 8) i.x.compat a b) :=
  leads_join (before := notBelow (i.mod % 8)) (fun _ _ _ h k => Int.le_trans k h) (combine_max ht hop)

/-- What a reduction gives, over integers. -/
theorem treeNode_int (ht : i.mod % 8 < 4) (n lo : Nat) :
    let r := (treeNode (i.mod / 16) (i.mod % 8) i.x.compat i.leaf n lo).getD (0, 0)
    let vals := leafVals i.leaf lo (2 ^ n)
    r.2 = 0 ∧ (i.mod / 16 = 0 → r.1 = vals.sum % 2 ^ (scanTy (i.mod % 8)).width) ∧
      (i.mod / 16 = 1 → ∀ x ∈ vals, scanVal (i.mod % 8) r.1 ≤ scanVal (i.mod % 8) x) ∧
      (2 ≤ i.mod / 16 → ∀ x ∈ vals, scanVal (i.mod % 8) x ≤ scanVal (i.mod % 8) r.1) := by
  intro r vals
  have hsum (hop : i.mod / 16 = 0) : r = (vals.sum % 2 ^ (scanTy (i.mod % 8)).width, 0) :=
    (treeNode_induct (addsUp_leaf ht) (fun _ _ _ _ ha hb => hop ▸ addsUp_join ht ha hb) n lo).getD
  have hmin (hop : i.mod / 16 = 1) := (treeNode_induct (leads_leaf (fun _ => Int.le_refl _) i) (leads_min ht hop) n lo).getD
  have hmax (hop : 2 ≤ i.mod / 16) := (treeNode_induct (leads_leaf (fun _ => Int.le_refl _) i) (leads_max ht hop) n lo).getD
  refine ⟨?_, fun hop => by rw [hsum hop], fun hop => (hmin hop).2, fun hop => (hmax hop).2⟩
  rcases (show i.mod / 16 = 0 ∨ i.mod / 16 = 1 ∨ 2 ≤ i.mod / 16 by omega) with hop | hop | hop
  · rw [hsum hop]
  · exact (hmin hop).1
  · exact (hmax hop).1

/-- What a scan gives, over integers. -/
theorem scanFrom_int (ht : i.mod % 8 < 4) {p l : Nat} (hl : l < 64) (hp : p ≤ l) :
    let r := (scanFrom (i.mod / 16) (i.mod % 8) i.x.compat i.leaf l 64 p none).getD (0, 0)
    r.2 = 0 ∧ (i.mod / 16 = 0 → r.1 = (leafVals i.leaf p (l + 1 - p)).sum % 2 ^ (scanTy (i.mod % 8)).width) := by
  intro r
  have hblocks := scanBlocks_spec (n := 64) hl (show p ≤ l + 1 by omega) (by omega)
  have hr : r = _ := congrArg (Option.getD · (0, 0)) (scanFrom_eq (leaf := i.leaf) l 64 p none)
  have hnone (before : Nat → Nat → Prop) : Leads before [] none := ⟨fun _ => rfl, fun _ h => (nomatch h)⟩
  have hsum (hop : i.mod / 16 = 0) : r = ((leafVals i.leaf p (l + 1 - p)).sum % 2 ^ (scanTy (i.mod % 8)).width, 0) :=
    hr.trans (scan_induct (addsUp_leaf ht) (fun _ _ _ _ ha hb => hop ▸ addsUp_join ht ha hb) hblocks (u := []) rfl).getD
  have hmin (hop : i.mod / 16 = 1) :=
    (scan_induct (leads_leaf (fun _ => Int.le_refl _) i) (leads_min ht hop) hblocks (hnone _)).getD
  have hmax (hop : 2 ≤ i.mod / 16) :=
    (scan_induct (leads_leaf (fun _ => Int.le_refl _) i) (leads_max ht hop) hblocks (hnone _)).getD
  refine ⟨?_, fun hop => by rw [hsum hop]⟩
  rcases (show i.mod / 16 = 0 ∨ i.mod / 16 = 1 ∨ 2 ≤ i.mod / 16 by omega) with hop | hop | hop
  · rw [hsum hop]
  · rw [hr]
    exact (hmin hop).1
  · rw [hr]
    exact (hmax hop).1

end

/-- Settles O35: nodes and blocks combine as `scanCombine` says, and sums, least and greatest values pass through them. -/
theorem crossLaneWords : Obligations.CrossLaneWords := by
  intro s w ty sw first F leaf
  have hsw {op : Nat} {i : LaneIn} (h : LaneHead s op w i) : sw i = i.sw := by rw [LaneIn.sw, h.s_eq]
  have hfirst {op : Nat} {i : LaneIn} (h : LaneHead s op w i) (l : Nat) : first i l = i.base l := by
    rw [LaneIn.base_eq, ← hsw h]
  refine ⟨?_, ?_, ?_, ?_, ?_⟩
  · rw [exec_vshuf, execVshuf]
    refine laneGives_laneExec (fun _ _ => rfl) width_crossTy_le (fun _ => rfl) fun i l h _ _ => ⟨rfl, ?_⟩
    rw [hfirst h, hsw h]
    rfl
  · rw [exec_vbcast, execVbcast]
    refine laneGives_laneExec (fun _ _ => rfl) width_crossTy_le (fun _ => rfl) fun i l h _ _ => ⟨rfl, ?_⟩
    rw [hfirst h, hsw h]
    rfl
  · rw [exec_vrotl, execVrotl]
    refine laneGives_laneExec (fun _ _ => rfl) width_crossTy_le (fun _ => rfl) fun i l h _ _ => ⟨rfl, ?_⟩
    rw [hfirst h, hsw h, ← rotated_lane (Nat.mod_lt _ i.sw_pos) (Nat.mod_lt _ i.sw_pos)]
    exact if_congr (by simp) rfl rfl
  · rw [exec_vred, execVred]
    refine laneGives_laneExec (fun _ _ => rfl) (fun i => width_scanTy_le _) (fun _ => rfl) fun i l h _ _ => ?_
    rw [hfirst h, hsw h]
    refine ⟨fun ht => ?_, _, laneTree_treeNode i, rfl⟩
    have hint := treeNode_int ht i.sw.log2 (i.base l)
    rw [leafVals_leaf] at hint
    exact hint
  · rw [exec_vscan, execVscan]
    refine laneGives_laneExec (fun _ _ => rfl) (fun i => width_scanTy_le _) (fun _ => rfl) fun i l h hl _ => ?_
    rw [hfirst h]
    obtain ⟨hlo, hhi, hseg⟩ := i.scanStart_bounds l
    have hblocks := scanBlocks_spec (n := 64) hl (show i.scanStart l ≤ l + 1 by omega) (by omega)
    refine ⟨fun ht hplain => ?_, i.scanStart l, _, _, hlo, hhi, fun hplain => i.scanStart_plain hplain l, hseg, laneTree_treeNode i, hblocks, ?_⟩
    · have hint := scanFrom_int ht hl hhi
      rw [leafVals_from i hhi] at hint
      rw [← i.scanStart_plain hplain]
      exact hint
    · refine congrArg (Option.getD · (0, 0)) ((scanFrom_eq l 64 (i.scanStart l) none).trans ?_)
      rw [joinNodes_eq]
      rfl

end Sys2Proof.Machine
end

section
/-! # The floating words -/
namespace Sys2Proof.Machine

/-! ### The arithmetic trap -/

section
variable {i : LaneIn} {o : LaneOut}

/-- A lane raises an event that its word carries enabled. -/
def LaneIn.raises (i : LaneIn) (o : LaneOut) (l : Nat) : Prop := l < 64 ∧ i.on l = true ∧
  ∃ p ∈ [(0, 5), (1, 0), (2, 1), (3, 2)], i.x.xctl.getLsbD p.1 = true ∧ (o.flags l).getLsbD p.2 = true

/-- The lanes that raise an enabled event. -/
def LaneIn.raising (i : LaneIn) (o : LaneOut) : Word := maskOf ((lanesOf i.active).filter fun l => enabledEvents i.x.xctl (o.flags l) != 0)

theorem flags_ne_zero_iff (f : Flags) : f ≠ 0 ↔ ∃ n < 7, f.getLsbD n = true := by
  constructor
  · intro h
    by_contra hc
    refine h (BitVec.eq_of_getLsbD_eq fun n hn => ?_)
    rw [show (0 : Flags).getLsbD n = false from BitVec.getLsbD_zero]
    exact Bool.eq_false_iff.mpr fun hb => hc ⟨n, hn, hb⟩
  · rintro ⟨n, -, hb⟩ rfl
    rw [show (0 : Flags).getLsbD n = false from BitVec.getLsbD_zero] at hb
    cases hb

theorem getLsbD_flagIf (c : Bool) (x : Flags) (n : Nat) : (flagIf c x).getLsbD n = (c && x.getLsbD n) := by
  cases c
  · exact BitVec.getLsbD_zero
  · rfl

theorem enabledEvents_ne_zero_iff (xctl : BitVec 4) (f : Flags) : enabledEvents xctl f ≠ 0 ↔
    ∃ p ∈ [(0, 5), (1, 0), (2, 1), (3, 2)], xctl.getLsbD p.1 = true ∧ f.getLsbD p.2 = true := by
  have hbit (n : Nat) : (enabledEvents xctl f).getLsbD n = (f.getLsbD n &&
      (xctl.getLsbD 0 && flagSNC.getLsbD n || xctl.getLsbD 1 && flagNV.getLsbD n || xctl.getLsbD 2 && flagDZ.getLsbD n ||
        xctl.getLsbD 3 && flagOF.getLsbD n)) := by
    simp only [enabledEvents, BitVec.getLsbD_and, BitVec.getLsbD_or, getLsbD_flagIf]
  rw [flags_ne_zero_iff]
  constructor
  · rintro ⟨n, hn, h⟩
    rw [hbit] at h
    interval_cases n <;> simp [flagSNC, flagNV, flagDZ, flagOF] at h <;> simp [h]
  · rintro ⟨p, hp, hx, hf⟩
    refine ⟨p.2, ?_, ?_⟩
    · fin_cases hp <;> decide
    · rw [hbit]
      fin_cases hp <;> simp_all [flagSNC, flagNV, flagDZ, flagOF]

theorem raising_iff (l : Nat) : (i.raising o).getLsbD l = true ↔ i.raises o l := by
  rw [LaneIn.raising, getLsbD_maskOf]
  simp only [Bool.and_eq_true, decide_eq_true_eq, List.contains_iff_mem, List.mem_filter, LaneIn.mem_on, bne_iff_ne,
    enabledEvents_ne_zero_iff, LaneIn.raises]
  tauto

theorem raising_eq_zero_iff : i.raising o = 0 ↔ ∀ l, ¬ i.raises o l := by
  constructor
  · intro h l hl
    have := (raising_iff l).mpr hl
    rw [h, show (0 : Word).getLsbD l = false from BitVec.getLsbD_zero] at this
    cases this
  · intro h
    refine BitVec.eq_of_getLsbD_eq fun l _ => ?_
    rw [show (0 : Word).getLsbD l = false from BitVec.getLsbD_zero]
    exact Bool.eq_false_iff.mpr fun hc => h l ((raising_iff l).mp hc)

theorem arith_none (h : i.raising o = 0) (r : WordResult) : i.arith o r = none := by
  unfold LaneIn.arith
  exact if_pos (by rw [LaneIn.raising] at h; rw [h]; rfl)

theorem arith_some (h : i.raising o ≠ 0) (r : WordResult) : i.arith o r = some (i.record 9 (i.raising o) r.flags 0) := by
  unfold LaneIn.arith
  exact if_neg (by simpa [LaneIn.raising] using h)

/-- What stands above bit 16 of a stream record's third word. -/
def LaneIn.place16 (i : LaneIn) : Nat := i.w.wix + match i.x.replay with
  | some (id, rep) => id * 2 ^ 4 + 2 ^ 10 + rep * 2 ^ 16
  | none => 0

theorem toNat_record_info2 (i : LaneIn) (cause : Nat) (lanes addr : Word) (ev : Flags) :
    (i.record cause lanes ev addr).info2.toNat = (i.op + ev.toNat * 2 ^ 8 + i.place16 * 2 ^ 16) % 2 ^ 64 := by
  refine (BitVec.toNat_ofNat ..).trans (congrArg (· % 2 ^ 64) ?_)
  unfold LaneIn.place16
  rcases i.x.replay with _ | ⟨id, rep⟩ <;> simp only <;> ring

/-- The fields of a stream record's third word: the operation, the events and what stands above them. -/
theorem record_info2 (i : LaneIn) (hop : i.op < 256) (cause : Nat) (lanes addr : Word) (ev : Flags) :
    let x := (i.record cause lanes ev addr).info2
    x.toNat % 256 = i.op ∧ (∀ n < 7, x.getLsbD (8 + n) = ev.getLsbD n) ∧ (i.place16 < 2 ^ 48 → x.toNat / 2 ^ 16 = i.place16) := by
  intro x
  have hx : x.toNat = _ := toNat_record_info2 i cause lanes addr ev
  have hev : ev.toNat < 2 ^ 7 := ev.isLt
  refine ⟨by omega, fun n hn => ?_, fun h => by omega⟩
  have hbyte : x.toNat / 2 ^ 8 % 2 ^ 8 = ev.toNat := by omega
  calc x.getLsbD (8 + n) = (x.toNat / 2 ^ 8 % 2 ^ 8).testBit n := by
        rw [Nat.testBit_mod_two_pow, decide_eq_true (by omega), Bool.true_and, Nat.testBit_div_two_pow, Nat.add_comm n]
        rfl
    _ = ev.getLsbD n := by
        rw [hbyte]
        rfl

end

/-! ### Words of the floating layout -/

theorem width_floatTy_le (t : Nat) : (floatTy t).width ≤ 128 := by
  unfold floatTy
  split <;> decide

theorem floatElem_eq (t : Nat) : (floatElem t).2 = 1 ∨ (floatElem t).1 = 16 ∧ (floatElem t).2 = 2 := by
  unfold floatElem
  split <;> decide

theorem elem_elemwise {w n : Nat} (f : Nat → Nat → Nat → Nat × Flags) (a b c : Nat) {j : Nat} (hj : j < n) :
    elem w (elemwise w n f a b c).1 j = (f (elem w a j) (elem w b j) (elem w c j)).1 % 2 ^ w := by
  rw [← toNat_elemOf, elemOf_elemwise f a b c hj, BitVec.toNat_ofNat]

theorem flags_elemwise_two (w : Nat) (f : Nat → Nat → Nat → Nat × Flags) (a b c : Nat) : (elemwise w 2 f a b c).2 =
    (f (elem w a 0) (elem w b 0) (elem w c 0)).2 ||| (f (elem w a 1) (elem w b 1) (elem w c 1)).2 := by
  change 0 ||| _ ||| _ = _
  rw [show ∀ x : Flags, 0 ||| x = x from fun x => BitVec.zero_or]

theorem fst_elemwise_one (w : Nat) (f : Nat → Nat → Nat → Nat × Flags) (a b c : Nat) : (elemwise w 1 f a b c).1 =
    (f (a % 2 ^ w) (b % 2 ^ w) (c % 2 ^ w)).1 % 2 ^ w := by
  simp [elemwise, pack, elem]

theorem laneGives_floatWord {s : State} {op : Nat} {w : LaneWord} {name : String} (F : Fmt → FEnv → Nat → Nat → Nat → FRes) :
    LaneGives s op w (laneExec name op (floatWord F) w s) (fun i => (floatTy (i.mod / 4)).width) fun i l v f =>
      let t := i.mod / 4
      let n := (floatElem t).1
      let x (ix : Nat) : FRes := F (floatFmt t) i.env (elem n (i.a (floatTy t) l) ix) (elem n (i.b (floatTy t) l) ix) (elem n (i.c (floatTy t) l) ix)
      (∀ j < (floatElem t).2, elem n v j = (x j).1 % 2 ^ n) ∧
      ∀ b, f.getLsbD b = (List.range (floatElem t).2).any fun j => (x j).2.getLsbD b :=
  laneGives_laneExec (fun _ _ => rfl) (fun _ => width_floatTy_le _) (fun _ => rfl) fun _ _ _ _ _ =>
    ⟨fun _ hj => elem_elemwise _ _ _ _ hj, fun b => getLsbD_elemwise _ _ _ _ b⟩

theorem classMask_lt (f : Fmt) (env : FEnv) (a : Nat) : f.classMask env a < 2 ^ 16 := by
  unfold Fmt.classMask
  dsimp only
  split <;> repeat' split
  all_goals decide

theorem elem_elem_zero {n x : Nat} : elem n x 0 = x % 2 ^ n := by simp [elem]

theorem asInt_elem (x j : Nat) : asInt 16 false (elem 16 x j) = (BitVec.ofNat 16 (elem 16 x j)).toInt := asInt_eq (by decide) _ _

theorem width_convert_le (m : Nat) : (convertForm 0x50 m).dst.width ≤ 128 := by
  rw [convertForm, if_neg (by decide), if_neg (by decide)]
  split <;> decide

/-! ### The obligation -/

/-- The trap of R106 to R108, of a word of any kind. -/
theorem arith_iff_raises (i : LaneIn) (o : LaneOut) (hop : i.op < 256) :
    ((∀ l, ¬ i.raises o l) → i.arith o (i.result o) = none) ∧
    ((∃ l, i.raises o l) → ∃ r, i.arith o (i.result o) = some r ∧ r.cause = 9 ∧ r.info0 = i.x.ssn ∧ r.info3 = 0 ∧
      (∀ l, r.info1.getLsbD l = true ↔ i.raises o l) ∧ r.info2.toNat % 256 = i.op ∧
      (∀ n < 7, r.info2.getLsbD (8 + n) = (List.range 64).any fun l => i.on l && (o.flags l).getLsbD n) ∧
      (∀ id rep, i.x.replay = some (id, rep) → id < 64 → rep < 2 ^ 32 → i.w.wix < 16 →
        r.info2.toNat / 2 ^ 16 = i.w.wix + id * 2 ^ 4 + 2 ^ 10 + rep * 2 ^ 16)) := by
  refine ⟨fun h => arith_none (raising_eq_zero_iff.mpr h) _, fun ⟨l, hl⟩ => ?_⟩
  have hne : i.raising o ≠ 0 := fun hc => raising_eq_zero_iff.mp hc l hl
  obtain ⟨hlow, hevents, hhigh⟩ := record_info2 i hop 9 (i.raising o) 0 (i.result o).flags
  refine ⟨_, arith_some hne _, rfl, rfl, rfl, raising_iff, hlow, fun n hn => ?_, fun id rep hreplay hid hrep hwix => ?_⟩
  · rw [hevents n hn, getLsbD_result_flags]
  · have hplace : i.place16 = i.w.wix + (id * 2 ^ 4 + 2 ^ 10 + rep * 2 ^ 16) := by
      unfold LaneIn.place16
      rw [hreplay]
    rw [hhigh (by omega), hplace]
    ring

section
variable {s : State} {w : LaneWord}

theorem vfclass_gives : LaneGives s 0x4A w (exec (.vfclass w) s) (fun _ => 32) fun i l v f =>
    let t := i.mod / 4
    f = 0 ∧ if (floatElem t).2 = 1 then v = (floatFmt t).classMask i.env (i.a (floatTy t) l)
      else ∀ j < 2, elem 16 v j = (floatFmt t).classMask i.env (elem 16 (i.a (floatTy t) l) j) := by
  rw [exec_vfclass, execVfclass]
  refine laneGives_laneExec (fun _ _ => rfl) (fun _ => (by decide : 32 ≤ 128)) (fun _ => rfl) fun i l _ _ _ => ⟨rfl, ?_⟩
  dsimp only
  split
  · rfl
  · exact fun j hj => (elem_elemwise _ _ _ _ hj).trans (Nat.mod_eq_of_lt (classMask_lt ..))

theorem vfscale_gives : LaneGives s 0x4E w (exec (.vfscale w) s) (fun i => (floatTy (i.mod / 4)).width) fun i l v f =>
    let t := i.mod / 4
    let half (j : Nat) : FRes := (floatFmt t).scale i.env (elem 16 (i.a (floatTy t) l) j) (BitVec.ofNat 16 (elem 16 (i.b .i16x2 l) j)).toInt
    ((floatElem t).2 = 1 → (v, f) = (floatFmt t).scale i.env (i.a (floatTy t) l) (BitVec.ofNat 32 (i.b .i32 l)).toInt) ∧
    ((floatElem t).2 = 2 → f = (half 0).2 ||| (half 1).2 ∧ ∀ j < 2, elem 16 v j = (half j).1 % 2 ^ 16) := by
  rw [exec_vfscale, execVfscale]
  refine laneGives_laneExec (fun _ _ => rfl) (fun _ => width_floatTy_le _) (fun _ => rfl) fun i l _ _ _ => ⟨fun h => ?_, fun h => ?_⟩
  · simp only [h, if_true, asInt_eq (show 0 < 32 by decide)]
    rfl
  · simp only [h, OfNat.ofNat_ne_one, if_false]
    refine ⟨?_, fun j hj => ?_⟩
    · rw [flags_elemwise_two, asInt_elem, asInt_elem]
    · rw [elem_elemwise _ _ _ _ hj, asInt_elem]

theorem vfxtr_gives : LaneGives s 0x4F w (exec (.vfxtr w) s)
    (fun i => if w.srcB.toNat ≠ 832 then (floatTy (i.mod / 4)).width else 32) fun i l v f =>
    let t := i.mod / 4
    let half (j : Nat) : FRes := (if w.srcB.toNat ≠ 832 then (floatFmt t).significand i.env (elem 16 (i.a (floatTy t) l) j)
      else (floatFmt t).exponent i.env 16 (elem 16 (i.a (floatTy t) l) j))
    ((floatElem t).2 = 2 → f = (half 0).2 ||| (half 1).2 ∧ ∀ j < 2, elem 16 v j = (half j).1 % 2 ^ 16) ∧
    ((floatElem t).2 = 1 → if w.srcB.toNat ≠ 832 then v = ((floatFmt t).significand i.env (i.a (floatTy t) l % 2 ^ (floatElem t).1)).1 % 2 ^ (floatElem t).1
      else (v, f) = (floatFmt t).exponent i.env 32 (i.a (floatTy t) l)) := by
  rw [exec_vfxtr, execVfxtr]
  refine laneGives_laneExec (fun i h => by rw [← h.lw_eq]) (fun i => ?_) (fun _ => rfl) fun i l h _ _ => ?_
  · dsimp only
    split
    · exact width_floatTy_le _
    · decide
  · rw [← h.lw_eq]
    by_cases hsel : i.lw.srcB.toNat ≠ 832
    · simp only [if_pos hsel]
      refine ⟨fun h2 => ?_, fun h1 => ?_⟩
      · have h16 : (floatElem (i.mod / 4)).1 = 16 := (floatElem_eq _).elim (fun h1 => by omega) And.left
        simp only [h2, h16]
        exact ⟨flags_elemwise_two .., fun j hj => elem_elemwise _ _ _ _ hj⟩
      · rw [h1, fst_elemwise_one]
    · simp only [if_neg hsel]
      refine ⟨fun h2 => ?_, fun h1 => ?_⟩
      · simp only [h2, OfNat.ofNat_ne_one, if_false]
        exact ⟨flags_elemwise_two .., fun j hj => elem_elemwise _ _ _ _ hj⟩
      · simp only [h1, if_true]

theorem vcvtif_gives : LaneGives s 0x52 w (exec (.vcvtif w) s) (fun i => if i.mod / 16 = 1 then 64 else 32) fun i l v f =>
    let wide := 2 ≤ i.mod / 4 % 4
    let x := i.a (if wide then .i64 else .i32) l
    (v, f) = (floatFmt (i.mod / 16)).ofInteger
      (if 2 ≤ i.mod / 16 ∧ i.x.compat = false then .rz else Rounding.ofCode (i.mod % 4))
      (if wide then elemVal (i.mod / 4 % 2 = 1) (BitVec.ofNat 64 x) else elemVal (i.mod / 4 % 2 = 1) (BitVec.ofNat 32 x)) := by
  rw [exec_vcvtif, execVcvtif]
  refine laneGives_laneExec (fun _ _ => rfl) (fun i => ?_) (fun _ => rfl) fun i l _ _ _ => ?_
  · dsimp only
    split <;> decide
  · have hmode : (if 2 ≤ i.mod / 16 then i.narrowMode else Rounding.ofCode (i.mod % 4)) =
        if 2 ≤ i.mod / 16 ∧ i.x.compat = false then .rz else Rounding.ofCode (i.mod % 4) := by
      unfold LaneIn.narrowMode
      cases i.x.compat <;> simp
    dsimp only
    rw [hmode, show i.mod / 4 % 4 % 2 = i.mod / 4 % 2 by omega]
    by_cases hwide : 2 ≤ i.mod / 4 % 4
    · simp only [hwide, if_true, asInt_eq (show 0 < 64 by decide)]
    · simp only [hwide, if_false, asInt_eq (show 0 < 32 by decide)]

end

/-- Settles O36: the trap from the bits of its record, and the words from their element operations. -/
theorem floatWords : Obligations.FloatWords := by
  refine ⟨arith_iff_raises, fun s w => ⟨?_, ?_, ?_, ?_, ?_, ?_, ?_, ?_, ?_, ?_, ?_, ?_, ?_, vfclass_gives, vfscale_gives, vfxtr_gives, ?_, ?_, ?_,
    vcvtif_gives⟩⟩
  · exact laneGives_floatWord fun f e a b _ => f.add e a b
  · exact laneGives_floatWord fun f e a b _ => f.sub e a b
  · exact laneGives_floatWord fun f e a b _ => f.mul e a b
  · exact laneGives_floatWord fun f e a b _ => f.mulz e a b
  · exact laneGives_floatWord fun f e a b c => f.fma e a b c
  · exact laneGives_floatWord fun f e a b c => f.fmaz e a b c
  · exact laneGives_floatWord fun f e a b _ => f.minmax e false a b
  · exact laneGives_floatWord fun f e a b _ => f.minmax e true a b
  · exact laneGives_floatWord fun f _ a b c => (f.sgn a b c, 0)
  · exact laneGives_floatWord fun f e a b _ => f.div e a b
  · exact laneGives_floatWord fun f e a _ _ => f.sqrt e a
  · exact laneGives_floatWord fun f e a _ _ => f.rnd e a
  · rw [exec_vfcmp, execVfcmp]
    exact laneTells_laneExec (fun _ => rfl) (fun _ => rfl) fun _ _ _ _ _ => rfl
  · rw [exec_vfdot2, execVfdot2]
    exact laneGives_laneExec (fun _ _ => rfl) (fun _ => (by decide : 32 ≤ 128)) (fun _ => rfl) fun _ _ _ _ _ => rfl
  · rw [exec_vcvtf, execVcvtf]
    exact laneGives_laneExec (fun _ _ => rfl) (fun i => width_convert_le _) (fun _ => rfl) fun _ _ _ _ _ => rfl
  · rw [exec_vcvtfi, execVcvtfi]
    refine laneGives_laneExec (fun _ _ => rfl) (fun i => ?_) (fun _ => rfl) fun i l _ _ _ => ?_
    · dsimp only
      split <;> decide
    · dsimp only
      rw [show i.mod / 4 % 4 % 2 = i.mod / 4 % 2 by omega]

end Sys2Proof.Machine
end

section
/-! # Rounding at a unit

A magnitude is a multiple of a power of two and something below it. What `roundAt` keeps is the multiple of its unit that the mode names,
and it is inexact just where that multiple differs from the magnitude. -/
namespace Sys2Proof.Machine

/-- The integer k is x rounded: the nearest in rne, ties to even, and else the one on the side that the mode and the sign say. -/
structure RoundsTo (mode : Rounding) (neg : Bool) (x : ℚ) (k : ℕ) : Prop where
  rne : mode = .rne → |(k : ℚ) - x| ≤ 1 / 2 ∧ (|(k : ℚ) - x| = 1 / 2 → k % 2 = 0)
  rz : mode = .rz → (k : ℚ) ≤ x ∧ x < k + 1
  ru : mode = .ru → if neg then (k : ℚ) ≤ x ∧ x < k + 1 else x ≤ k ∧ (k : ℚ) < x + 1
  rd : mode = .rd → if neg then x ≤ k ∧ (k : ℚ) < x + 1 else (k : ℚ) ≤ x ∧ x < k + 1

section
variable {mode : Rounding} {neg : Bool} {x : ℚ} {k : ℕ}

theorem roundsTo_self (h : (k : ℚ) = x) : RoundsTo mode neg x k := by
  subst h
  constructor <;> intro _ <;> simp

theorem RoundsTo.near (h : RoundsTo mode neg x k) : x - 1 < k ∧ (k : ℚ) < x + 1 := by
  obtain ⟨hrne, hrz, hru, hrd⟩ := h
  cases mode with
  | rne =>
    have := abs_le.mp (hrne rfl).1
    constructor <;> linarith
  | rz =>
    obtain ⟨h1, h2⟩ := hrz rfl
    constructor <;> linarith
  | ru =>
    have := hru rfl
    split at this <;> constructor <;> linarith
  | rd =>
    have := hrd rfl
    split at this <;> constructor <;> linarith

theorem RoundsTo.le (h : RoundsTo mode neg x k) {n : ℕ} (hx : x ≤ n) : k ≤ n := by
  have : (k : ℚ) < n + 1 := by linarith [h.near.2]
  exact Nat.lt_succ_iff.mp (by exact_mod_cast this)

theorem RoundsTo.ge (h : RoundsTo mode neg x k) {n : ℕ} (hx : (n : ℚ) ≤ x) : n ≤ k := by
  have : (n : ℚ) < k + 1 := by linarith [h.near.1]
  exact Nat.lt_succ_iff.mp (by exact_mod_cast this)

/-- Whether k + t, t below 1, rounds to k + 1. -/
def stepsUp (mode : Rounding) (neg : Bool) (k : ℕ) (t : ℚ) : Prop :=
  match mode with
  | .rne => 1 / 2 < t ∨ t = 1 / 2 ∧ k % 2 = 1
  | .rz => False
  | .ru => t ≠ 0 ∧ neg = false
  | .rd => t ≠ 0 ∧ neg = true

theorem roundsTo_up {t : ℚ} (h0 : 0 ≤ t) (h1 : t < 1) (h : stepsUp mode neg k t) : RoundsTo mode neg (k + t) (k + 1) := by
  have ht : t ≠ 0 → 0 < t := fun hne => lt_of_le_of_ne h0 hne.symm
  cases mode with
  | rne =>
    refine ⟨fun _ => ?_, nofun, nofun, nofun⟩
    have habs : |((k + 1 : ℕ) : ℚ) - (k + t)| = 1 - t := by
      rw [abs_of_pos] <;> push_cast <;> linarith
    rw [habs]
    rcases h with h | ⟨h, hk⟩
    · exact ⟨by linarith, fun hc => by linarith⟩
    · exact ⟨by linarith, fun _ => by omega⟩
  | rz => exact h.elim
  | ru =>
    obtain ⟨hne, rfl⟩ := h
    have := ht hne
    refine ⟨nofun, nofun, fun _ => ?_, nofun⟩
    rw [if_neg Bool.false_ne_true]
    push_cast
    constructor <;> linarith
  | rd =>
    obtain ⟨hne, rfl⟩ := h
    have := ht hne
    refine ⟨nofun, nofun, nofun, fun _ => ?_⟩
    rw [if_pos rfl]
    push_cast
    constructor <;> linarith

theorem roundsTo_down {t : ℚ} (h0 : 0 ≤ t) (h1 : t < 1) (h : ¬ stepsUp mode neg k t) : RoundsTo mode neg (k + t) k := by
  have hkeep : (k : ℚ) ≤ k + t ∧ k + t < k + 1 := ⟨by linarith, by linarith⟩
  cases mode with
  | rne =>
    refine ⟨fun _ => ?_, nofun, nofun, nofun⟩
    have habs : |(k : ℚ) - (k + t)| = t := by
      rw [abs_of_nonpos] <;> linarith
    rw [habs]
    simp only [stepsUp, not_or, not_lt, not_and] at h
    exact ⟨h.1, fun hc => by have := h.2 hc; omega⟩
  | rz => exact ⟨nofun, fun _ => hkeep, nofun, nofun⟩
  | ru =>
    refine ⟨nofun, nofun, fun _ => ?_, nofun⟩
    cases neg with
    | true => exact hkeep
    | false =>
      have ht : t = 0 := by_contra fun hc => h ⟨hc, rfl⟩
      rw [if_neg Bool.false_ne_true, ht]
      constructor <;> linarith
  | rd =>
    refine ⟨nofun, nofun, nofun, fun _ => ?_⟩
    cases neg with
    | false => exact hkeep
    | true =>
      have ht : t = 0 := by_contra fun hc => h ⟨hc, rfl⟩
      rw [if_pos rfl, ht]
      constructor <;> linarith

/-- The bits below the unit, and whether more follows, decide as the exact rest does. -/
theorem roundsUp_iff {r sh : ℕ} {st : Bool} {d : ℚ} (hsh : 0 < sh) (h0 : 0 ≤ d) (h1 : d < 1) (hst : st = true ↔ d ≠ 0) :
    roundsUp mode neg k r sh st = true ↔ stepsUp mode neg k ((r + d) / 2 ^ sh) := by
  obtain ⟨n, rfl⟩ : ∃ n, sh = n + 1 := ⟨sh - 1, by omega⟩
  have hpos : (0 : ℚ) < 2 ^ n := by positivity
  have hne : (r + d) / 2 ^ (n + 1) ≠ 0 ↔ (r != 0 || st) = true := by
    have hr : (0 : ℚ) ≤ r := by positivity
    have hsum : (r : ℚ) + d = 0 ↔ r = 0 ∧ d = 0 := by
      constructor
      · intro h
        exact ⟨by exact_mod_cast (by linarith : (r : ℚ) = 0), by linarith⟩
      · rintro ⟨rfl, rfl⟩
        simp
    rw [ne_eq, div_eq_zero_iff, hsum, Bool.or_eq_true, hst, bne_iff_ne]
    simp only [pow_eq_zero_iff, ne_eq, Nat.succ_ne_zero, not_false_eq_true, OfNat.ofNat_ne_zero, or_false]
    tauto
  cases mode with
  | rz => simp [roundsUp, stepsUp]
  | ru => simp only [roundsUp, stepsUp, hne, Bool.and_eq_true, Bool.not_eq_true']
  | rd => simp only [roundsUp, stepsUp, hne, Bool.and_eq_true]
  | rne =>
    have hhalf : (r + d) / 2 ^ (n + 1) = 1 / 2 ↔ (r : ℚ) + d = 2 ^ n := by
      rw [pow_succ, div_eq_iff (by positivity)]
      constructor <;> intro h <;> linarith
    have hmore : 1 / 2 < (r + d) / 2 ^ (n + 1) ↔ (2 : ℚ) ^ n < r + d := by
      rw [pow_succ, lt_div_iff₀ (by positivity)]
      constructor <;> intro h <;> linarith
    simp only [roundsUp, stepsUp, hhalf, hmore, Nat.succ_ne_zero, if_false, Nat.add_sub_cancel, Bool.or_eq_true, Bool.and_eq_true,
      decide_eq_true_eq, beq_iff_eq, hst]
    rcases lt_trichotomy r (2 ^ n) with h | h | h
    · have : (r : ℚ) + 1 ≤ 2 ^ n := by exact_mod_cast h
      exact ⟨fun hc => by omega, fun hc => by
        rcases hc with hc | ⟨hc, -⟩ <;> linarith⟩
    · have hr : (r : ℚ) = 2 ^ n := by exact_mod_cast h
      rw [hr]
      constructor
      · rintro (hc | ⟨-, hc | hc⟩)
        · omega
        · exact .inl (by linarith [lt_of_le_of_ne h0 (Ne.symm hc)])
        · rcases eq_or_ne d 0 with hd | hd
          · exact .inr ⟨by linarith, hc⟩
          · exact .inl (by linarith [lt_of_le_of_ne h0 (Ne.symm hd)])
      · rintro (hc | ⟨-, hc⟩)
        · exact .inr ⟨h, .inl fun hd => by linarith⟩
        · exact .inr ⟨h, .inr hc⟩
    · have : (2 : ℚ) ^ n < r := by exact_mod_cast h
      exact ⟨fun _ => .inl (by linarith), fun _ => .inl h⟩

end

/-- The magnitude q lies at m * 2^e, or above it and below (m + 1) * 2^e where st says that more follows. -/
structure Exactly (m : ℕ) (e : ℤ) (st : Bool) (q : ℚ) : Prop where
  lo : (m : ℚ) * 2 ^ e ≤ q
  hi : q < (m + 1) * 2 ^ e
  sticky : st = decide (q ≠ m * 2 ^ e)

theorem exactly_self (m : ℕ) (e : ℤ) : Exactly m e false ((m : ℚ) * 2 ^ e) := by
  have : (0 : ℚ) < 2 ^ e := by positivity
  exact ⟨le_refl _, by linarith, by simp⟩

theorem two_zpow_split {e q : ℤ} (h : e ≤ q) : (2 : ℚ) ^ q = 2 ^ (q - e).toNat * 2 ^ e := by
  rw [← zpow_natCast, ← zpow_add₀ (by norm_num), Int.toNat_of_nonneg (by omega), sub_add_cancel]

/-- What `roundAt` keeps, and that it is inexact just where it changes the magnitude. -/
theorem roundAt_spec {mode : Rounding} {neg : Bool} {m : ℕ} {e q : ℤ} {st : Bool} {x : ℚ} (h : Exactly m e st x) (hq : st = true → e < q) :
    RoundsTo mode neg (x / 2 ^ q) (roundAt mode neg m e st q).1 ∧
      ((roundAt mode neg m e st q).2 = true ↔ ((roundAt mode neg m e st q).1 : ℚ) ≠ x / 2 ^ q) := by
  obtain ⟨hlo, hhi, hst⟩ := h
  have hqpos : (0 : ℚ) < 2 ^ q := by positivity
  have hepos : (0 : ℚ) < 2 ^ e := by positivity
  rcases le_or_gt q e with hle | hlt
  · have hst0 : st = false := Bool.eq_false_iff.mpr fun hc => by have := hq hc; omega
    have hx : x = m * 2 ^ e := by
      rw [hst0] at hst
      simpa using hst
    have hrun : roundAt mode neg m e st q = (m * 2 ^ (e - q).toNat, false) := by simp [roundAt, hle, hst0, b2n]
    have hval : ((m * 2 ^ (e - q).toNat : ℕ) : ℚ) = x / 2 ^ q := by
      rw [hx, two_zpow_split hle, eq_div_iff hqpos.ne']
      push_cast
      ring
    rw [hrun]
    exact ⟨roundsTo_self hval, by simp [hval]⟩
  · obtain ⟨sh, hsh⟩ : ∃ sh, sh = (q - e).toNat := ⟨_, rfl⟩
    have hshpos : 0 < sh := by omega
    obtain ⟨k, hk⟩ : ∃ k, k = m / 2 ^ sh := ⟨_, rfl⟩
    obtain ⟨r, hr⟩ : ∃ r, r = m % 2 ^ sh := ⟨_, rfl⟩
    obtain ⟨d, hd⟩ : ∃ d, d = x / 2 ^ e - m := ⟨_, rfl⟩
    have hrun : roundAt mode neg m e st q = (k + b2n (roundsUp mode neg k r sh st), r != 0 || st) := by
      simp [roundAt, not_le.mpr hlt, ← hsh, ← hk, ← hr]
    have hm : (m : ℚ) = 2 ^ sh * k + r := by
      have := Nat.div_add_mod m (2 ^ sh)
      rw [← hk, ← hr] at this
      exact_mod_cast this.symm
    have hrlt : (r : ℚ) + 1 ≤ 2 ^ sh := by
      have := Nat.mod_lt m (Nat.two_pow_pos sh)
      rw [← hr] at this
      exact_mod_cast this
    have hd0 : 0 ≤ d := by
      rw [hd, sub_nonneg, le_div_iff₀ hepos]
      exact hlo
    have hd1 : d < 1 := by
      rw [hd, sub_lt_iff_lt_add, div_lt_iff₀ hepos]
      linarith
    have hdst : st = true ↔ d ≠ 0 := by
      rw [hst, decide_eq_true_eq, hd, ne_eq, ne_eq, sub_eq_zero, div_eq_iff hepos.ne']
    have hDpos : (0 : ℚ) < 2 ^ sh := by positivity
    have hx : x / 2 ^ q = k + (r + d) / 2 ^ sh := by
      have hxd : x = (m + d) * 2 ^ e := by rw [hd]; field_simp; ring
      rw [two_zpow_split hlt.le, ← hsh, hxd, hm]
      field_simp
      ring
    have hr0 : (0 : ℚ) ≤ r := by positivity
    have ht0 : 0 ≤ (r + d) / 2 ^ sh := by positivity
    have ht1 : (r + d) / 2 ^ sh < 1 := by
      rw [div_lt_one hDpos]
      linarith
    have hup := roundsUp_iff (mode := mode) (neg := neg) (k := k) (r := r) hshpos hd0 hd1 hdst
    have hround : RoundsTo mode neg (x / 2 ^ q) (k + b2n (roundsUp mode neg k r sh st)) := by
      rw [hx]
      by_cases h : roundsUp mode neg k r sh st = true
      · rw [h]
        exact roundsTo_up ht0 ht1 (hup.mp h)
      · rw [Bool.eq_false_iff.mpr h]
        exact roundsTo_down ht0 ht1 fun hc => h (hup.mpr hc)
    rw [hrun]
    refine ⟨hround, ?_⟩
    have hzero : (r + d) / 2 ^ sh = 0 ↔ (r != 0 || st) = false := by
      rw [div_eq_zero_iff, or_iff_left hDpos.ne', Bool.or_eq_false_iff, bne_eq_false_iff_eq, ← Bool.not_eq_true, hdst, not_not]
      constructor
      · intro h
        exact ⟨by exact_mod_cast (by linarith : (r : ℚ) = 0), by linarith⟩
      · rintro ⟨rfl, rfl⟩
        simp
    constructor
    · intro hin heq
      have hne : (r + d) / 2 ^ sh ≠ 0 := fun hc => by rw [hzero.mp hc] at hin; cases hin
      have hpos := lt_of_le_of_ne ht0 hne.symm
      rw [hx] at heq
      have h1 : (k : ℚ) < (k + b2n (roundsUp mode neg k r sh st) : ℕ) := by linarith
      have h2 : ((k + b2n (roundsUp mode neg k r sh st) : ℕ) : ℚ) < k + 1 := by linarith
      have h1' : k < k + b2n (roundsUp mode neg k r sh st) := by exact_mod_cast h1
      have h2' : k + b2n (roundsUp mode neg k r sh st) < k + 1 := by exact_mod_cast h2
      omega
    · intro hne
      by_contra hc
      have ht := hzero.mpr (Bool.eq_false_iff.mpr hc)
      have hkx : x / 2 ^ q = k := by rw [hx, ht, add_zero]
      exact hne (by
        rw [hkx] at hround ⊢
        exact_mod_cast le_antisymm (hround.le le_rfl) (hround.ge le_rfl))

end Sys2Proof.Machine
end

section
/-! # Rounding into a format -/
namespace Sys2Proof.Machine

/-! ### The formats -/

/-- The formats of Table 4.1 lie within these bounds. -/
structure Fmt.Sound (f : Fmt) : Prop where
  eb_lo : 4 ≤ f.eb
  eb_hi : f.eb ≤ 11
  mb_lo : 2 ≤ f.mb
  mb_hi : f.mb ≤ 52
  bias_hi : f.bias ≤ 1023

theorem sound_of_mem {f : Fmt} (h : f ∈ [f64, f32, f16, bf16, e5m2, e4m3]) : f.Sound := by
  simp only [List.mem_cons, List.not_mem_nil, or_false] at h
  rcases h with rfl | rfl | rfl | rfl | rfl | rfl <;> constructor <;> decide

section
variable {f : Fmt}

/-- The encoding of k units of 2^q: k takes the mantissa's bits and the hidden one. -/
def Fmt.encoded (f : Fmt) (q : ℤ) (k : ℕ) : ℕ := (q - f.qmin).toNat * 2 ^ f.mb + k

theorem Fmt.expOnes_succ (f : Fmt) : f.expOnes + 1 = 2 ^ f.eb := Nat.sub_add_cancel Nat.one_le_two_pow

theorem Fmt.two_pow_split (f : Fmt) : 2 ^ (f.eb + f.mb) = (f.expOnes + 1) * 2 ^ f.mb := by rw [f.expOnes_succ, pow_add]

/-- The bits of an encoding below its sign. -/
def Fmt.bare (f : Fmt) (x : ℕ) : ℕ := x % 2 ^ (f.eb + f.mb)

theorem bare_div (f : Fmt) (x : ℕ) : f.bare x / 2 ^ f.mb = x / 2 ^ f.mb % 2 ^ f.eb := by
  rw [Fmt.bare, Nat.add_comm, pow_add, Nat.mod_mul_right_div_self]

theorem bare_mod (f : Fmt) (x : ℕ) : f.bare x % 2 ^ f.mb = x % 2 ^ f.mb :=
  Nat.mod_mod_of_dvd x (pow_dvd_pow 2 (Nat.le_add_left ..))

theorem bare_lt (f : Fmt) (x : ℕ) : f.bare x < 2 ^ (f.eb + f.mb) := Nat.mod_lt _ (Nat.two_pow_pos _)

theorem sign_add (f : Fmt) {c : ℕ} (hc : c < 2 ^ (f.eb + f.mb)) (neg : Bool) :
    f.bare (f.sign neg + c) = c ∧ bitAt (f.sign neg + c) (f.eb + f.mb) = neg := by
  refine ⟨Nat.mul_add_mod_of_lt hc, ?_⟩
  have hdiv : (f.sign neg + c) / 2 ^ (f.eb + f.mb) = b2n neg := by
    rw [Fmt.sign, Nat.mul_comm, Nat.mul_add_div (Nat.two_pow_pos _), Nat.div_eq_of_lt hc, Nat.add_zero]
  rw [bitAt, hdiv]
  cases neg <;> rfl

theorem sign_add_bare (f : Fmt) {x : ℕ} (hx : x < 2 ^ f.width) : f.sign (bitAt x (f.eb + f.mb)) + f.bare x = x := by
  have hlt : x / 2 ^ (f.eb + f.mb) < 2 := by
    rw [Nat.div_lt_iff_lt_mul (Nat.two_pow_pos _), ← pow_succ']
    rwa [Fmt.width, Nat.add_assoc, Nat.add_comm] at hx
  have hbit : b2n (bitAt x (f.eb + f.mb)) = x / 2 ^ (f.eb + f.mb) := by
    unfold bitAt
    interval_cases x / 2 ^ (f.eb + f.mb) <;> rfl
  rw [Fmt.sign, hbit, Fmt.bare]
  exact Nat.div_add_mod' x _

section
variable (hf : f.Sound)
include hf

theorem Fmt.Sound.mantissa : 4 ≤ 2 ^ f.mb := by
  calc 4 = 2 ^ 2 := rfl
    _ ≤ 2 ^ f.mb := Nat.pow_le_pow_right (by decide) hf.mb_lo

theorem Fmt.Sound.ones : 15 ≤ f.expOnes := by
  have : 2 ^ 4 ≤ 2 ^ f.eb := Nat.pow_le_pow_right (by decide) hf.eb_lo
  have := f.expOnes_succ
  omega

/-- The largest finite number lies below the exponent of all ones, or in it below its last mantissa in the format without infinities. -/
theorem le_maxFinite_iff (c : ℕ) : c ≤ f.maxFinite ↔
    c / 2 ^ f.mb < f.expOnes ∨ f.ieee = false ∧ c / 2 ^ f.mb = f.expOnes ∧ c % 2 ^ f.mb + 1 < 2 ^ f.mb := by
  have hP := hf.mantissa
  have hE := hf.ones
  have hlt : c / 2 ^ f.mb < f.expOnes ↔ c < f.expOnes * 2 ^ f.mb := Nat.div_lt_iff_lt_mul (by omega)
  have hsucc : c / 2 ^ f.mb < f.expOnes + 1 ↔ c < (f.expOnes + 1) * 2 ^ f.mb := Nat.div_lt_iff_lt_mul (by omega)
  rw [Nat.add_mul, Nat.one_mul] at hsucc
  have hmul : f.expOnes * 4 ≤ f.expOnes * 2 ^ f.mb := Nat.mul_le_mul_left _ hP
  have hdm := Nat.div_add_mod' c (2 ^ f.mb)
  unfold Fmt.maxFinite
  rcases Bool.eq_false_or_eq_true f.ieee with h | h
  · rw [h, hlt]
    simp only [if_true, Bool.true_eq_false, false_and, or_false]
    omega
  · rw [h]
    simp only [Bool.false_eq_true, if_false, true_and]
    constructor
    · intro hc
      rcases Nat.lt_or_ge (c / 2 ^ f.mb) f.expOnes with hl | hl
      · exact .inl hl
      · have heq : c / 2 ^ f.mb = f.expOnes := by omega
        rw [heq] at hdm
        exact .inr ⟨heq, by omega⟩
    · rintro (hl | ⟨heq, hm⟩)
      · have := hlt.mp hl
        omega
      · rw [heq] at hdm
        omega

theorem maxFinite_lt : f.maxFinite < 2 ^ (f.eb + f.mb) := by
  have hP := hf.mantissa
  have hE := hf.ones
  have hmul : f.expOnes * 4 ≤ f.expOnes * 2 ^ f.mb := Nat.mul_le_mul_left _ hP
  rw [f.two_pow_split, Nat.add_mul, Nat.one_mul, Fmt.maxFinite]
  split <;> omega

/-- Whether an encoding is an infinity or a NaN. -/
theorem special_iff (x : ℕ) : (x / 2 ^ f.mb % 2 ^ f.eb = f.expOnes && (f.ieee || x % 2 ^ f.mb = 2 ^ f.mb - 1)) = true ↔
    f.maxFinite < f.bare x := by
  have hP := hf.mantissa
  have hle : f.bare x / 2 ^ f.mb < f.expOnes + 1 := by
    rw [Nat.div_lt_iff_lt_mul (by omega), ← f.two_pow_split]
    exact bare_lt f x
  have hm := Nat.mod_lt (f.bare x) (Nat.two_pow_pos f.mb)
  rw [← not_le, le_maxFinite_iff hf, ← bare_div, ← bare_mod]
  simp only [Bool.and_eq_true, Bool.or_eq_true, decide_eq_true_eq]
  cases f.ieee <;> simp <;> omega

/-- What a finite encoding holds. -/
theorem decode_of_le {x : ℕ} (h : f.bare x ≤ f.maxFinite) : f.decode x = .fin (bitAt x (f.eb + f.mb))
    (if f.bare x / 2 ^ f.mb = 0 then f.bare x else 2 ^ f.mb + f.bare x % 2 ^ f.mb) (f.qmin + (f.bare x / 2 ^ f.mb - 1 : ℕ)) := by
  unfold Fmt.decode
  dsimp only
  rw [if_neg ((special_iff hf x).not.mpr (not_lt.mpr h)), ← bare_div, ← bare_mod]
  split
  · next h0 =>
    have hlt : f.bare x < 2 ^ f.mb := (Nat.div_eq_zero_iff_lt (Nat.two_pow_pos _)).mp h0
    rw [h0, Nat.mod_eq_of_lt hlt]
    simp
  · rfl

theorem le_of_decode_fin {x : ℕ} {neg : Bool} {k : ℕ} {j : ℤ} (h : f.decode x = .fin neg k j) : f.bare x ≤ f.maxFinite := by
  by_contra hc
  unfold Fmt.decode at h
  dsimp only at h
  rw [if_pos ((special_iff hf x).mpr (not_le.mp hc))] at h
  split at h <;> cases h

/-- The significand and the unit of a finite encoding. -/
theorem decode_fin {x : ℕ} {neg : Bool} {k : ℕ} {j : ℤ} (h : f.decode x = .fin neg k j) :
    neg = bitAt x (f.eb + f.mb) ∧ f.qmin ≤ j ∧ k < 2 ^ (f.mb + 1) ∧ (j = f.qmin ∨ 2 ^ f.mb ≤ k) ∧ f.bare x = f.encoded j k := by
  have hd := decode_of_le hf (le_of_decode_fin hf h)
  rw [h] at hd
  obtain ⟨hn, hk, hj⟩ := FVal.fin.inj hd
  have hdm := Nat.div_add_mod' (f.bare x) (2 ^ f.mb)
  have hm := Nat.mod_lt (f.bare x) (Nat.two_pow_pos f.mb)
  subst hn hj
  rw [Fmt.encoded, pow_succ, add_sub_cancel_left, Int.toNat_natCast]
  refine ⟨rfl, by omega, ?_⟩
  split at hk
  · next h0 =>
    have hlt : f.bare x < 2 ^ f.mb := (Nat.div_eq_zero_iff_lt (Nat.two_pow_pos _)).mp h0
    subst hk
    rw [h0]
    exact ⟨by omega, .inl (by simp), by simp⟩
  · next h0 =>
    obtain ⟨a, ha⟩ := Nat.exists_eq_succ_of_ne_zero h0
    subst hk
    rw [ha, Nat.succ_mul] at hdm
    rw [ha]
    exact ⟨by omega, .inr (by omega), by simp only [Nat.succ_sub_one]; omega⟩

theorem decode_sign_add {c : ℕ} (h : c ≤ f.maxFinite) (neg : Bool) : ∃ k j, f.decode (f.sign neg + c) = .fin neg k j ∧ f.qmin ≤ j ∧
    k < 2 ^ (f.mb + 1) ∧ (j = f.qmin ∨ 2 ^ f.mb ≤ k) ∧ c = f.encoded j k := by
  obtain ⟨hbare, hbit⟩ := sign_add f (lt_of_le_of_lt h (maxFinite_lt hf)) neg
  have hd := decode_of_le hf (x := f.sign neg + c) (by rwa [hbare])
  obtain ⟨-, h2, h3, h4, h5⟩ := decode_fin hf hd
  rw [hbit] at hd
  exact ⟨_, _, hd, h2, h3, h4, hbare.symm.trans h5⟩

end

/-- Two ways to encode a number: the same, or the first carries into the next exponent. -/
theorem encoded_inj {q j : ℤ} {k k' : ℕ} (hq : f.qmin ≤ q) (hj : f.qmin ≤ j) (hk : k ≤ 2 ^ (f.mb + 1)) (hqk : q = f.qmin ∨ 2 ^ f.mb ≤ k)
    (hk' : k' < 2 ^ (f.mb + 1)) (hjk : j = f.qmin ∨ 2 ^ f.mb ≤ k') (h : f.encoded q k = f.encoded j k') :
    k' = k ∧ j = q ∨ k = 2 ^ (f.mb + 1) ∧ k' = 2 ^ f.mb ∧ j = q + 1 := by
  have hpos := Nat.two_pow_pos f.mb
  obtain ⟨a, ha⟩ := Int.eq_ofNat_of_zero_le (sub_nonneg.mpr hq)
  obtain ⟨b, hb⟩ := Int.eq_ofNat_of_zero_le (sub_nonneg.mpr hj)
  simp only [Fmt.encoded, ha, hb, Int.toNat_natCast] at h
  rw [pow_succ] at *
  rcases lt_trichotomy a b with hab | rfl | hab
  · obtain ⟨d, rfl⟩ := Nat.exists_eq_add_of_lt hab
    have hP : 2 ^ f.mb ≤ k' := hjk.resolve_left (by omega)
    rw [Nat.add_mul, Nat.add_mul, Nat.one_mul] at h
    have hd : d * 2 ^ f.mb = 0 := by omega
    have hd0 : d = 0 := (Nat.mul_eq_zero.mp hd).resolve_right hpos.ne'
    exact .inr ⟨by omega, by omega, by omega⟩
  · exact .inl ⟨by omega, by omega⟩
  · obtain ⟨d, rfl⟩ := Nat.exists_eq_add_of_lt hab
    have hP : 2 ^ f.mb ≤ k := hqk.resolve_left (by omega)
    rw [Nat.add_mul, Nat.add_mul, Nat.one_mul] at h
    omega

end
end Sys2Proof.Machine
end

section
/-! # What a rounded result holds -/
namespace Sys2Proof.Machine

section
variable {f : Fmt} {mode : Rounding} {neg : Bool}

/-! ### Rounding, as an equation -/

/-- The unit in which a magnitude with its leading bit at `top` is kept. -/
def Fmt.unitAt (f : Fmt) (top : ℤ) : ℤ := max (top - f.mb) f.qmin

/-- The magnitude m * 2^e, with its leading bit at `top`, lies below the normal numbers, and stays there when it is rounded with an unbounded
exponent. -/
def Fmt.tiny (f : Fmt) (mode : Rounding) (neg : Bool) (m : ℕ) (e : ℤ) (st : Bool) (top : ℤ) : Bool :=
  top < 1 - (f.bias : ℤ) && !(top = -(f.bias : ℤ) && 2 ^ (f.mb + 1) ≤ (roundAt mode neg m e st (top - f.mb)).1)

theorem round_eq {m : ℕ} {e : ℤ} {st : Bool} (h : (m = 0 && !st) = false) : f.round mode neg m e st =
    let top := e + (m.log2 : ℤ)
    let q := f.unitAt top
    let k := roundAt mode neg m e st q
    if f.maxFinite < f.encoded q k.1 then (f.overflow mode neg, flagOF ||| flagNX)
    else (f.sign neg + f.encoded q k.1, flagIf (f.tiny mode neg m e st top && k.2) flagUF ||| flagIf k.2 flagNX) := by
  unfold Fmt.round
  rw [h]
  rfl

theorem round_zero (e : ℤ) : f.round mode neg 0 e false = (f.sign neg, 0) := rfl

theorem round_flags (a b : Bool) : let fl := flagIf a flagUF ||| flagIf b flagNX
    fl.getLsbD 2 = false ∧ fl.getLsbD 3 = a ∧ fl.getLsbD 4 = b := by
  cases a <;> cases b <;> decide

/-! ### Where a magnitude lies -/

theorem Exactly.top_le {m : ℕ} {e : ℤ} {st : Bool} {q : ℚ} (h : Exactly m e st q) (hm : m ≠ 0) : (2 : ℚ) ^ (e + (m.log2 : ℤ)) ≤ q := by
  have hpow : ((2 ^ m.log2 : ℕ) : ℚ) ≤ m := by exact_mod_cast Nat.log2_self_le hm
  have hpos : (0 : ℚ) < 2 ^ e := by positivity
  calc (2 : ℚ) ^ (e + (m.log2 : ℤ)) = ((2 ^ m.log2 : ℕ) : ℚ) * 2 ^ e := by
        rw [zpow_add₀ (by norm_num), zpow_natCast]
        push_cast
        ring
    _ ≤ m * 2 ^ e := by gcongr
    _ ≤ q := h.lo

theorem Exactly.lt_top {m : ℕ} {e : ℤ} {st : Bool} {q : ℚ} (h : Exactly m e st q) : q < (2 : ℚ) ^ (e + (m.log2 : ℤ) + 1) := by
  have hpow : (m : ℚ) + 1 ≤ ((2 ^ (m.log2 + 1) : ℕ) : ℚ) := by exact_mod_cast Nat.lt_log2_self
  have hpos : (0 : ℚ) < 2 ^ e := by positivity
  calc q < (m + 1) * 2 ^ e := h.hi
    _ ≤ ((2 ^ (m.log2 + 1) : ℕ) : ℚ) * 2 ^ e := by gcongr
    _ = (2 : ℚ) ^ (e + (m.log2 : ℤ) + 1) := by
        rw [add_assoc, zpow_add₀ (by norm_num), show ((m.log2 : ℤ) + 1) = ((m.log2 + 1 : ℕ) : ℤ) by push_cast; ring, zpow_natCast]
        push_cast
        ring

theorem lt_of_two_zpow_lt {a b : ℤ} (h : (2 : ℚ) ^ a < 2 ^ b) : a < b := (zpow_lt_zpow_iff_right₀ (by norm_num)).mp h

theorem two_zpow_le {a b : ℤ} (h : a ≤ b) : (2 : ℚ) ^ a ≤ 2 ^ b := zpow_le_zpow_right₀ (by norm_num) h

theorem two_zpow_nat_add (n : ℕ) (q : ℤ) : (2 : ℚ) ^ n * 2 ^ q = 2 ^ ((n : ℤ) + q) := by
  rw [zpow_add₀ (by norm_num), zpow_natCast]

/-- A finer rounding that reaches a boundary takes the coarser one there too. -/
theorem RoundsTo.boundary {x : ℚ} {k k0 n : ℕ} (h : RoundsTo mode neg x k) (h0 : RoundsTo mode neg (2 * x) k0) (hn : 2 * n ≤ k0) : n ≤ k := by
  by_contra hc
  have hk : (k : ℚ) + 1 ≤ n := by exact_mod_cast not_le.mp hc
  have hn' : 2 * (n : ℚ) ≤ k0 := by exact_mod_cast hn
  obtain ⟨hrne, hrz, hru, hrd⟩ := h
  obtain ⟨hrne0, hrz0, hru0, hrd0⟩ := h0
  cases mode with
  | rne =>
    have h1 := abs_le.mp (hrne rfl).1
    have h2 := abs_le.mp (hrne0 rfl).1
    linarith
  | rz => linarith [(hrz rfl).2, (hrz0 rfl).1]
  | ru =>
    have h1 := hru rfl
    have h2 := hru0 rfl
    cases neg <;> simp only [if_true, Bool.false_eq_true, if_false] at h1 h2 <;> linarith
  | rd =>
    have h1 := hrd rfl
    have h2 := hrd0 rfl
    cases neg <;> simp only [if_true, Bool.false_eq_true, if_false] at h1 h2 <;> linarith

/-! ### The result -/

/-- The magnitude Q, rounded to k units of 2^q, gives the result r: finite, or an overflow. -/
structure Fmt.Lands (f : Fmt) (mode : Rounding) (neg : Bool) (Q : ℚ) (r : FRes) (q : ℤ) (k : ℕ) : Prop where
  unit : f.qmin ≤ q
  kept : RoundsTo mode neg (Q / 2 ^ q) k
  lt : Q / 2 ^ q < 2 ^ (f.mb + 1)
  normal : q = f.qmin ∨ (2 : ℚ) ^ f.mb ≤ Q / 2 ^ q
  overflows : f.maxFinite < f.encoded q k → r = (f.overflow mode neg, 0x14)
  finite : f.encoded q k ≤ f.maxFinite → r.1 = f.sign neg + f.encoded q k ∧ r.2.getLsbD 2 = false ∧
    (r.2.getLsbD 4 = true ↔ (k : ℚ) ≠ Q / 2 ^ q) ∧
    (r.2.getLsbD 3 = true → (k : ℚ) ≠ Q / 2 ^ q ∧ Q < 2 ^ (1 - (f.bias : ℤ))) ∧
    ((k : ℚ) ≠ Q / 2 ^ q → (k : ℚ) * 2 ^ q < 2 ^ (1 - (f.bias : ℤ)) → r.2.getLsbD 3 = true)

section
variable {Q : ℚ} {m : ℕ} {e : ℤ} {st : Bool}

theorem Exactly.div_unit_lt (h : Exactly m e st Q) : Q / 2 ^ f.unitAt (e + (m.log2 : ℤ)) < 2 ^ (f.mb + 1) := by
  have hpos : (0 : ℚ) < 2 ^ f.unitAt (e + (m.log2 : ℤ)) := by positivity
  rw [div_lt_iff₀ hpos, two_zpow_nat_add]
  exact lt_of_lt_of_le h.lt_top (two_zpow_le (by unfold Fmt.unitAt; push_cast; omega))

theorem Exactly.normal_unit (h : Exactly m e st Q) (hm : m ≠ 0) {q : ℤ} (hq : q ≤ e + (m.log2 : ℤ) - f.mb) : (2 : ℚ) ^ f.mb ≤ Q / 2 ^ q := by
  have hpos : (0 : ℚ) < 2 ^ q := by positivity
  rw [le_div_iff₀ hpos, two_zpow_nat_add]
  exact le_trans (two_zpow_le (by omega)) (h.top_le hm)

/-- A rounded number below the normal ones is tiny. -/
theorem Exactly.tiny_of_lt (h : Exactly m e st Q) (hm : m ≠ 0) (hst : st = true → 2 ^ (f.mb + 2) ≤ m)
    (hlt : ((roundAt mode neg m e st (f.unitAt (e + (m.log2 : ℤ)))).1 : ℚ) * 2 ^ f.unitAt (e + (m.log2 : ℤ)) < 2 ^ (1 - (f.bias : ℤ))) :
    f.tiny mode neg m e st (e + (m.log2 : ℤ)) = true := by
  obtain ⟨top, htop⟩ : ∃ top, e + (m.log2 : ℤ) = top := ⟨_, rfl⟩
  have hsticky {q : ℤ} (hq : top - f.mb ≤ q) : st = true → e < q := fun hs => by
    have : f.mb + 2 ≤ m.log2 := (Nat.le_log2 hm).mpr (hst hs)
    omega
  have hkept {q : ℤ} (hq : top - f.mb ≤ q) := (roundAt_spec (mode := mode) (neg := neg) h (hsticky hq)).1
  rw [htop] at hlt ⊢
  have hunit : top - f.mb ≤ f.unitAt top := le_max_left ..
  have hbelow {n : ℕ} (hn : (2 : ℚ) ^ (1 - (f.bias : ℤ)) ≤ n * 2 ^ f.unitAt top) : ¬ n ≤ (roundAt mode neg m e st (f.unitAt top)).1 := fun hc => by
    have hc' : (n : ℚ) ≤ (roundAt mode neg m e st (f.unitAt top)).1 := by exact_mod_cast hc
    have hmul := mul_le_mul_of_nonneg_right hc' (show (0 : ℚ) ≤ 2 ^ f.unitAt top by positivity)
    linarith
  have hreach (hq : 1 - (f.bias : ℤ) ≤ (f.mb : ℤ) + f.unitAt top) : (2 : ℚ) ^ (1 - (f.bias : ℤ)) ≤ (2 ^ f.mb : ℕ) * 2 ^ f.unitAt top := by
    push_cast
    rw [two_zpow_nat_add]
    exact two_zpow_le hq
  have hqmin : f.qmin = 1 - (f.bias : ℤ) - f.mb := rfl
  have htl : top < 1 - (f.bias : ℤ) := by
    by_contra hc
    have hq : f.unitAt top = top - f.mb := max_eq_left (by omega)
    refine hbelow (hreach (by omega)) ((hkept hunit).ge ?_)
    push_cast
    exact h.normal_unit hm (by omega)
  have hat : ¬ (top = -(f.bias : ℤ) ∧ 2 ^ (f.mb + 1) ≤ (roundAt mode neg m e st (top - f.mb)).1) := fun ⟨ht, hk0⟩ => by
    have hq : f.unitAt top = f.qmin := max_eq_right (by omega)
    have hdouble : Q / 2 ^ (top - f.mb) = 2 * (Q / 2 ^ f.unitAt top) := by
      rw [hq, show f.qmin = (top - f.mb) + 1 by omega, zpow_add₀ (by norm_num)]
      field_simp
    have h0 := hkept (le_refl (top - f.mb))
    rw [hdouble] at h0
    exact hbelow (hreach (by omega)) ((hkept hunit).boundary h0 (by rw [pow_succ] at hk0; omega))
  simp only [Fmt.tiny, htl, decide_true, Bool.true_and, Bool.not_eq_true', Bool.and_eq_false_iff, decide_eq_false_iff_not]
  tauto

theorem lands_round (h : Exactly m e st Q) (hQ : 0 < Q) (hst : st = true → 2 ^ (f.mb + 2) ≤ m) :
    ∃ q k, f.Lands mode neg Q (f.round mode neg m e st) q k := by
  have hm : m ≠ 0 := by
    rintro rfl
    have hs : st = false := Bool.eq_false_iff.mpr fun hs => by
      have := hst hs
      have := Nat.two_pow_pos (f.mb + 2)
      omega
    have := h.sticky
    rw [hs] at this
    simp at this
    linarith
  obtain ⟨top, htop⟩ : ∃ top, e + (m.log2 : ℤ) = top := ⟨_, rfl⟩
  have hunit : top - f.mb ≤ f.unitAt top := le_max_left ..
  have hsticky : st = true → e < f.unitAt top := fun hs => by
    have : f.mb + 2 ≤ m.log2 := (Nat.le_log2 hm).mpr (hst hs)
    omega
  obtain ⟨hkept, hinexact⟩ := roundAt_spec (mode := mode) (neg := neg) h hsticky
  have hround := round_eq (f := f) (mode := mode) (neg := neg) (m := m) (e := e) (st := st) (by simp [hm])
  simp only [htop] at hround
  have hlt := h.div_unit_lt (f := f)
  rw [htop] at hlt
  refine ⟨f.unitAt top, (roundAt mode neg m e st (f.unitAt top)).1, le_max_right .., hkept, hlt, ?_, fun hover => ?_, fun hfin => ?_⟩
  · rcases max_choice (top - (f.mb : ℤ)) f.qmin with hc | hc
    · exact .inr (h.normal_unit hm (by rw [htop]; exact hc.le))
    · exact .inl hc
  · rw [hround, if_pos hover]
    rfl
  · rw [hround, if_neg (not_lt.mpr hfin)]
    obtain ⟨h2, h3, h4⟩ := round_flags (f.tiny mode neg m e st top && (roundAt mode neg m e st (f.unitAt top)).2)
      (roundAt mode neg m e st (f.unitAt top)).2
    refine ⟨rfl, h2, by rw [h4]; exact hinexact, fun hu => ?_, fun hne hlow => ?_⟩
    · rw [h3, Bool.and_eq_true] at hu
      refine ⟨hinexact.mp hu.2, ?_⟩
      have htl : top < 1 - (f.bias : ℤ) := by
        have := hu.1
        simp only [Fmt.tiny, Bool.and_eq_true, decide_eq_true_eq] at this
        exact this.1
      have := h.lt_top
      rw [htop] at this
      exact lt_of_lt_of_le this (two_zpow_le (by omega))
    · rw [h3, Bool.and_eq_true]
      have := h.tiny_of_lt (f := f) (mode := mode) (neg := neg) hm hst (by rw [htop]; exact hlow)
      rw [htop] at this
      exact ⟨this, hinexact.mpr hne⟩

theorem lands_of_rounds {r : FRes} (hQ : 0 < Q) (h : f.Rounds mode neg Q r) : ∃ q k, f.Lands mode neg Q r q k := by
  obtain ⟨m, e, st, hlo, hhi, hst, hbig, rfl⟩ := h
  exact lands_round ⟨hlo, hhi, hst⟩ hQ hbig

end
end
end Sys2Proof.Machine
end

section
/-! # Rounding gives the exact magnitude, or one of its neighbours -/
namespace Sys2Proof.Machine

section
variable {f : Fmt} {mode : Rounding} {neg : Bool}

/-! ### Values that the format holds -/

theorem decode_bounds (hf : f.Sound) {x : ℕ} {m : ℕ} {e : ℤ} (h : f.decode x = .fin neg m e) : f.qmin ≤ e ∧ m < 2 ^ (f.mb + 1) := by
  obtain ⟨-, he, hm, -⟩ := decode_fin hf h
  exact ⟨he, hm⟩

theorem round_of_decode (hf : f.Sound) {x : ℕ} {m : ℕ} {e : ℤ} (hx : x < 2 ^ f.width) (h : f.decode x = .fin neg m e) :
    f.round mode neg m e = (x, 0) := by
  obtain ⟨hneg, he, hm, hor, henc⟩ := decode_fin hf h
  have hbits := sign_add_bare f hx
  rw [← hneg, henc] at hbits
  rcases Nat.eq_zero_or_pos m with rfl | hpos
  · have hzero : f.encoded e 0 = 0 := by
      rcases hor with rfl | hle
      · simp [Fmt.encoded]
      · have := Nat.two_pow_pos f.mb
        omega
    rw [round_zero, ← hbits, hzero, Nat.add_zero]
  · have hlog : m.log2 ≤ f.mb := Nat.lt_succ_iff.mp ((Nat.log2_lt hpos.ne').mpr hm)
    have hunit : f.unitAt (e + (m.log2 : ℤ)) = e := by
      rcases hor with rfl | hle
      · exact max_eq_right (by omega)
      · have : f.mb ≤ m.log2 := (Nat.le_log2 hpos.ne').mpr hle
        rw [Fmt.unitAt, show e + (m.log2 : ℤ) - f.mb = e by omega]
        exact max_eq_left he
    have hat : roundAt mode neg m e false e = (m, false) := by simp [roundAt, b2n]
    have hle : f.encoded e m ≤ f.maxFinite := henc ▸ le_of_decode_fin hf h
    rw [round_eq (by simp [hpos.ne'])]
    simp only [hunit, hat, if_neg (not_lt.mpr hle), hbits, Bool.and_false]
    rfl

/-! ### The neighbours of a magnitude -/

/-- v is q rounded, in numbers whose unit is ulp. -/
structure RoundedTo (mode : Rounding) (neg : Bool) (q v ulp : ℚ) (even : Prop) : Prop where
  rne : mode = .rne → |v - q| ≤ ulp / 2 ∧ (|v - q| = ulp / 2 → even)
  rz : mode = .rz → v ≤ q ∧ q < v + ulp
  ru : mode = .ru → if neg then v ≤ q ∧ q < v + ulp else q ≤ v ∧ v < q + ulp
  rd : mode = .rd → if neg then q ≤ v ∧ v < q + ulp else v ≤ q ∧ q < v + ulp

theorem RoundsTo.scaled {Q U : ℚ} {k : ℕ} (hU : 0 < U) (h : RoundsTo mode neg (Q / U) k) : RoundedTo mode neg Q (k * U) U (k % 2 = 0) := by
  have hle (a : ℚ) : a ≤ Q / U ↔ a * U ≤ Q := le_div_iff₀ hU
  have hlt (a : ℚ) : Q / U < a ↔ Q < a * U := div_lt_iff₀ hU
  have hge (a : ℚ) : Q / U ≤ a ↔ Q ≤ a * U := div_le_iff₀ hU
  have hsucc : ((k : ℚ) + 1) * U = k * U + U := by ring
  have hup : (k : ℚ) < Q / U + 1 ↔ k * U < Q + U := by
    rw [show Q / U + 1 = (Q + U) / U by field_simp, lt_div_iff₀ hU]
  have habs : |(k : ℚ) * U - Q| = |(k : ℚ) - Q / U| * U := by
    rw [show (k : ℚ) * U - Q = (k - Q / U) * U by field_simp, abs_mul, abs_of_pos hU]
  obtain ⟨hrne, hrz, hru, hrd⟩ := h
  simp only [hle, hlt, hge, hsucc, hup] at hrz hru hrd
  refine ⟨fun hm => ?_, hrz, hru, hrd⟩
  obtain ⟨h1, h2⟩ := hrne hm
  rw [habs]
  refine ⟨by nlinarith, fun ht => h2 ?_⟩
  have : (|(k : ℚ) - Q / U| - 1 / 2) * U = 0 := by linarith
  linarith [(mul_eq_zero.mp this).resolve_right hU.ne']

/-- A number rounded to a unit is rounded to twice the unit where it is a multiple of that. -/
theorem RoundedTo.double {q v U : ℚ} {even even' : Prop} (hU : 0 < U) (h : RoundedTo mode neg q v U even) : RoundedTo mode neg q v (2 * U) even' := by
  obtain ⟨hrne, hrz, hru, hrd⟩ := h
  refine ⟨fun hm => ?_, fun hm => ?_, fun hm => ?_, fun hm => ?_⟩
  · obtain ⟨h1, -⟩ := hrne hm
    exact ⟨by linarith, fun ht => absurd h1 (by linarith)⟩
  · obtain ⟨h1, h2⟩ := hrz hm
    exact ⟨h1, by linarith⟩
  · have := hru hm
    cases neg <;> simp only [if_true, Bool.false_eq_true, if_false] at this ⊢ <;> exact ⟨this.1, by linarith⟩
  · have := hrd hm
    cases neg <;> simp only [if_true, Bool.false_eq_true, if_false] at this ⊢ <;> exact ⟨this.1, by linarith⟩

/-! ### Finite results -/

namespace Fmt.Lands
variable {Q : ℚ} {r : FRes} {q : ℤ} {k : ℕ} (h : f.Lands mode neg Q r q k)
include h

theorem le_carry : k ≤ 2 ^ (f.mb + 1) := h.kept.le (by exact_mod_cast h.lt.le)

theorem normal_bit : q = f.qmin ∨ 2 ^ f.mb ≤ k := h.normal.imp_right fun hn => h.kept.ge (by exact_mod_cast hn)

theorem overflow_iff : r.2.getLsbD 2 = true ↔ f.maxFinite < f.encoded q k := by
  constructor
  · intro hb
    by_contra hc
    rw [(h.finite (not_lt.mp hc)).2.1] at hb
    cases hb
  · intro hc
    rw [h.overflows hc]
    exact (by decide : (0x14 : Flags).getLsbD 2 = true)

theorem finite_iff : r.2.getLsbD 2 = false ↔ f.encoded q k ≤ f.maxFinite := by
  rw [← not_lt, ← h.overflow_iff, Bool.not_eq_true]

/-- A finite result holds the rounded value. -/
theorem decode (hf : f.Sound) (hfin : r.2.getLsbD 2 = false) : ∃ k' j, f.decode r.1 = .fin neg k' j ∧ (k' : ℚ) * 2 ^ j = k * 2 ^ q ∧
    RoundedTo mode neg Q ((k' : ℚ) * 2 ^ j) (2 ^ j) (k' % 2 = 0) := by
  have hle := h.finite_iff.mp hfin
  obtain ⟨hr, -⟩ := h.finite hle
  obtain ⟨k', j, hd, hj, hk', hor, henc⟩ := decode_sign_add hf hle neg
  have hU : (0 : ℚ) < 2 ^ q := by positivity
  rw [← hr] at hd
  refine ⟨k', j, hd, ?_⟩
  rcases encoded_inj h.unit hj h.le_carry h.normal_bit hk' hor henc with ⟨rfl, rfl⟩ | ⟨hk, rfl, rfl⟩
  · exact ⟨rfl, h.kept.scaled hU⟩
  · have hval : ((2 ^ f.mb : ℕ) : ℚ) * 2 ^ (q + 1) = k * 2 ^ q := by
      rw [hk, zpow_add₀ (by norm_num)]
      push_cast
      ring
    rw [hval]
    refine ⟨rfl, ?_⟩
    rw [zpow_add₀ (by norm_num), zpow_one, mul_comm (2 ^ q : ℚ) 2]
    exact (h.kept.scaled hU).double hU

omit h in
theorem value_eq_iff : (k : ℚ) = Q / 2 ^ q ↔ (k : ℚ) * 2 ^ q = Q := eq_div_iff (by positivity)

end Fmt.Lands

/-! ### Overflow -/

theorem overflow_eq (f : Fmt) (mode : Rounding) (neg : Bool) : f.overflow mode neg =
    f.sign neg + (if mode = .rne ∨ mode = .ru ∧ neg = false ∨ mode = .rd ∧ neg = true then f.infinity else f.maxFinite) := by
  cases mode <;> cases neg <;> rfl

section
variable {Q : ℚ} {r : FRes} {q : ℤ} {k K : ℕ} {J : ℤ}

/-- The significand and the unit of the largest finite number. -/
theorem maxFinite_parts (hf : f.Sound) (h : f.decode f.maxFinite = .fin false K J) :
    f.qmin ≤ J ∧ 2 ^ f.mb ≤ K ∧ K < 2 ^ (f.mb + 1) ∧ f.maxFinite = f.encoded J K := by
  obtain ⟨-, hJ, hK, hor, henc⟩ := decode_fin hf h
  have hbare : f.bare f.maxFinite = f.maxFinite := Nat.mod_eq_of_lt (maxFinite_lt hf)
  rw [hbare] at henc
  refine ⟨hJ, ?_, hK, henc⟩
  rcases hor with rfl | hle
  · have h2 : 2 * 2 ^ f.mb ≤ f.maxFinite := (le_maxFinite_iff hf _).mpr (.inl (by
      rw [Nat.mul_div_cancel _ (Nat.two_pow_pos _)]
      have := hf.ones
      omega))
    rw [henc, Fmt.encoded, sub_self, Int.toNat_zero, Nat.zero_mul, Nat.zero_add] at h2
    have := Nat.two_pow_pos f.mb
    omega
  · exact hle

theorem Fmt.Lands.unit_le (h : f.Lands mode neg Q r q k) (hJ : f.qmin ≤ J) (hK : K < 2 ^ (f.mb + 1)) (hQ : Q ≤ (K : ℚ) * 2 ^ J) : q ≤ J := by
  rcases h.normal with rfl | hn
  · exact hJ
  · have hpos : (0 : ℚ) < 2 ^ q := by positivity
    rw [le_div_iff₀ hpos] at hn
    have hKlt : (K : ℚ) < 2 ^ (f.mb + 1) := by exact_mod_cast hK
    have hlt : (2 : ℚ) ^ ((f.mb : ℤ) + q) < 2 ^ ((f.mb + 1 : ℕ) + J) := by
      rw [← two_zpow_nat_add, ← two_zpow_nat_add]
      calc _ ≤ Q := hn
        _ ≤ K * 2 ^ J := hQ
        _ < 2 ^ (f.mb + 1) * 2 ^ J := by gcongr
    have := lt_of_two_zpow_lt hlt
    push_cast at this
    omega

theorem Fmt.Lands.le_unit (h : f.Lands mode neg Q r q k) (hK : 2 ^ f.mb ≤ K) (hQ : ((K : ℚ) + 1) * 2 ^ J ≤ Q) : J ≤ q := by
  have hpos : (0 : ℚ) < 2 ^ q := by positivity
  have hlt := h.lt
  rw [div_lt_iff₀ hpos] at hlt
  have hKle : (2 : ℚ) ^ f.mb ≤ K := by exact_mod_cast hK
  have hle : (2 : ℚ) ^ ((f.mb : ℤ) + J) < 2 ^ ((f.mb + 1 : ℕ) + q) := by
    rw [← two_zpow_nat_add, ← two_zpow_nat_add]
    calc (2 : ℚ) ^ f.mb * 2 ^ J ≤ K * 2 ^ J := by gcongr
      _ ≤ (K + 1) * 2 ^ J := by gcongr; linarith
      _ ≤ Q := hQ
      _ < _ := hlt
  have := lt_of_two_zpow_lt hle
  push_cast at this
  omega

/-- An overflow comes of a magnitude above the largest finite number, and of every one that is a unit above it. -/
theorem Fmt.Lands.overflow_bounds (h : f.Lands mode neg Q r q k) (hf : f.Sound) (hmax : f.decode f.maxFinite = .fin false K J) :
    (r.2.getLsbD 2 = true → (K : ℚ) * 2 ^ J < Q) ∧ ((K + 1 : ℚ) * 2 ^ J ≤ Q → r.2.getLsbD 2 = true) := by
  obtain ⟨hJ, hKlo, hKhi, henc⟩ := maxFinite_parts hf hmax
  have hcarry := h.le_carry
  rw [h.overflow_iff, henc]
  obtain ⟨a, ha⟩ := Int.eq_ofNat_of_zero_le (sub_nonneg.mpr h.unit)
  obtain ⟨b, hb⟩ := Int.eq_ofNat_of_zero_le (sub_nonneg.mpr hJ)
  simp only [Fmt.encoded, ha, hb, Int.toNat_natCast]
  rw [pow_succ] at hKhi hcarry
  have hpos := Nat.two_pow_pos f.mb
  constructor
  · intro hover
    by_contra hc
    rw [not_lt] at hc
    have hqJ := h.unit_le hJ (by rwa [pow_succ]) hc
    have hkK : k ≤ K * 2 ^ (J - q).toNat := h.kept.le (by
      rw [div_le_iff₀ (by positivity)]
      push_cast
      rwa [mul_assoc, ← two_zpow_split hqJ])
    rcases Nat.lt_or_ge a b with hab | hab
    · have : (a + 1) * 2 ^ f.mb ≤ b * 2 ^ f.mb := Nat.mul_le_mul_right _ hab
      rw [Nat.add_mul, Nat.one_mul] at this
      omega
    · rw [show J - q = 0 by omega, Int.toNat_zero, pow_zero, Nat.mul_one] at hkK
      rw [show a = b by omega] at hover
      omega
  · intro hQ
    have hJq := h.le_unit hKlo hQ
    rcases Nat.lt_or_ge b a with hab | hab
    · have hk : 2 ^ f.mb ≤ k := h.normal_bit.resolve_left (by omega)
      have : (b + 1) * 2 ^ f.mb ≤ a * 2 ^ f.mb := Nat.mul_le_mul_right _ hab
      rw [Nat.add_mul, Nat.one_mul] at this
      omega
    · have hq : q = J := by omega
      have hk : K + 1 ≤ k := h.kept.ge (by
        rw [hq, le_div_iff₀ (by positivity)]
        push_cast
        exact hQ)
      rw [show a = b by omega]
      omega

end
end
end Sys2Proof.Machine
end

section
/-! # Rounding, as R93 to R96 state it -/
namespace Sys2Proof.Machine

section
variable {f : Fmt} {mode : Rounding} {neg : Bool}

/-- What a result that does not overflow holds, with its flags. -/
theorem Fmt.Lands.result {Q : ℚ} {r : FRes} {q : ℤ} {k : ℕ} (h : f.Lands mode neg Q r q k) (hf : f.Sound) (hfin : r.2.getLsbD 2 = false) :
    ∃ k' j, f.decode r.1 = .fin neg k' j ∧ RoundedTo mode neg Q ((k' : ℚ) * 2 ^ j) (2 ^ j) (k' % 2 = 0) ∧
      (r.2.getLsbD 4 = true ↔ (k' : ℚ) * 2 ^ j ≠ Q) ∧
      (r.2.getLsbD 3 = true → (k' : ℚ) * 2 ^ j ≠ Q ∧ Q < 2 ^ (1 - (f.bias : ℤ))) ∧
      ((k' : ℚ) * 2 ^ j ≠ Q → (k' : ℚ) * 2 ^ j < 2 ^ (1 - (f.bias : ℤ)) → r.2.getLsbD 3 = true) := by
  obtain ⟨k', j, hd, hval, hround⟩ := h.decode hf hfin
  obtain ⟨-, -, hnx, huf, huf'⟩ := h.finite (h.finite_iff.mp hfin)
  refine ⟨k', j, hd, hround, ?_⟩
  rw [hval]
  simp only [ne_eq, Fmt.Lands.value_eq_iff] at hnx huf huf'
  exact ⟨hnx, huf, huf'⟩

theorem rounds_result (hf : f.Sound) {q : ℚ} {r : FRes} (hq : 0 < q) (h : f.Rounds mode neg q r) :
    (r.2.getLsbD 2 = false → ∃ k j, f.decode r.1 = .fin neg k j ∧
      let v : ℚ := k * 2 ^ j
      let ulp : ℚ := 2 ^ j
      (mode = .rne → |v - q| ≤ ulp / 2 ∧ (|v - q| = ulp / 2 → k % 2 = 0)) ∧ (mode = .rz → v ≤ q ∧ q < v + ulp) ∧
      (mode = .ru → if neg then v ≤ q ∧ q < v + ulp else q ≤ v ∧ v < q + ulp) ∧
      (mode = .rd → if neg then q ≤ v ∧ v < q + ulp else v ≤ q ∧ q < v + ulp) ∧ (r.2.getLsbD 4 = true ↔ v ≠ q) ∧
      (r.2.getLsbD 3 = true → v ≠ q ∧ q < 2 ^ (1 - (f.bias : Int))) ∧ (v ≠ q → v < 2 ^ (1 - (f.bias : Int)) → r.2.getLsbD 3 = true)) ∧
    (r.2.getLsbD 2 = true →
      r = (f.sign neg + (if mode = .rne ∨ mode = .ru ∧ neg = false ∨ mode = .rd ∧ neg = true then f.infinity else f.maxFinite), 0x14)) ∧
    ∀ k j, f.decode f.maxFinite = .fin false k j →
      (r.2.getLsbD 2 = true → (k : ℚ) * 2 ^ j < q) ∧ ((k + 1 : ℚ) * 2 ^ j ≤ q → r.2.getLsbD 2 = true) := by
  obtain ⟨u, n, hl⟩ := lands_of_rounds hq h
  refine ⟨fun hfin => ?_, fun hover => ?_, fun k j hmax => hl.overflow_bounds hf hmax⟩
  · obtain ⟨k, j, hd, ⟨hrne, hrz, hru, hrd⟩, hnx, huf, huf'⟩ := hl.result hf hfin
    exact ⟨k, j, hd, hrne, hrz, hru, hrd, hnx, huf, huf'⟩
  · rw [← overflow_eq]
    exact hl.overflows (hl.overflow_iff.mp hover)

/-- Two numbers over the least of their units. -/
theorem over_least {m : ℕ} {e g : ℤ} (h : g ≤ e) : ((m * 2 ^ (e - g).toNat : ℕ) : ℚ) * 2 ^ g = m * 2 ^ e := by
  rw [two_zpow_split h]
  push_cast
  ring

/-- A result that does not overflow, beside the exact multiple of 2^e that it came of. -/
theorem round_beside (hf : f.Sound) {x m k : ℕ} {e j : ℤ} (hx : f.decode x = .fin neg k j) (hm : 0 < m)
    (hr : (f.round mode neg m e).1 = x) (hfin : (f.round mode neg m e).2.getLsbD 2 = false) :
    let r := f.round mode neg m e
    let unit := j
    let g := min e unit
    let exact := m * 2 ^ (e - g).toNat
    let got := k * 2 ^ (unit - g).toNat
    let ulp := 2 ^ (unit - g).toNat
    (mode = .rne → 2 * (exact - got) ≤ ulp ∧ 2 * (got - exact) ≤ ulp) ∧ (mode = .rz → got ≤ exact ∧ exact < got + ulp) ∧
    (mode = .ru → if neg then got ≤ exact else exact ≤ got) ∧ (mode = .rd → if neg then exact ≤ got else got ≤ exact) ∧
    (r.2.getLsbD 4 = decide (got ≠ exact)) := by
  intro r unit g exact got ulp
  have hQ : (0 : ℚ) < (m : ℚ) * 2 ^ e := by positivity
  obtain ⟨q, n, hl⟩ := lands_round (f := f) (mode := mode) (neg := neg) (exactly_self m e) hQ nofun
  obtain ⟨k', j', hd, ⟨hrne, hrz, hru, hrd⟩, hnx, -⟩ := hl.result hf hfin
  rw [hr, hx] at hd
  obtain ⟨-, rfl, rfl⟩ := FVal.fin.inj hd
  have hG : (0 : ℚ) < 2 ^ g := by positivity
  have hexact : (exact : ℚ) * 2 ^ g = m * 2 ^ e := over_least (min_le_left ..)
  have hgot : (got : ℚ) * 2 ^ g = k * 2 ^ j := over_least (min_le_right ..)
  have hulp : (ulp : ℚ) * 2 ^ g = 2 ^ j := by
    have := over_least (m := 1) (show g ≤ j from min_le_right ..)
    rwa [Nat.one_mul, Nat.cast_one, one_mul] at this
  rw [← hexact, ← hgot, ← hulp] at hrne
  rw [← hexact, ← hgot, ← hulp] at hrz
  rw [← hexact, ← hgot, ← hulp] at hru
  rw [← hexact, ← hgot, ← hulp] at hrd
  rw [← hexact, ← hgot] at hnx
  have hle {a b : ℕ} : (a : ℚ) * 2 ^ g ≤ b * 2 ^ g ↔ a ≤ b := by
    rw [mul_le_mul_iff_left₀ hG, Nat.cast_le]
  refine ⟨fun hmode => ?_, fun hmode => ?_, fun hmode => ?_, fun hmode => ?_, ?_⟩
  · have habs := abs_le.mp (hrne hmode).1
    have h1 : 2 * exact ≤ ulp + 2 * got := hle.mp (by push_cast; linarith)
    have h2 : 2 * got ≤ ulp + 2 * exact := hle.mp (by push_cast; linarith)
    omega
  · obtain ⟨h1, h2⟩ := hrz hmode
    refine ⟨hle.mp h1, not_le.mp fun hc => ?_⟩
    have := hle.mpr hc
    push_cast at this
    linarith
  · have := hru hmode
    cases neg <;> simp only [if_true, Bool.false_eq_true, if_false] at this ⊢ <;> exact hle.mp this.1
  · have := hrd hmode
    cases neg <;> simp only [if_true, Bool.false_eq_true, if_false] at this ⊢ <;> exact hle.mp this.1
  · have hne : (got : ℚ) * 2 ^ g ≠ exact * 2 ^ g ↔ got ≠ exact := by
      rw [ne_eq, mul_left_inj' hG.ne', Nat.cast_inj]
    rw [Bool.eq_iff_iff, hnx, hne, decide_eq_true_eq]

end
end Sys2Proof.Machine
end

section
/-! # Exact results of finite operands -/
namespace Sys2Proof.Machine

/-! ### Dyadic numbers -/

/-- The number that a multiple of a power of two stands for. -/
def Dy.rat (a : Dy) : ℚ := (a.m : ℚ) * 2 ^ a.e

theorem Dy.rat_zero : Dy.zero.rat = 0 := by simp [Dy.rat, Dy.zero]

theorem Dy.rat_eq_zero {a : Dy} : a.rat = 0 ↔ a.m = 0 := by
  rw [Dy.rat, mul_eq_zero, or_iff_left (by positivity), Int.cast_eq_zero]

theorem Dy.rat_neg_iff {a : Dy} : a.rat < 0 ↔ a.m < 0 := by
  have hpos : (0 : ℚ) < 2 ^ a.e := by positivity
  rw [Dy.rat, ← Int.cast_lt_zero (R := ℚ)]
  exact ⟨fun h => lt_of_mul_lt_mul_right (by rwa [zero_mul]) hpos.le, fun h => mul_neg_of_neg_of_pos h hpos⟩

theorem Dy.rat_over {a : Dy} {e : ℤ} (h : e ≤ a.e) : ((a.m * (2 ^ (a.e - e).toNat : ℕ) : ℤ) : ℚ) * 2 ^ e = a.rat := by
  rw [Dy.rat, two_zpow_split h]
  push_cast
  ring

theorem Dy.rat_add (a b : Dy) : (a.add b).rat = a.rat + b.rat := by
  unfold Dy.add
  split
  · next h => rw [Dy.rat_eq_zero.mpr h, zero_add]
  split
  · next h => rw [Dy.rat_eq_zero.mpr h, add_zero]
  · rw [← Dy.rat_over (a := a) (min_le_left a.e b.e), ← Dy.rat_over (a := b) (min_le_right a.e b.e), Dy.rat]
    push_cast
    ring

theorem Dy.rat_mul (a b : Dy) : (a.mul b).rat = a.rat * b.rat := by
  rw [Dy.mul, Dy.rat, Dy.rat, Dy.rat, zpow_add₀ (by norm_num)]
  push_cast
  ring

theorem Dy.rat_negate (a : Dy) : a.negate.rat = -a.rat := by
  rw [Dy.negate, Dy.rat, Dy.rat]
  push_cast
  ring

theorem Dy.abs_rat (a : Dy) : |a.rat| = (a.m.natAbs : ℚ) * 2 ^ a.e := by
  rw [Dy.rat, abs_mul, abs_of_pos (show (0 : ℚ) < 2 ^ a.e by positivity), Nat.cast_natAbs, Int.cast_abs]

theorem FVal.rat_dy (v : FVal) : v.dy.rat = v.rat := by
  cases v with
  | fin n m e => cases n <;> simp [FVal.dy, FVal.rat, Dy.rat]
  | inf n => exact Dy.rat_zero
  | nan n s f => exact Dy.rat_zero

section
variable {a : FVal}

theorem FVal.Finite.notNan (h : a.Finite) : a.isNan = false := by
  obtain ⟨n, m, e, rfl⟩ := h
  rfl
theorem FVal.Finite.notInf (h : a.Finite) : a.isInf = false := by
  obtain ⟨n, m, e, rfl⟩ := h
  rfl
theorem FVal.Finite.negate (h : a.Finite) : a.negate.Finite := by
  obtain ⟨n, m, e, rfl⟩ := h
  exact ⟨_, _, _, rfl⟩
theorem FVal.Finite.neg_negate (h : a.Finite) : a.negate.neg = !a.neg := by
  obtain ⟨n, m, e, rfl⟩ := h
  rfl
theorem FVal.Finite.rat_negate (h : a.Finite) : a.negate.rat = -a.rat := by
  obtain ⟨n, m, e, rfl⟩ := h
  cases n <;> simp [FVal.negate, FVal.rat]

theorem abs_rat_fin (n : Bool) (m : ℕ) (e : ℤ) : |(FVal.fin n m e).rat| = m * 2 ^ e := by
  rw [← FVal.rat_dy, Dy.abs_rat]
  cases n <;> simp [FVal.dy]

theorem rat_fin_eq_zero {n : Bool} {m : ℕ} {e : ℤ} : (FVal.fin n m e).rat = 0 ↔ m = 0 := by
  rw [← abs_eq_zero, abs_rat_fin, mul_eq_zero, or_iff_left (by positivity), Nat.cast_eq_zero]

theorem FVal.Finite.isZero_iff (h : a.Finite) : a.isZero = true ↔ a.rat = 0 := by
  obtain ⟨n, m, e, rfl⟩ := h
  rw [rat_fin_eq_zero]
  simp [FVal.isZero]

theorem anyNan_pair {a b : FVal} (ha : a.isNan = false) (hb : b.isNan = false) : anyNan [a, b] = false := by simp [anyNan, ha, hb]

end

/-! ### Sums, products and quotients -/

section
variable {f : Fmt} {mode : Rounding} {env : FEnv} {a b c : FVal}

theorem rounds_exact (neg : Bool) (m : ℕ) (e : ℤ) : f.Rounds mode neg ((m : ℚ) * 2 ^ e) (f.round mode neg m e) := by
  obtain ⟨hlo, hhi, hst⟩ := exactly_self m e
  exact ⟨m, e, false, hlo, hhi, hst, nofun, rfl⟩

theorem rounds_roundInt (x : Dy) : f.Rounds mode (decide (x.rat < 0)) |x.rat| (f.roundInt mode x.m x.e) := by
  rw [Dy.abs_rat, decide_eq_decide.mpr Dy.rat_neg_iff]
  exact rounds_exact _ _ _

/-- The sign of a sum that is zero. -/
theorem zeroSign_pair (mode : Rounding) (na nb : Bool) : zeroSign mode (na && nb) (!na && !nb) = if na = nb then na else mode == .rd := by
  cases na <;> cases nb <;> rfl

theorem roundSum_rounds (x : Dy) (allNeg allPos : Bool) :
    f.Rounds mode (if x.rat = 0 then zeroSign mode allNeg allPos else decide (x.rat < 0)) |x.rat| (f.roundSum mode x allNeg allPos) := by
  unfold Fmt.roundSum
  by_cases h : x.rat = 0
  · rw [if_pos h, if_pos (Dy.rat_eq_zero.mp h), h, abs_zero, ← round_zero (mode := mode) 0]
    have := rounds_exact (f := f) (mode := mode) (zeroSign mode allNeg allPos) 0 0
    simpa using this
  · rw [if_neg h, if_neg (Dy.rat_eq_zero.not.mp h)]
    exact rounds_roundInt x

theorem sumRounds_roundSum (x : Dy) (na nb : Bool) : f.SumRounds mode na nb x.rat (f.roundSum mode x (na && nb) (!na && !nb)) := by
  rw [Fmt.SumRounds, ← zeroSign_pair]
  exact roundSum_rounds x _ _

theorem addV_finite (ha : a.Finite) (hb : b.Finite) : f.SumRounds env.mode a.neg b.neg (a.rat + b.rat) (f.addV env a b) := by
  have hrun : f.addV env a b = f.roundSum env.mode (a.dy.add b.dy) (a.neg && b.neg) (!a.neg && !b.neg) := by
    obtain ⟨n, m, e, rfl⟩ := ha
    obtain ⟨k, j, g, rfl⟩ := hb
    rfl
  rw [hrun, ← FVal.rat_dy a, ← FVal.rat_dy b, ← Dy.rat_add]
  exact sumRounds_roundSum _ _ _

theorem subV_finite (ha : a.Finite) (hb : b.Finite) : f.SumRounds env.mode a.neg (!b.neg) (a.rat - b.rat) (f.addV env a b.negate) := by
  rw [sub_eq_add_neg, ← hb.rat_negate, ← hb.neg_negate]
  exact addV_finite ha hb.negate

theorem mulV_finite (ha : a.Finite) (hb : b.Finite) : f.Rounds env.mode (a.neg != b.neg) |a.rat * b.rat| (f.mulV env a b) := by
  have hrun : f.mulV env a b = f.round env.mode (a.neg != b.neg) (a.dy.mul b.dy).m.natAbs (a.dy.mul b.dy).e := by
    obtain ⟨n, m, e, rfl⟩ := ha
    obtain ⟨k, j, g, rfl⟩ := hb
    rfl
  rw [hrun, ← FVal.rat_dy a, ← FVal.rat_dy b, ← Dy.rat_mul, Dy.abs_rat]
  exact rounds_exact _ _ _

theorem fmaV_finite (ha : a.Finite) (hb : b.Finite) (hc : c.Finite) :
    f.SumRounds env.mode (a.neg != b.neg) c.neg (a.rat * b.rat + c.rat) (f.fmaV env a b c) := by
  have hrun : f.fmaV env a b c = f.roundSum env.mode ((a.dy.mul b.dy).add c.dy) ((a.neg != b.neg) && c.neg) (!(a.neg != b.neg) && !c.neg) := by
    obtain ⟨n, m, e, rfl⟩ := ha
    obtain ⟨k, j, g, rfl⟩ := hb
    obtain ⟨p, i, d, rfl⟩ := hc
    simp [Fmt.fmaV, anyNan, FVal.isNan, FVal.isInf]
  rw [hrun, ← FVal.rat_dy a, ← FVal.rat_dy b, ← FVal.rat_dy c, ← Dy.rat_mul, ← Dy.rat_add]
  exact sumRounds_roundSum _ _ _

/-- The quotient of two numbers, to enough bits to round it. -/
theorem div_exactly {m k : ℕ} (e g : ℤ) (hk : k ≠ 0) : let sh := f.mb + 4 + k.log2 - m.log2
    Exactly (m * 2 ^ sh / k) (e - g - (sh : ℤ)) (m * 2 ^ sh % k != 0) ((m : ℚ) * 2 ^ e / (k * 2 ^ g)) ∧
      ((m * 2 ^ sh % k != 0) = true → 2 ^ (f.mb + 2) ≤ m * 2 ^ sh / k) := by
  intro sh
  have hkpos : (0 : ℚ) < k := by exact_mod_cast Nat.pos_of_ne_zero hk
  have hdm : (k : ℚ) * (m * 2 ^ sh / k : ℕ) + (m * 2 ^ sh % k : ℕ) = m * 2 ^ sh := by exact_mod_cast Nat.div_add_mod (m * 2 ^ sh) k
  have hlt : ((m * 2 ^ sh % k : ℕ) : ℚ) < k := by exact_mod_cast Nat.mod_lt _ (Nat.pos_of_ne_zero hk)
  have hnn : (0 : ℚ) ≤ (m * 2 ^ sh % k : ℕ) := by positivity
  have hU : (0 : ℚ) < 2 ^ (e - g - (sh : ℤ)) := by positivity
  have hquot : (m : ℚ) * 2 ^ e / (k * 2 ^ g) = (m * 2 ^ sh / k) * 2 ^ (e - g - (sh : ℤ)) := by
    rw [zpow_sub₀ (by norm_num), zpow_sub₀ (by norm_num), zpow_natCast]
    field_simp
  have hrest : (m : ℚ) * 2 ^ sh / k = (m * 2 ^ sh / k : ℕ) + (m * 2 ^ sh % k : ℕ) / k := by
    rw [← hdm]
    field_simp
  refine ⟨⟨?_, ?_, ?_⟩, fun hr => ?_⟩
  · rw [hquot, hrest]
    have : (0 : ℚ) ≤ (m * 2 ^ sh % k : ℕ) / k := by positivity
    gcongr
    linarith
  · rw [hquot, hrest]
    have : ((m * 2 ^ sh % k : ℕ) : ℚ) / k < 1 := by rwa [div_lt_one hkpos]
    gcongr
  · rw [hquot, hrest, Bool.eq_iff_iff, bne_iff_ne, decide_eq_true_eq, ne_eq, ne_eq, mul_left_inj' hU.ne', add_eq_left, div_eq_zero_iff,
      or_iff_left hkpos.ne', Nat.cast_eq_zero]
  · have hm : m ≠ 0 := by
      rintro rfl
      simp at hr
    rw [Nat.le_div_iff_mul_le (Nat.pos_of_ne_zero hk)]
    calc 2 ^ (f.mb + 2) * k ≤ 2 ^ (f.mb + 2) * 2 ^ (k.log2 + 1) := Nat.mul_le_mul_left _ Nat.lt_log2_self.le
      _ = 2 ^ (f.mb + 2 + (k.log2 + 1)) := (pow_add ..).symm
      _ ≤ 2 ^ (m.log2 + sh) := Nat.pow_le_pow_right (by decide) (by omega)
      _ = 2 ^ m.log2 * 2 ^ sh := pow_add ..
      _ ≤ m * 2 ^ sh := Nat.mul_le_mul_right _ (Nat.log2_self_le hm)

theorem divV_finite (ha : a.Finite) (hb : b.Finite) (hne : b.rat ≠ 0) : f.Rounds env.mode (a.neg != b.neg) |a.rat / b.rat| (f.divV env a b) := by
  obtain ⟨n, m, e, rfl⟩ := ha
  obtain ⟨p, k, g, rfl⟩ := hb
  have hk : k ≠ 0 := rat_fin_eq_zero.not.mp hne
  obtain ⟨⟨hlo, hhi, hst⟩, hbig⟩ := div_exactly (f := f) (m := m) e g hk
  rw [abs_div, abs_rat_fin, abs_rat_fin]
  refine ⟨_, _, _, hlo, hhi, hst, hbig, ?_⟩
  exact if_neg hk

/-! ### Square roots -/

theorem isqrtFrom_spec {x : ℕ} (n r : ℕ) (hlo : r * r ≤ x) (hhi : x < (r + 2 ^ n) * (r + 2 ^ n)) :
    let s := isqrtFrom x n r
    s * s ≤ x ∧ x < (s + 1) * (s + 1) := by
  induction n generalizing r with
  | zero => exact ⟨hlo, hhi⟩
  | succ n ih =>
    rw [pow_succ, Nat.mul_two, ← Nat.add_assoc] at hhi
    unfold isqrtFrom
    split
    · next h => exact ih _ h hhi
    · next h => exact ih _ hlo (not_le.mp h)

theorem isqrt_spec (x : ℕ) : isqrt x * isqrt x ≤ x ∧ x < (isqrt x + 1) * (isqrt x + 1) := by
  refine isqrtFrom_spec _ 0 (Nat.zero_le _) ?_
  rw [Nat.zero_add, ← pow_add]
  exact lt_of_lt_of_le Nat.lt_log2_self (Nat.pow_le_pow_right (by decide) (by omega))

theorem sqrtV_finite {m : ℕ} {e : ℤ} (hm : 0 < m) : ∃ (k : ℕ) (g : ℤ) (st : Bool), ((k : ℚ) * 2 ^ g) ^ 2 ≤ (m : ℚ) * 2 ^ e ∧
    (m : ℚ) * 2 ^ e < ((k + 1 : ℚ) * 2 ^ g) ^ 2 ∧ st = decide ((m : ℚ) * 2 ^ e ≠ ((k : ℚ) * 2 ^ g) ^ 2) ∧ (st = true → 2 ^ (f.mb + 2) ≤ k) ∧
    f.sqrtV env (.fin false m e) = f.round env.mode false k g st := by
  obtain ⟨sh, hsh⟩ : ∃ sh, sh = 2 * (f.mb + 4) + (if e % 2 = 0 then 0 else 1) := ⟨_, rfl⟩
  obtain ⟨g, hg⟩ : ∃ g, g = (e - (sh : ℤ)) / 2 := ⟨_, rfl⟩
  obtain ⟨k, hk⟩ : ∃ k, k = isqrt (m * 2 ^ sh) := ⟨_, rfl⟩
  have heven : e = g + g + (sh : ℤ) := by
    split at hsh <;> omega
  obtain ⟨hlo, hhi⟩ := isqrt_spec (m * 2 ^ sh)
  rw [← hk] at hlo hhi
  have hU : (0 : ℚ) < 2 ^ g * 2 ^ g := by positivity
  have hval : (m : ℚ) * 2 ^ e = (m * 2 ^ sh : ℕ) * (2 ^ g * 2 ^ g) := by
    rw [heven, zpow_add₀ (by norm_num), zpow_add₀ (by norm_num), zpow_natCast]
    push_cast
    ring
  have hsq (y : ℚ) : (y * 2 ^ g) ^ 2 = y * y * (2 ^ g * 2 ^ g) := by ring
  refine ⟨k, g, k * k != m * 2 ^ sh, ?_, ?_, ?_, fun _ => ?_, ?_⟩
  · rw [hsq, hval]
    gcongr
    exact_mod_cast hlo
  · rw [hsq, hval]
    gcongr
    exact_mod_cast hhi
  · rw [hsq, hval, Bool.eq_iff_iff, bne_iff_ne, decide_eq_true_eq, ne_eq, ne_eq, mul_left_inj' hU.ne', ← Nat.cast_mul, Nat.cast_inj, eq_comm]
  · by_contra hc
    have hk1 : k + 1 ≤ 2 ^ (f.mb + 4) := le_trans (not_le.mp hc) (Nat.pow_le_pow_right (by decide) (by omega))
    have hbig : 2 ^ (f.mb + 4) * 2 ^ (f.mb + 4) ≤ m * 2 ^ sh := by
      rw [← pow_add]
      calc 2 ^ (f.mb + 4 + (f.mb + 4)) ≤ 2 ^ sh := Nat.pow_le_pow_right (by decide) (by omega)
        _ ≤ m * 2 ^ sh := Nat.le_mul_of_pos_left _ hm
    have := Nat.mul_le_mul hk1 hk1
    omega
  · unfold Fmt.sqrtV
    dsimp only
    rw [if_neg hm.ne', if_neg Bool.false_ne_true, ← hsh, ← hg, ← hk]

end
end Sys2Proof.Machine
end

section
/-! # Scaling, flushing, NaNs and infinities -/
namespace Sys2Proof.Machine

section
variable {f : Fmt} {mode : Rounding} {neg : Bool} {m : ℕ} {e : ℤ}

/-! ### Scaling beyond the range of the format -/

theorem Fmt.Sound.two_pow_eb (hf : f.Sound) : 2 ^ f.eb ≤ 2048 := Nat.pow_le_pow_right (by decide) hf.eb_hi

/-- A magnitude that lies 2^eb units or more above the least overflows. -/
theorem round_high (hf : f.Sound) (hm : m ≠ 0) (h : f.qmin + (2 ^ f.eb : ℕ) ≤ e + (m.log2 : ℤ) - f.mb) :
    f.round mode neg m e = (f.overflow mode neg, 0x14) := by
  rw [round_eq (by simp [hm])]
  refine if_pos (lt_of_lt_of_le (maxFinite_lt hf) ?_)
  have hunit : 2 ^ f.eb ≤ (f.unitAt (e + (m.log2 : ℤ)) - f.qmin).toNat := by
    have : e + (m.log2 : ℤ) - f.mb ≤ f.unitAt (e + (m.log2 : ℤ)) := le_max_left ..
    omega
  rw [pow_add]
  exact le_trans (Nat.mul_le_mul_right _ hunit) (Nat.le_add_right ..)

/-- A magnitude well below half the least number gives zero, or the least number where the mode rounds away. -/
theorem round_low (hf : f.Sound) (hm : m ≠ 0) (h : e + (m.log2 : ℤ) + 2 ≤ f.qmin) :
    f.round mode neg m e = (f.sign neg + b2n (roundsUp mode neg 0 1 2 false), 0x18) := by
  obtain ⟨sh, hsh⟩ : ∃ sh, sh = (f.qmin - e).toNat := ⟨_, rfl⟩
  have hsmall : m < 2 ^ (sh - 1) := lt_of_lt_of_le Nat.lt_log2_self (Nat.pow_le_pow_right (by decide) (by omega))
  have hlt : m < 2 ^ sh := lt_of_lt_of_le hsmall (Nat.pow_le_pow_right (by decide) (by omega))
  have hup : roundsUp mode neg 0 m sh false = roundsUp mode neg 0 1 2 false := by
    have h0 : sh ≠ 0 := by omega
    have h1 : ¬ 2 ^ (sh - 1) < m := not_lt.mpr hsmall.le
    cases mode <;> simp [roundsUp, hm, h0, h1]
  have hunit : f.unitAt (e + (m.log2 : ℤ)) = f.qmin := max_eq_right (by omega)
  have hat : roundAt mode neg m e false f.qmin = (b2n (roundsUp mode neg 0 1 2 false), true) := by
    rw [← hup]
    simp [roundAt, show ¬ f.qmin ≤ e by omega, ← hsh, Nat.div_eq_of_lt hlt, Nat.mod_eq_of_lt hlt, hm]
  have henc : f.encoded f.qmin (b2n (roundsUp mode neg 0 1 2 false)) = b2n (roundsUp mode neg 0 1 2 false) := by simp [Fmt.encoded]
  have hfin : b2n (roundsUp mode neg 0 1 2 false) ≤ f.maxFinite := by
    have hone : b2n (roundsUp mode neg 0 1 2 false) ≤ 1 := by cases roundsUp mode neg 0 1 2 false <;> decide
    refine le_trans hone ((le_maxFinite_iff hf 1).mpr (.inl ?_))
    rw [Nat.div_eq_of_lt (by have := hf.mantissa; omega)]
    have := hf.ones
    omega
  have hqmin : f.qmin = 1 - (f.bias : ℤ) - f.mb := rfl
  have htiny : f.tiny mode neg m e false (e + (m.log2 : ℤ)) = true := by
    simp [Fmt.tiny, show e + (m.log2 : ℤ) < 1 - (f.bias : ℤ) by omega, show e + (m.log2 : ℤ) ≠ -(f.bias : ℤ) by omega]
  rw [round_eq (by simp [hm])]
  simp only [hunit, hat, henc, if_neg (not_lt.mpr hfin), htiny]
  rfl

/-- Scales beyond 8192 round as 8192 does. -/
theorem scale_rounds (hf : f.Sound) {x : ℕ} (h : f.decode x = .fin neg m e) (n : ℤ) :
    f.Rounds mode neg (|(FVal.fin neg m e).rat| * 2 ^ n) (f.round mode neg m (e + max (-8192) (min 8192 n))) := by
  have hsame : f.round mode neg m (e + max (-8192) (min 8192 n)) = f.round mode neg m (e + n) := by
    obtain ⟨-, he, hm, -, henc⟩ := decode_fin hf h
    rcases Nat.eq_zero_or_pos m with rfl | hpos
    · rw [round_zero, round_zero]
    have hlog : m.log2 ≤ f.mb := Nat.lt_succ_iff.mp ((Nat.log2_lt hpos.ne').mpr hm)
    have hehi : (e - f.qmin).toNat < 2 ^ f.eb := by
      have hlt := bare_lt f x
      rw [henc, pow_add] at hlt
      exact lt_of_mul_lt_mul_right (lt_of_le_of_lt (Nat.le_add_right _ m) hlt) (Nat.zero_le _)
    have heb := hf.two_pow_eb
    have hmb := hf.mb_hi
    rcases lt_trichotomy n (max (-8192) (min 8192 n)) with hn | hn | hn
    · rw [round_low hf hpos.ne' (by omega), round_low hf hpos.ne' (by omega)]
    · rw [← hn]
    · rw [round_high hf hpos.ne' (by omega), round_high hf hpos.ne' (by omega)]
  rw [hsame, abs_rat_fin, mul_assoc, ← zpow_add₀ (by norm_num)]
  exact rounds_exact _ _ _

/-! ### Flushing -/

/-- An encoding that a flush leaves alone: its exponent is not zero, or it is a zero. -/
def Fmt.unflushed (f : Fmt) (x : ℕ) : Prop := x / 2 ^ f.mb % 2 ^ f.eb ≠ 0 ∨ x % 2 ^ f.mb = 0

theorem flushOut_keeps {env : FEnv} {r : FRes} (h : f.unflushed r.1) : f.flushOut env r = r := by
  unfold Fmt.flushOut
  refine if_neg fun hc => ?_
  simp only [Bool.and_eq_true, decide_eq_true_eq, bne_iff_ne] at hc
  rcases h with h | h
  · exact h hc.1.2
  · exact hc.2 h

theorem unflushed_sign_add {c : ℕ} (hc : c < 2 ^ (f.eb + f.mb)) (h : c / 2 ^ f.mb ≠ 0 ∨ c % 2 ^ f.mb = 0) (neg : Bool) :
    f.unflushed (f.sign neg + c) := by
  rw [Fmt.unflushed, ← bare_div, ← bare_mod, (sign_add f hc neg).1]
  exact h

section
variable (hf : f.Sound)
include hf

omit hf in
theorem ones_mul_add_lt {p : ℕ} (hp : p < 2 ^ f.mb) : f.expOnes * 2 ^ f.mb + p < 2 ^ (f.eb + f.mb) := by
  rw [f.two_pow_split, Nat.add_mul]
  omega

theorem unflushed_ones {p : ℕ} (hp : p < 2 ^ f.mb) (neg : Bool) : f.unflushed (f.sign neg + (f.expOnes * 2 ^ f.mb + p)) := by
  refine unflushed_sign_add (ones_mul_add_lt hp) (.inl ?_) neg
  rw [Nat.mul_comm, Nat.mul_add_div (Nat.two_pow_pos _), Nat.div_eq_of_lt hp, Nat.add_zero]
  have := hf.ones
  omega

theorem half_lt : 2 ^ (f.mb - 1) < 2 ^ f.mb := Nat.pow_lt_pow_right (by decide) (by have := hf.mb_lo; omega)

theorem infinity_eq : ∃ p < 2 ^ f.mb, f.infinity = f.expOnes * 2 ^ f.mb + p := by
  have := hf.mantissa
  unfold Fmt.infinity
  cases f.ieee
  · exact ⟨2 ^ f.mb - 1, by omega, by rw [if_neg Bool.false_ne_true]; omega⟩
  · exact ⟨0, by omega, rfl⟩

theorem nan_eq : ∃ p < 2 ^ f.mb, f.nan = f.expOnes * 2 ^ f.mb + p := by
  have := hf.mantissa
  unfold Fmt.nan
  cases f.ieee
  · exact ⟨2 ^ f.mb - 1, by omega, by rw [if_neg Bool.false_ne_true]; omega⟩
  · exact ⟨2 ^ (f.mb - 1), half_lt hf, rfl⟩

theorem flushOut_infinity (env : FEnv) (neg : Bool) (fl : Flags) : f.flushOut env (f.sign neg + f.infinity, fl) = (f.sign neg + f.infinity, fl) := by
  obtain ⟨p, hp, he⟩ := infinity_eq hf
  exact flushOut_keeps (by rw [he]; exact unflushed_ones hf hp neg)

theorem flushOut_nan (env : FEnv) (fl : Flags) : f.flushOut env (f.nan, fl) = (f.nan, fl) := by
  obtain ⟨p, hp, he⟩ := nan_eq hf
  have h := unflushed_ones hf hp false
  rw [show f.sign false = 0 from Nat.zero_mul _, Nat.zero_add, ← he] at h
  exact flushOut_keeps h

theorem flushOut_invalid (env : FEnv) : f.flushOut env f.invalid = (f.nan, 0x01) := flushOut_nan hf env _

omit hf in
theorem flushOut_zero (env : FEnv) (neg : Bool) (fl : Flags) : f.flushOut env (f.sign neg, fl) = (f.sign neg, fl) :=
  flushOut_keeps (unflushed_sign_add (c := 0) (Nat.two_pow_pos _) (.inr (Nat.zero_mod _)) neg)

end

/-! ### NaNs -/

/-- The payload of a NaN fits the format. -/
def FVal.fits (f : Fmt) (v : FVal) : Prop := ∀ neg sg frac, v = .nan neg sg frac → frac < 2 ^ f.mb

theorem fits_decode (f : Fmt) (x : ℕ) : (f.decode x).fits f := by
  intro n sg frac h
  unfold Fmt.decode at h
  dsimp only at h
  split at h
  · split at h
    · cases h
    · obtain ⟨-, -, rfl⟩ := FVal.nan.inj h
      exact Nat.mod_lt _ (Nat.two_pow_pos _)
  · split at h <;> cases h

theorem fits_negate {v : FVal} (h : v.fits f) : v.negate.fits f := by
  cases v with
  | nan n s p => exact h
  | fin n m e => exact nofun
  | inf n => exact nofun

theorem isNan_negate (v : FVal) : v.negate.isNan = v.isNan := by cases v <;> rfl

theorem firstNan_spec {vs : List FVal} (level1 : Bool) (h : anyNan vs = true) : ∃ pre neg sg frac post, vs = pre ++ .nan neg sg frac :: post ∧
    (∀ v ∈ pre, v.isNan = false) ∧ f.firstNan level1 vs = if level1 then f.quiet neg frac else f.nan := by
  induction vs with
  | nil => cases h
  | cons v vs ih =>
    have hskip (hv : v.isNan = false) (hrun : f.firstNan level1 (v :: vs) = f.firstNan level1 vs) :
        ∃ pre neg sg frac post, v :: vs = pre ++ .nan neg sg frac :: post ∧
          (∀ v ∈ pre, v.isNan = false) ∧ f.firstNan level1 (v :: vs) = if level1 then f.quiet neg frac else f.nan := by
      have h' : anyNan vs = true := by simpa [anyNan, hv] using h
      obtain ⟨pre, neg, sg, frac, post, rfl, hpre, hfirst⟩ := ih h'
      exact ⟨v :: pre, neg, sg, frac, post, rfl, List.forall_mem_cons.mpr ⟨hv, hpre⟩, hrun.trans hfirst⟩
    cases v with
    | nan neg sg frac => exact ⟨[], neg, sg, frac, vs, rfl, nofun, rfl⟩
    | fin n m e => exact hskip rfl rfl
    | inf n => exact hskip rfl rfl

theorem signalFlags_eq (vs : List FVal) : signalFlags vs = if vs.any FVal.isSignalling then 0x21 else 0 := rfl

theorem nanOf_nanRes {vs : List FVal} {env : FEnv} (h : anyNan vs = true) : f.NanOf env.level1 vs (f.nanRes env vs) := by
  obtain ⟨pre, neg, sg, frac, post, hvs, hpre, hfirst⟩ := firstNan_spec (f := f) env.level1 h
  exact ⟨pre, neg, sg, frac, post, hvs, hpre, hfirst, signalFlags_eq vs⟩

theorem unflushed_nanOf (hf : f.Sound) {level1 : Bool} {vs : List FVal} {r : FRes} (hfit : ∀ v ∈ vs, v.fits f) (h : f.NanOf level1 vs r) :
    f.unflushed r.1 := by
  obtain ⟨pre, neg, sg, frac, post, rfl, -, hr, -⟩ := h
  rw [hr]
  cases level1 with
  | false =>
    obtain ⟨p, hp, he⟩ := nan_eq hf
    have := unflushed_ones hf hp false
    rwa [show f.sign false = 0 from Nat.zero_mul _, Nat.zero_add, ← he] at this
  | true =>
    have hfrac : frac < 2 ^ f.mb := hfit _ (by simp) neg sg frac rfl
    rw [if_pos rfl, Nat.add_assoc]
    refine unflushed_ones hf ?_ neg
    split
    · exact Nat.or_lt_two_pow hfrac (half_lt hf)
    · have := Nat.two_pow_pos f.mb
      omega

theorem flushOut_nanOf (hf : f.Sound) {env : FEnv} {level1 : Bool} {vs : List FVal} {r : FRes} (hfit : ∀ v ∈ vs, v.fits f)
    (h : f.NanOf level1 vs r) : f.NanOf level1 vs (f.flushOut env r) := by
  rw [flushOut_keeps (unflushed_nanOf hf hfit h)]
  exact h

end
end Sys2Proof.Machine
end

section
/-! # Operations on infinities, zeros and NaNs -/
namespace Sys2Proof.Machine

section
variable {f : Fmt} {env : FEnv} {a b c : FVal} {n k : Bool}

/-! ### Sums -/

theorem addV_inf_inf : f.addV env (.inf n) (.inf k) = if n = k then (f.sign n + f.infinity, 0) else f.invalid := by
  cases n <;> cases k <;> rfl

theorem addV_inf_finite (hb : b.Finite) : f.addV env (.inf n) b = (f.sign n + f.infinity, 0) := by
  obtain ⟨p, j, g, rfl⟩ := hb
  rfl

theorem addV_finite_inf (ha : a.Finite) : f.addV env a (.inf k) = (f.sign k + f.infinity, 0) := by
  obtain ⟨p, j, g, rfl⟩ := ha
  rfl

theorem addV_nan (h : a.isNan = true ∨ b.isNan = true) : f.NanOf env.level1 [a, b] (f.addV env a b) := by
  have hany : anyNan [a, b] = true := by simpa [anyNan] using h
  have hrun : f.addV env a b = f.nanRes env [a, b] := if_pos hany
  rw [hrun]
  exact nanOf_nanRes hany

/-! ### Products -/

theorem mulV_nan (h : a.isNan = true ∨ b.isNan = true) : f.NanOf env.level1 [a, b] (f.mulV env a b) := by
  have hany : anyNan [a, b] = true := by simpa [anyNan] using h
  have hrun : f.mulV env a b = f.nanRes env [a, b] := if_pos hany
  rw [hrun]
  exact nanOf_nanRes hany

theorem mulV_inf (ha : a.isNan = false) (hb : b.isNan = false) (h : a.isInf = true ∨ b.isInf = true) :
    f.mulV env a b = if (a.isZero || b.isZero) = true then f.invalid else (f.sign (a.neg != b.neg) + f.infinity, 0) := by
  unfold Fmt.mulV
  dsimp only
  rw [if_neg (by rw [anyNan_pair ha hb]; decide), if_pos (by simpa using h)]

/-! ### Quotients -/

theorem divV_nan (h : a.isNan = true ∨ b.isNan = true) : f.NanOf env.level1 [a, b] (f.divV env a b) := by
  have hany : anyNan [a, b] = true := by simpa [anyNan] using h
  have hrun : f.divV env a b = f.nanRes env [a, b] := if_pos hany
  rw [hrun]
  exact nanOf_nanRes hany

theorem divV_zero (ha : a.Finite) (hb : b.Finite) (hz : b.rat = 0) :
    f.divV env a b = if a.rat = 0 then f.invalid else (f.sign (a.neg != b.neg) + f.infinity, flagDZ) := by
  obtain ⟨p, m, e, rfl⟩ := ha
  obtain ⟨q, j, g, rfl⟩ := hb
  obtain rfl := rat_fin_eq_zero.mp hz
  simp only [rat_fin_eq_zero]
  rfl

theorem divV_inf_inf : f.divV env (.inf n) (.inf k) = f.invalid := rfl

theorem divV_inf_finite (hb : b.Finite) : f.divV env (.inf n) b = (f.sign (n != b.neg) + f.infinity, 0) := by
  obtain ⟨p, j, g, rfl⟩ := hb
  rfl

theorem divV_finite_inf (ha : a.Finite) : f.divV env a (.inf k) = (f.sign (a.neg != k), 0) := by
  obtain ⟨p, j, g, rfl⟩ := ha
  rfl

/-! ### Products with a sum -/

/-- An infinity times a zero. -/
def badProduct (a b : FVal) : Bool := (a.isInf && b.isZero) || (a.isZero && b.isInf)

theorem badProduct_iff : badProduct a b = true ↔ (a.isInf = true ∧ b.isZero = true) ∨ (a.isZero = true ∧ b.isInf = true) := by
  simp [badProduct]

theorem fmaV_eq : f.fmaV env a b c =
    if anyNan [a, b, c] then ((f.nanRes env [a, b, c]).1, (f.nanRes env [a, b, c]).2 ||| flagIf (badProduct a b) flagNV)
    else if badProduct a b then f.invalid
    else if a.isInf || b.isInf then
      match c with
      | .inf n => if n == (a.neg != b.neg) then (f.sign n + f.infinity, 0) else f.invalid
      | _ => (f.sign (a.neg != b.neg) + f.infinity, 0)
    else match c with
      | .inf n => (f.sign n + f.infinity, 0)
      | _ => f.roundSum env.mode ((a.dy.mul b.dy).add c.dy) ((a.neg != b.neg) && c.neg) (!(a.neg != b.neg) && !c.neg) := by
  cases c <;> rfl

theorem anyNan_triple (ha : a.isNan = false) (hb : b.isNan = false) (hc : c.isNan = false) : anyNan [a, b, c] = false := by
  simp [anyNan, ha, hb, hc]

theorem fmaV_nan (h : a.isNan = true ∨ b.isNan = true ∨ c.isNan = true) : ∃ r, f.NanOf env.level1 [a, b, c] r ∧
    f.fmaV env a b c = (r.1, r.2 ||| flagIf (badProduct a b) flagNV) := by
  have hany : anyNan [a, b, c] = true := by simpa [anyNan] using h
  refine ⟨f.nanRes env [a, b, c], nanOf_nanRes hany, ?_⟩
  rw [fmaV_eq, if_pos hany]

theorem fmaV_invalid (ha : a.isNan = false) (hb : b.isNan = false) (hc : c.isNan = false) (h : badProduct a b = true) :
    f.fmaV env a b c = f.invalid := by
  rw [fmaV_eq, if_neg (by rw [anyNan_triple ha hb hc]; decide), if_pos h]

theorem fmaV_inf_finite (ha : a.isNan = false) (hb : b.isNan = false) (hc : c.Finite) (hinf : a.isInf = true ∨ b.isInf = true)
    (h : ¬ badProduct a b = true) : f.fmaV env a b c = (f.sign (a.neg != b.neg) + f.infinity, 0) := by
  rw [fmaV_eq, if_neg (by rw [anyNan_triple ha hb hc.notNan]; decide), if_neg h, if_pos (by simpa using hinf)]
  obtain ⟨p, j, g, rfl⟩ := hc
  rfl

theorem fmaV_inf_inf (ha : a.isNan = false) (hb : b.isNan = false) (hinf : a.isInf = true ∨ b.isInf = true)
    (h : ¬ badProduct a b = true) : f.fmaV env a b (.inf n) = if n = (a.neg != b.neg) then (f.sign n + f.infinity, 0) else f.invalid := by
  rw [fmaV_eq, if_neg (by rw [anyNan_triple ha hb rfl]; decide), if_neg h, if_pos (by simpa using hinf)]
  simp

theorem fmaV_finite_inf (ha : a.Finite) (hb : b.Finite) : f.fmaV env a b (.inf n) = (f.sign n + f.infinity, 0) := by
  obtain ⟨p, m, e, rfl⟩ := ha
  obtain ⟨q, j, g, rfl⟩ := hb
  simp [Fmt.fmaV, anyNan, FVal.isNan, FVal.isInf]

/-- A sum with +0. -/
theorem addV_zero_finite (hc : c.Finite) : f.SumRounds env.mode false c.neg c.rat (f.addV env (.fin false 0 0) c) := by
  have h := addV_finite (f := f) (env := env) (a := .fin false 0 0) ⟨_, _, _, rfl⟩ hc
  rwa [rat_fin_eq_zero.mpr rfl, zero_add] at h

theorem addV_zero_nan (hc : c.isNan = true) : f.NanOf env.level1 [c] (f.addV env (.fin false 0 0) c) := by
  obtain ⟨p, sg, frac, rfl⟩ : ∃ p sg frac, c = .nan p sg frac := by
    cases c with
    | nan p sg frac => exact ⟨p, sg, frac, rfl⟩
    | fin n m e => cases hc
    | inf n => cases hc
  refine ⟨[], p, sg, frac, [], rfl, nofun, rfl, ?_⟩
  cases sg <;> rfl

/-! ### Orders -/

theorem lt_fin (zeros : Bool) (n k : Bool) (m j : ℕ) (e g : ℤ) : (FVal.fin n m e).lt zeros (.fin k j g) =
    if m = 0 ∧ j = 0 then zeros && n && !k else decide ((FVal.fin n m e).rat < (FVal.fin k j g).rat) := by
  have hsum : ((FVal.fin n m e).dy.add (FVal.fin k j g).dy.negate).m < 0 ↔ (FVal.fin n m e).rat < (FVal.fin k j g).rat := by
    rw [← Dy.rat_neg_iff, Dy.rat_add, Dy.rat_negate, FVal.rat_dy, FVal.rat_dy, add_neg_lt_iff_lt_add, zero_add]
  unfold FVal.lt
  simp only [Bool.and_eq_true, decide_eq_true_eq, hsum]

/-- Below, among numbers and infinities, is what the comparison finds. -/
theorem lt_iff_below {zeros : Bool} (ha : a.isNan = false) (hb : b.isNan = false) (hz : zeros = false ∨ a.isZero = false ∨ b.isZero = false) :
    a.lt zeros b = true ↔ a.Below b := by
  cases a with
  | nan n s p => cases ha
  | inf n =>
    cases b with
    | nan k s p => cases hb
    | inf k => simp [FVal.lt, FVal.Below]
    | fin k j g => simp [FVal.lt, FVal.Below]
  | fin n m e =>
    cases b with
    | nan k s p => cases hb
    | inf k => simp [FVal.lt, FVal.Below]
    | fin k j g =>
      rw [lt_fin]
      by_cases h : m = 0 ∧ j = 0
      · obtain ⟨rfl, rfl⟩ := h
        have hzeros : zeros = false := hz.elim id fun h => by simp [FVal.isZero] at h
        simp [FVal.Below, rat_fin_eq_zero.mpr, hzeros]
      · rw [if_neg h, decide_eq_true_eq]
        rfl

theorem not_below_of_zero (ha : a.isZero = true) (hb : b.isZero = true) : ¬ a.Below b := by
  cases a with
  | fin n m e =>
    cases b with
    | fin k j g =>
      simp only [FVal.isZero, decide_eq_true_eq] at ha hb
      subst ha hb
      simp [FVal.Below, rat_fin_eq_zero.mpr]
    | inf k => cases hb
    | nan k s p => cases hb
  | inf n => cases ha
  | nan n s p => cases ha

theorem below_asymm (ha : a.isNan = false) (hb : b.isNan = false) (h : a.Below b) : ¬ b.Below a := by
  cases a with
  | nan n s p => cases ha
  | inf n =>
    cases b with
    | nan k s p => cases hb
    | inf k =>
      obtain ⟨rfl, rfl⟩ := h
      exact nofun
    | fin k j g =>
      obtain rfl : n = true := h
      exact nofun
  | fin n m e =>
    cases b with
    | nan k s p => cases hb
    | inf k =>
      obtain rfl : k = false := h
      exact nofun
    | fin k j g => exact not_lt.mpr (le_of_lt h)

/-- Two numbers of which one lies below the other are not both zero. -/
theorem nonzero_of_below (h : a.Below b) : a.isZero = false ∨ b.isZero = false := by
  by_contra hc
  simp only [not_or, Bool.not_eq_false] at hc
  exact not_below_of_zero hc.1 hc.2 h

theorem lt_true_of_below (ha : a.isNan = false) (hb : b.isNan = false) (h : a.Below b) : a.lt true b = true :=
  (lt_iff_below ha hb (.inr (nonzero_of_below h))).mpr h

theorem lt_false_of_above (ha : a.isNan = false) (hb : b.isNan = false) (h : b.Below a) : a.lt true b = false :=
  Bool.eq_false_iff.mpr fun hc =>
    below_asymm hb ha h ((lt_iff_below ha hb (.inr (nonzero_of_below h).symm)).mp hc)

theorem lt_zeros (ha : a.isZero = true) (hb : b.isZero = true) : a.lt true b = (a.neg && !b.neg) := by
  cases a with
  | fin n m e =>
    cases b with
    | fin k j g =>
      simp only [FVal.isZero, decide_eq_true_eq] at ha hb
      rw [lt_fin, if_pos ⟨ha, hb⟩]
      rfl
    | inf k => cases hb
    | nan k s p => cases hb
  | inf n => cases ha
  | nan n s p => cases ha

end
end Sys2Proof.Machine
end

section
/-! # Square roots, minimum and maximum, comparisons, classes and flushing -/
namespace Sys2Proof.Machine

section
variable {f : Fmt} {env : FEnv} {x y z : ℕ}

/-! ### Flushing -/

theorem flushIn_of_plain (h : env.flush = false) : f.flushIn env x = x := by
  unfold Fmt.flushIn
  rw [h]
  rfl

theorem flushIn_of_zero (h : env.flush = true) (hx : x / 2 ^ f.mb % 2 ^ f.eb = 0) :
    f.flushIn env x = f.sign (x.testBit (f.eb + f.mb)) := by
  unfold Fmt.flushIn Fmt.sign
  rw [h, hx, ← bitAt_eq_testBit, bitAt]
  rcases Nat.mod_two_eq_zero_or_one (x / 2 ^ (f.eb + f.mb)) with h2 | h2 <;> rw [h2] <;> rfl

theorem flushIn_of_ne (hx : x / 2 ^ f.mb % 2 ^ f.eb ≠ 0) : f.flushIn env x = x := by
  unfold Fmt.flushIn
  exact if_neg (by simp [hx])

theorem flushOut_of_plain (h : env.flush = false) (r : FRes) : f.flushOut env r = r := by
  unfold Fmt.flushOut
  rw [h]
  rfl

theorem flushOut_of_zero (h : env.flush = true) (hx : x / 2 ^ f.mb % 2 ^ f.eb = 0) (hm : x % 2 ^ f.mb ≠ 0) (fl : Flags) :
    f.flushOut env (x, fl) = (f.sign (x.testBit (f.eb + f.mb)), fl ||| 0x18) := by
  have hsign : x / 2 ^ (f.eb + f.mb) % 2 * 2 ^ (f.eb + f.mb) = f.sign (x.testBit (f.eb + f.mb)) := by
    have := flushIn_of_zero (f := f) (env := env) h hx
    unfold Fmt.flushIn at this
    rwa [h, hx] at this
  unfold Fmt.flushOut
  rw [if_pos (by simp [h, hx, hm]), hsign, BitVec.or_assoc]
  rfl

/-- An operand that has been flushed is not flushed again. -/
theorem flushOut_flushIn (fl : Flags) : f.flushOut env (f.flushIn env x, fl) = (f.flushIn env x, fl) := by
  rcases Bool.eq_false_or_eq_true env.flush with h | h
  · by_cases hx : x / 2 ^ f.mb % 2 ^ f.eb = 0
    · rw [flushIn_of_zero h hx]
      exact flushOut_zero env _ fl
    · rw [flushIn_of_ne hx]
      exact flushOut_keeps (.inl hx)
  · exact flushOut_of_plain h _

theorem decode_sign (hf : f.Sound) (neg : Bool) : f.decode (f.sign neg) = .fin neg 0 f.qmin := by
  obtain ⟨hbare, hbit⟩ := sign_add f (Nat.two_pow_pos _ : 0 < 2 ^ (f.eb + f.mb)) neg
  rw [Nat.add_zero] at hbare hbit
  rw [decode_of_le hf (by rw [hbare]; exact Nat.zero_le _), hbit, hbare]
  simp

/-! ### Square roots -/

theorem sqrt_zero (ha : (f.read env x).Finite) (h : (f.read env x).rat = 0) : f.sqrt env x = (f.sign (f.read env x).neg, 0) := by
  obtain ⟨n, m, e, ha⟩ := ha
  rw [ha] at h
  obtain rfl := rat_fin_eq_zero.mp h
  rw [Fmt.sqrt, ha]
  exact flushOut_zero env n 0

theorem sqrt_neg (hf : f.Sound) (ha : (f.read env x).Finite) (h : (f.read env x).rat < 0) : f.sqrt env x = (f.nan, 0x01) := by
  obtain ⟨n, m, e, ha⟩ := ha
  rw [ha] at h
  have hm : m ≠ 0 := fun hm => by
    rw [rat_fin_eq_zero.mpr hm] at h
    exact lt_irrefl _ h
  have hn : n = true := by
    by_contra hc
    rw [Bool.not_eq_true] at hc
    subst hc
    have : 0 ≤ (FVal.fin false m e).rat := by
      simp only [FVal.rat, Bool.false_eq_true, if_false]
      positivity
    linarith
  subst hn
  rw [Fmt.sqrt, ha]
  have hrun : f.sqrtV env (.fin true m e) = f.invalid := (if_neg hm).trans (if_pos rfl)
  rw [hrun]
  exact flushOut_invalid hf env

theorem sqrt_pos (ha : (f.read env x).Finite) (h : 0 < (f.read env x).rat) :
    ∃ (m : Nat) (e : Int) (st : Bool), ((m : ℚ) * 2 ^ e) ^ 2 ≤ (f.read env x).rat ∧ (f.read env x).rat < ((m + 1 : ℚ) * 2 ^ e) ^ 2 ∧
      st = decide ((f.read env x).rat ≠ ((m : ℚ) * 2 ^ e) ^ 2) ∧ (st = true → 2 ^ (f.mb + 2) ≤ m) ∧
      f.sqrt env x = f.flushOut env (f.round env.mode false m e st) := by
  obtain ⟨n, m, e, ha⟩ := ha
  rw [Fmt.sqrt]
  rw [ha] at h ⊢
  cases n with
  | true =>
    have : (FVal.fin true m e).rat ≤ 0 := by
      have : (0 : ℚ) ≤ m * 2 ^ e := by positivity
      simp only [FVal.rat, if_true]
      linarith
    linarith
  | false =>
    have hrat : (FVal.fin false m e).rat = m * 2 ^ e := by simp [FVal.rat]
    have hm : 0 < m := Nat.pos_of_ne_zero fun hm => by
      rw [rat_fin_eq_zero.mpr hm] at h
      exact lt_irrefl _ h
    obtain ⟨k, g, st, h1, h2, h3, h4, h5⟩ := sqrtV_finite (f := f) (env := env) (e := e) hm
    rw [hrat, h5]
    exact ⟨k, g, st, h1, h2, h3, h4, rfl⟩

/-! ### Minimum and maximum -/

section
variable {isMax : Bool}

theorem minmax_numbers (ha : (f.read env x).isNan = false) (hb : (f.read env y).isNan = false) : f.minmax env isMax x y =
    (f.flushIn env (if (f.read env x).lt true (f.read env y) != isMax then x else y), signalFlags [f.read env x, f.read env y]) := by
  unfold Fmt.minmax
  simp only [ha, hb, Bool.false_and, Bool.false_eq_true, if_false]

theorem minmax_nan_left (ha : (f.read env x).isNan = true) (hb : (f.read env y).isNan = false) : f.minmax env isMax x y =
    (f.flushIn env y, signalFlags [f.read env x, f.read env y]) := by
  unfold Fmt.minmax
  simp only [ha, hb, Bool.and_false, Bool.false_eq_true, if_false, if_true, flushOut_flushIn]

theorem minmax_nan_right (ha : (f.read env x).isNan = false) (hb : (f.read env y).isNan = true) : f.minmax env isMax x y =
    (f.flushIn env x, signalFlags [f.read env x, f.read env y]) := by
  unfold Fmt.minmax
  simp only [ha, hb, Bool.false_and, Bool.false_eq_true, if_false, if_true, flushOut_flushIn]

theorem minmax_nan_both (ha : (f.read env x).isNan = true) (hb : (f.read env y).isNan = true) : f.minmax env isMax x y =
    (f.firstNan env.level1 [f.read env x], signalFlags [f.read env x, f.read env y]) := by
  unfold Fmt.minmax
  simp only [ha, hb, Bool.and_self, if_true]

end

theorem minmax_flags (isMax : Bool) : (f.minmax env isMax x y).2 = if (f.read env x).isSignalling || (f.read env y).isSignalling then 0x21 else 0 := by
  have hflags : signalFlags [f.read env x, f.read env y] = if (f.read env x).isSignalling || (f.read env y).isSignalling then 0x21 else 0 := by
    rw [signalFlags_eq]
    simp
  rw [← hflags]
  rcases Bool.eq_false_or_eq_true (f.read env x).isNan with ha | ha <;> rcases Bool.eq_false_or_eq_true (f.read env y).isNan with hb | hb
  · rw [minmax_nan_both ha hb]
  · rw [minmax_nan_left ha hb]
  · rw [minmax_nan_right ha hb]
  · rw [minmax_numbers ha hb]

/-- Minimum and maximum of two numbers, by which lies below. -/
theorem minmax_order (ha : (f.read env x).isNan = false) (hb : (f.read env y).isNan = false) (lt : Bool)
    (h : (f.read env x).lt true (f.read env y) = lt) :
    (f.minmax env false x y).1 = f.flushIn env (if lt then x else y) ∧ (f.minmax env true x y).1 = f.flushIn env (if lt then y else x) := by
  rw [minmax_numbers ha hb, minmax_numbers ha hb, h]
  cases lt <;> exact ⟨rfl, rfl⟩

theorem notNan_of_zero {a : FVal} (h : a.isZero = true) : a.isNan = false := by
  cases a with
  | fin n m e => rfl
  | inf n => rfl
  | nan n s p => cases h

/-! ### Comparisons -/

theorem cmp_flags (cond : ℕ) (sig : Bool) : (f.cmp cond sig x y).2 =
    if (f.decode x).isSignalling || (f.decode y).isSignalling then 0x21
    else if sig && ((f.decode x).isNan || (f.decode y).isNan) then 0x01 else 0 := by
  have hany : [f.decode x, f.decode y].any FVal.isSignalling = ((f.decode x).isSignalling || (f.decode y).isSignalling) := by simp
  unfold Fmt.cmp
  dsimp only
  rw [hany]
  cases (f.decode x).isSignalling || (f.decode y).isSignalling <;> cases sig && ((f.decode x).isNan || (f.decode y).isNan) <;> rfl

/-- What a comparison answers, by its condition. -/
theorem cmp_fst (sig : Bool) : let un := (f.decode x).isNan || (f.decode y).isNan
    let lt := (f.decode x).lt false (f.decode y)
    let gt := (f.decode y).lt false (f.decode x)
    (f.cmp 0 sig x y).1 = (!un && !lt && !gt) ∧ (f.cmp 1 sig x y).1 = (un || lt || gt) ∧ (f.cmp 2 sig x y).1 = (!un && lt) ∧
      (f.cmp 3 sig x y).1 = (!un && !gt) ∧ (f.cmp 4 sig x y).1 = (!un && gt) ∧ (f.cmp 5 sig x y).1 = (!un && !lt) ∧
      (f.cmp 6 sig x y).1 = un ∧ (f.cmp 7 sig x y).1 = !un :=
  ⟨rfl, rfl, rfl, rfl, rfl, rfl, rfl, rfl⟩

theorem cmp_spec (sig : Bool) : let u := f.decode x
    let v := f.decode y
    let less := u.Below v
    let more := v.Below u
    let un := u.isNan = true ∨ v.isNan = true
    ((f.cmp 0 sig x y).1 = true ↔ ¬ un ∧ ¬ less ∧ ¬ more) ∧ ((f.cmp 1 sig x y).1 = true ↔ un ∨ less ∨ more) ∧
      ((f.cmp 2 sig x y).1 = true ↔ ¬ un ∧ less) ∧ ((f.cmp 3 sig x y).1 = true ↔ ¬ un ∧ ¬ more) ∧
      ((f.cmp 4 sig x y).1 = true ↔ ¬ un ∧ more) ∧ ((f.cmp 5 sig x y).1 = true ↔ ¬ un ∧ ¬ less) ∧
      ((f.cmp 6 sig x y).1 = true ↔ un) ∧ ((f.cmp 7 sig x y).1 = true ↔ ¬ un) := by
  intro u v less more un
  obtain ⟨h0, h1, h2, h3, h4, h5, h6, h7⟩ := cmp_fst (f := f) (x := x) (y := y) sig
  rw [h0, h1, h2, h3, h4, h5, h6, h7]
  have hun : (u.isNan || v.isNan) = true ↔ un := iff_of_eq (Bool.or_eq_true ..)
  by_cases h : un
  · rw [hun.mpr h]
    simp [h]
  · have hor : (u.isNan || v.isNan) = false := Bool.eq_false_iff.mpr (hun.not.mpr h)
    obtain ⟨hu, hv⟩ := Bool.or_eq_false_iff.mp hor
    have hlt : u.lt false v = true ↔ less := lt_iff_below hu hv (.inl rfl)
    have hgt : v.lt false u = true ↔ more := lt_iff_below hv hu (.inl rfl)
    simp only [u, v] at hor hlt hgt
    simp only [hor, Bool.not_false, Bool.true_and, Bool.false_or, Bool.and_eq_true, Bool.or_eq_true, Bool.not_eq_true', ← Bool.not_eq_true,
      hlt, hgt, h, not_false_eq_true, true_and, false_or, Bool.false_eq_true, and_true]

/-! ### Classes -/

theorem classMask_eq (hf : f.Sound) : f.classMask env x = match f.read env x with
    | .nan _ sg _ => if sg then 1 else 2
    | .inf n => if n then 4 else 0x200
    | .fin n m _ => if m = 0 then (if n then 0x20 else 0x40) else if 2 ^ f.mb ≤ m then (if n then 8 else 0x100) else if n then 0x10 else 0x80 := by
  obtain ⟨a, ha⟩ : ∃ a, f.read env x = a := ⟨_, rfl⟩
  have hd : f.decode (f.flushIn env x) = a := ha
  unfold Fmt.classMask
  dsimp only
  rw [ha, hd]
  cases a with
  | nan n s p => rfl
  | inf n => rfl
  | fin n m e =>
    have hnormal : f.flushIn env x / 2 ^ f.mb % 2 ^ f.eb ≠ 0 ↔ 2 ^ f.mb ≤ m := by
      have hle := le_of_decode_fin hf hd
      rw [decode_of_le hf hle] at hd
      obtain ⟨-, rfl, -⟩ := FVal.fin.inj hd
      rw [← bare_div]
      split
      · next h => simpa [h] using (Nat.div_eq_zero_iff_lt (Nat.two_pow_pos _)).mp h
      · next h => simpa using h
    simp only [bne_iff_ne, hnormal]

end
end Sys2Proof.Machine
end

section
/-! # Sums of products and conversions -/
namespace Sys2Proof.Machine

section
variable {f : Fmt} {env : FEnv} {mode : Rounding}

/-! ### Sums of products -/

section
variable {a b c d r : FVal}

theorem dot_eq (ha : a.Finite) (hb : b.Finite) (hc : c.Finite) (hd : d.Finite) (hr : r.Finite) :
    f.dot env [a, b, c, d, r] [(a, c), (b, d)] [r] = f.roundSum env.mode (((Dy.zero.add (a.dy.mul c.dy)).add (b.dy.mul d.dy)).add r.dy)
      ((a.neg != c.neg) && ((b.neg != d.neg) && r.neg)) (!(a.neg != c.neg) && (!(b.neg != d.neg) && !r.neg)) := by
  have hprods : ([(a, c), (b, d)].any fun p => (p.1.isInf && p.2.isZero) || (p.1.isZero && p.2.isInf)) = false := by
    simp [ha.notInf, hb.notInf, hc.notInf, hd.notInf]
  have hnan : anyNan [a, b, c, d, r] = false := by simp [anyNan, ha.notNan, hb.notNan, hc.notNan, hd.notNan, hr.notNan]
  have hinfs : (([(a, c), (b, d)].filter fun p => p.1.isInf || p.2.isInf).map (fun p => p.1.neg != p.2.neg))
      ++ (([r].filter FVal.isInf).map FVal.neg) = [] := by
    simp [ha.notInf, hb.notInf, hc.notInf, hd.notInf, hr.notInf]
  unfold Fmt.dot
  simp only [hprods, hnan, hinfs, Bool.false_eq_true, if_false, List.any_nil, Bool.false_and]
  simp

theorem zeroSign_triple (mode : Rounding) (p q s : Bool) :
    zeroSign mode (p && (q && s)) (!p && (!q && !s)) = if p = q ∧ q = s then s else mode == .rd := by
  cases p <;> cases q <;> cases s <;> rfl

theorem dot_finite (ha : a.Finite) (hb : b.Finite) (hc : c.Finite) (hd : d.Finite) (hr : r.Finite) :
    let q := a.rat * c.rat + b.rat * d.rat + r.rat
    f.Rounds env.mode (if q = 0 then if (a.neg != c.neg) = (b.neg != d.neg) ∧ (b.neg != d.neg) = r.neg then r.neg else env.mode == .rd
      else decide (q < 0)) |q| (f.dot env [a, b, c, d, r] [(a, c), (b, d)] [r]) := by
  intro q
  have hq : q = (((Dy.zero.add (a.dy.mul c.dy)).add (b.dy.mul d.dy)).add r.dy).rat := by
    simp only [Dy.rat_add, Dy.rat_mul, Dy.rat_zero, FVal.rat_dy, zero_add, q]
  rw [dot_eq ha hb hc hd hr, ← zeroSign_triple, hq]
  exact roundSum_rounds _ _ _

theorem dot_nan (h : ∃ v ∈ [a, b, c, d, r], v.isNan = true) : ∃ r0, f.NanOf env.level1 [a, b, c, d, r] r0 ∧
    (f.dot env [a, b, c, d, r] [(a, c), (b, d)] [r]).1 = r0.1 ∧ ((f.dot env [a, b, c, d, r] [(a, c), (b, d)] [r]).2 = r0.2 ∨
      (f.dot env [a, b, c, d, r] [(a, c), (b, d)] [r]).2 = r0.2 ||| 0x01) := by
  have hany : anyNan [a, b, c, d, r] = true := List.any_eq_true.mpr h
  refine ⟨f.nanRes env [a, b, c, d, r], nanOf_nanRes hany, ?_⟩
  unfold Fmt.dot
  dsimp only
  rw [if_pos hany]
  refine ⟨rfl, ?_⟩
  cases ([(a, c), (b, d)].any fun p => (p.1.isInf && p.2.isZero) || (p.1.isZero && p.2.isInf))
  · exact .inl BitVec.or_zero
  · exact .inr rfl

end

/-! ### Between formats -/

theorem decode_ones {p : ℕ} (hp : p < 2 ^ f.mb) (neg : Bool) (h0 : p ≠ 0) (h1 : f.ieee = false → p = 2 ^ f.mb - 1) :
    f.decode (f.sign neg + (f.expOnes * 2 ^ f.mb + p)) = .nan neg (f.ieee && !bitAt p (f.mb - 1)) p := by
  obtain ⟨hbare, hbit⟩ := sign_add f (ones_mul_add_lt hp) neg
  have hdiv : (f.expOnes * 2 ^ f.mb + p) / 2 ^ f.mb = f.expOnes := by
    rw [Nat.mul_comm, Nat.mul_add_div (Nat.two_pow_pos _), Nat.div_eq_of_lt hp, Nat.add_zero]
  have hmod : (f.expOnes * 2 ^ f.mb + p) % 2 ^ f.mb = p := Nat.mul_add_mod_of_lt hp
  unfold Fmt.decode
  dsimp only
  rw [← bare_div, ← bare_mod, hbare, hbit, hdiv, hmod]
  cases h : f.ieee
  · simp [h1 h]
  · simp [h0]

theorem bitAt_or_half (p : ℕ) : bitAt (p ||| 2 ^ (f.mb - 1)) (f.mb - 1) = true := by
  rw [bitAt_eq_testBit, Nat.testBit_or, Nat.testBit_two_pow_self, Bool.or_true]

theorem decode_quiet (hf : f.Sound) {p : ℕ} (hp : p < 2 ^ f.mb) (neg : Bool) :
    f.decode (f.quiet neg p) = .nan neg false (if f.ieee then p ||| 2 ^ (f.mb - 1) else 2 ^ f.mb - 1) := by
  have hm := hf.mantissa
  unfold Fmt.quiet
  rw [Nat.add_assoc]
  cases h : f.ieee
  · simp only [Bool.false_eq_true, if_false]
    rw [decode_ones (by omega) neg (by omega) (fun _ => rfl), h]
    rfl
  · simp only [if_true]
    have hne : p ||| 2 ^ (f.mb - 1) ≠ 0 := fun hc => by
      have := bitAt_or_half (f := f) p
      rw [hc] at this
      simp [bitAt] at this
    rw [decode_ones (Nat.or_lt_two_pow hp (half_lt hf)) neg hne (fun hc => by rw [h] at hc; cases hc), h, bitAt_or_half (f := f)]
    rfl

section
variable {dst : Fmt} {x : ℕ} {level1 sat : Bool}

theorem convert_finite (ha : (f.decode x).Finite) : ∃ r0, dst.Rounds mode (f.decode x).neg |(f.decode x).rat| r0 ∧
    dst.convert f mode level1 sat (f.decode x) =
      if sat = true ∧ r0.2.getLsbD 2 = true then (dst.sign (f.decode x).neg + dst.maxFinite, 0x10) else r0 := by
  obtain ⟨n, m, e, ha⟩ := ha
  rw [ha, abs_rat_fin]
  refine ⟨dst.round mode n m e, rounds_exact n m e, ?_⟩
  unfold Fmt.convert
  dsimp only
  exact if_congr (by simp) rfl rfl

theorem convert_inf (n : Bool) : dst.convert f mode level1 sat (.inf n) = if sat then (dst.sign n + dst.maxFinite, 0)
    else if dst.ieee then (dst.sign n + dst.infinity, 0) else (if level1 then dst.sign n + dst.nan else dst.nan, 0x01) := rfl

theorem nanFrom_payload_lt {fr : ℕ} (hfr : fr < 2 ^ f.mb) :
    (if f.mb ≤ dst.mb then fr * 2 ^ (dst.mb - f.mb) else fr / 2 ^ (f.mb - dst.mb)) < 2 ^ dst.mb := by
  split
  · next h =>
    calc fr * 2 ^ (dst.mb - f.mb) < 2 ^ f.mb * 2 ^ (dst.mb - f.mb) := Nat.mul_lt_mul_of_pos_right hfr (Nat.two_pow_pos _)
      _ = 2 ^ dst.mb := by rw [← pow_add, Nat.add_sub_cancel' h]
  · next h =>
    rw [Nat.div_lt_iff_lt_mul (Nat.two_pow_pos _), ← pow_add, Nat.add_sub_cancel' (by omega)]
    exact hfr

theorem convert_nan (hs : f.Sound) (hd : dst.Sound) {n sg : Bool} {fr : ℕ} (hfr : fr < 2 ^ f.mb) :
    let r := dst.convert f mode level1 sat (.nan n sg fr)
    r.2 = (if sg then 0x21 else 0) ∧ (level1 = false → r.1 = dst.nan) ∧
      (level1 = true → ∃ q, dst.decode r.1 = .nan n false q ∧ (f.ieee = true → dst.ieee = true →
        if f.mb ≤ dst.mb then q = (fr ||| 2 ^ (f.mb - 1)) * 2 ^ (dst.mb - f.mb)
        else q = (fr / 2 ^ (f.mb - dst.mb)) ||| 2 ^ (dst.mb - 1))) := by
  intro r
  refine ⟨by cases sg <;> rfl, fun h => by subst h; rfl, fun h => ?_⟩
  subst h
  have hp : (if f.ieee then fr else 0) < 2 ^ f.mb := by
    split
    · exact hfr
    · exact Nat.two_pow_pos _
  refine ⟨_, decode_quiet hd (nanFrom_payload_lt hp) n, fun hi hdi => ?_⟩
  simp only [hi, hdi, if_true]
  split
  · next h =>
    have hmb := hs.mb_lo
    rw [← Nat.shiftLeft_eq, ← Nat.shiftLeft_eq, Nat.shiftLeft_or_distrib, Nat.shiftLeft_eq (2 ^ _), ← pow_add,
      show f.mb - 1 + (dst.mb - f.mb) = dst.mb - 1 by omega]
  · rfl

end

/-! ### To and from integers -/

/-- The magnitude that a conversion to an integer keeps. -/
def wholeOf (mode : Rounding) (neg : Bool) (m : ℕ) (e : ℤ) : ℕ := (roundAt mode neg m e false (max 0 e)).1 * 2 ^ (max 0 e).toNat

theorem wholeOf_spec (mode : Rounding) (neg : Bool) (m : ℕ) (e : ℤ) : RoundsTo mode neg ((m : ℚ) * 2 ^ e) (wholeOf mode neg m e) ∧
    ((roundAt mode neg m e false (max 0 e)).2 = true ↔ (wholeOf mode neg m e : ℚ) ≠ (m : ℚ) * 2 ^ e) := by
  rcases le_or_gt 0 e with h | h
  · have hmax : max 0 e = e := max_eq_right h
    have hat : roundAt mode neg m e false e = (m, false) := by simp [roundAt, b2n]
    have hval : (wholeOf mode neg m e : ℚ) = (m : ℚ) * 2 ^ e := by
      rw [wholeOf, hmax, hat]
      have := two_zpow_split h
      simp only [sub_zero, zpow_zero, mul_one] at this
      rw [this]
      push_cast
      rfl
    refine ⟨roundsTo_self hval, ?_⟩
    rw [hmax, hat]
    simp [hval]
  · have hmax : max 0 e = 0 := max_eq_left h.le
    have hwhole : wholeOf mode neg m e = (roundAt mode neg m e false 0).1 := by simp [wholeOf, hmax]
    have := roundAt_spec (mode := mode) (neg := neg) (exactly_self m e) (q := 0) nofun
    rw [zpow_zero, div_one] at this
    rw [hwhole, hmax]
    exact this

/-- The integer with its sign. -/
def signed (neg : Bool) (k : ℕ) : ℤ := if neg then -(k : ℤ) else k

theorem roundToInt_eq (mode : Rounding) (w : ℕ) (uns neg : Bool) (m : ℕ) (e : ℤ) : roundToInt mode w uns neg m e =
    let k := signed neg (wholeOf mode neg m e)
    let y := max (elemMin w uns) (min (elemMax w uns) k)
    (wrap w y, if y != k then flagNV else flagIf (roundAt mode neg m e false (max 0 e)).2 flagNX) := by
  rw [← intMin_eq, ← intMax_eq]
  rfl

theorem signed_rat (neg : Bool) (k : ℕ) : ((signed neg k : ℤ) : ℚ) = (if neg then -1 else 1) * (k : ℚ) := by
  cases neg <;> simp [signed]

/-- The rounded integer, with its sign, beside the exact number. -/
theorem signed_rounds {neg : Bool} {Q : ℚ} {k : ℕ} (hQ : 0 ≤ Q) (h : RoundsTo mode neg Q k) :
    let a := (if neg then -1 else 1) * Q
    let x := signed neg k
    (mode = .rne → |(x : ℚ) - a| ≤ 1 / 2 ∧ (|(x : ℚ) - a| = 1 / 2 → x % 2 = 0)) ∧
      (mode = .rz → |(x : ℚ)| ≤ |a| ∧ |a| < |(x : ℚ)| + 1 ∧ 0 ≤ x * a) ∧ (mode = .ru → a ≤ x ∧ (x : ℚ) < a + 1) ∧
      (mode = .rd → (x : ℚ) ≤ a ∧ a < x + 1) := by
  intro a x
  obtain ⟨hrne, hrz, hru, hrd⟩ := h
  have hx : (x : ℚ) = (if neg then -1 else 1) * (k : ℚ) := signed_rat neg k
  have hk : (0 : ℚ) ≤ k := by positivity
  rw [hx]
  refine ⟨fun hm => ?_, fun hm => ?_, fun hm => ?_, fun hm => ?_⟩
  · obtain ⟨h1, h2⟩ := hrne hm
    have habs : |(if neg then -1 else 1) * (k : ℚ) - a| = |(k : ℚ) - Q| := by
      cases neg
      · simp [a]
      · simp only [a, if_true, neg_one_mul, neg_sub_neg]
        exact abs_sub_comm ..
    have heven : x % 2 = 0 ↔ k % 2 = 0 := by
      simp only [x, signed]
      cases neg <;> simp <;> omega
    rw [habs, heven]
    exact ⟨h1, h2⟩
  · obtain ⟨h1, h2⟩ := hrz hm
    have habs (y : ℚ) (hy : 0 ≤ y) : |(if neg then -1 else 1) * y| = y := by
      cases neg <;> simp [abs_of_nonneg hy]
    rw [habs _ hk, habs _ hQ]
    refine ⟨h1, h2, ?_⟩
    have := mul_nonneg hk hQ
    cases neg <;> simp [a] <;> linarith
  · have := hru hm
    cases neg <;> simp only [a, if_true, Bool.false_eq_true, if_false] at this ⊢ <;> constructor <;> linarith
  · have := hrd hm
    cases neg <;> simp only [a, if_true, Bool.false_eq_true, if_false] at this ⊢ <;> constructor <;> linarith

theorem toInteger_finite {w : ℕ} {uns : Bool} {a : FVal} (ha : a.Finite) :
    let r := Fmt.toInteger mode w uns a
    ∃ k : Int,
      (mode = .rne → |k - a.rat| ≤ 1 / 2 ∧ (|k - a.rat| = 1 / 2 → k % 2 = 0)) ∧
      (mode = .rz → |(k : ℚ)| ≤ |a.rat| ∧ |a.rat| < |(k : ℚ)| + 1 ∧ 0 ≤ k * a.rat) ∧ (mode = .ru → a.rat ≤ k ∧ (k : ℚ) < a.rat + 1) ∧
      (mode = .rd → (k : ℚ) ≤ a.rat ∧ a.rat < k + 1) ∧
      let y := max (elemMin w uns) (min (elemMax w uns) k)
      r.1 < 2 ^ w ∧ BitVec.ofNat w r.1 = BitVec.ofInt w y ∧ r.2 = if y ≠ k then 0x01 else if (k : ℚ) ≠ a.rat then 0x10 else 0 := by
  obtain ⟨neg, m, e, rfl⟩ := ha
  obtain ⟨hround, hinexact⟩ := wholeOf_spec mode neg m e
  have hrat : (FVal.fin neg m e).rat = (if neg then -1 else 1) * ((m : ℚ) * 2 ^ e) := mul_assoc ..
  obtain ⟨h1, h2, h3, h4⟩ := signed_rounds (by positivity) hround
  have hne : ((signed neg (wholeOf mode neg m e) : ℤ) : ℚ) ≠ (FVal.fin neg m e).rat ↔ (wholeOf mode neg m e : ℚ) ≠ (m : ℚ) * 2 ^ e := by
    rw [signed_rat, hrat]
    cases neg <;> simp
  have hrun : Fmt.toInteger mode w uns (.fin neg m e) = _ := roundToInt_eq mode w uns neg m e
  refine ⟨signed neg (wholeOf mode neg m e), ?_⟩
  rw [hrun, hrat]
  rw [hrat] at hne
  refine ⟨h1, h2, h3, h4, wrap_lt _ _, ofNat_wrap_eq _ _, ?_⟩
  simp only [bne_iff_ne, hne, ← hinexact]
  split
  · rfl
  · cases (roundAt mode neg m e false (max 0 e)).2 <;> rfl

theorem toInteger_inf {w : ℕ} {uns n : Bool} : let r := Fmt.toInteger mode w uns (.inf n)
    r.2 = 0x01 ∧ r.1 < 2 ^ w ∧ BitVec.ofNat w r.1 = BitVec.ofInt w (if n then elemMin w uns else elemMax w uns) := by
  rw [← intMin_eq, ← intMax_eq]
  exact ⟨rfl, wrap_lt _ _, ofNat_wrap_eq _ _⟩

theorem toInteger_nan {w : ℕ} {uns n sg : Bool} {fr : ℕ} : Fmt.toInteger mode w uns (.nan n sg fr) = (0, if sg then 0x21 else 0x01) := by
  cases sg <;> rfl

theorem ofInteger_rounds (k : ℤ) : f.Rounds mode (decide (k < 0)) |(k : ℚ)| (f.ofInteger mode k) := by
  have h := rounds_exact (f := f) (mode := mode) (decide (k < 0)) k.natAbs 0
  rwa [zpow_zero, mul_one, Nat.cast_natAbs, Int.cast_abs] at h

end
end Sys2Proof.Machine
end

section
/-! # The rules of floating operations -/
namespace Sys2Proof.Machine

section
variable {f : Fmt} {env : FEnv} {x y z : ℕ}

/-! ### Operations on encodings, by what their operands hold -/

theorem mulz_of_nonzero (ha : (f.read env x).isZero = false) (hb : (f.read env y).isZero = false) : f.mulz env x y = f.mul env x y := by
  unfold Fmt.mulz
  exact if_neg (by simp [ha, hb])

theorem fmaz_of_nonzero (ha : (f.read env x).isZero = false) (hb : (f.read env y).isZero = false) : f.fmaz env x y z = f.fma env x y z := by
  unfold Fmt.fmaz
  exact congrArg (f.flushOut env) (if_neg (by simp [ha, hb]))

theorem mulz_of_zero (h : (f.read env x).isZero = true ∨ (f.read env y).isZero = true) : f.mulz env x y = (0, 0) := by
  unfold Fmt.mulz
  exact if_pos (by simpa using h)

theorem fmaz_of_zero (h : (f.read env x).isZero = true ∨ (f.read env y).isZero = true) :
    f.fmaz env x y z = f.flushOut env (f.addV env (.fin false 0 0) (f.read env z)) := by
  unfold Fmt.fmaz
  exact congrArg (f.flushOut env) (if_pos (by simpa using h))

theorem scale_finite (hf : f.Sound) (ha : (f.read env x).Finite) (n : ℤ) :
    ∃ r0, f.Rounds env.mode (f.read env x).neg (|(f.read env x).rat| * 2 ^ n) r0 ∧ f.scale env x n = f.flushOut env r0 := by
  obtain ⟨neg, m, e, ha⟩ := ha
  unfold Fmt.scale
  rw [ha]
  exact ⟨_, scale_rounds hf (x := f.flushIn env x) ha n, rfl⟩

theorem scale_nan (hf : f.Sound) (h : (f.read env x).isNan = true) (n : ℤ) : f.NanOf env.level1 [f.read env x] (f.scale env x n) := by
  have hany : anyNan [f.read env x] = true := by simpa [anyNan] using h
  have hfit : ∀ v ∈ [f.read env x], v.fits f := List.forall_mem_singleton.mpr (fits_decode f _)
  have hrun : f.scale env x n = f.flushOut env (f.nanRes env [f.read env x]) := by
    unfold Fmt.scale
    cases ha : f.read env x with
    | nan p sg fr => rfl
    | inf p => rw [ha] at h; cases h
    | fin p m e => rw [ha] at h; cases h
  rw [hrun]
  exact flushOut_nanOf hf hfit (nanOf_nanRes hany)

theorem sqrt_nan (hf : f.Sound) (h : (f.read env x).isNan = true) : f.NanOf env.level1 [f.read env x] (f.sqrt env x) := by
  have hany : anyNan [f.read env x] = true := by simpa [anyNan] using h
  have hfit : ∀ v ∈ [f.read env x], v.fits f := List.forall_mem_singleton.mpr (fits_decode f _)
  have hrun : f.sqrt env x = f.flushOut env (f.nanRes env [f.read env x]) := by
    unfold Fmt.sqrt
    cases ha : f.read env x with
    | nan p sg fr => rfl
    | inf p => rw [ha] at h; cases h
    | fin p m e => rw [ha] at h; cases h
  rw [hrun]
  exact flushOut_nanOf hf hfit (nanOf_nanRes hany)

theorem fits_read_pair (f : Fmt) (env : FEnv) (x y : ℕ) : ∀ v ∈ [f.read env x, f.read env y], v.fits f :=
  List.forall_mem_cons.mpr ⟨fits_decode f _, List.forall_mem_singleton.mpr (fits_decode f _)⟩

theorem sub_nan (hf : f.Sound) (h : (f.read env x).isNan = true ∨ (f.read env y).isNan = true) :
    f.NanOf env.level1 [f.read env x, (f.read env y).negate] (f.sub env x y) := by
  refine flushOut_nanOf hf ?_ (addV_nan (by rwa [isNan_negate]))
  exact List.forall_mem_cons.mpr ⟨fits_decode f _, List.forall_mem_singleton.mpr (fits_negate (fits_decode f _))⟩

theorem fma_nan (hf : f.Sound) (h : (f.read env x).isNan = true ∨ (f.read env y).isNan = true ∨ (f.read env z).isNan = true) :
    ∃ r, f.NanOf env.level1 [f.read env x, f.read env y, f.read env z] r ∧
      f.fma env x y z = (r.1, r.2 ||| if badProduct (f.read env x) (f.read env y) then 0x01 else 0) := by
  obtain ⟨r, hr, hrun⟩ := fmaV_nan (f := f) (env := env) h
  have hfit : ∀ v ∈ [f.read env x, f.read env y, f.read env z], v.fits f := List.forall_mem_cons.mpr ⟨fits_decode f _, fits_read_pair f env y z⟩
  refine ⟨r, hr, ?_⟩
  rw [Fmt.fma, hrun]
  exact flushOut_keeps (show f.unflushed r.1 from unflushed_nanOf hf hfit hr)

/-- The result of an operation that is an infinity or is invalid. -/
theorem flushOut_infinity_or_invalid (hf : f.Sound) (p : Prop) [Decidable p] (n : Bool) :
    f.flushOut env (if p then (f.sign n + f.infinity, 0) else f.invalid) = if p then (f.sign n + f.infinity, 0) else (f.nan, 0x01) := by
  split
  · exact flushOut_infinity hf env n 0
  · exact flushOut_invalid hf env

theorem add_of_inf {n : Bool} (hf : f.Sound) (ha : f.read env x = .inf n) :
    (∀ k, f.read env y = .inf k → f.add env x y = (if n = k then (f.sign n + f.infinity, 0) else (f.nan, 0x01)) ∧
      f.sub env x y = (if n = k then (f.nan, 0x01) else (f.sign n + f.infinity, 0)) ∧ f.div env x y = (f.nan, 0x01)) ∧
    ((f.read env y).Finite → f.add env x y = (f.sign n + f.infinity, 0) ∧ f.sub env x y = (f.sign n + f.infinity, 0) ∧
      f.div env x y = (f.sign ((f.read env x).neg != (f.read env y).neg) + f.infinity, 0)) := by
  unfold Fmt.add Fmt.sub Fmt.div
  rw [ha]
  refine ⟨fun k hb => ?_, fun hb => ?_⟩
  · rw [hb, show (FVal.inf k).negate = .inf (!k) from rfl, addV_inf_inf, addV_inf_inf, divV_inf_inf, flushOut_infinity_or_invalid hf,
      flushOut_infinity_or_invalid hf]
    refine ⟨rfl, ?_, flushOut_invalid hf env⟩
    cases n <;> cases k <;> rfl
  · rw [addV_inf_finite hb, addV_inf_finite hb.negate, divV_inf_finite hb]
    exact ⟨flushOut_infinity hf env n 0, flushOut_infinity hf env n 0, flushOut_infinity hf env _ 0⟩

theorem add_to_inf {k : Bool} (hf : f.Sound) (ha : (f.read env x).Finite) (hb : f.read env y = .inf k) :
    f.add env x y = (f.sign k + f.infinity, 0) ∧ f.sub env x y = (f.sign (!k) + f.infinity, 0) ∧
      f.div env x y = (f.sign ((f.read env x).neg != (f.read env y).neg), 0) := by
  unfold Fmt.add Fmt.sub Fmt.div
  rw [hb, show (FVal.inf k).negate = .inf (!k) from rfl, addV_finite_inf ha, addV_finite_inf ha, divV_finite_inf ha]
  exact ⟨flushOut_infinity hf env k 0, flushOut_infinity hf env (!k) 0, flushOut_zero env _ 0⟩

theorem sqrt_of_inf {n : Bool} (hf : f.Sound) (ha : f.read env x = .inf n) :
    f.sqrt env x = (if n then (f.nan, 0x01) else (f.infinity, 0)) := by
  unfold Fmt.sqrt
  rw [ha]
  cases n
  · have := flushOut_infinity hf env false 0
    rwa [show f.sign false = 0 from Nat.zero_mul _, Nat.zero_add] at this
  · exact flushOut_invalid hf env

theorem scale_of_inf {n : Bool} (hf : f.Sound) (ha : f.read env x = .inf n) (k : ℤ) : f.scale env x k = (f.sign n + f.infinity, 0) := by
  unfold Fmt.scale
  rw [ha]
  exact flushOut_infinity hf env n 0

theorem mul_of_inf (hf : f.Sound) (ha : (f.read env x).isNan = false) (hb : (f.read env y).isNan = false)
    (h : (f.read env x).isInf = true ∨ (f.read env y).isInf = true) :
    f.mul env x y = if ((f.read env x).isZero || (f.read env y).isZero) = true then (f.nan, 0x01)
      else (f.sign ((f.read env x).neg != (f.read env y).neg) + f.infinity, 0) := by
  unfold Fmt.mul
  rw [mulV_inf ha hb h]
  split
  · exact flushOut_invalid hf env
  · exact flushOut_infinity hf env _ 0

theorem fma_of_inf (hf : f.Sound) (ha : (f.read env x).isNan = false) (hb : (f.read env y).isNan = false)
    (h : (f.read env x).isInf = true ∨ (f.read env y).isInf = true) :
    ((f.read env z).isNan = false → badProduct (f.read env x) (f.read env y) = true → f.fma env x y z = (f.nan, 0x01)) ∧
    ((f.read env z).Finite → ¬ badProduct (f.read env x) (f.read env y) = true →
      f.fma env x y z = (f.sign ((f.read env x).neg != (f.read env y).neg) + f.infinity, 0)) ∧
    (∀ n, f.read env z = .inf n → ¬ badProduct (f.read env x) (f.read env y) = true →
      f.fma env x y z = if n = ((f.read env x).neg != (f.read env y).neg) then (f.sign n + f.infinity, 0) else (f.nan, 0x01)) := by
  unfold Fmt.fma
  refine ⟨fun hc hbad => ?_, fun hc hbad => ?_, fun n hc hbad => ?_⟩
  · rw [fmaV_invalid ha hb hc hbad]
    exact flushOut_invalid hf env
  · rw [fmaV_inf_finite ha hb hc h hbad]
    exact flushOut_infinity hf env _ 0
  · rw [hc, fmaV_inf_inf ha hb h hbad]
    exact flushOut_infinity_or_invalid hf _ n

theorem div_by_zero (hf : f.Sound) (ha : (f.read env x).Finite) (hb : (f.read env y).Finite) (hz : (f.read env y).rat = 0) :
    ((f.read env x).rat ≠ 0 → f.div env x y = (f.sign ((f.read env x).neg != (f.read env y).neg) + f.infinity, 0x02)) ∧
      ((f.read env x).rat = 0 → f.div env x y = (f.nan, 0x01)) := by
  unfold Fmt.div
  rw [divV_zero ha hb hz]
  refine ⟨fun h => ?_, fun h => ?_⟩
  · rw [if_neg h]
    exact flushOut_infinity hf env _ _
  · rw [if_pos h]
    exact flushOut_invalid hf env

theorem minmax_spec : let a := f.read env x
    let b := f.read env y
    let lo := f.minmax env false x y
    let hi := f.minmax env true x y
    let xi := f.flushIn env x
    let yi := f.flushIn env y
    lo.2 = hi.2 ∧ (lo.2 = if a.isSignalling || b.isSignalling then 0x21 else 0) ∧
    (a.isNan = false → b.isNan = false → (a.Below b → lo.1 = xi ∧ hi.1 = yi) ∧ (b.Below a → lo.1 = yi ∧ hi.1 = xi) ∧
      (a.isZero = true → b.isZero = true → a.neg = true → b.neg = false → lo.1 = xi ∧ hi.1 = yi) ∧
      (a.isZero = true → b.isZero = true → a.neg = false → b.neg = true → lo.1 = yi ∧ hi.1 = xi)) ∧
    (a.isNan = true → b.isNan = false → lo.1 = yi ∧ hi.1 = yi) ∧ (a.isNan = false → b.isNan = true → lo.1 = xi ∧ hi.1 = xi) ∧
    (a.isNan = true → b.isNan = true → hi.1 = lo.1 ∧ f.NanOf env.level1 [a] (lo.1, if a.isSignalling then 0x21 else 0)) := by
  intro a b lo hi xi yi
  refine ⟨by rw [minmax_flags, minmax_flags], minmax_flags false, fun ha hb => ⟨fun h => ?_, fun h => ?_, fun hza hzb hna hnb => ?_,
    fun hza hzb hna hnb => ?_⟩, fun ha hb => ?_, fun ha hb => ?_, fun ha hb => ?_⟩
  · exact minmax_order ha hb true (lt_true_of_below ha hb h)
  · exact minmax_order ha hb false (lt_false_of_above ha hb h)
  · exact minmax_order ha hb true (by rw [lt_zeros hza hzb, hna, hnb]; rfl)
  · exact minmax_order ha hb false (by rw [lt_zeros hza hzb, hna, hnb]; rfl)
  · exact ⟨congrArg Prod.fst (minmax_nan_left ha hb), congrArg Prod.fst (minmax_nan_left ha hb)⟩
  · exact ⟨congrArg Prod.fst (minmax_nan_right ha hb), congrArg Prod.fst (minmax_nan_right ha hb)⟩
  · have hboth (isMax : Bool) := congrArg Prod.fst (minmax_nan_both (isMax := isMax) ha hb)
    refine ⟨(hboth true).trans (hboth false).symm, ?_⟩
    have hany : anyNan [a] = true := by simpa [anyNan] using ha
    have h := nanOf_nanRes (f := f) (env := env) hany
    rw [Fmt.nanRes, signalFlags_eq] at h
    rw [show lo.1 = _ from hboth false]
    simpa using h

end

theorem default_nans : f64.nan = 0x7FF8000000000000 ∧ f32.nan = 0x7FC00000 ∧ f16.nan = 0x7E00 ∧ bf16.nan = 0x7FC0 ∧ e5m2.nan = 0x7E ∧
    e4m3.nan = 0x7F := by decide

/-- Settles O37: rounding by where a result lands (`Fmt.Lands`), and each operation by what its operands hold. -/
theorem roundingIsExact : Obligations.RoundingIsExact := by
  intro f mode x hmem hx
  have hf := sound_of_mem hmem
  refine ⟨fun neg m e h => round_of_decode hf hx h, fun neg m e k j hd hm hr hfin => round_beside hf hd hm hr hfin,
    fun neg q r hq h => rounds_result hf hq h, ?_, ?_, ?_, ?_, ofInteger_rounds, default_nans⟩
  · intro flush level1 y z _ _ env a b c out differ zeroBy
    have hbad : badProduct a b = true ↔ zeroBy := badProduct_iff
    refine ⟨fun ha hb => ⟨?_, ?_, ?_, fun hz => ?_, fun hz => (div_by_zero hf ha hb hz).1, fun hz => (div_by_zero hf ha hb hz).2, fun hc => ?_⟩,
      fun ha hb => ⟨mulz_of_nonzero ha hb, fmaz_of_nonzero ha hb⟩, fun hz => ⟨mulz_of_zero hz, fun hc => ?_, fun n hc => ?_, fun hc => ?_⟩,
      fun ha => ⟨sqrt_zero ha, sqrt_neg hf ha, sqrt_pos ha, scale_finite hf ha⟩, fun h => ⟨?_, ?_, ?_, ?_⟩,
      fun h => ⟨sqrt_nan hf h, scale_nan hf h⟩, fma_nan hf, fun n ha => ?_, fun k ha hb => add_to_inf hf ha hb, fun ha hb h => ?_,
      fun n ha hb hc => ?_, minmax_spec, fun sig => ⟨fun cond => cmp_flags cond sig, cmp_spec sig⟩, classMask_eq hf,
      fun h => ⟨congrArg f.decode (flushIn_of_plain h), flushOut_of_plain h⟩, fun h h0 => ⟨?_, fun fl hm => flushOut_of_zero h h0 hm fl⟩⟩
    · exact ⟨_, addV_finite ha hb, rfl⟩
    · exact ⟨_, subV_finite ha hb, rfl⟩
    · exact ⟨_, mulV_finite ha hb, rfl⟩
    · exact ⟨_, divV_finite ha hb hz, rfl⟩
    · exact ⟨_, fmaV_finite ha hb hc, rfl⟩
    · exact ⟨_, addV_zero_finite hc, fmaz_of_zero hz⟩
    · rw [fmaz_of_zero hz, show f.read env z = .inf n from hc, addV_finite_inf ⟨_, _, _, rfl⟩]
      exact flushOut_infinity hf env n 0
    · rw [fmaz_of_zero hz]
      exact flushOut_nanOf hf (List.forall_mem_singleton.mpr (fits_decode f _)) (addV_zero_nan hc)
    · exact flushOut_nanOf hf (fits_read_pair f env x y) (addV_nan h)
    · exact sub_nan hf h
    · exact flushOut_nanOf hf (fits_read_pair f env x y) (mulV_nan h)
    · exact flushOut_nanOf hf (fits_read_pair f env x y) (divV_nan h)
    · obtain ⟨hinf, hfin⟩ := add_of_inf (y := y) hf ha
      exact ⟨hinf, hfin, sqrt_of_inf hf ha, scale_of_inf hf ha⟩
    · obtain ⟨hinv, hfin, hinf⟩ := fma_of_inf (z := z) hf ha hb h
      exact ⟨mul_of_inf hf ha hb h, fun hc hz => hinv hc (hbad.mpr hz), fun hc hz => hfin hc (hbad.not.mpr hz),
        fun n hc hz => hinf n hc (hbad.not.mpr hz)⟩
    · rw [Fmt.fma, show f.read env z = .inf n from hc, fmaV_finite_inf ha hb]
      exact flushOut_infinity hf env n 0
    · exact (congrArg f.decode (flushIn_of_zero h h0)).trans (decode_sign hf _)
  · intro level1 flush a b c d r env
    exact ⟨dot_finite (env := env), dot_nan (env := env)⟩
  · intro dst level1 sat hdst a r
    refine ⟨convert_finite, fun n ha => ?_, fun n sg fr ha => ?_⟩
    · exact (congrArg (dst.convert f mode level1 sat) ha).trans (convert_inf n)
    · have hfr : fr < 2 ^ f.mb := fits_decode f x n sg fr ha
      have h := convert_nan (mode := mode) (level1 := level1) (sat := sat) hf (sound_of_mem hdst) (n := n) (sg := sg) hfr
      rwa [← ha] at h
  · intro w uns _ a r
    refine ⟨toInteger_finite, fun n ha => ?_, fun n sg fr ha => ?_⟩
    · have h := toInteger_inf (mode := mode) (w := w) (uns := uns) (n := n)
      rwa [← ha] at h
    · exact (congrArg (Fmt.toInteger mode w uns) ha).trans toInteger_nan

end Sys2Proof.Machine
end

section
/-! # A VCAS over a record that gives two writes one name

A write that goes under others finds them again in the record by their ids (R258). Every write takes the next id, so the ids of a run
differ; the statement speaks of every state in canonical form, also of one whose record names two writes by one id. There the first
location of a word replaces the second write by the first, and the access of the second location goes past a run of writes that the record
before the word does not have. -/
namespace Sys2Proof.Machine

/-- VCAS.b32 under p1: the address is s3 plus a lane's v1, the expected value stands in v4 and the new one in v5. -/
def casWord : Nat := 1 + 0xB3 * 2 ^ 4 + 1 * 2 ^ 12 + 4 * 2 ^ 18 + 4 * 2 ^ 24 + 1 * 2 ^ 34 + 803 * 2 ^ 44 + 0x200 * 2 ^ 54

/-- The location that lane l of the word names: the first word of the scratchpad, and the third. -/
def casLocs (l : Nat) : List Nat := locRange (spadLoc 0 0 + 8 * l) 4

/-- A write of the core that has put a zero over byte b at a location. -/
def coreZero (id loc : Nat) (b : Byte) : MemWrite :=
  { id := id, agent := .core, path := pathScl, family := .core, handler := false, num := 0, prior := [], cells := [(loc, 0, b)],
    rmw := false, heads := [], readers := [], seen := [] }

/-- The write to lane 0's location, and those to the first and to the second byte of lane 1's. The first two have one id. -/
def twiceNamed : List MemWrite :=
  [coreZero 0 (spadLoc 0 0) 9, coreZero 0 (spadLoc 0 0 + 8) 1, coreZero 1 (spadLoc 0 0 + 9) 1]

/-- The word at the head of the wave's stream, with the scratchpad's first address in its payload. -/
def casItem : StreamWord :=
  { word := BitVec.ofNat 64 casWord, payA := 0, payB := 0x1100000000000, payC := 0, xctl := 0, compat := true, emitter := 0, ssn := 0, order := 0
    handler := false, base := 0, replay := none, vote := none, counted := none, bar := none, waiting := false }

/-- Lanes 0 and 1 of wave 0 are about to compare and swap; each access may go past one write. Lane 1 expects 256: the zeros of its location
with the second write undone and the first not. -/
def twiceState : State :=
  let s := State.reset.loadWord 64 casWord
  { s with
    waves := s.waves.modify 0 fun w => { w with preds := [BitVec.allOnes 64, 3], stream := [.word casItem] }
    vregs := [(65, 8), (256, 9), (257, 256), (320, 5), (321, 7)]
    vis := { s.vis with nextId := 2, writes := twiceNamed, picks := [1, 1] } }

def twiceLane : LaneIn := twiceState.laneIn 0 casItem

theorem twice_half : twiceLane.w.half = none := by decide +kernel

theorem twice_head : LaneHead twiceState 0xB3 (LaneWord.ofNat casWord) twiceLane :=
  ⟨by decide +kernel, by decide +kernel, by decide +kernel, ⟨casItem, by decide +kernel, rfl⟩, by decide +kernel, .inl twice_half,
    by simp [twice_half], rfl, rfl, rfl, by decide +kernel, by decide +kernel⟩

theorem twice_plan : twiceLane.memPlan = some (.ok [(0, casLocs 0), (1, casLocs 1)] []) := by decide +kernel

/-- The word writes lane 1's new value: it has found the 256 that the lane expects. -/
theorem twice_writes : (match exec (.vcas (LaneWord.ofNat casWord)) twiceState with
    | .next t => t.byte (spadLoc 0 0 + 8)
    | _ => 0) = 7 := by decide +kernel

theorem twice_past : twiceState.vis.past twiceLane.actor (casLocs 1) = twiceNamed.drop 1 := by decide +kernel

theorem twice_expects : twiceLane.dstRegs 2 1 = 256 + 7 * 2 ^ 32 := by decide +kernel

/-- What R258 and R264 let lane 1 read, it does not expect: the newest bytes, those before the second write, and those before the first. -/
theorem twice_ne_expected {v : Nat} (h : twiceState.mayRead twiceLane.actor (casLocs 1) v) : v ≠ 256 := by
  obtain ⟨n, rfl⟩ := h
  rw [twice_past]
  match n with
  | 0 => decide +kernel
  | 1 => decide +kernel
  | n + 2 =>
    rw [List.take_of_length_le (by simp [twiceNamed])]
    decide +kernel

/-- Refutes O40: in `twiceState` lane 1 of a VCAS finds a value that no run of newest writes gives, so it writes where it should not. -/
theorem not_laneMemoryWords : ¬ Obligations.LaneMemoryWords := by
  intro h
  obtain ⟨-, -, -, -, hcas, -⟩ := h.1 twiceState (LaneWord.ofNat casWord) twiceLane [(0, casLocs 0), (1, casLocs 1)] [] (by simp)
  obtain ⟨t, o, hrun, -, -, -, -, -, hturns⟩ := hcas twice_head twice_plan (by decide +kernel)
  obtain ⟨M, ⟨hread, -⟩, -, -, hkept⟩ := hturns (1, casLocs 1) (by simp)
  have hbyte : t.byte (spadLoc 0 0 + 8) = twiceState.byte (spadLoc 0 0 + 8) := by
    refine hkept (fun hwrote => ?_) _ (by decide +kernel)
    obtain ⟨k, l, hl, hf⟩ := hwrote
    have hlanes : ([(0, casLocs 0), (1, casLocs 1)].filter fun q => q.2 = casLocs 1).map (·.1) = [1] := by decide +kernel
    rw [hlanes] at hl
    obtain ⟨rfl, rfl⟩ : k = 0 ∧ l = 1 := by
      match k with
      | 0 => exact ⟨rfl, (Option.some.inj hl).symm⟩
    have hwide : ¬ twiceLane.mod % 8 = 5 := by decide +kernel
    dsimp only at hf
    rw [if_neg hwide, twice_expects] at hf
    exact hf (if_neg (twice_ne_expected hread))
  have hseven := twice_writes
  rw [hrun] at hseven
  exact absurd (hbyte.symm.trans hseven) (by decide +kernel)

end Sys2Proof.Machine
end
